-- ==== Sys2Proof/Word.lean ====
section
/-! DEFINITION. The words of the machine, and the one sparse map that every memory and register file is.
Sizes are those of spec/00_scope.md R1 and spec/07_encoding.md R137. -/

namespace Sys2Proof

/-- A byte (spec/00_scope.md R2). -/
abbrev Byte := BitVec 8

/-- A 64-bit scalar, pointer or instruction word (R82, R137). -/
abbrev Word := BitVec 64

/-- One entry of an operand queue: 256 bytes, byte `j` in bits `8j` to `8j+7` (R93). -/
abbrev Entry := BitVec 2048

/-- A tensor handle (R88). -/
abbrev Handle := BitVec 256

/-- A sparse store of `n`-bit cells by key: keys strictly rise and no listed cell is zero, so that equal
stores are equal lists. A key that is not listed holds zero. -/
abbrev Map (n : Nat) := List (Nat × BitVec n)

/-- The cell at a key; zero where none is listed. -/
def Map.get {n : Nat} : Map n → Nat → BitVec n
  | [], _ => 0
  | (k, v) :: m, a => if a = k then v else Map.get m a

/-- Writes one cell and keeps the canonical form: writing zero removes the entry. -/
def Map.set {n : Nat} : Map n → Nat → BitVec n → Map n
  | [], a, x => if x = 0 then [] else [(a, x)]
  | (k, v) :: m, a, x =>
    if a < k then (if x = 0 then (k, v) :: m else (a, x) :: (k, v) :: m)
    else if a = k then (if x = 0 then m else (a, x) :: m)
    else (k, v) :: Map.set m a x

/-- Every key of the store is above `b`, the keys rise, and no cell is zero. -/
def Map.above {n : Nat} : Nat → Map n → Bool
  | _, [] => true
  | b, (k, v) :: m => decide (b < k) && v != 0 && Map.above k m

/-- The canonical form of a store. -/
def Map.wf {n : Nat} : Map n → Bool
  | [] => true
  | (k, v) :: m => v != 0 && Map.above k m

/-- The listed cells of a run of values from a key. -/
def Map.cells {n : Nat} : Nat → List (BitVec n) → Map n
  | _, [] => []
  | a, x :: xs => if x = 0 then Map.cells (a + 1) xs else (a, x) :: Map.cells (a + 1) xs

/-- Writes consecutive cells from a key. -/
def Map.setRun {n : Nat} (m : Map n) (a : Nat) (xs : List (BitVec n)) : Map n :=
  (m.takeWhile fun kv => decide (kv.1 < a)) ++ (Map.cells a xs ++ m.dropWhile fun kv => decide (kv.1 < a + xs.length))

/-- The values of consecutive keys from `a` of a store whose keys are not below it. -/
def Map.values {n : Nat} : Map n → Nat → Nat → List (BitVec n)
  | _, _, 0 => []
  | [], a, c + 1 => 0 :: Map.values [] (a + 1) c
  | (k, v) :: m, a, c + 1 => if k = a then v :: Map.values m (a + 1) c else 0 :: Map.values ((k, v) :: m) (a + 1) c

/-- Reads `c` consecutive cells from a key. -/
def Map.getRun {n : Nat} (m : Map n) (a c : Nat) : List (BitVec n) :=
  Map.values (m.dropWhile fun kv => decide (kv.1 < a)) a c

/-- Sets a run of cells to zero: drops every key in `[a, a + c)`. -/
def Map.clearRun {n : Nat} (m : Map n) (a c : Nat) : Map n :=
  m.filter fun kv => kv.1 < a || a + c ≤ kv.1

/-- A store of bytes. -/
abbrev Memory := Map 8

/-- The canonical form of a memory: addresses strictly rise, and no listed byte is what an unlisted address reads as, zero. -/
def Memory.wf (m : Memory) : Bool := Map.wf m

/-- A table of records by number, in rising order. A number that is not listed holds the default its reader names. -/
abbrev Tbl (α : Type) := List (Nat × α)

/-- The record at a number; `d` where none is listed. -/
def Tbl.get {α : Type} (d : α) : Tbl α → Nat → α
  | [], _ => d
  | (k, v) :: m, a => if a = k then v else Tbl.get d m a

/-- Writes the record at a number. -/
def Tbl.set {α : Type} : Tbl α → Nat → α → Tbl α
  | [], a, x => [(a, x)]
  | (k, v) :: m, a, x =>
    if a < k then (a, x) :: (k, v) :: m else if a = k then (a, x) :: m else (k, v) :: Tbl.set m a x

end Sys2Proof
end

