-- ==== Sys2Proof/Config.lean ====
section
/-! DEFINITION. The constants of a part and the free values: what the spec leaves open. No constant has a body that a proof
could use, so a theorem holds whatever their values are. -/

namespace Sys2Proof.Config

/-- Clocks until the n-th act of a unit outside the timetable: a reply, a store at its home, a walk, a grant (R35, R129,
R360; notes/assumptions/8.md). -/
opaque delay : Nat → Nat

/-- The n-th free byte: contents that a rule leaves unspecified (notes/assumptions/9.md). -/
opaque freeByte : Nat → Byte

/-- The n-th free choice among alternatives that a rule leaves open (notes/assumptions/9.md). -/
opaque freeNat : Nat → Nat

/-- How far the boundary at a tc reaches among the writes of an outside agent for a core's view, by the numbers of the writes; which
boundary admits a given write is not specified (R130; notes/assumptions/10.md). -/
opaque admits : Nat → Nat → Nat → Nat

/-- Whether a seal narrower than the cohort includes an update that its boundary does not publish, by record and update (R115;
notes/assumptions/11.md). -/
opaque sealTakes : Nat → Nat → Bool

/-- SHA3-256, named by R152 and R391 and defined elsewhere (notes/assumptions/17.md). -/
opaque sha3 : List Byte → BitVec 256

/-- Whether an ML-DSA-44 signature over a message verifies under a public key: key, message and signature (R152, R391, R392;
notes/assumptions/17.md). -/
opaque verifies : List Byte → List Byte → List Byte → Bool

/-- The firmware in the on-module flash (R391 step 2); no rule writes it. -/
opaque flash : List Byte

/-- The public key, and the signature, that a signed package names: firmware, configuration or the input of RESTART (R391, R392;
notes/assumptions/17.md). -/
opaque publicKey : List Byte → List Byte
opaque signature : List Byte → List Byte

/-- The digest in each of the four fused key slots, and whether the slot is revoked (R391 step 2). -/
opaque fused : Nat → BitVec 256
opaque revoked : Nat → Bool

/-- Base and size of a function's HDM range in a platform configuration (R387; notes/assumptions/25.md). -/
opaque hdm : List Byte → Nat → Nat × Nat

/-- The die whose stacks hold a device physical address; the spec gives no map (R388; notes/assumptions/15.md). -/
opaque homeDie : Nat → Nat

/-- The pod partition group, 0 to 31, of a package; the spec gives no map (R388; notes/assumptions/15.md). -/
opaque podGroup : Nat → Nat

/-- The ML-DSA-44 signature of the device identity key (R393; notes/assumptions/17.md). -/
opaque sign : List Byte → List Byte

/-- Energy in microjoules of the n-th clock of a cohort (R355; notes/assumptions/13.md). -/
opaque energy : Nat → Word

/-- The partition registers that a platform configuration gives: `PARTCFG` of a die, `CAPEGR`, `CAPLIM` and the windows
(R388, R389; notes/assumptions/15.md). -/
opaque partcfg : List Byte → Nat → Word

/-- Groups of 64 data lanes on each edge of a die bridge; the spec does not state how many there are (R383; notes/assumptions/8.md). -/
opaque bridgeGroups : Nat

/-- `CAPEGR` of a platform configuration (R389). -/
opaque capegr : List Byte → Word

/-- `CAPLIM` of a platform configuration (R389). -/
opaque caplim : List Byte → Word

/-- `CAPWIN` registers of a platform configuration, by 8 times the die plus the register's index (R388, R389). -/
opaque capwin : List Byte → Nat → Word

/-- The critical threshold of a platform configuration (R400). -/
opaque thc : List Byte → Nat

/-- The part number that an attestation report holds (R393). -/
opaque partNumber : List Byte

/-- The boot ROM version that MR0 is extended with (R393). -/
opaque romVersion : List Byte

end Sys2Proof.Config
end

