-- ==== Sys2Proof/Machine/Num.lean ====
section
/-! DEFINITION. Numbers: exact reals, FP32 and BF16 with the four roundings, integers, LNS6, VQ8, quantisation and the
summation orders (spec/03_numbers.md R57 to R81). -/

namespace Sys2Proof.Machine

/-- A value: a NaN (signalling or not), an infinity, or the exact real `(-1)^neg * m * 2^e`. -/
inductive Val where
  | nan (sig : Bool)
  | inf (neg : Bool)
  | fin (neg : Bool) (m : Nat) (e : Int)
  deriving DecidableEq, Repr

/-- Sticky flags by their bits in `FLAGS` (R79). -/
abbrev Flags := BitVec 6

/-- invalid -/
def fInv : Flags := 1
/-- overflow -/
def fOvf : Flags := 2
/-- underflow -/
def fUnf : Flags := 4
/-- inexact -/
def fInx : Flags := 8
/-- saturate -/
def fSat : Flags := 16
/-- range -/
def fRng : Flags := 32

/-- The canonical NaN (R60). -/
def nan32 : BitVec 32 := 0x7FC00000

/-- The value of FP32 bits (R59). -/
def val32 (b : BitVec 32) : Val :=
  let s := b.getLsbD 31
  let e := (b.extractLsb' 23 8).toNat
  let f := (b.extractLsb' 0 23).toNat
  if e = 255 then (if f = 0 then .inf s else .nan (!b.getLsbD 22))
  else if e = 0 then .fin s f (-149)
  else .fin s (f + 2 ^ 23) ((e : Int) - 150)

/-- BF16 is the upper half of FP32 (R59). -/
def bfTo32 (b : BitVec 16) : BitVec 32 := b ++ 0#16

/-- An integer as a value. -/
def valInt (i : Int) : Val := .fin (i < 0) i.natAbs 0

/-! ## Rounding -/

/-- Rounds `m` shifted right by `r` bits under a mode (R61): 0 RNE, 1 RTZ, 2 RUP, 3 RDN. -/
def shiftRound (rm : Nat) (neg : Bool) (m r : Nat) : Nat :=
  let q := m / 2 ^ r
  let rest := m % 2 ^ r
  let up :=
    match rm with
    | 0 => 2 ^ r < 2 * rest || (2 ^ r == 2 * rest && q % 2 == 1)
    | 1 => false
    | 2 => rest != 0 && !neg
    | _ => rest != 0 && neg
  if up then q + 1 else q

/-- The bits, without sign, and the flags of `m * 2^e` rounded to a binary format of precision `p` with eight exponent bits
(R61, R62). Overflow is the bit pattern of the infinity or more. -/
def roundMag (p : Nat) (rm : Nat) (neg : Bool) (m : Nat) (e : Int) : Nat × Flags :=
  if m = 0 then (0, 0)
  else
    let emin : Int := -125 - (p : Int)
    let len : Int := (Nat.log2 m + 1 : Nat)
    let q0 := e + len - p
    let at_ := fun q : Int => if q ≤ e then m * 2 ^ (e - q).toNat else shiftRound rm neg m (q - e).toNat
    let q := max q0 emin
    let r := at_ q
    let inexact := if q ≤ e then false else m % 2 ^ (q - e).toNat != 0
    let bits := (q - emin).toNat * 2 ^ (p - 1) + r
    let top := 255 * 2 ^ (p - 1)
    let tiny := q0 < emin && (at_ q0 : Int) * 2 ^ (q0 + 2000).toNat < 2 ^ (2000 - 126 : Nat)
    if top ≤ bits then
      let toInf := rm == 0 || (rm == 2 && !neg) || (rm == 3 && neg)
      (if toInf then top else top - 1, fOvf ||| fInx)
    else (bits, (if inexact then fInx else 0) ||| (if inexact && tiny then fUnf else 0))

/-- A value rounded to FP32 (`rnd` of R81): bits and flags. A NaN becomes the canonical one; a signalling one is invalid. -/
def rnd32 (rm : Nat) (v : Val) : BitVec 32 × Flags :=
  match v with
  | .nan sig => (nan32, if sig then fInv else 0)
  | .inf s => (if s then 0xFF800000 else 0x7F800000, 0)
  | .fin s m e =>
    let r := roundMag 24 rm s m e
    (BitVec.ofNat 32 (r.1 + if s then 2 ^ 31 else 0), r.2)

/-- A value rounded to BF16 (`rnd` of R81). -/
def rnd16 (rm : Nat) (v : Val) : BitVec 16 × Flags :=
  match v with
  | .nan sig => (0x7FC0, if sig then fInv else 0)
  | .inf s => (if s then 0xFF80 else 0x7F80, 0)
  | .fin s m e =>
    let r := roundMag 8 rm s m e
    (BitVec.ofNat 16 (r.1 + if s then 2 ^ 15 else 0), r.2)

/-! ## Exact arithmetic -/

/-- The exact sum; the invalid flag for infinities of opposite signs. `down` says that a zero sum is negative (mode RDN). -/
def addVal (down : Bool) (a b : Val) : Val × Flags :=
  match a, b with
  | .nan x, .nan y => (.nan false, if x || y then fInv else 0)
  | .nan x, _ => (.nan false, if x then fInv else 0)
  | _, .nan y => (.nan false, if y then fInv else 0)
  | .inf x, .inf y => if x = y then (.inf x, 0) else (.nan false, fInv)
  | .inf x, _ => (.inf x, 0)
  | _, .inf y => (.inf y, 0)
  | .fin s m e, .fin t n f =>
    let g := min e f
    let x : Int := (m * 2 ^ (e - g).toNat : Nat)
    let y : Int := (n * 2 ^ (f - g).toNat : Nat)
    let z := (if s then -x else x) + (if t then -y else y)
    if z = 0 then (.fin (if s = t then s else down) 0 g, 0) else (.fin (z < 0) z.natAbs g, 0)

/-- The exact product; invalid for zero times infinity. -/
def mulVal (a b : Val) : Val × Flags :=
  match a, b with
  | .nan x, .nan y => (.nan false, if x || y then fInv else 0)
  | .nan x, _ => (.nan false, if x then fInv else 0)
  | _, .nan y => (.nan false, if y then fInv else 0)
  | .inf s, .inf t => (.inf (s != t), 0)
  | .inf s, .fin t n _ => if n = 0 then (.nan false, fInv) else (.inf (s != t), 0)
  | .fin s m _, .inf t => if m = 0 then (.nan false, fInv) else (.inf (s != t), 0)
  | .fin s m e, .fin t n f => (.fin (s != t) (m * n) (e + f), 0)

/-- Changes the sign. -/
def negVal : Val → Val
  | .nan x => .nan x
  | .inf s => .inf !s
  | .fin s m e => .fin (!s) m e

/-- Multiplies by a power of two, exactly. -/
def scaleVal (v : Val) (k : Int) : Val :=
  match v with
  | .fin s m e => .fin s m (e + k)
  | w => w

/-- FP32 addition in RNE. -/
def fadd (a b : BitVec 32) : BitVec 32 × Flags :=
  let r := addVal false (val32 a) (val32 b)
  let q := rnd32 0 r.1
  (q.1, r.2 ||| q.2)

/-- FP32 multiplication in RNE. -/
def fmul (a b : BitVec 32) : BitVec 32 × Flags :=
  let r := mulVal (val32 a) (val32 b)
  let q := rnd32 0 r.1
  (q.1, r.2 ||| q.2)

/-- The fused a × b + c in RNE. -/
def ffma (a b c : BitVec 32) : BitVec 32 × Flags :=
  let p := mulVal (val32 a) (val32 b)
  let r := addVal false p.1 (val32 c)
  let q := rnd32 0 r.1
  (q.1, p.2 ||| r.2 ||| q.2)

/-- a < b as exact reals; neither is a NaN. -/
def ltVal (a b : Val) : Bool :=
  match a, b with
  | .nan _, _ => false
  | _, .nan _ => false
  | .inf s, .inf t => s && !t
  | .inf s, _ => s
  | _, .inf t => !t
  | .fin s m e, .fin t n f =>
    let g := min e f
    let x : Int := (m * 2 ^ (e - g).toNat : Nat)
    let y : Int := (n * 2 ^ (f - g).toNat : Nat)
    (if s then -x else x) < (if t then -y else y)

/-- The magnitude of a value. -/
def absVal : Val → Val
  | .nan x => .nan x
  | .inf _ => .inf false
  | .fin _ m e => .fin false m e

/-! ## Integers -/

/-- The integer conversion of R65 of a value, into `[lo, hi]`. -/
def toInt (rm : Nat) (lo hi : Int) (v : Val) : Int × Flags :=
  match v with
  | .nan _ => (0, fInv)
  | .inf s => (if s then lo else hi, fSat)
  | .fin s m e =>
    let mag : Nat := if 0 ≤ e then m * 2 ^ e.toNat else shiftRound rm s m (-e).toNat
    let r : Int := if s then -(mag : Int) else mag
    let exact := 0 ≤ e || m % 2 ^ (-e).toNat == 0
    if r < lo then (lo, fSat) else if hi < r then (hi, fSat) else (r, if exact then 0 else fInx)

/-- The range of an integer format by its code (R57, R65). -/
def intRange (fmt : Nat) : Int × Int :=
  match fmt with
  | 2 => (-2147483648, 2147483647)
  | 3 => (-128, 127)
  | _ => (0, 255)

/-! ## LNS6 -/

/-- The table T as a 24-bit significand over 2^23 (R68). -/
def lnsT (f : Nat) : Nat :=
  match f % 4 with
  | 0 => 0x800000
  | 1 => 0x9837F0
  | 2 => 0xB504F3
  | _ => 0xD744FD

/-- The exact value of an LNS6 code under a scale byte (R66); NaR and the reserved scale are invalid NaNs. -/
def lnsVal (c : Nat) (sc : Nat) : Val × Flags :=
  let m := c % 32
  let s := c / 32 % 2 == 1
  if sc = 0xFF then (.nan false, fInv)
  else if m = 0 then (if s then (.nan false, fInv) else (.fin false 0 0, 0))
  else (.fin s (lnsT m) ((m / 4 : Nat) - 4 + (sc : Int) - 127 - 23), 0)

/-- The product of two LNS6 codes (R69), exact but for T; `sc` is ASCL + BSCL. -/
def lnsProd (ca ea cb eb : Nat) (sc : Int) : Val × Flags :=
  let s := (ca / 32 + cb / 32) % 2 == 1
  let nar := fun c => c % 64 == 32
  if ea = 0xFF || eb = 0xFF || nar ca || nar cb then (.nan false, fInv)
  else if ca % 32 = 0 || cb % 32 = 0 then (.fin s 0 0, 0)
  else
    let m := ca % 32 + cb % 32
    (.fin s (lnsT m) ((m / 4 : Nat) - 8 + ((ea : Int) - 127) + ((eb : Int) - 127) + sc - 23), 0)

/-- floor(log2) of a non-zero exact magnitude. -/
def log2Mag (m : Nat) (e : Int) : Int := (Nat.log2 m : Int) + e

/-- The greater of two magnitudes. -/
def maxMag (a b : Val) : Val := if ltVal a b then b else a

/-- The block scale of R71 for the scaled values of a block. -/
def lnsScale (ys : List Val) : Nat :=
  if ys.any fun y => match y with
    | .inf _ => true
    | _ => false
  then 254
  else
    let mx := ys.foldl (fun a y => match y with
      | .fin _ m e => maxMag a (.fin false m e)
      | _ => a) (Val.fin false 0 0)
    match mx with
    | .fin _ m e => if m = 0 then 127 else (max 0 (min 254 (127 + log2Mag m e - 2))).toNat
    | _ => 127

/-- V(m) of R72 in units of 2^-27, zero for m = 0. -/
def lnsV (m : Nat) : Nat := if m = 0 then 0 else lnsT m * 2 ^ (m / 4)

/-- A value compared with a rational `n * 2^-k`: below, equal or above. -/
def cmpMag (m : Nat) (e : Int) (n k : Nat) : Ordering :=
  let x := e + k
  if 0 ≤ x then compare (m * 2 ^ x.toNat) n else compare m (n * 2 ^ (-x).toNat)

/-- The code of R72 for a scaled value in a block of scale `sc`. -/
def quantLns (y : Val) (sc : Nat) : Nat × Flags :=
  match y with
  | .nan _ => (0x20, fInv)
  | .inf s => ((if s then 32 else 0) + 31, fSat ||| fInx)
  | .fin s m e =>
    let z := e + 127 - (sc : Int)
    if m = 0 then (0, 0)
    else if cmpMag m z (lnsV 31) 27 == .gt then ((if s then 32 else 0) + 31, fSat ||| fInx)
    else
      let low := fun i => match cmpMag m z (lnsV i + lnsV (i + 1)) 28 with
        | .lt => true
        | .eq => i % 2 == 0
        | .gt => false
      let c := ((List.range 31).find? low).getD 31
      let fl := (if cmpMag m z (lnsV c) 27 != .eq then fInx else 0) ||| (if c = 0 then fUnf else 0)
      ((if s && c != 0 then 32 else 0) + c, fl)

/-! ## Elements -/

/-- The exact value of a stored element by format: FP32, BF16, INT32, INT8, UINT8 (`widen` of R81). -/
def widen (fmt : Nat) (b : BitVec 32) : Val :=
  match fmt with
  | 0 => val32 b
  | 1 => val32 (bfTo32 (b.truncate 16))
  | 2 => valInt b.toInt
  | 3 => valInt (b.truncate 8).toInt
  | _ => valInt (b.toNat % 256)

/-- Size of an element in bytes, LNS6 and VQ8 apart (R57). -/
def fmtSize (fmt : Nat) : Nat :=
  match fmt with
  | 0 => 4 | 1 => 2 | 2 => 4 | _ => 1

/-- A value converted to a plain format under a rounding: its bits and flags (R61, R65). -/
def convert (rm : Nat) (fmt : Nat) (v : Val) : BitVec 32 × Flags :=
  match fmt with
  | 0 => rnd32 rm v
  | 1 =>
    let r := rnd16 rm v
    (r.1.zeroExtend 32, r.2)
  | f =>
    let r := toInt rm (intRange f).1 (intRange f).2 v
    (BitVec.ofInt 32 r.1 &&& (if f = 2 then 0xFFFFFFFF else 0xFF), r.2)

/-- A quantised element of a plain format (`quant` of R81): the scale is applied before the one rounding (R73). A signalling NaN
that becomes an FP32 or BF16 value is invalid (R60). -/
def quant (x : BitVec 32) (t : Int) (fmt : Nat) : BitVec 32 × Flags := convert 0 fmt (scaleVal (val32 x) (-t))

/-- A quantising overflow (R119): a clamp, or a rounding that overflows. -/
def quantOvf (fl : Flags) : Bool := fl &&& (fSat ||| fOvf) != 0

/-- The codes and scale of a block of LNS6 elements (R71, R72). -/
def quantBlock (xs : List (BitVec 32)) (t : Int) : Nat × List (Nat × Flags) :=
  let ys := xs.map fun x => scaleVal (val32 x) (-t)
  let e := lnsScale ys
  (e, ys.map fun y => quantLns y e)

/-- The 24 bytes of 32 codes (R67). -/
def packCodes (cs : List Nat) : List Byte :=
  (List.range 8).flatMap fun g =>
    let v := (List.range 4).foldl (fun a j => a + (cs.getD (4 * g + j) 0 % 64) * 2 ^ (6 * j)) 0
    [BitVec.ofNat 8 v, BitVec.ofNat 8 (v / 256), BitVec.ofNat 8 (v / 65536)]

/-- Code `j` of packed bytes (R67). -/
def codeAt (bs : List Byte) (j : Nat) : Nat :=
  let g := j / 4 * 3
  let v := (bs.getD g 0).toNat + 256 * (bs.getD (g + 1) 0).toNat + 65536 * (bs.getD (g + 2) 0).toNat
  v / 2 ^ (6 * (j % 4)) % 64

/-! ## Summation orders -/

/-- The column chain of R76 over products that are already rounded, with the flags of its roundings. -/
def colChain : List (BitVec 32) → BitVec 32 × Flags
  | [] => (0, 0)
  | p :: ps => ps.foldl (fun a q => let r := fadd a.1 q; (r.1, a.2 ||| r.2)) (p, 0)

/-- One level of the pairwise tree (R77). -/
def treeLevel {α : Type} (op : α → α → α) : List α → List α
  | a :: b :: xs => op a b :: treeLevel op xs
  | xs => xs

/-- The balanced tree of R77; `fuel` bounds its levels. -/
def tree {α : Type} (op : α → α → α) (fuel : Nat) (xs : List α) : List α :=
  match fuel with
  | 0 => xs
  | n + 1 => if xs.length ≤ 1 then xs else tree op n (treeLevel op xs)

end Sys2Proof.Machine
end

