-- ==== Sys2Proof/Syntax.lean ====
section
/-! DEFINITION. The instructions and events of the machine, one constructor for each row of
spec/opcode_table.json. An instruction word keeps the fields of its operand format (spec/07_encoding.md
R137, R140); which of them an instruction uses, and the values it accepts, are checked when it issues (R144).
An event is one whole step of the part that no instruction word names. -/

namespace Sys2Proof

/-- The five streams of a core, in the order of their codes (R10). -/
inductive StreamId where
  | C | L | M | V | S
  deriving DecidableEq, Repr

/-- The common fields of every word, bits 63 to 54 (R137). -/
structure Hdr where
  /-- push to next, push to previous, pop from next, pop from previous, from bit 3 down -/
  tok : BitVec 4
  idle : BitVec 6
  deriving DecidableEq, Repr

/-- RRR, register operations (R140). -/
structure Rrr where
  stg : BitVec 2
  rd : BitVec 7
  ra : BitVec 7
  rb : BitVec 7
  rc : BitVec 7
  kp : BitVec 3
  fn : BitVec 5
  md : BitVec 8
  deriving DecidableEq, Repr

/-- RRI, register and 30-bit immediate (R140). -/
structure Rri where
  stg : BitVec 2
  rd : BitVec 7
  ra : BitVec 7
  imm : BitVec 30
  deriving DecidableEq, Repr

/-- RRI-W, the wide form of `LI` and `LIH` (R140). -/
structure Rriw where
  stg : BitVec 2
  rd : BitVec 7
  zero : BitVec 5
  imm : BitVec 32
  deriving DecidableEq, Repr

/-- JL for `JMP` and `CALL` (R140). -/
structure Jmp where
  zero : BitVec 14
  off : BitVec 32
  deriving DecidableEq, Repr

/-- JL for `RET` (R140). -/
structure Ret where
  zero : BitVec 46
  deriving DecidableEq, Repr

/-- JL for `LOOP` (R140). -/
structure Loop where
  z1 : BitVec 2
  csrc : BitVec 2
  blen : BitVec 8
  z2 : BitVec 2
  count : BitVec 32
  deriving DecidableEq, Repr

/-- JL for `LRING`: each range holds its base in the high six bits and its length less one below (R140). -/
structure Lring where
  d : BitVec 2
  rng0 : BitVec 11
  rng1 : BitVec 11
  rng2 : BitVec 11
  rng3 : BitVec 11
  deriving DecidableEq, Repr

/-- MEM, load and store transfers (R140). -/
structure Mem where
  stg : BitVec 2
  rd : BitVec 7
  hnd : BitVec 4
  rx : BitVec 7
  lcl : BitVec 2
  iw : BitVec 2
  isg : BitVec 1
  isc : BitVec 3
  fn : BitVec 5
  imm : BitVec 13
  deriving DecidableEq, Repr

/-- MX, matrix commands (R140). -/
structure Mx where
  stg : BitVec 2
  bank : BitVec 1
  row : BitVec 7
  nrow : BitVec 7
  pan : BitVec 2
  npan : BitVec 2
  qsrc : BitVec 4
  wline : BitVec 8
  fn : BitVec 13
  deriving DecidableEq, Repr

/-- SYS, common and privileged instructions (R140). -/
structure Sys where
  stg : BitVec 2
  scope : BitVec 3
  ra : BitVec 7
  fn : BitVec 2
  imm : BitVec 32
  deriving DecidableEq, Repr

/-- The register number of `CSRR` and `CSRW`, IMM[11:0] (R178). -/
def Rri.csr (f : Rri) : BitVec 12 := f.imm.extractLsb' 0 12

/-- The OP field of `MX.TEST`, FN[1:0] (R245). -/
def Mx.op2 (f : Mx) : BitVec 2 := f.fn.extractLsb' 0 2

/-- What a report of a late cross-package store names (spec/15_prog_groups.md R314). -/
structure LateStore where
  rank : Nat
  stream : Nat
  pc : Nat
  word : Word
  tc : Nat
  addr : Word
  stamp : Nat
  deriving DecidableEq, Repr

/-- A store of another package of a set at its home here (spec/15_prog_groups.md R313 to R315): the cohort slot that shares the set, the
physical address and the bytes, the components of its coherence key, its stamp, and the instruction that issued it. -/
structure PeerStore where
  slot : Nat
  addr : Nat
  data : List Byte
  npod : Nat
  prank : Nat
  tc : Nat
  rank : Nat
  stream : Nat
  pc : Nat
  word : Word
  ptr : Word
  stamp : Option Word
  deriving DecidableEq, Repr

/-- The store that a home performs: an access of this package by its number, or a store of another package of a set. -/
inductive HomeStore where
  | own (id : Nat)
  | peer (w : PeerStore)
  deriving DecidableEq, Repr

/-- What every group message names (spec/19_protected_hbm.md R378): the group's identifier, its sender's member index, and the round. -/
structure GroupHdr where
  gid : Nat
  sender : Nat
  round : Nat
  deriving DecidableEq, Repr

/-- The sender of a group message (spec/19_protected_hbm.md R378): the group's identifier and its sender's member index. -/
structure GroupPeer where
  gid : Nat
  sender : Nat
  deriving DecidableEq, Repr

/-- The header of a message of a sender for a round. -/
def GroupPeer.hdr (p : GroupPeer) (round : Nat) : GroupHdr := ⟨p.gid, p.sender, round⟩

/-- What a `DELTA_ACK` tells (spec/19_protected_hbm.md R377, R378): the offset, and whether the delta is durable or was refused. -/
structure DeltaAck where
  off : Nat
  durable : Bool
  deriving DecidableEq, Repr

/-- The configuration that the members of a group compare (spec/19_protected_hbm.md R374); the spare's fields of `GMEM1` are zero. -/
structure GroupCfg where
  k : Nat
  m : Nat
  gmem0 : Word
  gmem1 : Word
  gdom : Word
  gwin : Word
  lastc : BitVec 32
  deriving DecidableEq, Repr

/-- One stripe of a rebuild (spec/19_protected_hbm.md R381): its offset in the window, the physical address of the sector on the spare
where a data member is rebuilt, and the sums that the chain of live members has gathered: of their sectors, and of those weighted for Q. -/
structure Stripe where
  off : Nat
  addr : Nat
  a : BitVec 512
  b : BitVec 512
  deriving DecidableEq, Repr

/-- A rebuild that has passed this package (spec/19_protected_hbm.md R381): the lost member, its stripes, and the group's LOSTMAP and LASTC as
its live members hold them, which the spare takes over. -/
structure Rebuild where
  member : Nat
  stripes : List Stripe
  lost : BitVec 16
  lastc : BitVec 32
  deriving DecidableEq, Repr

/-- What the other live members send for a line that is repaired (spec/19_protected_hbm.md R382): an address in it, a pair of sums for each of
its sectors, and whether its stripe needs a lost member. -/
structure LineSums where
  line : Word
  sums : List (BitVec 512 × BitVec 512)
  needs : Bool
  deriving DecidableEq, Repr

/-- What the host writes over its port (spec/20_platform.md R387): device memory at an address through a function's range, or the mailbox of a
function, with the opcode of the command that its doorbell announces or with the key of its link encryption. The firmware reaches the boot
ROM through the mailbox too (R391, R393): the list of program-image keys that it loads, and a digest for one of MR4 to MR7. -/
inductive HostTarget where
  | mem (fn addr : Nat)
  | mailbox (fn opcode : Nat)
  | ideKey (fn : Nat)
  | keyList
  | measure (mr : Nat)
  deriving DecidableEq, Repr

/-- Where an uncorrectable error is found (spec/18_translation.md R370). Accesses are named by their number with the address among theirs
that meets it, timed reads by core, stream code and address. -/
inductive UeSite where
  | load (id : Nat) (addr : Word)
  | timed (core stream : Nat) (addr : Word)
  | pageTable (id : Nat) (addr : Word)
  | protectedOld (id : Nat)
  | loggedOld (id : Nat) (addr : Word)
  | save (slot off : Nat)
  | restore (slot off : Nat)
  | oldLine (sv m line : Nat)
  | coll (slot cid : Nat)
  deriving DecidableEq, Repr

/-- A power-up request of the in-rush arbiter (spec/20_platform.md R398): kind 0 a vector bank, 1 a quad, 2 a stack. -/
structure Inrush where
  kind : Nat
  die : Nat
  quad : Nat
  core : Nat
  bank : Nat
  deriving DecidableEq, Repr

/-- Which translations a `TLBI` drops (spec/18_translation.md R361). -/
inductive TlbScope where
  | page (ptr : Word)
  | slot
  | all
  deriving DecidableEq, Repr

/-- The instructions and the events of the part. -/
inductive Instr where
  /-- Once every cause with target X or earlier has cleared, tc X executes on clock max(c1, c2 + H). (R37) -/
  | holdRelease (slot : Nat)
  /-- A hold that is not released within HOLDWD clocks becomes a fatal watchdog fault at tc X. (R39) -/
  | holdWatchdogExpiry (slot : Nat)
  /-- The counter reaches the previous curtain + CUR_DIST + 1 with no curtain, which is a fatal curtain-distance fault. (R55) -/
  | curtainDistanceFault (slot : Nat)
  /-- The cohort stops at F + H after a fatal fault, and report frames are written. (R33) -/
  | fatalStop (slot : Nat)
  /-- A phased reply lands in its reserved entry or register, which clears the hold cause it belongs to. (R35) -/
  | phasedReplyArrival (id : Nat)
  /-- A phased store is performed at its home, in issue order among the stream's stores. (R129) -/
  | storePerformed (w : HomeStore)
  /-- An atomic is performed at its home, returns the old value and writes its result at once. (R132) -/
  | atomPerformed (id : Nat)
  /-- A combining update packet from another die reaches the record's home and is applied. (R112) -/
  | updatePacket (slot : Nat) (idx : Nat) (die : Nat)
  /-- The new sealed view reaches every member core, which clears the seal-point hold cause. (R135) -/
  | sealedViewArrival (slot : Nat)
  /-- A multicast byte offered to a barrier object lands and is counted by every ARMED object that covers it, which opens the object at its total. (R207) -/
  | bobjByteCount (slot : Nat) (obj : Nat) (dest : Nat)
  /-- Every member's save is complete, and the cohort leaves its quads and enters SAVED. (R349) -/
  | saveComplete (slot : Nat)
  /-- After the restore, the re-recorded traps and the wind-up stubs, the curtain is decided again and the slot is RUNNING. (R350) -/
  | restoreComplete (slot : Nat)
  /-- YDEAD clocks after POLITE was set, DUE is set, which forces pre-emption at the next curtain. (R346) -/
  | yieldDeadlineExpiry (slot : Nat)
  /-- A power lease expires, and the cohort returns to its declared level under a platform hold. (R292) -/
  | leaseExpiry (slot : Nat) (tag : Nat)
  /-- A package receives a join message of a package set, and its join cause clears once all have arrived. (R275) -/
  | packageJoinMessage (slot : Nat) (peer : Nat) (seqno : Nat) (kind : Nat)
  /-- A stamped cross-package store performed after g + 2000 is reported to every package, which stops at F_b + H. (R314) -/
  | exchangeDeadlineReport (slot : Nat) (late : LateStore)
  /-- A collective completes at every participant, which clears the COLL.WAIT hold. (R295) -/
  | collComplete (slot : Nat) (cid : Nat) (parts : List (List Byte))
  /-- A logged translation fault appends a 32-byte record to the supervisor's fault log, waiting while the log is full. (R363) -/
  | faultLogAppend (slot : Nat) (tag : Nat)
  /-- A TLB miss walks the tables and ends in a translation, a logged fault or a fatal page fault. (R362) -/
  | translationWalk (core : Nat) (ptr : Word) (store : Bool)
  /-- A first touch of a line that has not moved pulls it from the old frame under a hold. (R368) -/
  | migrationLinePull (sv : Nat) (m : Nat) (line : Nat)
  /-- The copy engine moves the next line that has not been pulled, in ascending order. (R368) -/
  | migrationLineMove (sv : Nat) (m : Nat)
  /-- An uncorrectable memory error is found, and it is repaired, faults the access or faults the save. (R370) -/
  | uncorrectableError (site : UeSite)
  /-- Loss of the CXL link, the host target, a fabric link or a peer package faults the earliest affected outstanding access. (R371) -/
  | linkLoss (detail : Nat) (peer : Nat)
  /-- A capped master breaks a cap, so the access is not performed, the master is frozen and MSI-X vector 1 is raised. (R390) -/
  | capViolation (master : Nat) (cap : Nat) (addr : Nat)
  /-- A supervisor core takes the next queued event, loading SVEPC and SVCAUSE and jumping to SVEVEC. (R341) -/
  | supervisorEvent (sv : Nat)
  /-- A host CXL write to a watched request line back-invalidates it and raises event cause 1. (R331) -/
  | hostRequestSubmit (addr : Nat) (data : List Byte)
  /-- The package timebase reaches the TT.START.at target, and tc 0 executes. (R336) -/
  | ttStartAtTime (slot : Nat)
  /-- The self-test sequencer injects a rattle on an idle array tc; a failure is a fault or a trap, and the sub-array is fenced. (R265) -/
  | rattle (core : Nat) (failed : BitVec 4)
  /-- The 72-clock re-test of a cleared sub-array ends, and its bit is set again if the test failed. (R402) -/
  | afenceRetestDone (quad : Nat) (bit : Nat) (failed : Bool)
  /-- A member's configuration message arrives, and the group enters NORMAL or raises a mismatch event. (R374) -/
  | groupConfig (gid : Nat) (sender : Nat) (c : GroupCfg)
  /-- A parity member receives a DELTA message, appends it to PPEND and acknowledges it once durable. (R378) -/
  | delta (gid : Nat) (sender : Nat) (round : Nat) (off : Nat) (data : BitVec 512)
  /-- A data member receives the acknowledgement that a delta is durable, which can satisfy its prepare condition. (R378) -/
  | deltaAck (h : GroupHdr) (a : DeltaAck)
  /-- The coordinator receives a PREP notice and enters it into the round's order of events. (R310) -/
  | prep (gid : Nat) (sender : Nat) (round : Nat)
  /-- A DEC message arrives: a decision entry is written, and a parity member folds the round and acknowledges. (R378) -/
  | dec (p : GroupPeer) (round : Nat)
  /-- The coordinator receives a parity member's acknowledgement of DEC, and sends OUT once all have arrived. (R378) -/
  | decAck (p : GroupPeer) (round : Nat)
  /-- A data member receives OUT, which clears its RND.COMMIT hold with outcome 0 or 1. (R287) -/
  | out (h : GroupHdr) (outcome : Nat)
  /-- An ABT message arrives: data members restore from the log, and parity members discard the round. (R379) -/
  | abt (p : GroupPeer) (round : Nat)
  /-- A live member receives QRY from a new coordinator and answers COMMIT or NONE. (R380) -/
  | qry (gid : Nat) (sender : Nat) (round : Nat)
  /-- The new coordinator receives an answer, and settles the round once all answers have arrived. (R380) -/
  | ans (p : GroupPeer) (round : Nat) (committed : Bool)
  /-- A group member is lost, so LOSTMAP is set, event cause 10 is raised and the round in flight is settled. (R380) -/
  | memberLost (g : Nat) (member : Nat)
  /-- A member's links stay down for 10 ms, so it counts as lost. (R380) -/
  | memberLinkTimeout (g : Nat) (member : Nat)
  /-- The rebuild into the spare completes, so GMEM is updated, SPV clears and event cause 10 is raised. (R381) -/
  | rebuildComplete (g : Nat) (r : Rebuild)
  /-- A protected line with an uncorrectable error is rebuilt once pending deltas are durable, and is written back. (R382) -/
  | protectedReadRepair (id : Nat) (l : LineSums)
  /-- Every 100 µs a lane's margins are measured, with warn or critical entry raising event cause 9. (R384) -/
  | eyeMonitorMeasure (die : Nat) (lane : BitVec 24) (hm : BitVec 8) (vm : BitVec 8)
  /-- A retraining slice starts once the affected cohorts are held. (R385) -/
  | retrainSliceStart (die : Nat) (lane : BitVec 24)
  /-- A retraining slice ends, with any lane repair done, and the holds are released. (R385) -/
  | retrainSliceEnd (die : Nat) (lane : BitVec 24)
  /-- Every 10 µs the junction sensors are read, giving the die temperature. (R400) -/
  | thermalSensorRead (die : Nat) (temps : List Int) (inlet : Int)
  /-- After the 1 ms dwell a die enters or leaves a thermal zone, with warn events, throttle or critical stop. (R401) -/
  | zoneChange (die : Nat)
  /-- A droop boosts the LDO and sends a platform hold request. (R399) -/
  | droopDetect (quad : Nat)
  /-- The supply has stayed within margin for 256 clocks, which clears the droop cause. (R399) -/
  | droopClear (quad : Nat)
  /-- A power-up request enters the in-rush FIFO and is granted at the head when its units are free. (R398) -/
  | inrushRequest (req : Inrush)
  /-- A power-up completes, returns its units, clears its hold cause and lets the head be granted. (R398) -/
  | inrushComplete (req : Inrush)
  /-- The FLL's 20 µs frequency change ends and the quad clock restarts. (R396) -/
  | frequencyChangeDone (slot : Nat) (tag : Nat)
  /-- A PCSR write to a privileged register with no row of its own takes effect on the next clock. (R338) -/
  | privRegisterWrite (sv : Nat) (reg : Nat) (slot : Nat) (val : Word)
  /-- A CUR_DIST write takes effect at the cohort's next curtain. (R339) -/
  | curDistWrite (slot : Nat) (val : Word)
  /-- Setting POLITE requests polite pre-emption at tc u and starts the yield deadline; clearing it cancels the request. (R346) -/
  | polite (slot : Nat) (on : Bool)
  /-- Writing KILL stops a running cohort at u + H or discards a saved one, and its rounds are aborted. (R351) -/
  | kill (slot : Nat)
  /-- A write of CEIL changes INF, and so the frequency, under a platform hold. (R353) -/
  | ceilWrite (sv : Nat) (slot : Nat) (val : Word)
  /-- RETRY to a logged fault re-translates every joined access. (R364) -/
  | xlrespRetry (slot : Nat) (seqno : Nat)
  /-- FAIL to a logged fault makes it page fault 0x01. (R364) -/
  | xlrespFail (slot : Nat) (seqno : Nat)
  /-- Writing START begins a page migration slot. (R367) -/
  | migctlStart (sv : Nat) (m : Nat) (val : Word)
  /-- EYECMD OP 1 retrains the selected link or channel. (R384) -/
  | eyecmdRetrain (die : Nat)
  /-- EYECMD OP 2 repairs the selected lane onto a spare. (R384) -/
  | eyecmdRepair (die : Nat)
  /-- EYECMD OP 3 clears HMIN and VMIN. (R384) -/
  | eyecmdClear (die : Nat)
  /-- A THRM write sets the thresholds and TCL, and one that breaks the threshold order is a misuse event. (R400) -/
  | thrmWrite (sv : Nat) (val : Word)
  /-- Clearing an AFENCE bit on an unused quad starts a 72-clock re-test of the sub-array. (R402) -/
  | afenceClear (sv : Nat) (quad : Nat) (val : Word)
  /-- Writing EN = 1 enables a group after the configuration checks, and sends its configuration. (R374) -/
  | gcfgEnable (sv : Nat) (g : Nat) (val : Word)
  /-- Writing EN = 0 disables a group member, which the other members count as lost. (R380) -/
  | gcfgDisable (sv : Nat) (g : Nat) (val : Word)
  /-- `ADD`: Writes a + b. (R161) -/
  | add (h : Hdr) (f : Rrr)
  /-- `SUB`: Writes a − b. (R161) -/
  | sub (h : Hdr) (f : Rrr)
  /-- `MUL`: Writes the low 64 bits of a × b. (R161) -/
  | mul (h : Hdr) (f : Rrr)
  /-- `MULH`: Writes the high 64 bits of the 128-bit product. (R161) -/
  | mulh (h : Hdr) (f : Rrr)
  /-- `DIV`: Writes the quotient rounded toward zero, without ever faulting. (R162) -/
  | div (h : Hdr) (f : Rrr)
  /-- `REM`: Writes the remainder. (R162) -/
  | rem (h : Hdr) (f : Rrr)
  /-- `AND`: Bitwise AND. (R161) -/
  | and (h : Hdr) (f : Rrr)
  /-- `OR`: Bitwise OR. (R161) -/
  | or (h : Hdr) (f : Rrr)
  /-- `XOR`: Bitwise XOR. (R161) -/
  | xor (h : Hdr) (f : Rrr)
  /-- `ANDN`: Writes a AND NOT b. (R161) -/
  | andn (h : Hdr) (f : Rrr)
  /-- `SHL`: Shift left. (R161) -/
  | shl (h : Hdr) (f : Rrr)
  /-- `SHR`: Logical shift right. (R161) -/
  | shr (h : Hdr) (f : Rrr)
  /-- `SAR`: Arithmetic shift right. (R161) -/
  | sar (h : Hdr) (f : Rrr)
  /-- `MIN`: Writes the smaller operand. (R161) -/
  | min (h : Hdr) (f : Rrr)
  /-- `MAX`: Writes the larger operand. (R161) -/
  | max (h : Hdr) (f : Rrr)
  /-- `CMP`: Writes 1 if the relation holds, else 0. (R161) -/
  | cmp (h : Hdr) (f : Rrr)
  /-- `SEL`: Writes a if c is non-zero, else b. (R161) -/
  | sel (h : Hdr) (f : Rrr)
  /-- `CLZ`: Counts the leading zero bits. (R161) -/
  | clz (h : Hdr) (f : Rrr)
  /-- `POPC`: Counts the set bits. (R161) -/
  | popc (h : Hdr) (f : Rrr)
  /-- `ADDI`: Adds a sign-extended 30-bit immediate. (R163) -/
  | addi (h : Hdr) (f : Rri)
  /-- `LI`: Loads a sign-extended 32-bit immediate. (R163) -/
  | li (h : Hdr) (f : Rriw)
  /-- `LIH`: Replaces bits [63:32] of the destination. (R163) -/
  | lih (h : Hdr) (f : Rriw)
  /-- `EXT`: Extracts a bit field, optionally sign-extended. (R164) -/
  | ext (h : Hdr) (f : Rri)
  /-- `INS`: Inserts a bit field. (R164) -/
  | ins (h : Hdr) (f : Rri)
  /-- `JMP`: Jumps by a signed word offset. (R165) -/
  | jmp (h : Hdr) (f : Jmp)
  /-- `CALL`: Pushes the return offset and jumps. (R165) -/
  | call (h : Hdr) (f : Jmp)
  /-- `RET`: Pops the return stack and jumps there. (R165) -/
  | ret (h : Hdr) (f : Ret)
  /-- `LOOP`: Opens a loop level with a count fixed at issue. (R167) -/
  | loop (h : Hdr) (f : Loop)
  /-- `LRING`: Declares register rings and a stage count for the next LOOP. (R168) -/
  | lring (h : Hdr) (f : Lring)
  /-- `SPTEST`: Reports a pointer's tag, number and check results without faulting. (R169) -/
  | sptest (h : Hdr) (f : Rrr)
  /-- `SPCAST.S`: Converts a generic pointer to a space-specific offset, with checks. (R170) -/
  | spcastS (h : Hdr) (f : Rrr)
  /-- `SPCAST.G`: Builds a generic pointer from an offset and a number. (R170) -/
  | spcastG (h : Hdr) (f : Rrr)
  /-- `PADD`: Adds a scaled value to a pointer's offset field. (R171) -/
  | padd (h : Hdr) (f : Rrr)
  /-- `HLD`: Loads a handle from a timed space. (R174) -/
  | hld (h : Hdr) (f : Mem)
  /-- `HST`: Stores a handle to a timed space. (R174) -/
  | hst (h : Hdr) (f : Mem)
  /-- `HSET`: Writes one handle field. (R172) -/
  | hset (h : Hdr) (f : Rrr)
  /-- `HGET`: Reads one handle field. (R172) -/
  | hget (h : Hdr) (f : Rrr)
  /-- `HSTAT`: Binds a record index to a handle and sets SRV. (R173) -/
  | hstat (h : Hdr) (f : Rri)
  /-- `HSTAT.off`: Unbinds a handle's record. (R173) -/
  | hstatOff (h : Hdr) (f : Rri)
  /-- `HCPY`: Copies a whole handle. (R173) -/
  | hcpy (h : Hdr) (f : Rrr)
  /-- `LDS`: Scalar load of 1 to 8 bytes. (R175) -/
  | lds (h : Hdr) (f : Mem)
  /-- `STS`: Scalar store of 1 to 8 bytes. (R175) -/
  | sts (h : Hdr) (f : Mem)
  /-- `FPUSH`: Pushes a format word into fq. (R176) -/
  | fpush (h : Hdr) (f : Rrr)
  /-- `RDCTR`: Reads the tc, hold, time or energy counter. (R177) -/
  | rdctr (h : Hdr) (f : Rri)
  /-- `CSRR`: Reads a user CSR. (R178) -/
  | csrr (h : Hdr) (f : Rri)
  /-- `CSRW`: Writes a user CSR such as UPDA or UPDB, taking effect at T + 1. (R180) -/
  | csrw (h : Hdr) (f : Rri)
  /-- `CSRW`: A CSRW of FLAGS clears the named sticky flags at the end of its tc. (R80) -/
  | flagsClear (h : Hdr) (f : Rri)
  /-- `CSRW`: A CSRW of SEL sets the curtain selection from T + 1. (R180) -/
  | selWrite (h : Hdr) (f : Rri)
  /-- `LD.Q`: Loads n pieces into an operand queue. (R189) -/
  | ldQ (h : Hdr) (f : Mem)
  /-- `LD.V`: Loads a vector register. (R190) -/
  | ldV (h : Hdr) (f : Mem)
  /-- `LD.T`: Loads tile rows. (R191) -/
  | ldT (h : Hdr) (f : Mem)
  /-- `LD.TR`: Loads tile rows transposed. (R191) -/
  | ldTr (h : Hdr) (f : Mem)
  /-- `LD.G`: Gathers elements or rows by index into a queue. (R196) -/
  | ldG (h : Hdr) (f : Mem)
  /-- `LD.W`: Loads a stationary tile into weight-buffer lines. (R193) -/
  | ldW (h : Hdr) (f : Mem)
  /-- `LD.CB`: Fills codebook lines from a BF16 handle. (R194) -/
  | ldCb (h : Hdr) (f : Mem)
  /-- `LD.BC`: Broadcasts quad-shared pieces into the queues of cores of the quad. (R203) -/
  | ldBc (h : Hdr) (f : Mem)
  /-- `ST.V`: Stores a vector register. (R197) -/
  | stV (h : Hdr) (f : Mem)
  /-- `ST.Q`: Stores n queue entries. (R197) -/
  | stQ (h : Hdr) (f : Mem)
  /-- `ST.T`: Stores tile columns. (R197) -/
  | stT (h : Hdr) (f : Mem)
  /-- `ST.S`: Scatters elements or rows by index. (R196) -/
  | stS (h : Hdr) (f : Mem)
  /-- `ST.QNT`: Quantises queue entries and stores them. (R199) -/
  | stQnt (h : Hdr) (f : Mem)
  /-- `ST.UPD`: Applies the optimiser step and stores the weights and moments. (R200) -/
  | stUpd (h : Hdr) (f : Mem)
  /-- `ST.X`: Timed exchange store to another member core's scratchpad or quad-shared SRAM. (R202) -/
  | stX (h : Hdr) (f : Mem)
  /-- `ST.MC`: Multicasts pieces to a set of destinations, optionally to a barrier object. (R204) -/
  | stMc (h : Hdr) (f : Mem)
  /-- `ATOM`: Issues an atomic at the cursors and returns the old value. (R205) -/
  | atom (h : Hdr) (f : Mem)
  /-- `BOBJ.ARM`: Arms a barrier object with a covered set and total. (R208) -/
  | bobjArm (h : Hdr) (f : Mem)
  /-- `BOBJ.WAIT`: Waits until a barrier object opens, then acquires. (R209) -/
  | bobjWait (h : Hdr) (f : Mem)
  /-- `VADD`: Element-wise float add. (R222) -/
  | vadd (h : Hdr) (f : Rrr)
  /-- `VSUB`: Element-wise float subtract. (R222) -/
  | vsub (h : Hdr) (f : Rrr)
  /-- `VMUL`: Element-wise float multiply. (R222) -/
  | vmul (h : Hdr) (f : Rrr)
  /-- `VFMA`: Fused multiply-add with one rounding. (R222) -/
  | vfma (h : Hdr) (f : Rrr)
  /-- `VMIN`: Float minimum. (R223) -/
  | vmin (h : Hdr) (f : Rrr)
  /-- `VMAX`: Float maximum. (R223) -/
  | vmax (h : Hdr) (f : Rrr)
  /-- `VABS`: Clears the sign bit. (R222) -/
  | vabs (h : Hdr) (f : Rrr)
  /-- `VNEG`: Inverts the sign bit. (R222) -/
  | vneg (h : Hdr) (f : Rrr)
  /-- `VCMP`: Compares elements into a predicate register. (R224) -/
  | vcmp (h : Hdr) (f : Rrr)
  /-- `VSEL`: Selects elements by predicate. (R222) -/
  | vsel (h : Hdr) (f : Rrr)
  /-- `VCVT`: Converts elements between formats under a rounding mode. (R226) -/
  | vcvt (h : Hdr) (f : Rrr)
  /-- `VQNT`: Quantises FP32 elements into raw queue entries. (R227) -/
  | vqnt (h : Hdr) (f : Rrr)
  /-- `KOP`: Logical operation on predicate registers. (R228) -/
  | kop (h : Hdr) (f : Rrr)
  /-- `KSET`: Sets a predicate register to zero, ones or the shape. (R228) -/
  | kset (h : Hdr) (f : Rrr)
  /-- `KMOV`: Moves predicate bits between registers or queues. (R228) -/
  | kmov (h : Hdr) (f : Rrr)
  /-- `VIADD`: Integer add. (R225) -/
  | viadd (h : Hdr) (f : Rrr)
  /-- `VISUB`: Integer subtract. (R225) -/
  | visub (h : Hdr) (f : Rrr)
  /-- `VIMUL`: Integer multiply, low bits. (R225) -/
  | vimul (h : Hdr) (f : Rrr)
  /-- `VAND`: Bitwise AND. (R225) -/
  | vand (h : Hdr) (f : Rrr)
  /-- `VOR`: Bitwise OR. (R225) -/
  | vor (h : Hdr) (f : Rrr)
  /-- `VXOR`: Bitwise XOR. (R225) -/
  | vxor (h : Hdr) (f : Rrr)
  /-- `VSHL`: Shift left. (R225) -/
  | vshl (h : Hdr) (f : Rrr)
  /-- `VSHR`: Logical shift right. (R225) -/
  | vshr (h : Hdr) (f : Rrr)
  /-- `VSAR`: Arithmetic shift right. (R225) -/
  | vsar (h : Hdr) (f : Rrr)
  /-- `VIMIN`: Integer minimum. (R225) -/
  | vimin (h : Hdr) (f : Rrr)
  /-- `VIMAX`: Integer maximum. (R225) -/
  | vimax (h : Hdr) (f : Rrr)
  /-- `VRCP`: Reciprocal, fast or accurate grade. (R231) -/
  | vrcp (h : Hdr) (f : Rrr)
  /-- `VRSQ`: Reciprocal square root. (R231) -/
  | vrsq (h : Hdr) (f : Rrr)
  /-- `VSQRT`: Square root. (R231) -/
  | vsqrt (h : Hdr) (f : Rrr)
  /-- `VEXP2`: Base-2 exponential. (R231) -/
  | vexp2 (h : Hdr) (f : Rrr)
  /-- `VLOG2`: Base-2 logarithm. (R231) -/
  | vlog2 (h : Hdr) (f : Rrr)
  /-- `VSIN`: Sine. (R231) -/
  | vsin (h : Hdr) (f : Rrr)
  /-- `VCOS`: Cosine. (R231) -/
  | vcos (h : Hdr) (f : Rrr)
  /-- `VTANH`: Hyperbolic tangent. (R231) -/
  | vtanh (h : Hdr) (f : Rrr)
  /-- `VSIGM`: Logistic sigmoid. (R231) -/
  | vsigm (h : Hdr) (f : Rrr)
  /-- `VRSUM`: Sums each row in a pairwise tree. (R236) -/
  | vrsum (h : Hdr) (f : Rrr)
  /-- `VRMAX`: Maximum of each row. (R236) -/
  | vrmax (h : Hdr) (f : Rrr)
  /-- `VCSUM`: Sums each column. (R236) -/
  | vcsum (h : Hdr) (f : Rrr)
  /-- `VCMAX`: Maximum of each column. (R236) -/
  | vcmax (h : Hdr) (f : Rrr)
  /-- `VBCAST`: Broadcasts an element, row or column. (R237) -/
  | vbcast (h : Hdr) (f : Rrr)
  /-- `VMOV`: Copies element bits. (R237) -/
  | vmov (h : Hdr) (f : Rrr)
  /-- `VQPOP`: Pops one entry into a register piece. (R238) -/
  | vqpop (h : Hdr) (f : Rrr)
  /-- `VQPUSH`: Pushes a register piece as an entry. (R238) -/
  | vqpush (h : Hdr) (f : Rrr)
  /-- `TMOV.R`: Writes tile rows from a vector. (R239) -/
  | tmovR (h : Hdr) (f : Rrr)
  /-- `TMOV.C`: Reads tile columns into a vector. (R239) -/
  | tmovC (h : Hdr) (f : Rrr)
  /-- `VRNG`: Computes the counter hash. (R241) -/
  | vrng (h : Hdr) (f : Rrr)
  /-- `VIOTA`: Writes base + row × RS + col × CS. (R240) -/
  | viota (h : Hdr) (f : Rrr)
  /-- `VSHAPE`: Sets the vector shape. (R242) -/
  | vshape (h : Hdr) (f : Rri)
  /-- `VALLOC`: Grows the vector register allotment. (R219) -/
  | valloc (h : Hdr) (f : Rri)
  /-- `VSHRINK`: Shrinks the vector register allotment. (R219) -/
  | vshrink (h : Hdr) (f : Rri)
  /-- `VGATE`: Sets a vector bank on, to retention or off. (R220) -/
  | vgate (h : Hdr) (f : Rri)
  /-- `MX.LDW`: Loads the standby weight set from the weight buffer. (R251) -/
  | mxLdw (h : Hdr) (f : Mx)
  /-- `MX.MAC`: Streams A rows through the array into an accumulator bank. (R254) -/
  | mxMac (h : Hdr) (f : Mx)
  /-- `MX.ZERO`: Zeroes rows and panels of a bank. (R257) -/
  | mxZero (h : Hdr) (f : Mx)
  /-- `MX.DRAIN`: Converts or quantises bank contents to memory or a queue. (R259) -/
  | mxDrain (h : Hdr) (f : Mx)
  /-- `MX.SWAP`: Exchanges the bank names. (R262) -/
  | mxSwap (h : Hdr) (f : Mx)
  /-- `MX.FUSE.on`: Fuses the quad's arrays. (R263) -/
  | mxFuseOn (h : Hdr) (f : Mx)
  /-- `MX.FUSE.off`: Unfuses the quad's arrays. (R263) -/
  | mxFuseOff (h : Hdr) (f : Mx)
  /-- `MX.TEST.run`: Tests all sub-arrays and pushes the failure bitmap. (R265) -/
  | mxTestRun (h : Hdr) (f : Mx)
  /-- `MX.TEST.fatal`: Sets the fatal rattle policy. (R265) -/
  | mxTestFatal (h : Hdr) (f : Mx)
  /-- `MX.TEST.report`: Sets the report rattle policy. (R265) -/
  | mxTestReport (h : Hdr) (f : Mx)
  /-- `MX.EVT`: Pushes a bank's ASTAT, optionally clearing it. (R266) -/
  | mxEvt (h : Hdr) (f : Mx)
  /-- `MX.CB`: Fills codebook entries from a queue. (R267) -/
  | mxCb (h : Hdr) (f : Mx)
  /-- `MX.FILL`: Fills or adds queue entries into a bank. (R257) -/
  | mxFill (h : Hdr) (f : Mx)
  /-- `NOP`: Does nothing. (R271) -/
  | nop (h : Hdr) (f : Sys)
  /-- `WAIT.CY`: Occupies the stream for n tc. (R271) -/
  | waitCy (h : Hdr) (f : Sys)
  /-- `WAIT.TIME`: Holds until the timebase reaches a target. (R272) -/
  | waitTime (h : Hdr) (f : Sys)
  /-- `RDV`: A rendezvous joining point of every member stream. (R273) -/
  | rdv (h : Hdr) (f : Sys)
  /-- `RDV.end`: The closing rendezvous: waits for outstanding accesses, then ends the kernel. (R273) -/
  | rdvEnd (h : Hdr) (f : Sys)
  /-- `PHASE`: A phase boundary publishing phased stores within the scope unit. (R276) -/
  | phase (h : Hdr) (f : Sys)
  /-- `FENCE`: Orders the stream's own phased accesses. (R277) -/
  | fence (h : Hdr) (f : Sys)
  /-- `BAR`: A barrier joining point over each scope unit. (R274) -/
  | bar (h : Hdr) (f : Sys)
  /-- `CURTAIN`: A curtain: settle, then decide continue, dispatch or pre-emption. (R278) -/
  | curtain (h : Hdr) (f : Sys)
  /-- `YIELD`: Sets the cohort's yield mark. (R279) -/
  | yield (h : Hdr) (f : Sys)
  /-- `CUR.SET`: Sets the cursors from an entry or one cursor from an immediate. (R282) -/
  | curSet (h : Hdr) (f : Sys)
  /-- `CUR.GET.cur`: Pushes the four cursors. (R282) -/
  | curGetCur (h : Hdr) (f : Sys)
  /-- `CUR.GET.trap`: Reads a word of the delivered-trap register. (R281) -/
  | curGetTrap (h : Hdr) (f : Sys)
  /-- `RND.OPEN`: Opens the next write round of a group slot. (R285) -/
  | rndOpen (h : Hdr) (f : Sys)
  /-- `RND.PREP`: Phase 1: holds until the deltas are durable or the round is doomed. (R286) -/
  | rndPrep (h : Hdr) (f : Sys)
  /-- `RND.COMMIT`: Phase 2: holds until the round is settled and returns the outcome. (R287) -/
  | rndCommit (h : Hdr) (f : Sys)
  /-- `RND.ABORT`: Dooms the round and restores the logged bytes. (R288) -/
  | rndAbort (h : Hdr) (f : Sys)
  /-- `PROT.MARK`: Marks or unmarks a range as LOGGED or PROTECTED. (R284) -/
  | protMark (h : Hdr) (f : Sys)
  /-- `STAT.SEAL`: Schedules a seal of a record at its seal point. (R290) -/
  | statSeal (h : Hdr) (f : Sys)
  /-- `STAT.RD`: Reads a record's composite image. (R291) -/
  | statRd (h : Hdr) (f : Sys)
  /-- `STAT.CLR`: Schedules a clear of a record at its clear point. (R290) -/
  | statClr (h : Hdr) (f : Sys)
  /-- `PWR.ACQ`: Acquires a power lease, holding until the grant. (R292) -/
  | pwrAcq (h : Hdr) (f : Sys)
  /-- `PWR.REL`: Releases the power lease. (R292) -/
  | pwrRel (h : Hdr) (f : Sys)
  /-- `COLL`: Starts a collective from a descriptor. (R293) -/
  | coll (h : Hdr) (f : Sys)
  /-- `COLL.WAIT`: Holds until the collective is complete. (R295) -/
  | collWait (h : Hdr) (f : Sys)
  /-- `TRAP`: Records a software trap for the next curtain. (R280) -/
  | trap (h : Hdr) (f : Sys)
  /-- `LAUNCH`: Loads a new cohort into a FREE slot. (R335) -/
  | launch (h : Hdr) (f : Sys)
  /-- `LAUNCH.resume`: Restores a SAVED cohort on a new placement. (R350) -/
  | launchResume (h : Hdr) (f : Sys)
  /-- `TT.START`: Starts a LOADED cohort at once. (R336) -/
  | ttStart (h : Hdr) (f : Sys)
  /-- `TT.START.at`: Starts a LOADED cohort at a timebase target. (R336) -/
  | ttStartAt (h : Hdr) (f : Sys)
  /-- `TLBI`: Drops the translations of one page of a slot. (R361) -/
  | tlbi (h : Hdr) (f : Sys)
  /-- `TLBI.asid`: Drops every translation of a slot. (R361) -/
  | tlbiAsid (h : Hdr) (f : Sys)
  /-- `TLBI.all`: Drops every translation. (R361) -/
  | tlbiAll (h : Hdr) (f : Sys)
  /-- A TLBI completes once every access that used a dropped entry is done. (R361) -/
  | tlbiComplete (sv : Nat) (slot : Nat) (page : TlbScope)
  /-- `PCSR`: Reads a privileged register. (R338) -/
  | pcsrRead (h : Hdr) (f : Sys)
  /-- `PCSR.w`: Writes a privileged register. (R338) -/
  | pcsrWrite (h : Hdr) (f : Sys)
  /-- `HOLD`: Sends a supervisor platform hold naming the cohort's current tc + H. (R337) -/
  | holdRequest (h : Hdr) (f : Sys)
  /-- `HOLD.rel`: Clears the supervisor hold cause. (R337) -/
  | holdRel (h : Hdr) (f : Sys)
  /-- `SVRET`: Returns from a supervisor event and allows the next one. (R341) -/
  | svret (h : Hdr) (f : Sys)
  /-- Once every member core is loaded, LAUNCH with FN 0 completes, sets the slot as R21 gives, copies the initial data and enters LOADED. (R335) -/
  | launchComplete (slot : Nat)
  /-- A power-level grant is made for a pending PWR.ACQ, or for the fresh lease of a restore, which clears its hold cause and starts the lease. (R292) -/
  | leaseGrant (slot : Nat)
  /-- An adaptive-clock hold tick sends a platform hold request naming the cohort's current tc + H. (R35) -/
  | adaptiveClockHoldTick (slot : Nat)
  /-- A reset of one partition, which among other effects unfreezes the engines frozen in it. (R390) -/
  | partitionReset (part : Nat)
  /-- The supervisor releases a STOPPED or ENDED slot, freeing its grants and records and returning it to FREE. (R333) -/
  | slotRelease (slot : Nat)
  /-- A host CXL.mem write to device memory that no WATCH register names is performed as an outside write, which phase boundaries admit under R130. (R387) -/
  | cxlMemHostWrite (target : HostTarget) (data : List Byte)
  /-- On each clock on which the cohort is not held, it executes one tc and its timetable counter advances by one. (R3) -/
  | tcAdvance
  /-- A 1 ms averaging window ends, and a quad over 1.05 times its budget records trap 0x0000_0003. (R397) -/
  | powerWindow
  /-- Reset starts the boot ROM: STARTS check, verification, configuration, cold start and firmware start. (R391) -/
  | reset
  /-- Twenty minutes pass without reaching −10 °C, ending the start with reason 0x04. (R395) -/
  | selfHeatTimeout
  /-- Umaesque does not write BOOTOK within 10 s, ending the start with reason 0x07. (R391) -/
  | bootokTimeout
  /-- The mailbox IMAGE command stages a firmware image. (R394) -/
  | image
  /-- A signed mailbox RESTART clears STARTS and resets the module. (R392) -/
  | restart
  /-- The mailbox ATTEST command returns a signed report of the nonce and the measurements. (R393) -/
  | attest
  /-- The mailbox STATUS command returns reasons, STARTS, nonce, freeze log and zone states. (R394) -/
  | status
  /-- The mailbox UNFREEZE command releases one frozen master. (R394) -/
  | unfreeze
  /-- The mailbox CONFIG command stages a platform configuration for the next reset. (R394) -/
  | config
  /-- Any other mailbox opcode returns the status unsupported. (R394) -/
  | mailboxUnsupported
  /-- Umaesque writes BOOTOK through the mailbox, which clears STARTS to 0 and ends the start sequence successfully. (R391) -/
  | bootok
  deriving DecidableEq, Repr

end Sys2Proof
end

