-- ==== Sys2Proof/WellFormed.lean ====
section
/-! DEFINITION. Which terms of `Instr` an instruction word can spell. Where one opcode carries several rows of
spec/opcode_table.json, a field tells them apart (R170, R173, R178, R219, R245, R269, R334, R361), and a term whose
field names another row is ill-formed. Whether a stream accepts the word is R144 (Sys2Proof/Decode.lean). -/

namespace Sys2Proof

/-- The fields of the term name its own row. -/
def Instr.wf : Instr → Bool
  | .spcastS _ f => !f.md.getLsbD 4
  | .spcastG _ f => f.md.getLsbD 4
  | .hstat _ f => !f.imm.getLsbD 12
  | .hstatOff _ f => f.imm.getLsbD 12
  | .flagsClear _ f => f.csr == 0
  | .selWrite _ f => f.csr == 2
  | .csrw _ f => f.csr != 0 && f.csr != 2
  | .valloc _ f => !f.imm.getLsbD 6
  | .vshrink _ f => f.imm.getLsbD 6
  | .mxFuseOn _ f => f.fn.getLsbD 0
  | .mxFuseOff _ f => !f.fn.getLsbD 0
  | .mxTestFatal _ f => f.op2 == 1
  | .mxTestReport _ f => f.op2 == 2
  | .mxTestRun _ f => f.op2 != 1 && f.op2 != 2
  | .rdvEnd _ f => f.fn == 1
  | .rdv _ f => f.fn != 1
  | .curGetTrap _ f => f.fn == 1
  | .curGetCur _ f => f.fn != 1
  | .launchResume _ f => f.fn == 1
  | .launch _ f => f.fn != 1
  | .ttStartAt _ f => f.fn == 1
  | .ttStart _ f => f.fn != 1
  | .tlbiAsid _ f => f.fn == 1
  | .tlbiAll _ f => f.fn == 2
  | .tlbi _ f => f.fn != 1 && f.fn != 2
  | .pcsrWrite _ f => f.fn == 1
  | .pcsrRead _ f => f.fn != 1
  | .holdRel _ f => f.fn == 1
  | .holdRequest _ f => f.fn != 1
  | .add _ _ | .sub _ _ | .mul _ _ | .mulh _ _ | .div _ _ | .rem _ _ | .and _ _ | .or _ _ | .xor _ _ | .andn _ _
  | .shl _ _ | .shr _ _ | .sar _ _ | .min _ _ | .max _ _ | .cmp _ _ | .sel _ _ | .clz _ _ | .popc _ _
  | .addi _ _ | .li _ _ | .lih _ _ | .ext _ _ | .ins _ _ | .jmp _ _ | .call _ _ | .ret _ _ | .loop _ _
  | .lring _ _ | .sptest _ _ | .padd _ _ | .hld _ _ | .hst _ _ | .hset _ _ | .hget _ _ | .hcpy _ _ | .lds _ _
  | .sts _ _ | .fpush _ _ | .rdctr _ _ | .csrr _ _ | .ldQ _ _ | .ldV _ _ | .ldT _ _ | .ldTr _ _ | .ldG _ _
  | .ldW _ _ | .ldCb _ _ | .ldBc _ _ | .stV _ _ | .stQ _ _ | .stT _ _ | .stS _ _ | .stQnt _ _ | .stUpd _ _
  | .stX _ _ | .stMc _ _ | .atom _ _ | .bobjArm _ _ | .bobjWait _ _ | .vadd _ _ | .vsub _ _ | .vmul _ _
  | .vfma _ _ | .vmin _ _ | .vmax _ _ | .vabs _ _ | .vneg _ _ | .vcmp _ _ | .vsel _ _ | .vcvt _ _ | .vqnt _ _
  | .kop _ _ | .kset _ _ | .kmov _ _ | .viadd _ _ | .visub _ _ | .vimul _ _ | .vand _ _ | .vor _ _ | .vxor _ _
  | .vshl _ _ | .vshr _ _ | .vsar _ _ | .vimin _ _ | .vimax _ _ | .vrcp _ _ | .vrsq _ _ | .vsqrt _ _
  | .vexp2 _ _ | .vlog2 _ _ | .vsin _ _ | .vcos _ _ | .vtanh _ _ | .vsigm _ _ | .vrsum _ _ | .vrmax _ _
  | .vcsum _ _ | .vcmax _ _ | .vbcast _ _ | .vmov _ _ | .vqpop _ _ | .vqpush _ _ | .tmovR _ _ | .tmovC _ _
  | .vrng _ _ | .viota _ _ | .vshape _ _ | .vgate _ _ | .mxLdw _ _ | .mxMac _ _ | .mxZero _ _ | .mxDrain _ _
  | .mxSwap _ _ | .mxEvt _ _ | .mxCb _ _ | .mxFill _ _ | .nop _ _ | .waitCy _ _ | .waitTime _ _ | .phase _ _
  | .fence _ _ | .bar _ _ | .curtain _ _ | .yield _ _ | .curSet _ _ | .rndOpen _ _ | .rndPrep _ _
  | .rndCommit _ _ | .rndAbort _ _ | .protMark _ _ | .statSeal _ _ | .statRd _ _ | .statClr _ _ | .pwrAcq _ _
  | .pwrRel _ _ | .coll _ _ | .collWait _ _ | .trap _ _ | .svret _ _ | .tcAdvance | .holdRelease _
  | .holdWatchdogExpiry _ | .curtainDistanceFault _ | .fatalStop _ | .phasedReplyArrival _ | .storePerformed _
  | .atomPerformed _ | .updatePacket _ _ _ | .sealedViewArrival _ | .bobjByteCount _ _ _ | .saveComplete _
  | .restoreComplete _ | .yieldDeadlineExpiry _ | .leaseExpiry _ _ | .packageJoinMessage _ _ _ _
  | .exchangeDeadlineReport _ _ | .collComplete _ _ _ | .faultLogAppend _ _ | .translationWalk _ _ _
  | .migrationLinePull _ _ _ | .migrationLineMove _ _ | .uncorrectableError _ | .linkLoss _ _
  | .capViolation _ _ _ | .supervisorEvent _ | .hostRequestSubmit _ _ | .ttStartAtTime _ | .rattle _ _
  | .afenceRetestDone _ _ _ | .groupConfig _ _ _ | .delta _ _ _ _ _ | .deltaAck _ _ | .prep _ _ _ | .dec _ _
  | .decAck _ _ | .out _ _ | .abt _ _ | .qry _ _ _ | .ans _ _ _ | .memberLost _ _ | .memberLinkTimeout _ _
  | .rebuildComplete _ _ | .protectedReadRepair _ _ | .eyeMonitorMeasure _ _ _ _ | .retrainSliceStart _ _
  | .retrainSliceEnd _ _ | .thermalSensorRead _ _ _ | .zoneChange _ | .powerWindow | .droopDetect _
  | .droopClear _ | .inrushRequest _ | .inrushComplete _ | .frequencyChangeDone _ _ | .reset | .selfHeatTimeout
  | .bootokTimeout | .image | .restart | .attest | .status | .unfreeze | .config | .mailboxUnsupported
  | .privRegisterWrite _ _ _ _ | .curDistWrite _ _ | .polite _ _ | .kill _ | .ceilWrite _ _ _ | .xlrespRetry _ _
  | .xlrespFail _ _ | .migctlStart _ _ _ | .eyecmdRetrain _ | .eyecmdRepair _ | .eyecmdClear _ | .thrmWrite _ _
  | .afenceClear _ _ _ | .gcfgEnable _ _ _ | .gcfgDisable _ _ _ | .tlbiComplete _ _ _ | .bootok
  | .launchComplete _ | .leaseGrant _ | .adaptiveClockHoldTick _ | .partitionReset _ | .slotRelease _
  | .cxlMemHostWrite _ _ => true

end Sys2Proof
end

