-- ==== Sys2Proof/Decode.lean ====
section
/-! DEFINITION. Decoding and encoding of instruction words (spec/07_encoding.md R137, R140, R142, R143), and the checks
a word passes when it issues (R139, R141, R144 with the field tables of R161 to R181, R221 to R242, R245, R269). -/

namespace Sys2Proof

/-! ## Fields of a word -/

/-- The common fields, bits 63 to 54 (R137). -/
def hdrOf (w : Word) : Hdr := ⟨w.extractLsb' 60 4, w.extractLsb' 54 6⟩

/-- OP, bits 53 to 46 (R137). -/
def opOf (w : Word) : BitVec 8 := w.extractLsb' 46 8

/-- The RRR operands of a word (R140). -/
def rrrOf (w : Word) : Rrr :=
  ⟨w.extractLsb' 44 2, w.extractLsb' 37 7, w.extractLsb' 30 7, w.extractLsb' 23 7, w.extractLsb' 16 7,
    w.extractLsb' 13 3, w.extractLsb' 8 5, w.extractLsb' 0 8⟩

/-- The RRI operands of a word (R140). -/
def rriOf (w : Word) : Rri := ⟨w.extractLsb' 44 2, w.extractLsb' 37 7, w.extractLsb' 30 7, w.extractLsb' 0 30⟩

/-- The RRI-W operands of a word (R140). -/
def rriwOf (w : Word) : Rriw := ⟨w.extractLsb' 44 2, w.extractLsb' 37 7, w.extractLsb' 32 5, w.extractLsb' 0 32⟩

/-- The JL operands of `JMP` and `CALL` (R140). -/
def jmpOf (w : Word) : Jmp := ⟨w.extractLsb' 32 14, w.extractLsb' 0 32⟩

/-- The JL operands of `RET` (R140). -/
def retOf (w : Word) : Ret := ⟨w.extractLsb' 0 46⟩

/-- The JL operands of `LOOP` (R140). -/
def loopOf (w : Word) : Loop :=
  ⟨w.extractLsb' 44 2, w.extractLsb' 42 2, w.extractLsb' 34 8, w.extractLsb' 32 2, w.extractLsb' 0 32⟩

/-- The JL operands of `LRING` (R140). -/
def lringOf (w : Word) : Lring :=
  ⟨w.extractLsb' 44 2, w.extractLsb' 33 11, w.extractLsb' 22 11, w.extractLsb' 11 11, w.extractLsb' 0 11⟩

/-- The MEM operands of a word (R140). -/
def memOf (w : Word) : Mem :=
  ⟨w.extractLsb' 44 2, w.extractLsb' 37 7, w.extractLsb' 33 4, w.extractLsb' 26 7, w.extractLsb' 24 2,
    w.extractLsb' 22 2, w.extractLsb' 21 1, w.extractLsb' 18 3, w.extractLsb' 13 5, w.extractLsb' 0 13⟩

/-- The MX operands of a word (R140). -/
def mxOf (w : Word) : Mx :=
  ⟨w.extractLsb' 44 2, w.extractLsb' 43 1, w.extractLsb' 36 7, w.extractLsb' 29 7, w.extractLsb' 27 2,
    w.extractLsb' 25 2, w.extractLsb' 21 4, w.extractLsb' 13 8, w.extractLsb' 0 13⟩

/-- The SYS operands of a word (R140). -/
def sysOf (w : Word) : Sys :=
  ⟨w.extractLsb' 44 2, w.extractLsb' 41 3, w.extractLsb' 34 7, w.extractLsb' 32 2, w.extractLsb' 0 32⟩

/-! ## Words from fields -/

/-- An RRR word (R137, R140). -/
def rrrWord (h : Hdr) (op : BitVec 8) (f : Rrr) : Word :=
  h.tok ++ h.idle ++ op ++ f.stg ++ f.rd ++ f.ra ++ f.rb ++ f.rc ++ f.kp ++ f.fn ++ f.md

/-- An RRI word (R137, R140). -/
def rriWord (h : Hdr) (op : BitVec 8) (f : Rri) : Word :=
  h.tok ++ h.idle ++ op ++ f.stg ++ f.rd ++ f.ra ++ f.imm

/-- An RRI-W word (R137, R140). -/
def rriwWord (h : Hdr) (op : BitVec 8) (f : Rriw) : Word :=
  h.tok ++ h.idle ++ op ++ f.stg ++ f.rd ++ f.zero ++ f.imm

/-- A `JMP` or `CALL` word (R137, R140). -/
def jmpWord (h : Hdr) (op : BitVec 8) (f : Jmp) : Word := h.tok ++ h.idle ++ op ++ f.zero ++ f.off

/-- A `RET` word (R137, R140). -/
def retWord (h : Hdr) (op : BitVec 8) (f : Ret) : Word := h.tok ++ h.idle ++ op ++ f.zero

/-- A `LOOP` word (R137, R140). -/
def loopWord (h : Hdr) (op : BitVec 8) (f : Loop) : Word :=
  h.tok ++ h.idle ++ op ++ f.z1 ++ f.csrc ++ f.blen ++ f.z2 ++ f.count

/-- An `LRING` word (R137, R140). -/
def lringWord (h : Hdr) (op : BitVec 8) (f : Lring) : Word :=
  h.tok ++ h.idle ++ op ++ f.d ++ f.rng0 ++ f.rng1 ++ f.rng2 ++ f.rng3

/-- A MEM word (R137, R140). -/
def memWord (h : Hdr) (op : BitVec 8) (f : Mem) : Word :=
  h.tok ++ h.idle ++ op ++ f.stg ++ f.rd ++ f.hnd ++ f.rx ++ f.lcl ++ f.iw ++ f.isg ++ f.isc ++ f.fn ++ f.imm

/-- An MX word (R137, R140). -/
def mxWord (h : Hdr) (op : BitVec 8) (f : Mx) : Word :=
  h.tok ++ h.idle ++ op ++ f.stg ++ f.bank ++ f.row ++ f.nrow ++ f.pan ++ f.npan ++ f.qsrc ++ f.wline ++ f.fn

/-- A SYS word (R137, R140). -/
def sysWord (h : Hdr) (op : BitVec 8) (f : Sys) : Word :=
  h.tok ++ h.idle ++ op ++ f.stg ++ f.scope ++ f.ra ++ f.fn ++ f.imm

/-! ## Decode and encode -/

/-- Why bytes are not an instruction: an unassigned opcode (R143, detail 0x10 of R144), or fewer than eight bytes. -/
inductive DecodeError where
  | unassigned (op : BitVec 8)
  | truncated
  deriving DecidableEq, Repr

/-- The row that an opcode and its discriminating field name (R142); none for an opcode of R143. -/
def decodeOp (op : Nat) (w : Word) : Option Instr :=
  match op with
  | 0x01 => some (.add (hdrOf w) (rrrOf w))
  | 0x02 => some (.sub (hdrOf w) (rrrOf w))
  | 0x03 => some (.mul (hdrOf w) (rrrOf w))
  | 0x04 => some (.mulh (hdrOf w) (rrrOf w))
  | 0x05 => some (.div (hdrOf w) (rrrOf w))
  | 0x06 => some (.rem (hdrOf w) (rrrOf w))
  | 0x07 => some (.and (hdrOf w) (rrrOf w))
  | 0x08 => some (.or (hdrOf w) (rrrOf w))
  | 0x09 => some (.xor (hdrOf w) (rrrOf w))
  | 0x0A => some (.andn (hdrOf w) (rrrOf w))
  | 0x0B => some (.shl (hdrOf w) (rrrOf w))
  | 0x0C => some (.shr (hdrOf w) (rrrOf w))
  | 0x0D => some (.sar (hdrOf w) (rrrOf w))
  | 0x0E => some (.min (hdrOf w) (rrrOf w))
  | 0x0F => some (.max (hdrOf w) (rrrOf w))
  | 0x10 => some (.cmp (hdrOf w) (rrrOf w))
  | 0x11 => some (.sel (hdrOf w) (rrrOf w))
  | 0x12 => some (.clz (hdrOf w) (rrrOf w))
  | 0x13 => some (.popc (hdrOf w) (rrrOf w))
  | 0x14 => some (.addi (hdrOf w) (rriOf w))
  | 0x15 => some (.li (hdrOf w) (rriwOf w))
  | 0x16 => some (.lih (hdrOf w) (rriwOf w))
  | 0x17 => some (.ext (hdrOf w) (rriOf w))
  | 0x18 => some (.ins (hdrOf w) (rriOf w))
  | 0x20 => some (.jmp (hdrOf w) (jmpOf w))
  | 0x21 => some (.call (hdrOf w) (jmpOf w))
  | 0x22 => some (.ret (hdrOf w) (retOf w))
  | 0x23 => some (.loop (hdrOf w) (loopOf w))
  | 0x24 => some (.lring (hdrOf w) (lringOf w))
  | 0x28 => some (.sptest (hdrOf w) (rrrOf w))
  | 0x29 => let f := rrrOf w
    if !f.md.getLsbD 4 then some (.spcastS (hdrOf w) f) else some (.spcastG (hdrOf w) f)
  | 0x2A => some (.padd (hdrOf w) (rrrOf w))
  | 0x30 => some (.hld (hdrOf w) (memOf w))
  | 0x31 => some (.hst (hdrOf w) (memOf w))
  | 0x32 => some (.hset (hdrOf w) (rrrOf w))
  | 0x33 => some (.hget (hdrOf w) (rrrOf w))
  | 0x34 => let f := rriOf w
    if !f.imm.getLsbD 12 then some (.hstat (hdrOf w) f) else some (.hstatOff (hdrOf w) f)
  | 0x35 => some (.hcpy (hdrOf w) (rrrOf w))
  | 0x38 => some (.lds (hdrOf w) (memOf w))
  | 0x39 => some (.sts (hdrOf w) (memOf w))
  | 0x3A => some (.fpush (hdrOf w) (rrrOf w))
  | 0x3C => some (.rdctr (hdrOf w) (rriOf w))
  | 0x3D => some (.csrr (hdrOf w) (rriOf w))
  | 0x3E => let f := rriOf w
    if f.csr == 0 then some (.flagsClear (hdrOf w) f) else if f.csr == 2 then some (.selWrite (hdrOf w) f) else some (.csrw (hdrOf w) f)
  | 0x40 => some (.ldQ (hdrOf w) (memOf w))
  | 0x41 => some (.ldV (hdrOf w) (memOf w))
  | 0x42 => some (.ldT (hdrOf w) (memOf w))
  | 0x43 => some (.ldTr (hdrOf w) (memOf w))
  | 0x44 => some (.ldG (hdrOf w) (memOf w))
  | 0x45 => some (.ldW (hdrOf w) (memOf w))
  | 0x46 => some (.ldCb (hdrOf w) (memOf w))
  | 0x47 => some (.ldBc (hdrOf w) (memOf w))
  | 0x60 => some (.stV (hdrOf w) (memOf w))
  | 0x61 => some (.stQ (hdrOf w) (memOf w))
  | 0x62 => some (.stT (hdrOf w) (memOf w))
  | 0x63 => some (.stS (hdrOf w) (memOf w))
  | 0x64 => some (.stQnt (hdrOf w) (memOf w))
  | 0x65 => some (.stUpd (hdrOf w) (memOf w))
  | 0x66 => some (.stX (hdrOf w) (memOf w))
  | 0x67 => some (.stMc (hdrOf w) (memOf w))
  | 0x68 => some (.atom (hdrOf w) (memOf w))
  | 0x69 => some (.bobjArm (hdrOf w) (memOf w))
  | 0x6A => some (.bobjWait (hdrOf w) (memOf w))
  | 0x80 => some (.vadd (hdrOf w) (rrrOf w))
  | 0x81 => some (.vsub (hdrOf w) (rrrOf w))
  | 0x82 => some (.vmul (hdrOf w) (rrrOf w))
  | 0x83 => some (.vfma (hdrOf w) (rrrOf w))
  | 0x84 => some (.vmin (hdrOf w) (rrrOf w))
  | 0x85 => some (.vmax (hdrOf w) (rrrOf w))
  | 0x86 => some (.vabs (hdrOf w) (rrrOf w))
  | 0x87 => some (.vneg (hdrOf w) (rrrOf w))
  | 0x88 => some (.vcmp (hdrOf w) (rrrOf w))
  | 0x89 => some (.vsel (hdrOf w) (rrrOf w))
  | 0x8A => some (.vcvt (hdrOf w) (rrrOf w))
  | 0x8B => some (.vqnt (hdrOf w) (rrrOf w))
  | 0x8D => some (.kop (hdrOf w) (rrrOf w))
  | 0x8E => some (.kset (hdrOf w) (rrrOf w))
  | 0x8F => some (.kmov (hdrOf w) (rrrOf w))
  | 0x90 => some (.viadd (hdrOf w) (rrrOf w))
  | 0x91 => some (.visub (hdrOf w) (rrrOf w))
  | 0x92 => some (.vimul (hdrOf w) (rrrOf w))
  | 0x93 => some (.vand (hdrOf w) (rrrOf w))
  | 0x94 => some (.vor (hdrOf w) (rrrOf w))
  | 0x95 => some (.vxor (hdrOf w) (rrrOf w))
  | 0x96 => some (.vshl (hdrOf w) (rrrOf w))
  | 0x97 => some (.vshr (hdrOf w) (rrrOf w))
  | 0x98 => some (.vsar (hdrOf w) (rrrOf w))
  | 0x99 => some (.vimin (hdrOf w) (rrrOf w))
  | 0x9A => some (.vimax (hdrOf w) (rrrOf w))
  | 0xA0 => some (.vrcp (hdrOf w) (rrrOf w))
  | 0xA1 => some (.vrsq (hdrOf w) (rrrOf w))
  | 0xA2 => some (.vsqrt (hdrOf w) (rrrOf w))
  | 0xA3 => some (.vexp2 (hdrOf w) (rrrOf w))
  | 0xA4 => some (.vlog2 (hdrOf w) (rrrOf w))
  | 0xA5 => some (.vsin (hdrOf w) (rrrOf w))
  | 0xA6 => some (.vcos (hdrOf w) (rrrOf w))
  | 0xA7 => some (.vtanh (hdrOf w) (rrrOf w))
  | 0xA8 => some (.vsigm (hdrOf w) (rrrOf w))
  | 0xB0 => some (.vrsum (hdrOf w) (rrrOf w))
  | 0xB1 => some (.vrmax (hdrOf w) (rrrOf w))
  | 0xB2 => some (.vcsum (hdrOf w) (rrrOf w))
  | 0xB3 => some (.vcmax (hdrOf w) (rrrOf w))
  | 0xB4 => some (.vbcast (hdrOf w) (rrrOf w))
  | 0xB5 => some (.vmov (hdrOf w) (rrrOf w))
  | 0xB6 => some (.vqpop (hdrOf w) (rrrOf w))
  | 0xB7 => some (.vqpush (hdrOf w) (rrrOf w))
  | 0xB8 => some (.tmovR (hdrOf w) (rrrOf w))
  | 0xB9 => some (.tmovC (hdrOf w) (rrrOf w))
  | 0xBA => some (.vrng (hdrOf w) (rrrOf w))
  | 0xBB => some (.viota (hdrOf w) (rrrOf w))
  | 0xBC => some (.vshape (hdrOf w) (rriOf w))
  | 0xBD => let f := rriOf w
    if !f.imm.getLsbD 6 then some (.valloc (hdrOf w) f) else some (.vshrink (hdrOf w) f)
  | 0xBE => some (.vgate (hdrOf w) (rriOf w))
  | 0xC0 => some (.mxLdw (hdrOf w) (mxOf w))
  | 0xC1 => some (.mxMac (hdrOf w) (mxOf w))
  | 0xC2 => some (.mxZero (hdrOf w) (mxOf w))
  | 0xC3 => some (.mxDrain (hdrOf w) (mxOf w))
  | 0xC4 => some (.mxSwap (hdrOf w) (mxOf w))
  | 0xC5 => let f := mxOf w
    if f.fn.getLsbD 0 then some (.mxFuseOn (hdrOf w) f) else some (.mxFuseOff (hdrOf w) f)
  | 0xC6 => let f := mxOf w
    if f.op2 == 1 then some (.mxTestFatal (hdrOf w) f) else if f.op2 == 2 then some (.mxTestReport (hdrOf w) f) else some (.mxTestRun (hdrOf w) f)
  | 0xC7 => some (.mxEvt (hdrOf w) (mxOf w))
  | 0xC8 => some (.mxCb (hdrOf w) (mxOf w))
  | 0xC9 => some (.mxFill (hdrOf w) (mxOf w))
  | 0xE0 => some (.nop (hdrOf w) (sysOf w))
  | 0xE1 => some (.waitCy (hdrOf w) (sysOf w))
  | 0xE2 => some (.waitTime (hdrOf w) (sysOf w))
  | 0xE3 => let f := sysOf w
    if f.fn == 1 then some (.rdvEnd (hdrOf w) f) else some (.rdv (hdrOf w) f)
  | 0xE4 => some (.phase (hdrOf w) (sysOf w))
  | 0xE5 => some (.fence (hdrOf w) (sysOf w))
  | 0xE6 => some (.bar (hdrOf w) (sysOf w))
  | 0xE7 => some (.curtain (hdrOf w) (sysOf w))
  | 0xE8 => some (.yield (hdrOf w) (sysOf w))
  | 0xE9 => some (.curSet (hdrOf w) (sysOf w))
  | 0xEA => let f := sysOf w
    if f.fn == 1 then some (.curGetTrap (hdrOf w) f) else some (.curGetCur (hdrOf w) f)
  | 0xEB => some (.rndOpen (hdrOf w) (sysOf w))
  | 0xEC => some (.rndPrep (hdrOf w) (sysOf w))
  | 0xED => some (.rndCommit (hdrOf w) (sysOf w))
  | 0xEE => some (.rndAbort (hdrOf w) (sysOf w))
  | 0xEF => some (.protMark (hdrOf w) (sysOf w))
  | 0xF0 => some (.statSeal (hdrOf w) (sysOf w))
  | 0xF1 => some (.statRd (hdrOf w) (sysOf w))
  | 0xF2 => some (.statClr (hdrOf w) (sysOf w))
  | 0xF3 => some (.pwrAcq (hdrOf w) (sysOf w))
  | 0xF4 => some (.pwrRel (hdrOf w) (sysOf w))
  | 0xF5 => some (.coll (hdrOf w) (sysOf w))
  | 0xF6 => some (.collWait (hdrOf w) (sysOf w))
  | 0xF7 => some (.trap (hdrOf w) (sysOf w))
  | 0xF8 => let f := sysOf w
    if f.fn == 1 then some (.launchResume (hdrOf w) f) else some (.launch (hdrOf w) f)
  | 0xF9 => let f := sysOf w
    if f.fn == 1 then some (.ttStartAt (hdrOf w) f) else some (.ttStart (hdrOf w) f)
  | 0xFA => let f := sysOf w
    if f.fn == 1 then some (.tlbiAsid (hdrOf w) f) else if f.fn == 2 then some (.tlbiAll (hdrOf w) f) else some (.tlbi (hdrOf w) f)
  | 0xFB => let f := sysOf w
    if f.fn == 1 then some (.pcsrWrite (hdrOf w) f) else some (.pcsrRead (hdrOf w) f)
  | 0xFC => let f := sysOf w
    if f.fn == 1 then some (.holdRel (hdrOf w) f) else some (.holdRequest (hdrOf w) f)
  | 0xFD => some (.svret (hdrOf w) (sysOf w))
  | _ => none

/-- Decodes one instruction word. -/
def decodeWord (w : Word) : Except DecodeError Instr :=
  match decodeOp (opOf w).toNat w with
  | some i => .ok i
  | none => .error (.unassigned (opOf w))

/-- The little-endian word of eight bytes (R137). -/
def wordOfBytes (b0 b1 b2 b3 b4 b5 b6 b7 : Byte) : Word := b7 ++ b6 ++ b5 ++ b4 ++ b3 ++ b2 ++ b1 ++ b0

/-- Decodes the first instruction of a byte string, stored little-endian, and gives the rest (R137). -/
def decode : List Byte → Except DecodeError (Instr × List Byte)
  | b0 :: b1 :: b2 :: b3 :: b4 :: b5 :: b6 :: b7 :: rest =>
    match decodeWord (wordOfBytes b0 b1 b2 b3 b4 b5 b6 b7) with
    | .ok i => .ok (i, rest)
    | .error e => .error e
  | _ => .error .truncated

/-- The word of an instruction; none for an event, which no word names. -/
def encode : Instr → Option Word
  | .add h f => some (rrrWord h 0x01 f)
  | .sub h f => some (rrrWord h 0x02 f)
  | .mul h f => some (rrrWord h 0x03 f)
  | .mulh h f => some (rrrWord h 0x04 f)
  | .div h f => some (rrrWord h 0x05 f)
  | .rem h f => some (rrrWord h 0x06 f)
  | .and h f => some (rrrWord h 0x07 f)
  | .or h f => some (rrrWord h 0x08 f)
  | .xor h f => some (rrrWord h 0x09 f)
  | .andn h f => some (rrrWord h 0x0A f)
  | .shl h f => some (rrrWord h 0x0B f)
  | .shr h f => some (rrrWord h 0x0C f)
  | .sar h f => some (rrrWord h 0x0D f)
  | .min h f => some (rrrWord h 0x0E f)
  | .max h f => some (rrrWord h 0x0F f)
  | .cmp h f => some (rrrWord h 0x10 f)
  | .sel h f => some (rrrWord h 0x11 f)
  | .clz h f => some (rrrWord h 0x12 f)
  | .popc h f => some (rrrWord h 0x13 f)
  | .addi h f => some (rriWord h 0x14 f)
  | .li h f => some (rriwWord h 0x15 f)
  | .lih h f => some (rriwWord h 0x16 f)
  | .ext h f => some (rriWord h 0x17 f)
  | .ins h f => some (rriWord h 0x18 f)
  | .jmp h f => some (jmpWord h 0x20 f)
  | .call h f => some (jmpWord h 0x21 f)
  | .ret h f => some (retWord h 0x22 f)
  | .loop h f => some (loopWord h 0x23 f)
  | .lring h f => some (lringWord h 0x24 f)
  | .sptest h f => some (rrrWord h 0x28 f)
  | .spcastS h f => some (rrrWord h 0x29 f)
  | .spcastG h f => some (rrrWord h 0x29 f)
  | .padd h f => some (rrrWord h 0x2A f)
  | .hld h f => some (memWord h 0x30 f)
  | .hst h f => some (memWord h 0x31 f)
  | .hset h f => some (rrrWord h 0x32 f)
  | .hget h f => some (rrrWord h 0x33 f)
  | .hstat h f => some (rriWord h 0x34 f)
  | .hstatOff h f => some (rriWord h 0x34 f)
  | .hcpy h f => some (rrrWord h 0x35 f)
  | .lds h f => some (memWord h 0x38 f)
  | .sts h f => some (memWord h 0x39 f)
  | .fpush h f => some (rrrWord h 0x3A f)
  | .rdctr h f => some (rriWord h 0x3C f)
  | .csrr h f => some (rriWord h 0x3D f)
  | .flagsClear h f => some (rriWord h 0x3E f)
  | .selWrite h f => some (rriWord h 0x3E f)
  | .csrw h f => some (rriWord h 0x3E f)
  | .ldQ h f => some (memWord h 0x40 f)
  | .ldV h f => some (memWord h 0x41 f)
  | .ldT h f => some (memWord h 0x42 f)
  | .ldTr h f => some (memWord h 0x43 f)
  | .ldG h f => some (memWord h 0x44 f)
  | .ldW h f => some (memWord h 0x45 f)
  | .ldCb h f => some (memWord h 0x46 f)
  | .ldBc h f => some (memWord h 0x47 f)
  | .stV h f => some (memWord h 0x60 f)
  | .stQ h f => some (memWord h 0x61 f)
  | .stT h f => some (memWord h 0x62 f)
  | .stS h f => some (memWord h 0x63 f)
  | .stQnt h f => some (memWord h 0x64 f)
  | .stUpd h f => some (memWord h 0x65 f)
  | .stX h f => some (memWord h 0x66 f)
  | .stMc h f => some (memWord h 0x67 f)
  | .atom h f => some (memWord h 0x68 f)
  | .bobjArm h f => some (memWord h 0x69 f)
  | .bobjWait h f => some (memWord h 0x6A f)
  | .vadd h f => some (rrrWord h 0x80 f)
  | .vsub h f => some (rrrWord h 0x81 f)
  | .vmul h f => some (rrrWord h 0x82 f)
  | .vfma h f => some (rrrWord h 0x83 f)
  | .vmin h f => some (rrrWord h 0x84 f)
  | .vmax h f => some (rrrWord h 0x85 f)
  | .vabs h f => some (rrrWord h 0x86 f)
  | .vneg h f => some (rrrWord h 0x87 f)
  | .vcmp h f => some (rrrWord h 0x88 f)
  | .vsel h f => some (rrrWord h 0x89 f)
  | .vcvt h f => some (rrrWord h 0x8A f)
  | .vqnt h f => some (rrrWord h 0x8B f)
  | .kop h f => some (rrrWord h 0x8D f)
  | .kset h f => some (rrrWord h 0x8E f)
  | .kmov h f => some (rrrWord h 0x8F f)
  | .viadd h f => some (rrrWord h 0x90 f)
  | .visub h f => some (rrrWord h 0x91 f)
  | .vimul h f => some (rrrWord h 0x92 f)
  | .vand h f => some (rrrWord h 0x93 f)
  | .vor h f => some (rrrWord h 0x94 f)
  | .vxor h f => some (rrrWord h 0x95 f)
  | .vshl h f => some (rrrWord h 0x96 f)
  | .vshr h f => some (rrrWord h 0x97 f)
  | .vsar h f => some (rrrWord h 0x98 f)
  | .vimin h f => some (rrrWord h 0x99 f)
  | .vimax h f => some (rrrWord h 0x9A f)
  | .vrcp h f => some (rrrWord h 0xA0 f)
  | .vrsq h f => some (rrrWord h 0xA1 f)
  | .vsqrt h f => some (rrrWord h 0xA2 f)
  | .vexp2 h f => some (rrrWord h 0xA3 f)
  | .vlog2 h f => some (rrrWord h 0xA4 f)
  | .vsin h f => some (rrrWord h 0xA5 f)
  | .vcos h f => some (rrrWord h 0xA6 f)
  | .vtanh h f => some (rrrWord h 0xA7 f)
  | .vsigm h f => some (rrrWord h 0xA8 f)
  | .vrsum h f => some (rrrWord h 0xB0 f)
  | .vrmax h f => some (rrrWord h 0xB1 f)
  | .vcsum h f => some (rrrWord h 0xB2 f)
  | .vcmax h f => some (rrrWord h 0xB3 f)
  | .vbcast h f => some (rrrWord h 0xB4 f)
  | .vmov h f => some (rrrWord h 0xB5 f)
  | .vqpop h f => some (rrrWord h 0xB6 f)
  | .vqpush h f => some (rrrWord h 0xB7 f)
  | .tmovR h f => some (rrrWord h 0xB8 f)
  | .tmovC h f => some (rrrWord h 0xB9 f)
  | .vrng h f => some (rrrWord h 0xBA f)
  | .viota h f => some (rrrWord h 0xBB f)
  | .vshape h f => some (rriWord h 0xBC f)
  | .valloc h f => some (rriWord h 0xBD f)
  | .vshrink h f => some (rriWord h 0xBD f)
  | .vgate h f => some (rriWord h 0xBE f)
  | .mxLdw h f => some (mxWord h 0xC0 f)
  | .mxMac h f => some (mxWord h 0xC1 f)
  | .mxZero h f => some (mxWord h 0xC2 f)
  | .mxDrain h f => some (mxWord h 0xC3 f)
  | .mxSwap h f => some (mxWord h 0xC4 f)
  | .mxFuseOn h f => some (mxWord h 0xC5 f)
  | .mxFuseOff h f => some (mxWord h 0xC5 f)
  | .mxTestFatal h f => some (mxWord h 0xC6 f)
  | .mxTestReport h f => some (mxWord h 0xC6 f)
  | .mxTestRun h f => some (mxWord h 0xC6 f)
  | .mxEvt h f => some (mxWord h 0xC7 f)
  | .mxCb h f => some (mxWord h 0xC8 f)
  | .mxFill h f => some (mxWord h 0xC9 f)
  | .nop h f => some (sysWord h 0xE0 f)
  | .waitCy h f => some (sysWord h 0xE1 f)
  | .waitTime h f => some (sysWord h 0xE2 f)
  | .rdvEnd h f => some (sysWord h 0xE3 f)
  | .rdv h f => some (sysWord h 0xE3 f)
  | .phase h f => some (sysWord h 0xE4 f)
  | .fence h f => some (sysWord h 0xE5 f)
  | .bar h f => some (sysWord h 0xE6 f)
  | .curtain h f => some (sysWord h 0xE7 f)
  | .yield h f => some (sysWord h 0xE8 f)
  | .curSet h f => some (sysWord h 0xE9 f)
  | .curGetTrap h f => some (sysWord h 0xEA f)
  | .curGetCur h f => some (sysWord h 0xEA f)
  | .rndOpen h f => some (sysWord h 0xEB f)
  | .rndPrep h f => some (sysWord h 0xEC f)
  | .rndCommit h f => some (sysWord h 0xED f)
  | .rndAbort h f => some (sysWord h 0xEE f)
  | .protMark h f => some (sysWord h 0xEF f)
  | .statSeal h f => some (sysWord h 0xF0 f)
  | .statRd h f => some (sysWord h 0xF1 f)
  | .statClr h f => some (sysWord h 0xF2 f)
  | .pwrAcq h f => some (sysWord h 0xF3 f)
  | .pwrRel h f => some (sysWord h 0xF4 f)
  | .coll h f => some (sysWord h 0xF5 f)
  | .collWait h f => some (sysWord h 0xF6 f)
  | .trap h f => some (sysWord h 0xF7 f)
  | .launchResume h f => some (sysWord h 0xF8 f)
  | .launch h f => some (sysWord h 0xF8 f)
  | .ttStartAt h f => some (sysWord h 0xF9 f)
  | .ttStart h f => some (sysWord h 0xF9 f)
  | .tlbiAsid h f => some (sysWord h 0xFA f)
  | .tlbiAll h f => some (sysWord h 0xFA f)
  | .tlbi h f => some (sysWord h 0xFA f)
  | .pcsrWrite h f => some (sysWord h 0xFB f)
  | .pcsrRead h f => some (sysWord h 0xFB f)
  | .holdRel h f => some (sysWord h 0xFC f)
  | .holdRequest h f => some (sysWord h 0xFC f)
  | .svret h f => some (sysWord h 0xFD f)
  | .tcAdvance | .holdRelease _ | .holdWatchdogExpiry _ | .curtainDistanceFault _ | .fatalStop _
  | .phasedReplyArrival _ | .storePerformed _ | .atomPerformed _ | .updatePacket _ _ _ | .sealedViewArrival _
  | .bobjByteCount _ _ _ | .saveComplete _ | .restoreComplete _ | .yieldDeadlineExpiry _ | .leaseExpiry _ _
  | .packageJoinMessage _ _ _ _ | .exchangeDeadlineReport _ _ | .collComplete _ _ _ | .faultLogAppend _ _
  | .translationWalk _ _ _ | .migrationLinePull _ _ _ | .migrationLineMove _ _ | .uncorrectableError _
  | .linkLoss _ _ | .capViolation _ _ _ | .supervisorEvent _ | .hostRequestSubmit _ _ | .ttStartAtTime _
  | .rattle _ _ | .afenceRetestDone _ _ _ | .groupConfig _ _ _ | .delta _ _ _ _ _ | .deltaAck _ _ | .prep _ _ _
  | .dec _ _ | .decAck _ _ | .out _ _ | .abt _ _ | .qry _ _ _ | .ans _ _ _ | .memberLost _ _
  | .memberLinkTimeout _ _ | .rebuildComplete _ _ | .protectedReadRepair _ _ | .eyeMonitorMeasure _ _ _ _
  | .retrainSliceStart _ _ | .retrainSliceEnd _ _ | .thermalSensorRead _ _ _ | .zoneChange _ | .powerWindow
  | .droopDetect _ | .droopClear _ | .inrushRequest _ | .inrushComplete _ | .frequencyChangeDone _ _ | .reset
  | .selfHeatTimeout | .bootokTimeout | .image | .restart | .attest | .status | .unfreeze | .config
  | .mailboxUnsupported | .privRegisterWrite _ _ _ _ | .curDistWrite _ _ | .polite _ _ | .kill _
  | .ceilWrite _ _ _ | .xlrespRetry _ _ | .xlrespFail _ _ | .migctlStart _ _ _ | .eyecmdRetrain _
  | .eyecmdRepair _ | .eyecmdClear _ | .thrmWrite _ _ | .afenceClear _ _ _ | .gcfgEnable _ _ _
  | .gcfgDisable _ _ _ | .tlbiComplete _ _ _ | .bootok | .launchComplete _ | .leaseGrant _
  | .adaptiveClockHoldTick _ | .partitionReset _ | .slotRelease _ | .cxlMemHostWrite _ _ => none

/-- The eight bytes of a word in memory order (R137). -/
def bytesOfWord (w : Word) : List Byte :=
  [w.extractLsb' 0 8, w.extractLsb' 8 8, w.extractLsb' 16 8, w.extractLsb' 24 8,
    w.extractLsb' 32 8, w.extractLsb' 40 8, w.extractLsb' 48 8, w.extractLsb' 56 8]

/-- The instruction the decoder reads from a table word: bit 0 of `w` is bit 0 of the 64-bit word, and bits
above `nbits` are zero. Words are one length, so more than 64 bits name none. -/
def decodeTableWord (nbits w : Nat) : Option Instr :=
  if nbits ≤ 64 then
    match decode (bytesOfWord (BitVec.ofNat 64 (w % 2 ^ nbits))) with
    | .ok (i, _) => some i
    | .error _ => none
  else none

/-- The fields of an instruction that every word has; zero for an event. -/
def hdr (i : Instr) : Hdr :=
  match encode i with
  | some w => hdrOf w
  | none => ⟨0, 0⟩

/-! ## The checks of R144 -/

/-- A register space of R139. `none` marks a field the instruction does not use. -/
inductive Space where
  | none | S | H | LK | VQ | V | T | K | Q
  deriving DecidableEq, Repr

/-- An unused field is zero with its rotate flag clear (R139); any used field passes. -/
def Space.zeroOk (sp : Space) (r : BitVec 7) : Bool := sp != .none || r == 0

/-- The number lies in its space and the rotate flag is allowed there (R139). -/
def Space.regOk (sp : Space) (r : BitVec 7) : Bool :=
  let n := r.toNat % 64
  let rot := r.getLsbD 6
  match sp with
  | .none => true
  | .S => !(rot && n == 0)
  | .H | .LK => n < 16 && !rot
  | .VQ => n < 32 || (n < 40 && !rot)
  | .V => n < 32
  | .T => n < 4
  | .K => n < 8
  | .Q => n < 8 && !rot

/-- The scalar space on C and the queue space elsewhere ("S/Q" of R269, R177). -/
def sOrQ (st : StreamId) : Space := if st = .C then .S else .Q

/-- The outcome of checks 4, 5 and 6 of R144 in that order: fields that must be zero, register numbers, reserved
values. Detail 0 means the word passes. -/
def checks (zero reg res : Bool) : BitVec 8 :=
  if !zero then 0x13 else if !reg then 0x14 else if !res then 0x15 else 0

/-- STG is zero on V (R140). -/
def stgOk (st : StreamId) (stg : BitVec 2) : Bool := st != .V || stg == 0

/-- An RRR word: the spaces of its four fields, whether KP and FN must be zero, the bits of MOD that must be zero,
and whether FN and MOD hold defined values (R140, R160, R221). A `SELF` bit of `SPCAST.S` is a value that is not defined, and not a field that
the word does not use (R170; notes/assumptions/77.md). -/
def rrrCheck (st : StreamId) (f : Rrr) (d a b c : Space) (kpZero fnZero : Bool) (mdZero : BitVec 8) (res : Bool) :
    BitVec 8 :=
  checks
    (stgOk st f.stg && ((st == .V && !kpZero) || f.kp == 0) && d.zeroOk f.rd && a.zeroOk f.ra && b.zeroOk f.rb &&
      c.zeroOk f.rc && (!fnZero || f.fn == 0) && f.md &&& mdZero == 0)
    (d.regOk f.rd && a.regOk f.ra && b.regOk f.rb && c.regOk f.rc) res

/-- An RRI word, with the bits of IMM that must be zero. -/
def rriCheck (st : StreamId) (f : Rri) (d a : Space) (immZero : BitVec 30) (zero res : Bool) : BitVec 8 :=
  checks (stgOk st f.stg && d.zeroOk f.rd && a.zeroOk f.ra && f.imm &&& immZero == 0 && zero)
    (d.regOk f.rd && a.regOk f.ra) res

/-- A MEM word (R181): whether HND, LCL and the index fields are used, the bits of FN and IMM13 that must be zero. -/
def memCheck (st : StreamId) (f : Mem) (d x : Space) (hnd lcl idx : Bool) (fnZero : BitVec 5) (immZero : BitVec 13)
    (res : Bool) : BitVec 8 :=
  checks
    (stgOk st f.stg && d.zeroOk f.rd && x.zeroOk f.rx && (hnd || f.hnd == 0) && (lcl || f.lcl == 0) &&
      (idx || (f.iw == 0 && f.isg == 0 && f.isc == 0)) && f.fn &&& fnZero == 0 && f.imm &&& immZero == 0)
    (d.regOk f.rd && x.regOk f.rx) res

/-- An MX word (R140, R245): which of BANK, the rows, PAN, NPAN, QSRC and WLINE it uses, and the bits of FN that must be
zero and that it defines. QSRC 8 to 15 and a range past the bank are reserved values. -/
def mxCheck (st : StreamId) (f : Mx) (bank rows pan npan q line : Bool) (fnZero fnDef : BitVec 13) (res : Bool) :
    BitVec 8 :=
  checks
    (stgOk st f.stg && (bank || f.bank == 0) && (rows || (f.row == 0 && f.nrow == 0)) && (pan || f.pan == 0) &&
      (npan || f.npan == 0) && (q || f.qsrc == 0) && (line || f.wline == 0) && f.fn &&& fnZero == 0)
    true
    (f.row.toNat + f.nrow.toNat < 96 && f.pan.toNat + f.npan.toNat < 3 && f.pan != 3 && f.npan != 3 &&
      f.qsrc.toNat < 8 && f.fn &&& ~~~fnDef == 0 && res)

/-- A SYS word (R269): whether STG may guard it, whether it takes a scope of 1 to 5, its register space, whether FN must be
zero, the bits of IMM that must be zero. -/
def sysCheck (st : StreamId) (f : Sys) (guard scope : Bool) (a : Space) (fnZero : Bool) (immZero : BitVec 32)
    (res : Bool) : BitVec 8 :=
  checks
    (stgOk st f.stg && (guard || f.stg == 0) && (scope || f.scope == 0) && a.zeroOk f.ra && (!fnZero || f.fn == 0) &&
      f.imm &&& immZero == 0)
    (a.regOk f.ra) ((!scope || (1 ≤ f.scope.toNat && f.scope.toNat ≤ 5)) && res)

/-- A user CSR that a stream may read (R179). -/
def csrReadable (st : StreamId) (n : Nat) : Bool :=
  n == 0 || n == 1 || (n == 2 && st == .C) || (3 ≤ n && n ≤ 5) || (8 ≤ n && n ≤ 11) ||
    ((n == 16 || n == 17) && st == .S)

/-- A user CSR that a stream may write (R179). -/
def csrWritable (st : StreamId) (n : Nat) : Bool :=
  n == 0 || (n == 2 && st == .C) || ((n == 16 || n == 17) && st == .S)

/-- One range of an `LRING` in the ring space of the stream (R141): empty, or inside one file. -/
def rangeOk (st : StreamId) (r : BitVec 11) : Bool :=
  let b := (r.extractLsb' 5 6).toNat
  let e := b + (r.extractLsb' 0 5).toNat
  r.extractLsb' 0 5 == 0 ||
    match st with
    | .C => 1 ≤ b && e ≤ 63
    | .V => e ≤ 31 || (32 ≤ b && e ≤ 35) || (40 ≤ b && e ≤ 43)
    | .L | .M | .S => false

/-- Two ranges share no register (R141). -/
def rangesApart (a b : BitVec 11) : Bool :=
  let n := fun r : BitVec 11 => (r.extractLsb' 5 6).toNat
  let l := fun r : BitVec 11 => (r.extractLsb' 0 5).toNat
  l a == 0 || l b == 0 || n a + l a < n b || n b + l b < n a

/-- A `LOOP` word (R140, R167). -/
def loopCheck (f : Loop) : BitVec 8 :=
  checks (f.z1 == 0 && f.z2 == 0 && (f.csrc != 1 || f.count >>> 4 == 0) && (f.csrc != 2 || f.count >>> 1 == 0))
    true (f.csrc != 3)

/-- An `LRING` word (R140, R141): an empty range has base 0. -/
def lringCheck (st : StreamId) (f : Lring) : BitVec 8 :=
  let e := fun r : BitVec 11 => r.extractLsb' 0 5 != 0 || r == 0
  checks (e f.rng0 && e f.rng1 && e f.rng2 && e f.rng3) true
    (rangeOk st f.rng0 && rangeOk st f.rng1 && rangeOk st f.rng2 && rangeOk st f.rng3 &&
      rangesApart f.rng0 f.rng1 && rangesApart f.rng0 f.rng2 && rangesApart f.rng0 f.rng3 &&
      rangesApart f.rng1 f.rng2 && rangesApart f.rng1 f.rng3 && rangesApart f.rng2 f.rng3)

/-- A `CSRW` word of any register (R178). -/
def csrwCheck (st : StreamId) (f : Rri) : BitVec 8 :=
  let imm := f.imm.getLsbD 12
  rriCheck st f .none (if imm then .none else sOrQ st) (if imm then 0x20000000 else 0x3FFFE000) true
    (csrWritable st f.csr.toNat)

/-- The rows or columns that a `TMOV` covers end at 64 (R239); a type without a size is checked when it issues. -/
def tmovOk (md : BitVec 8) : Bool :=
  let n := match md.toNat % 16 with
    | 0 | 2 => 16
    | 1 => 32
    | 3 | 4 => 64
    | _ => 0
  16 * (md.toNat / 64) + n ≤ 64

/-- The field tables: the detail code that checks 4 to 6 of R144 give an instruction on a stream, 0 where it passes. An
event has no word and passes. On MOD[7:4] of `VMOV`, `VBCAST`, `VRNG` and `VIOTA` R237, R240 and R241 are silent: bits 7 to 5 count as a zero
field, and bit 4, the integer form that these words do not have, as a reserved value (notes/assumptions/65.md). -/
def fieldDetail (st : StreamId) : Instr → BitVec 8
  | .add _ f | .sub _ f | .mul _ f | .and _ f | .or _ f | .xor _ f | .andn _ f | .shl _ f | .shr _ f | .sar _ f =>
    rrrCheck st f .S .S .S .none false true 0 (f.md == 0)
  | .mulh _ f => rrrCheck st f .S .S .S .none false true 0 (f.md.toNat ≤ 2)
  | .div _ f | .rem _ f | .min _ f | .max _ f => rrrCheck st f .S .S .S .none false true 0 (f.md.toNat ≤ 1)
  | .cmp _ f => rrrCheck st f .S .S .S .none false true 0 (f.md.toNat ≤ 5)
  | .sel _ f => rrrCheck st f .S .S .S .S false true 0 (f.md == 0)
  | .clz _ f | .popc _ f => rrrCheck st f .S .S .none .none false true 0 (f.md == 0)
  | .addi _ f => rriCheck st f .S .S 0 true true
  | .li _ f | .lih _ f => checks (stgOk st f.stg && f.zero == 0) (Space.S.regOk f.rd) true
  | .ext _ f => rriCheck st f .S .S 0x3FFFE000 true
    ((f.imm.extractLsb' 0 6).toNat + (f.imm.extractLsb' 6 6).toNat + 1 ≤ 64)
  | .ins _ f => rriCheck st f .S .S 0x3FFFF000 true
    ((f.imm.extractLsb' 0 6).toNat + (f.imm.extractLsb' 6 6).toNat + 1 ≤ 64)
  | .jmp _ f | .call _ f => checks (f.zero == 0) true true
  | .ret _ f => checks (f.zero == 0) true true
  | .loop _ f => loopCheck f
  | .lring _ f => lringCheck st f
  | .sptest _ f => rrrCheck st f .S .S .none .none false true 0xFF true
  | .spcastS _ f => rrrCheck st f .S .S .none .none false true 0xC0
    (!f.md.getLsbD 5 && [0, 8, 9, 10, 11].contains (f.md.toNat % 16))
  | .spcastG _ f => rrrCheck st f .S .S (if f.md.getLsbD 5 then .none else .S) .none false true 0xC0
    ([9, 10, 11].contains (f.md.toNat % 16) || ([0, 8].contains (f.md.toNat % 16) && !f.md.getLsbD 5 && f.rb == 0))
  | .padd _ f => rrrCheck st f .S .S .S .none false true 0xC0 true
  | .hld _ f | .hst _ f => memCheck st f .none .S true false false 0x1F 0 true
  | .hset _ f => rrrCheck st f .H .S .none .none false true 0xE0 (f.md.toNat % 32 < 16)
  | .hget _ f => rrrCheck st f .S .H .none .none false true 0xE0 (f.md.toNat % 32 < 16)
  | .hstat _ f => rriCheck st f .H .S 0x3FFFE000 true true
  | .hstatOff _ f => rriCheck st f .H .none 0x3FFFEFFF true true
  | .hcpy _ f => rrrCheck st f .H .H .none .none false true 0xFF true
  | .lds _ f => memCheck st f .S .S false true false 0x18 0 (!(f.fn.getLsbD 2 && f.fn.toNat % 4 == 3))
  | .sts _ f => memCheck st f .S .S false false false 0x18 0 (!f.fn.getLsbD 2)
  | .fpush _ f => rrrCheck st f .none .S .none .none false true 0xFF true
  | .rdctr _ f => rriCheck st f (sOrQ st) .none 0x3FFFFFF0 true (f.imm.toNat % 16 < 4)
  | .csrr _ f => rriCheck st f (sOrQ st) .none 0x3FFFF000 true (csrReadable st f.csr.toNat)
  | .flagsClear _ f | .selWrite _ f | .csrw _ f => csrwCheck st f
  | .ldQ _ f => memCheck st f .Q .none true true false 0 0x1F80 (f.fn.toNat < 2)
  | .ldV _ f => memCheck st f .V .none true true false 0 0x1FFF (f.fn.toNat < 2)
  | .ldT _ f | .ldTr _ f => memCheck st f .T .none true true false 0 0x1000
    (f.fn.toNat < 2 && (f.imm.extractLsb' 0 6).toNat + (f.imm.extractLsb' 6 6).toNat + 1 ≤ 64)
  | .ldG _ f => memCheck st f .Q .Q true true true 0 0x1F00
    (f.fn.toNat < 4 && (f.imm.extractLsb' 0 8).toNat + 1 ≤
      (if f.fn.getLsbD 1 then Nat.min 32 (256 >>> f.iw.toNat) else 256 >>> f.iw.toNat))
  | .ldW _ f => memCheck st f .none .none true true false 0x1F 0x1F00 true
  | .ldCb _ f => memCheck st f .none .none true true false 0x1F 0x1E00
    ((f.imm.extractLsb' 3 3).toNat + (f.imm.extractLsb' 6 3).toNat + 1 ≤ 8)
  | .ldBc _ f => memCheck st f .Q .none true false false 0 0x1F80 (f.fn.toNat % 16 != 0)
  | .stV _ f => memCheck st f .V .none true false false 0 0x1FFF (f.fn.toNat < 3)
  | .stQ _ f => memCheck st f .Q .none true false false 0 0x1F80 (f.fn.toNat < 3)
  | .stT _ f => memCheck st f .T .none true false false 0 0x1000
    (f.fn.toNat < 3 && (f.imm.extractLsb' 0 6).toNat + (f.imm.extractLsb' 6 6).toNat + 1 ≤ 64)
  | .stS _ f => memCheck st f .Q .Q true false true 0 0x1F00
    (f.fn.toNat < 8 && f.fn.toNat % 4 != 3 && (f.imm.extractLsb' 0 8).toNat + 1 ≤
      (if f.fn.getLsbD 2 then Nat.min 32 (256 >>> f.iw.toNat) else 256 >>> f.iw.toNat))
  | .stQnt _ f => memCheck st f .Q .none true false false 0 0 (f.fn.toNat < 8)
  | .stUpd _ f => memCheck st f .Q .Q true false false 0 0x1F80 (f.fn.toNat < 2 && (f.fn.getLsbD 0 || f.hnd != 15))
  | .stX _ f => memCheck st f .Q .none true false false 0 0x1F80 (f.fn.toNat < 3)
  | .stMc _ f => memCheck st f .Q .none true false false 0 0x1000
    (f.fn.toNat % 4 != 3 && 1 ≤ f.fn.toNat / 4 && f.fn.toNat / 4 ≤ 4)
  | .atom _ f => memCheck st f .Q .Q true true false 0 0x1FFF (f.fn.toNat % 16 ≤ 10)
  | .bobjArm _ f => memCheck st f .none (if f.fn.getLsbD 0 then .LK else .none) true false false 0 0x1FF0 (f.fn.toNat < 2)
  | .bobjWait _ f => memCheck st f .none .none false false false 0x1F 0x1FF0 true
  | .vadd _ f | .vsub _ f | .vmul _ f | .vmin _ f | .vmax _ f | .vand _ f | .vor _ f | .vxor _ f | .vshl _ f
  | .vshr _ f | .vsar _ f | .vimin _ f | .vimax _ f => rrrCheck st f .VQ .VQ .VQ .none false true 0xE0 (!f.md.getLsbD 4)
  | .vfma _ f => rrrCheck st f .VQ .VQ .VQ .VQ false true 0xE0 (!f.md.getLsbD 4)
  | .vabs _ f | .vneg _ f | .vmov _ f => rrrCheck st f .VQ .VQ .none .none false true 0xE0 (!f.md.getLsbD 4)
  | .vcmp _ f => rrrCheck st f .K .VQ .VQ .none false false 0xE0
    (f.fn.toNat < 9 && f.rd.toNat % 64 != 0 && !f.md.getLsbD 4)
  | .vsel _ f => rrrCheck st f .VQ .VQ .VQ .K false true 0xE0 (!f.md.getLsbD 4)
  | .vcvt _ f => if f.fn.extractLsb' 2 3 != 0 then 0x13 else rrrCheck st f .VQ .VQ .none .none false false 0 true
  | .vqnt _ f => rrrCheck st f .VQ .VQ .none .H false false 0x08 (32 ≤ f.rd.toNat % 64)
  | .kop _ f => rrrCheck st f .K .K (if f.fn == 4 then .none else .K) .none true false 0xFF
    (f.fn.toNat < 5 && f.rd.toNat % 64 != 0)
  | .kset _ f => rrrCheck st f .K .none .none .none true false 0xFF (f.fn.toNat < 3 && f.rd.toNat % 64 != 0)
  | .kmov _ f => rrrCheck st f (if f.fn == 2 then .VQ else .K) (if f.fn == 1 then .VQ else .K) .none .none true false 0xFF
    (f.fn.toNat < 3 && (f.fn == 2 || f.rd.toNat % 64 != 0))
  | .viadd _ f | .visub _ f | .vimul _ f => rrrCheck st f .VQ .VQ .VQ .none false true 0xE0 true
  | .vrcp _ f | .vrsq _ f | .vsqrt _ f | .vexp2 _ f | .vlog2 _ f | .vsin _ f | .vcos _ f | .vtanh _ f | .vsigm _ f =>
    rrrCheck st f .VQ .VQ .none .none false true 0xE0 true
  | .vrsum _ f | .vrmax _ f | .vcsum _ f | .vcmax _ f => rrrCheck st f .VQ .VQ .none .none false true 0xF0 true
  | .vbcast _ f => rrrCheck st f .VQ .VQ .none .none false false 0xE0
    (f.fn.toNat < 3 && f.ra.toNat % 64 < 32 && !f.md.getLsbD 4)
  | .vqpop _ f => rrrCheck st f .V .Q .none .none true true 0xF0 true
  | .vqpush _ f => rrrCheck st f .Q .V .none .none true true 0xF0 true
  | .tmovR _ f => rrrCheck st f .T .VQ .none .none false true 0x30 (tmovOk f.md)
  | .tmovC _ f => rrrCheck st f .VQ .T .none .none false true 0x30 (tmovOk f.md)
  | .vrng _ f => rrrCheck st f .VQ .VQ .VQ .none false true 0xE0 (!f.md.getLsbD 4)
  | .viota _ f => rrrCheck st f .VQ .VQ .none .none false true 0xE0 (!f.md.getLsbD 4)
  | .vshape _ f => rriCheck st f .none .none 0x3FF00000 true
    (f.imm.extractLsb' 18 2 != 3 && ((f.imm.extractLsb' 0 6).toNat + 1) * ((f.imm.extractLsb' 6 12).toNat + 1) *
      2 ^ (f.imm.extractLsb' 18 2).toNat ≤ 4096)
  | .valloc _ f | .vshrink _ f => rriCheck st f .none .none 0x3FFFFF80 true
    (1 ≤ f.imm.toNat % 64 && f.imm.toNat % 64 ≤ 32)
  | .vgate _ f => rriCheck st f .none .none 0x3FFFFFF0 true (f.imm.extractLsb' 2 2 != 3)
  | .mxLdw _ f => mxCheck st f false false false false false true 0x1FFF 0 true
  | .mxMac _ f => mxCheck st f true true true true true false 0 0x7F (f.npan == 0)
  | .mxZero _ f => mxCheck st f true true true true false false 0x1FFF 0 true
  | .mxDrain _ f => mxCheck st f true true true true (f.fn.getLsbD 4) false 0 0x7F true
  | .mxSwap _ f => mxCheck st f false false false false false false 0x1FFF 0 true
  | .mxFuseOn _ f | .mxFuseOff _ f => mxCheck st f false false false false false false 0 0x1 true
  | .mxTestFatal _ f | .mxTestReport _ f => mxCheck st f false false false false false false 0 0x3 true
  | .mxTestRun _ f => mxCheck st f false false false false (f.op2 == 0) false 0 0x3 (f.op2 == 0)
  | .mxEvt _ f => mxCheck st f true false false false true false 0 0x1 true
  | .mxCb _ f => mxCheck st f false false false false true false 0 0x1FF
    ((f.fn.extractLsb' 3 3).toNat + (f.fn.extractLsb' 6 3).toNat + 1 ≤ 8)
  | .mxFill _ f => mxCheck st f true true true true true false 0 0x1 true
  | .nop _ f => sysCheck st f true false .none true 0xFFFFFFFF true
  | .waitCy _ f => sysCheck st f true false .none false (if f.fn == 1 then 0xFFFFFFF0 else 0) (f.fn.toNat < 2)
  | .waitTime _ f => sysCheck st f false false .S true 0 true
  | .rdv _ f | .rdvEnd _ f => sysCheck st f false false .none false 0xFFFFFFFF (f.fn.toNat < 2)
  | .phase _ f | .bar _ f => sysCheck st f false true .none true 0xFFFFFFFF true
  | .fence _ f => sysCheck st f true true .none true 0xFFFFFFFF true
  | .curtain _ f => sysCheck st f false false .none true 0 true
  | .yield _ f => sysCheck st f true false .none true 0xFFFFFFFF true
  | .curSet _ f => sysCheck st f true false (if f.fn == 0 then .Q else .none) false
    (if f.fn == 0 then 0xFFFFFFFF else 0xFFFC0000) (f.fn.toNat < 2)
  | .curGetCur _ f => sysCheck st f true false .Q false 0xFFFFFFFF (f.fn.toNat < 2)
  | .curGetTrap _ f => sysCheck st f true false (sOrQ st) false 0xFFFFFFF8 (f.imm.toNat < 5)
  | .rndOpen _ f | .rndCommit _ f => sysCheck st f false false .S true 0xFFFFFFF0 true
  | .rndPrep _ f | .rndAbort _ f => sysCheck st f false false .none true 0xFFFFFFF0 true
  | .protMark _ f => sysCheck st f false false .S false 0xF0000000 (f.fn.toNat < 3)
  | .statSeal _ f => checks
    (stgOk st f.stg && (if f.fn.getLsbD 0 then f.imm == 0 else f.ra == 0 && f.imm >>> 12 == 0) && !f.fn.getLsbD 1)
    (!f.fn.getLsbD 0 || Space.H.regOk f.ra) (1 ≤ f.scope.toNat && f.scope.toNat ≤ 5)
  | .statClr _ f => checks
    (stgOk st f.stg && (if f.fn.getLsbD 0 then f.imm == 0 else f.ra == 0 && f.imm >>> 12 == 0))
    (!f.fn.getLsbD 0 || Space.H.regOk f.ra) (1 ≤ f.scope.toNat && f.scope.toNat ≤ 5)
  | .statRd _ f => sysCheck st f true false (sOrQ st) true (if st = .C then 0xFFF80000 else 0xFFF9F000) true
  | .pwrAcq _ f => sysCheck st f false false .S true 0x000000F0 (f.imm >>> 8 != 0)
  | .pwrRel _ f => sysCheck st f false false .none true 0xFFFFFFFF true
  | .coll _ f => sysCheck st f false false .S true 0xFFFFFF0C true
  | .collWait _ f => sysCheck st f false false .none true 0xFFFFFFFC true
  | .trap _ f => sysCheck st f true false .none true 0 true
  | _ => 0

/-- Check 3 of R144: the streams that execute an instruction, by opcode (R142) and by its entry (R269, R290). `CUR.GET` with FN 2 or 3 names
neither form and counts as `CUR.GET.cur` here, so that check 3 comes before check 6 on C, M and V (notes/assumptions/65.md). -/
def streamOk (st : StreamId) (i : Instr) : Bool :=
  match encode i with
  | none => true
  | some w =>
    let op := (opOf w).toNat
    if op ≤ 0x18 then st == .C
    else if op ≤ 0x24 then true
    else if op ≤ 0x3A then st == .C
    else if op ≤ 0x3E then true
    else if op ≤ 0x47 then st == .L
    else if op ≤ 0x6A then st == .S
    else if op ≤ 0xBE then st == .V
    else if op ≤ 0xC9 then st == .M
    else
      match i with
      | .waitTime _ _ | .rndOpen _ _ | .rndPrep _ _ | .rndCommit _ _ | .rndAbort _ _ | .protMark _ _ | .pwrAcq _ _
      | .pwrRel _ _ | .coll _ _ | .collWait _ _ => st == .C
      | .curSet _ _ | .curGetCur _ _ => st == .L || st == .S
      | .statSeal _ f | .statClr _ f => st != .V || !f.fn.getLsbD 0
      | _ => true

/-- OP of an instruction's word; 0, which R143 never assigns, for an event. -/
def opNat (i : Instr) : Nat :=
  match encode i with
  | some w => (opOf w).toNat
  | none => 0

/-- A privileged opcode (R142). -/
def isPrivileged (i : Instr) : Bool := 0xF8 ≤ opNat i

/-- What a supervisor core accepts (R329, R334, R361): the listed opcodes without a token bit or a guard, and a privileged
word only with the field values of its row. Any other word is a misuse event. -/
def supervisorOk (i : Instr) : Bool :=
  let op := opNat i
  let sc := fun f : Sys => f.scope == 0 && f.stg == 0 && Space.S.regOk f.ra
  (hdr i).tok == 0 &&
    match i with
    | .launch _ f | .launchResume _ f => sc f && f.fn.toNat < 2 && f.imm >>> 8 == 0
    | .ttStart _ f | .ttStartAt _ f => sc f && f.fn.toNat < 2 && f.imm >>> 8 == 0
    | .tlbi _ f => sc f && f.fn == 0 && f.imm >>> 9 == 0
    | .tlbiAsid _ f => sc f && f.ra == 0 && f.imm >>> 8 == 0
    | .tlbiAll _ f => sc f && f.ra == 0 && f.imm == 0
    | .pcsrRead _ f | .pcsrWrite _ f => sc f && f.fn.toNat < 2 && f.imm >>> 20 == 0 &&
      (f.imm.toNat % 4096 < 256 || f.imm.extractLsb' 12 8 == 0)
    | .holdRequest _ f | .holdRel _ f => sc f && f.ra == 0 && f.fn.toNat < 2 && f.imm >>> 8 == 0
    | .svret _ f => sc f && f.ra == 0 && f.fn == 0 && f.imm == 0
    | .nop _ f | .waitCy _ f | .fence _ f => f.stg == 0 && fieldDetail .C i == 0
    | _ => (1 ≤ op && op ≤ 0x39 || 0x3C ≤ op && op ≤ 0x3E) && fieldDetail .C i == 0 &&
      (match encode i with
       | some w => w.extractLsb' 44 2 == 0 || op == 0x24
       | none => false)

end Sys2Proof
end

