-- ==== Sys2Proof/Machine/State.lean ====
section
/-! DEFINITION. The state of one package: its cores, cohort slots, memories and platform units, and the three outcomes
of a step. Every field is plain data; widths and reset values are listed in INVENTORY.md with the rules that give them. -/

namespace Sys2Proof.Machine

/-- No instruction of this machine stops the model with a fault of its own: the fatal faults of spec/18_translation.md
R369 are states of a cohort slot. Raised by no meaning; kept for a step that the model cannot take, and safe. -/
inductive Fault where
  /-- Raised by `Step` if the agenda of a step names no act; it never does (safe: the machine would stop). -/
  | noAct
  deriving DecidableEq, Repr

/-- Why an instruction has no meaning here. -/
inductive Refusal where
  /-- The instruction is not modelled yet; raised by its arm in Dispatch.lean (safe: the machine stops). -/
  | notModelled (mnemonic : String)
  deriving DecidableEq, Repr

/-- The stores of a core, and the quad-shared SRAM, that timed writes reach byte by byte (R13, R96). -/
inductive File where
  | priv | sp | qs | v | t | wb | cb
  deriving DecidableEq, Repr

/-- The state of a barrier object (R206). -/
inductive BState where
  | idle | armed | opened
  deriving DecidableEq, Repr

/-- A barrier object: expected and counted bytes, the covered handle and its ranges by pointer and length, and its number of arms. -/
structure BObj where
  st : BState
  total : Nat
  count : Nat
  hnd : Handle
  cover : List (Word × Nat)
  uses : Nat
  deriving DecidableEq, Repr

/-- A write that takes effect at a fixed tc (R98, R124, R158). -/
inductive Eff where
  /-- bits of a scalar register under a mask -/
  | s (n : Nat) (mask val : Word)
  /-- bits of a handle under a mask -/
  | h (n : Nat) (mask val : Handle)
  /-- `SEL`, `UPDA` and `UPDB` by CSR number -/
  | csr (n : Nat) (val : Word)
  /-- sticky flags of a stream, to set (R80) -/
  | flags (stream : Nat) (set : BitVec 6)
  /-- sticky flags of a stream, to clear; a set of the same tc stands (R80) -/
  | flagsClear (stream : Nat) (clear : BitVec 6)
  /-- bytes of a store of the core; for `qs` the key counts from the quad's first byte -/
  | bytes (f : File) (key : Nat) (data : List Byte)
  /-- a predicate register under a mask -/
  | k (n : Nat) (mask val : BitVec 4096)
  /-- sums of one A-row, a column each tc from `col` on, with the events of each chain: bank contents, row, column, and whether cell rows
  from 32 on take part (R254, R265) -/
  | mac (bank row col : Nat) (ovw int deep : Bool) (sums : List (BitVec 32 × BitVec 3))
  /-- 64 elements of a panel of a row of bank contents, set or added (R257) -/
  | acc (bank row panel : Nat) (add : Bool) (vals : List (BitVec 32))
  /-- zeroes rows and panels of bank contents (R257, R259) -/
  | accZero (bank row rows panel panels : Nat)
  /-- event bits of bank contents, to set (R256) -/
  | accEvt (bank : Nat) (set : BitVec 3)
  /-- the bank names change places (R262) -/
  | swapBanks
  /-- the standby weight set becomes active with its format pair (R251) -/
  | switchSet (afmt bfmt : Nat)
  /-- fusion (R263) -/
  | fuse (on : Bool)
  /-- the rattle policy (R265) -/
  | policy (report : Bool)
  /-- the cursors of the L or S stream -/
  | cursors (stream : Nat) (cu : List Nat)
  /-- a byte range that lands and is offered to the barrier objects of a number, with the word that sent it (R207) -/
  | bobj (n : Nat) (ptr : Word) (len pc : Nat) (word : Word)
  /-- a barrier object's new state (R208, R209) -/
  | bobjSet (n : Nat) (o : BObj)
  /-- the vector shape (R242) -/
  | vshape (val : BitVec 32)
  /-- the vector allotment (R219) -/
  | allot (n : Nat)
  /-- a vector bank's state (R220) -/
  | bank (b : Nat) (off retention : Bool)
  deriving DecidableEq, Repr

/-- A timed write in flight: landing tc, cohort rank and stream of its writer, its place among the writes of that stream (the issue tc of
its instruction and its piece, R125, R158), and the core it reaches. -/
structure Land where
  tc : Nat
  rank : Nat
  stream : Nat
  seq : Nat
  core : Nat
  eff : Eff
  deriving DecidableEq, Repr

/-- The kinds of fatal fault that a report frame names (spec/18_translation.md R369). -/
inductive FaultKind where
  | deviation | illegal | wrongStream | format | handle | pointer | foreign | page | record | allotment | gatedBank
  | barrier | matrix | round | collective | curtainDistance | curtainSelection | watchdog | exchange | uncorrectable
  | linkLoss | kill | restore
  deriving DecidableEq, Repr

/-- One open loop level (R41 to R46): body, source count, stage count, iterations in all, index, ring ranges. -/
structure Level where
  first : Nat
  last : Nat
  n : Nat
  d : Nat
  total : Nat
  idx : Nat
  ringed : Bool
  ranges : List (Nat × Nat)
  deriving DecidableEq, Repr

/-- The word that a stream is executing: its offset, tc, guard, the rings in force, one more than the index of the ringed
loop (0 outside one), the stage predicates k1 to k3 in bits 0 to 2 (R45, R46), the loop counters (R41), and the exchange stamp of its core (R313). -/
structure Issue where
  pc : Nat
  word : Word
  tc : Nat
  guard : Bool
  ranges : List (Nat × Nat)
  idx : Nat
  stages : BitVec 3
  lcs : List Nat
  stamp : Option Word
  deriving DecidableEq, Repr

/-- An instruction that occupies more than one tc: the number of its first entry or access, the next piece `j` of `n`, and
what its issue read. -/
structure Act where
  ins : Instr
  id : Nat
  start : Nat
  j : Nat
  n : Nat
  hnd : Handle
  cu : List Nat
  aux : List Nat
  buf : List Byte
  deriving DecidableEq, Repr

/-- One fatal fault (R33, R369): what it is, which stream of which core takes it, and what its report names. `late` holds
the issue tc and the stamp of a late cross-package store (R314), `rest` the instruction from the piece on whose destinations are
undefined at the stop (R188, R192, R261). -/
structure FaultRec where
  kind : FaultKind
  detail : Nat
  core : Nat
  stream : Nat
  tc : Nat
  pc : Nat
  word : Word
  addr : Word
  space : Nat
  cursors : List Nat
  late : Option (Nat × Nat)
  rest : Option Act
  deriving DecidableEq, Repr

/-- A seal or clear that waits for its phase boundary (R113, R114, R290). -/
structure Seal where
  isClear : Bool
  all : Bool
  scope : Nat
  idx : Nat
  deriving DecidableEq, Repr

/-- The joining point that a stream issues on the tc being executed (R32): opcode, and scope or curtain index. -/
structure Join where
  op : Nat
  arg : Nat
  deriving DecidableEq, Repr

/-- One instruction stream (R10, R11). `base` is the issue tc plus the occupancy of the word before (R24). `before` are the loop levels that stood
open at the word in execution; `main` keeps the curtain's offset and levels while a wind-up stub runs (R322). -/
structure Stream where
  text : Map 64
  textLen : Nat
  pc : Nat
  base : Nat
  loops : List Level
  lring : Option (Nat × List (Nat × Nat))
  ret : List Nat
  flags : BitVec 6
  segp : BitVec 32
  lk : Map 32
  cu : List Nat
  seals : List Seal
  dtrap : List Word
  act : Option Act
  now : Issue
  before : List Level
  join : Option Join
  stamp : Option Word
  fences : Nat
  main : Option (Nat × List Level)
  stopped : Bool
  ended : Bool
  deriving DecidableEq, Repr

/-- An operand-queue entry (R29, R93): its bytes, the earliest tc of its pop, whether it is a phased reservation, the number of the access
that fills it while its data is outstanding, and the core and stream whose instruction reserved or pushed it (R403). -/
structure QEntry where
  data : Entry
  ready : Nat
  phased : Bool
  wait : Option Nat
  src : Nat × Nat
  deriving DecidableEq, Repr

/-- An entry that joins a queue when the tc ends (R94): the stream code that orders it, the queue, the entry, and the core and
stream that an overflow is charged to. -/
structure Push where
  order : Nat
  queue : Nat
  entry : QEntry
  core : Nat
  stream : Nat
  deriving DecidableEq, Repr

/-- A matrix command held by the array (R247, R248): its issue tc, the tc from which it is held no more, and the weight set that
it uses. -/
structure Held where
  start : Nat
  done : Nat
  set : Option Nat
  deriving DecidableEq, Repr

/-- What a piece of `MX.DRAIN` has put out from results of some sub-arrays (R265): their bits, what still stands of its timed ranges (core,
store, first byte and length), the landing tc of these and their place in it, the first number of its accesses and the one after the last,
and its queue entry by queue and ready tc. -/
structure Drained where
  bits : BitVec 4
  timed : List (Nat × File × Nat × Nat)
  lands : Nat
  seq : Nat
  accs : Nat × Nat
  entry : Option (Nat × Nat)
  deriving DecidableEq, Repr

/-- The matrix array of a core (R96, R243, R244): accumulator cells by bank, row and column, event bits, the bank map, two
weight sets with their formats, the active set and a switch to come, fusion, the self-test policy, the commands it holds, the
A-row forwarded to an east core and the latest `MX.MAC` (tc, NROW, KM1, formats, queue; R264). For each element and each bank's event bits
`taint` and `evtTaint` tell which sub-arrays their results have used since the last rattle that these passed, and `drained` what has been
put out of them; `unsound` are those whose last rattle failed under the report policy (R265). -/
structure Array where
  acc : Map 32
  evt : List (BitVec 3)
  swap : Bool
  wset : Map 56
  wfmt : List Nat
  active : Nat
  switch : Option Nat
  fused : Bool
  report : Bool
  held : List Held
  fwd : Entry
  last : List Nat
  taint : Map 4
  evtTaint : List (BitVec 4)
  drained : List Drained
  unsound : BitVec 4
  deriving DecidableEq, Repr

/-- The power state of a vector bank (R217). -/
inductive BankPwr where
  | on | retention | off | waking
  deriving DecidableEq, Repr

/-- What a supervisor core holds beside its scalar registers (spec/17_scheduling.md R329, R339, R341), with the fault records that
wait for room in its log (R363), the lines of its migrations that have moved, and those of old frames that cannot be read (R368). -/
structure Sup where
  admission : Word
  running : Bool
  blocked : Bool
  frozen : Bool
  busy : Nat
  epc : Word
  cause : Word
  evec : Word
  watch : Map 64
  events : List (Nat × Word)
  handling : Bool
  lost : Bool
  flogb : Word
  flogp : Word
  seq : Nat
  migsrc : Map 64
  migtlbi : Map 8
  migctl : Map 64
  moved : List (Nat × Nat)
  bad : List (Nat × Nat)
  waiting : List (List Nat)
  deriving DecidableEq, Repr

/-- A core: 0 to 767 are compute cores, 768 + n is supervisor core n. Streams by their code (R10). -/
structure Core where
  slot : Nat
  rank : Nat
  streams : Tbl Stream
  s : Map 64
  h : Map 256
  sel : Word
  upda : Word
  updb : Word
  hist : List (Nat × Nat × Word)
  v : Map 8
  t : Map 8
  k : Map 4096
  vshape : BitVec 32
  allot : Nat
  banks : List BankPwr
  queues : Tbl (List QEntry)
  qmin : List Nat
  qcap : List Nat
  fq : List Word
  tok : List Nat
  tokActs : List (Nat × Nat × Bool)
  pushes : List Push
  fpushes : List Word
  arr : Array
  wb : Map 8
  cb : Map 8
  sp : Map 8
  priv : Map 8
  bobj : Tbl BObj
  sup : Sup
  deriving DecidableEq, Repr

/-- What a hold request waits for (R35): a phased reply, a logged translation fault, a platform cause by its number, a seal or clear being
applied whose point is a `PHASE` of a core's unit, or the wait condition of the word that a stream of a core issues at the target. -/
inductive Cause where
  | reply (id : Nat)
  | fault (id : Nat)
  | platform (tag : Nat)
  | seal (core : Nat)
  | word (core stream : Nat)
  deriving DecidableEq, Repr

/-- A hold request: its target tc, its cause and, once the cause has cleared, the clock from which the target may execute (R35, R37). -/
structure Req where
  target : Nat
  cause : Cause
  cleared : Option Nat
  deriving DecidableEq, Repr

/-- A curtain-delivered trap (R53, R281): the words of its record, the tc that orders it, and the tc from which it counts. -/
structure Trap where
  code : Nat
  rank : Nat
  stream : Nat
  core : Nat
  drop : Bool
  pc : Nat
  arg : Nat
  tc : Nat
  word : Word
  elem : Word
  from_ : Nat
  deriving DecidableEq, Repr

/-- A moment of a cohort's timetable: a tc, and inside the wind-up stub of a curtain at that tc one more than the stub count, which orders
what the stub does (R322). -/
structure Moment where
  tc : Nat
  stub : Nat
  deriving DecidableEq, Repr

/-- A phased write of the cohort (R127, R128): its key, its bytes by generic pointer, whether it is an atomic, the barrier
object number that it names, the objects and arms that counted it (core, number, arm), the collective that made it, the order in
which it was performed at its home, 0 before that, and the number of the access that carries it. A store of another package of the set
(R315) stands by its first home byte, the tc from which a boundary shows it, and the least scope of that boundary. -/
structure PWrite where
  npod : Nat
  prank : Nat
  tc : Moment
  rank : Nat
  stream : Nat
  core : Nat
  addr : Word
  data : List Byte
  atom : Bool
  offer : Option Nat
  counted : List (Nat × Nat × Nat)
  engine : Option Moment
  done : Nat
  acc : Nat
  peer : Option (Nat × Nat × Nat)
  deriving DecidableEq, Repr

/-- A phase boundary that a scope unit has taken (R126). -/
structure Boundary where
  tc : Nat
  scope : Nat
  unit : Nat
  deriving DecidableEq, Repr

/-- Ranges that a core sees early: by a barrier object (R133) or by a collective (R134). -/
structure Acquire where
  core : Nat
  tc : Moment
  obj : Option (Nat × Nat)
  coll : Option Moment
  ranges : List (Word × Nat)
  deriving DecidableEq, Repr

/-- A write by an agent outside the cohort (R130): its first home byte, the cohort's tc when it was performed, its bytes, the number of
its first byte, and the agent whose writes keep their order (R129): a stream of another cohort, or a number of its own. -/
structure Outside where
  key : Nat
  tc : Nat
  data : List Byte
  seq : Nat
  agent : Nat
  deriving DecidableEq, Repr

/-- One update of a statistics record (R110, R111, R119): who wrote the element, what it observed (0 a zero, 1 a NaN or
infinity, 2 a finite value with magnitude and bin, 3 nothing), the overflow event, other event bits, and the tc on which the
event is reported. `tc` is the issue tc of the instruction, which the events bear, and `wr` that of the piece that wrote the element (R187). -/
structure Upd where
  core : Nat
  tc : Nat
  wr : Moment
  rank : Nat
  stream : Nat
  elem : Nat
  cls : Nat
  mag : BitVec 32
  bin : Nat
  ovf : Bool
  evt : BitVec 8
  report : Nat
  pc : Nat
  word : Word
  deriving DecidableEq, Repr

/-- A statistics record of a cohort (R103): the open view is what the listed updates make. `smax` and `nseal` are the sealed
view, which a seal point replaces when its tc ends (R115). -/
structure Record where
  home : Nat
  owner : Nat
  smax : BitVec 32
  nseal : BitVec 32
  othr : BitVec 32
  rste : Bool
  rlatch : Bool
  evt : BitVec 8
  upd : List Upd
  deriving DecidableEq, Repr

/-- The state of a write round (R283). -/
inductive RState where
  | idle | opened | prepared
  deriving DecidableEq, Repr

/-- What a restoration of group `grp` has written back at the home (R379): home byte and virtual address of a sector, and its old value. -/
structure Undo where
  key : Nat
  va : Word
  grp : Nat
  old : BitVec 512
  deriving DecidableEq, Repr

/-- A round of one group slot (R283 to R289): number, the tc and core of its `RND.OPEN` and of its `RND.PREP`, the core whose
`RND.COMMIT` is held, whether it is doomed, its outcome once it is settled (committed or not), and the sectors that its member has restored
before the cohort comes to its `RND.COMMIT` or `RND.ABORT`, last first (R136, R379). -/
structure Round where
  st : RState
  num : Nat
  start : Moment
  opener : Nat
  prepTc : Moment
  preparer : Nat
  committer : Nat
  doomed : Bool
  settled : Option Bool
  undo : List Undo
  deriving DecidableEq, Repr

/-- A round instruction that the cohort has performed on the present tc (R304): opcode, issuing core, group slot, its operand values, and
the result that equal ones receive. -/
structure RoundOp where
  code : Nat
  core : Nat
  grp : Nat
  val : Word
  arg : Nat
  result : Option Word
  deriving DecidableEq, Repr

/-- A marked range (R284): group slot, base, length in bytes, PROTECTED or LOGGED, the tc after which it counts, the core that
marked it, and the tc of the `PROT.MARK` that removed it. -/
structure Mark where
  grp : Nat
  base : Nat
  len : Nat
  prot : Bool
  tc : Moment
  core : Nat
  gone : Option Moment
  deriving DecidableEq, Repr

/-- An outstanding collective (R293 to R296): id, group slot, issuing core, tc, descriptor bytes, what it contributes once its source has
been read, the bytes of its result once it is complete, and the fault that its `COLL.WAIT` takes. -/
structure Coll where
  id : Nat
  grp : Nat
  core : Nat
  tc : Moment
  desc : List Byte
  src : Option (List Byte)
  result : Option (List Byte)
  fault : Option (FaultKind × Nat × Word)
  deriving DecidableEq, Repr

/-- One item of a save or restore list (spec/17_scheduling.md R348). -/
structure SaveItem where
  kind : Nat
  first : Nat
  count : Nat
  off : Nat
  src : Nat
  deriving DecidableEq, Repr

/-- A curtain record of the image (R155), with the tables it points to. -/
structure CurtRec where
  yok : Bool
  tcoff : Nat
  lscal : Word
  lmisc : Word
  ranges : List (Nat × Nat)
  handler : Nat
  succ : List Nat
  save : List SaveItem
  restore : List SaveItem
  windup : List (Nat × Nat)
  ctxsz : Nat
  savecy : Nat
  deriving DecidableEq, Repr

/-- What a phased access does at its home (R362, R363): read, store or atomic. -/
inductive AccKind where
  | read | store | atomic
  deriving DecidableEq, Repr

/-- Where an outstanding access stands: to be translated, joined to the fault record of a number, on its way, ended in a fatal fault, or
never to be delivered or performed since its path is lost (R371). -/
inductive AccSt where
  | walk | faulted (rec : Nat) | sent | failed | lost
  deriving DecidableEq, Repr

/-- A cached translation (R360): address-space identifier, die SRAM or global, page base and size, and the leaf. -/
structure TlbEntry where
  asid : Nat
  dsr : Bool
  page : Nat
  size : Nat
  leaf : Word
  deriving DecidableEq, Repr

/-- An element of a piece: its slot, its indices and its byte ranges by pointer. -/
structure Elem where
  slot : Nat
  idx : List Nat
  parts : List (Word × Nat)
  deriving DecidableEq, Repr

/-- An outstanding phased access (R102, R371): its number, who issued it and when, the piece and instruction that its
delivery serves, its byte ranges with the bytes of a store, the scheduled arrival, the queue entry that it fills, how many fences
its stream had issued before it (R131), the tc of its conversion's flags while they are still to be set and those of them that a `CSRW` has
cleared since (R80, R189), the translations that it uses once they are found (R361), and the curtain's tc T where a wind-up stub issued it, whose tc are stub counts (R322). -/
structure Access where
  id : Nat
  slot : Nat
  core : Nat
  rank : Nat
  stream : Nat
  kind : AccKind
  ins : Instr
  issue : Issue
  tc : Nat
  arr : Nat
  piece : Nat
  hnd : Handle
  cu : List Nat
  aux : List Nat
  parts : List (Word × List Byte)
  els : List Elem
  npod : Nat
  fences : Nat
  st : AccSt
  flags : Option (Nat × BitVec 6)
  pages : List TlbEntry
  stub : Option Nat
  deriving DecidableEq, Repr

/-- A fault record of the log that no answer has settled (R363 to R365): supervisor sequence number, page and its size, and kind. -/
structure LogFault where
  seq : Nat
  page : Word
  size : Nat
  kind : AccKind
  deriving DecidableEq, Repr

/-- A power lease (R292, R354): level, and the timebase value at which it expires. -/
structure Lease where
  level : Nat
  expiry : Nat
  deriving DecidableEq, Repr

/-- How far a `LAUNCH` has come (R335, R350): none in progress, loading or restoring the member cores, running wind-up stubs, or
waiting for the curtain's decision. -/
inductive Resume where
  | none | loading | restoring | stubs | deciding
  deriving DecidableEq, Repr

/-- A cohort slot (spec/17_scheduling.md R333). Times written `Option Nat` are the tc at which a request takes effect. While stubs run
`tc` holds the stub count and `stubs` the curtain's tc T (R322); `reentry` holds, by cohort rank, the offsets that follow the
curtain of a saved cohort. `withdrawn` keeps the requests that were taken back, each with the tc at which it took effect, the tc from
which it is gone, and that of its DUE (R346). `freq` is the frequency of the cohort's quads in steps of 25 MHz (R1, R353), `phase` the part
of their next clock that has passed, in 1/70 of a package clock, `clk` the clocks they have counted, `tuning` the tag of the frequency
change for which they stand still (R396), `held` the clock on which the cohort reached a held tc, and `acqs` the `PWR.ACQ` words that have
been decoded: issue tc, level and whether the grant is made (R292). `past` keeps, by cohort rank, `SEL` and the history of registers that
a saved core had at its curtain (R23, R26, R50). `pkgs` are the packages of its set, which the control block of `LAUNCH` does not carry (R330). `joinSent` counts the join messages of the present join (R275), and `landed` keeps
the writes that took effect when the cohort reached a tc at which it is held, so that a late reply of that tc stands in its place (R38, R125). -/
structure Slot where
  st : Nat
  stop : Nat
  sup : Nat
  kind : Nat
  w : Nat
  ht : Nat
  npkg : Nat
  pkgs : List Nat
  prank : Nat
  die : Nat
  quad : Nat
  members : List Nat
  horizon : Nat
  scope : Nat
  splim : Nat
  privSz : List Nat
  latcls : List Nat
  segs : List (List Nat)
  curts : List CurtRec
  mtext : Bool
  image : Nat
  save : Nat
  savesz : Nat
  root : Nat
  groot : Nat
  dsrt : Nat
  prio : Nat
  savedNs : Nat
  ceil : Nat
  decl : Nat
  curDist : Nat
  curDistNow : Nat
  holdwd : Nat
  ydead : Nat
  polite : Option Nat
  withdrawn : List (Nat × Nat × Option Nat)
  due : Option Nat
  ymark : Option Nat
  kill : Option Nat
  ncoop : Nat
  nforce : Nat
  lease : Option Lease
  lrem : Nat × Nat
  energy : Word
  startAt : Option Word
  tc : Nat
  opened : Bool
  held : Option Nat
  freq : Nat
  phase : Nat
  clk : Nat
  tuning : Option Nat
  reqs : List Req
  heldClks : Nat
  wdog : Nat
  lands : List Land
  landed : List Land
  links : List (Nat × Nat × Nat × Nat × Nat)
  log : List PWrite
  bounds : List Boundary
  npod : Nat
  base : List (Nat × List Byte)
  outside : List Outside
  acq : List Acquire
  prevPt : Nat
  traps : List Trap
  faultsNow : List FaultRec
  dueFaults : List FaultRec
  fatal : Option FaultRec
  stopTc : Nat
  later : List FaultRec
  recs : Tbl Record
  grpOf : Tbl Nat
  rounds : Tbl Round
  marks : List Mark
  roundOps : List RoundOp
  collOf : Tbl (List Nat)
  colls : List Coll
  joinSeq : Nat
  joinSent : Nat
  joinMsgs : List (Nat × Nat × Nat)
  curtain : Nat
  dpoint : Nat
  seldp : Word
  kept : List Trap
  resume : Resume
  stubs : Nat
  reentry : Tbl (List Nat)
  faults : List LogFault
  failed : Bool
  acqs : List (Nat × Nat × Bool)
  past : Tbl (Word × List (Nat × Nat × Word))
  deriving DecidableEq, Repr

/-- A delta on its way (R376, R378): its parity member, its offset in the parity region, and the fault that its write takes where a full
log refuses it (R377). -/
structure Delta where
  member : Nat
  off : Nat
  fault : FaultRec
  deriving DecidableEq, Repr

/-- A protection group (spec/19_protected_hbm.md R373 to R381): its registers, state, losses, committed round, the members
whose configuration agrees, and what its round has gathered: deltas not yet durable, notices that stand, members that sent ABT, a
decision held, parity members that acknowledged DEC or ABT, answers, whether the round is doomed, and whether a parity member collects
deltas. -/
structure Group where
  die : Nat
  gcfg : Word
  gmem0 : Word
  gmem1 : Word
  gdom : Word
  gwin : Word
  gpar : Word
  st : Nat
  lostmap : BitVec 16
  rst : Nat
  lastc : BitVec 32
  agreed : List Nat
  deltas : List Delta
  notices : List Nat
  aborts : List Nat
  decided : Bool
  acks : List Nat
  answers : List (Nat × Bool)
  doomed : Bool
  collecting : Bool
  deriving DecidableEq, Repr

/-- An entry of the round log (R377): home byte and virtual address of the sector, round, group, kind, old sector, and its place in the
log. -/
structure LogEntry where
  key : Nat
  va : Word
  round : Nat
  grp : Nat
  kind : Nat
  old : BitVec 512
  at_ : Nat
  deriving DecidableEq, Repr

/-- An entry of the pending-parity log (R377) with its place in the log. -/
structure PendEntry where
  off : Nat
  round : Nat
  grp : Nat
  decision : Bool
  member : Nat
  delta : BitVec 512
  at_ : Nat
  deriving DecidableEq, Repr

/-- A group message (R374, R378, R380, R381), beside what every one names. `deltaAck` tells whether the delta is durable or was refused,
`chain` carries the sums of a stripe that is rebuilt, and `lost` tells that the sender has left the group. -/
inductive GroupMsg where
  | config (c : GroupCfg)
  | delta (off : Nat) (data : BitVec 512)
  | deltaAck (off : Nat) (durable : Bool)
  | prep
  | dec
  | decAck
  | out (outcome : Nat)
  | abt
  | qry
  | ans (committed : Bool)
  | lost
  | chain (p : Stripe)
  deriving DecidableEq, Repr

/-- A message that the package sends (R275, R315, R378, R390): group messages to a member, joins, stores to packages of its set and to others
(R358), reports. -/
inductive Msg where
  | group (member : Nat) (h : GroupHdr) (m : GroupMsg)
  | join (slot peer seqno kind : Nat)
  | store (pkg : Nat) (w : PeerStore)
  | remote (pkg addr : Nat) (data : List Byte)
  | late (slot peer : Nat) (l : LateStore)
  | msix (fn vec : Nat)
  deriving DecidableEq, Repr

/-- An eye-margin monitor (R384). -/
structure Eye where
  lst : Nat
  vmin : BitVec 8
  hmin : BitVec 8
  vm : BitVec 8
  hm : BitVec 8
  deriving DecidableEq, Repr

/-- A retraining slice, waiting or in progress, and the clock of the last slice of its link (R385). -/
structure Slice where
  die : Nat
  lane : BitVec 24
  active : Bool
  last : Option Nat
  asked : Bool
  deriving DecidableEq, Repr

/-- The thermal state of a die (spec/20_platform.md R400, R401): `THRM` fields, entry time of the zone, its 12 junction sensors in tenths
of a degree, once they have been read, and the highest and the lowest of them. -/
structure Thermal where
  tcl : Nat
  tdie : BitVec 8
  zone : Nat
  thc : Nat
  tht : Nat
  thw : Nat
  since : Nat
  sensors : List Int
  reading : Int
  coldest : Int
  deriving DecidableEq, Repr

/-- The cold start of a die (R395): step 0 off, 1 to 6 C1 to C6, 7 done, when C3 was first entered, and COOLREQ. -/
structure Cold where
  step : Nat
  heat : Option Nat
  coolReq : Bool
  deriving DecidableEq, Repr

/-- The mailbox of one function (R387, R394): what the host has written, the reply and the return code, the nonce that STATUS returned and no RESTART
has used, and the key of its link encryption. -/
structure Mailbox where
  opcode : BitVec 16
  payload : List Byte
  reply : List Byte
  status : Nat
  nonce : Option (BitVec 256)
  ide : Option (BitVec 256)
  deriving DecidableEq, Repr

/-- A mailbox before any command. -/
def Mailbox.reset : Mailbox := ⟨0, [], [], 0, none, none⟩

/-- The boot chain (R391 to R394); `image` is the firmware that step 2 verified, `keys` the list of program-image keys measured in MR3, `boxes` holds the mailbox of each function, and `caller` is the function whose doorbell rang last. -/
structure Boot where
  starts : Nat
  step : Nat
  minimal : Bool
  reasons : List Nat
  staged : List Byte
  image : List Byte
  config : List Byte
  stagedCfg : List Byte
  bootok : Bool
  deadline : Nat
  mr : List (BitVec 256)
  keys : List (List Byte)
  boxes : Tbl Mailbox
  caller : Nat
  deriving DecidableEq, Repr

/-- One entry of the freeze log of the mailbox of function `fn` (R387, R390). -/
structure Freeze where
  fn : Nat
  master : Nat
  cap : Nat
  addr : Nat
  live : Bool
  deriving DecidableEq, Repr

/-- The platform units of the package, and its number in the pod. `configs` keeps the latest configuration of each member by group
identifier and member index (R374), and `failedLinks` the links that training has marked failed, by die, kind and index (R383). `links`
are those that are trained and on, `onQuads` and `onStacks` the quads and stacks with power (R395, R398), and `freqs` the frequencies of
quads that no cohort holds, in steps of 25 MHz (R396). `caps` tells that a platform configuration has been loaded; `egress` counts the bytes
of capped masters by fabric port, and `hostOut` those to the host, each with the number of its window (R390). `hdm` holds base and size of
each function's range (R387), `inlet` the coolant inlet in whole degrees (R400), and `arrivals` the power-up requests of this clock (R398). -/
structure Plat where
  pkg : Nat
  groups : Tbl Group
  plog : Word
  ppend : Word
  rlog : List LogEntry
  pend : List PendEntry
  configs : List (Nat × Nat × GroupCfg)
  msgs : List Msg
  eyesel : Tbl Word
  eyethr : Tbl Word
  eyes : Tbl Eye
  slices : List Slice
  failedLinks : List (Nat × Nat × Nat)
  links : List (Nat × Nat × Nat)
  onQuads : List Nat
  onStacks : List Nat
  freqs : Tbl Nat
  caps : Bool
  hdm : Tbl (Nat × Nat)
  egress : Tbl (Nat × Nat)
  hostOut : Nat × Nat
  inlet : Int
  arrivals : List Inrush
  partcfg : Tbl Word
  capegr : Word
  caplim : Word
  capwin : Map 64
  frozen : List Nat
  flog : List Freeze
  boot : Boot
  units : Nat
  fifo : List Inrush
  waking : List Inrush
  droops : List Nat
  temps : Tbl Thermal
  cold : Tbl Cold
  afence : Map 16
  deriving DecidableEq, Repr

/-- The state of a package. `cur` is the core and stream code that executes; `free` counts the free values taken, `uid` the
accesses numbered, `done` the phased writes performed. `inputs` holds acts of the outside not yet taken, `timers` the events
due at a clock. -/
structure State where
  clock : Nat
  ns : Nat
  frac : Nat
  cur : Nat × Nat
  cores : Tbl Core
  slots : Tbl Slot
  qs : Map 8
  dev : Map 8
  outs : List Access
  tlb1 : Tbl (List TlbEntry)
  tlb2 : Tbl (List TlbEntry)
  tlbi : List (Nat × Instr)
  inputs : List Instr
  timers : List (Nat × Instr)
  free : Nat
  uid : Nat
  done : Nat
  plat : Plat
  deriving DecidableEq, Repr

/-! ## Reset values -/

/-- A stream before its launch. -/
def Stream.reset : Stream :=
  { text := [], textLen := 0, pc := 0, base := 0, loops := [], lring := none, ret := [], flags := 0, segp := 0, lk := [],
    cu := [0, 0, 0, 0], seals := [], dtrap := [0, 0, 0, 0, 0], act := none,
    now := { pc := 0, word := 0, tc := 0, guard := true, ranges := [], idx := 0, stages := 7, lcs := [], stamp := none },
    before := [], join := none, stamp := none, fences := 0, main := none, stopped := false, ended := false }

/-- The array of R21 and R243. -/
def Array.reset : Array :=
  { acc := [], evt := [0, 0], swap := false, wset := [], wfmt := [1, 1, 1, 1], active := 0, switch := none, fused := false,
    report := false, held := [], fwd := 0, last := [], taint := [], evtTaint := [0, 0], drained := [], unsound := 0 }

/-- The supervisor state of R339. -/
def Sup.reset : Sup :=
  { admission := 0x6401020408, running := false, blocked := false, frozen := false, busy := 0, epc := 0, cause := 0, evec := 0, watch := [], events := [],
    handling := false, lost := false, flogb := 0, flogp := 0, seq := 0, migsrc := [], migtlbi := [], migctl := [], moved := [], bad := [], waiting := [] }

/-- A core before its launch, with the values of R21. -/
def Core.reset : Core :=
  { slot := 0, rank := 0, streams := [], s := [], h := [], sel := 0, upda := 0, updb := 0, hist := [], v := [], t := [],
    k := [(0, BitVec.allOnes 4096), (1, BitVec.allOnes 4096), (2, BitVec.allOnes 4096), (3, BitVec.allOnes 4096)],
    vshape := 0x803FF#32, allot := 32, banks := [.on, .on, .on, .on], queues := [], qmin := [0, 0, 0, 0, 0, 0, 0, 0],
    qcap := [512, 512, 512, 512, 512, 512, 512, 512], fq := [], tok := [0, 0, 0, 0, 0], tokActs := [], pushes := [],
    fpushes := [], arr := Array.reset, wb := [], cb := [], sp := [], priv := [], bobj := [], sup := Sup.reset }

/-- A free slot (R339). -/
def Slot.reset : Slot :=
  { st := 0, stop := 0, sup := 0, kind := 0, w := 0, ht := 0, npkg := 1, pkgs := [], prank := 0, die := 0, quad := 0, members := [],
    horizon := 24, scope := 2, splim := 0, privSz := [0, 0, 0, 0, 0], latcls := [40, 400, 1200, 2400], segs := [], curts := [],
    mtext := false, image := 0, save := 0, savesz := 0, root := 0, groot := 0, dsrt := 0, prio := 0, savedNs := 0, ceil := 0,
    decl := 0, curDist := 0x400000, curDistNow := 0x400000, holdwd := 0x684EE180, ydead := 0x1AB3F0, polite := none,
    withdrawn := [], due := none, ymark := none, kill := none, ncoop := 0, nforce := 0, lease := none, lrem := (0, 0),
    energy := 0, startAt := none, tc := 0, opened := false, held := none, freq := 70, phase := 0, clk := 0, tuning := none, reqs := [], heldClks := 0, wdog := 0, lands := [], landed := [],
    links := [], log := [], bounds := [], npod := 0, base := [], outside := [], acq := [], prevPt := 0,
    traps := [], faultsNow := [], dueFaults := [], fatal := none, stopTc := 0, later := [], recs := [], grpOf := [], rounds := [], marks := [], roundOps := [],
    collOf := [], colls := [], joinSeq := 0, joinSent := 0, joinMsgs := [], curtain := 0, dpoint := 0, seldp := 0,
    kept := [], resume := .none, stubs := 0, reentry := [], faults := [], failed := false, acqs := [], past := [] }

/-- A round of a slot before any (R283). -/
def Round.idle : Round :=
  { st := .idle, num := 0, start := ⟨0, 0⟩, opener := 0, prepTc := ⟨0, 0⟩, preparer := 0, committer := 0, doomed := false, settled := none, undo := [] }

/-- A protection group (R373). -/
def Group.reset : Group :=
  { die := 0, gcfg := 0, gmem0 := 0, gmem1 := 0, gdom := 0, gwin := 0, gpar := 0, st := 0, lostmap := 0, rst := 0, lastc := 0,
    agreed := [], deltas := [], notices := [], aborts := [], decided := false, acks := [], answers := [], doomed := false,
    collecting := false }

/-- An eye-margin monitor (R384). -/
def Eye.reset : Eye := { lst := 0, vmin := 0xFF, hmin := 0xFF, vm := 0, hm := 0 }

/-- `EYETHR` (R384): AREP and ARET set, thresholds 10, 12, 20 and 24. -/
def eyethrReset : Word := 0x30A0C1418

/-- `THRM` of a die (R400). -/
def Thermal.reset : Thermal :=
  { tcl := 6, tdie := 0, zone := 0, thc := 115, tht := 105, thw := 95, since := 0, sensors := [], reading := 0, coldest := 0 }

/-- A die before its cold start (R395). -/
def Cold.reset : Cold := { step := 0, heat := none, coolReq := false }

/-- The boot chain at reset (R391 to R393). -/
def Boot.reset : Boot :=
  { starts := 0, step := 0, minimal := false, reasons := [], staged := [], image := [], config := [],
    stagedCfg := [], bootok := false, deadline := 0, mr := [0, 0, 0, 0, 0, 0, 0, 0], keys := [], boxes := [], caller := 0 }

/-- The platform units at reset. -/
def Plat.reset : Plat :=
  { pkg := 0, groups := [], plog := 0, ppend := 0, rlog := [], pend := [], configs := [], msgs := [], eyesel := [], eyethr := [],
    eyes := [], slices := [], failedLinks := [], links := [], onQuads := [], onStacks := [], freqs := [], caps := false, hdm := [],
    egress := [], hostOut := (0, 0), inlet := 0, arrivals := [], partcfg := [], capegr := 0, caplim := 0, capwin := [], frozen := [], flog := [],
    boot := Boot.reset, units := 0, fifo := [], waking := [], droops := [], temps := [], cold := [], afence := [] }

/-- The package right after reset: nothing is listed in any memory, no cohort is loaded, no supervisor core runs yet (R391
step 5 starts them). -/
def State.reset : State :=
  { clock := 0, ns := 0, frac := 0, cur := (0, 0), cores := [], slots := [], qs := [], dev := [], outs := [], tlb1 := [],
    tlb2 := [], tlbi := [], inputs := [], timers := [], free := 0, uid := 0, done := 0, plat := Plat.reset }

end Sys2Proof.Machine
end

