-- ==== Sys2Proof/Machine/Ops.lean ====
section
/-! DEFINITION. The named operations over the state: reading and updating cores, streams and slots, timed writes, queues and
tokens, register fields, the recording of fatal faults and traps, and event delivery to supervisor cores. -/

namespace Sys2Proof.Machine

/-! ## Access -/

/-- Core `c`. -/
def State.core (s : State) (c : Nat) : Core := Tbl.get Core.reset s.cores c

/-- Replaces core `c`. -/
def State.setCore (s : State) (c : Nat) (x : Core) : State := { s with cores := Tbl.set s.cores c x }

/-- Changes core `c`. -/
def State.modCore (s : State) (c : Nat) (f : Core → Core) : State := s.setCore c (f (s.core c))

/-- Cohort slot `n`. -/
def State.slot (s : State) (n : Nat) : Slot := Tbl.get Slot.reset s.slots n

/-- Changes slot `n`. -/
def State.modSlot (s : State) (n : Nat) (f : Slot → Slot) : State := { s with slots := Tbl.set s.slots n (f (s.slot n)) }

/-- Stream `st` of a core. -/
def Core.stream (x : Core) (st : Nat) : Stream := Tbl.get Stream.reset x.streams st

/-- Changes a stream of a core. -/
def Core.modStream (x : Core) (st : Nat) (f : Stream → Stream) : Core :=
  { x with streams := Tbl.set x.streams st (f (x.stream st)) }

/-- Changes stream `st` of core `c`. -/
def State.modStreamAt (s : State) (c st : Nat) (f : Stream → Stream) : State := s.modCore c fun x => x.modStream st f

/-- The executing core. -/
def State.me (s : State) : Core := s.core s.cur.1

/-- The executing stream. -/
def State.str (s : State) : Stream := s.me.stream s.cur.2

/-- The slot of the executing core. -/
def State.my (s : State) : Slot := s.slot s.me.slot

/-- Changes the executing core. -/
def State.modMe (s : State) (f : Core → Core) : State := s.modCore s.cur.1 f

/-- Changes the executing stream. -/
def State.modStr (s : State) (f : Stream → Stream) : State := s.modStreamAt s.cur.1 s.cur.2 f

/-- Changes the executing core's slot. -/
def State.modMy (s : State) (f : Slot → Slot) : State := s.modSlot s.me.slot f

/-- Changes the platform units. -/
def State.modPlat (s : State) (f : Plat → Plat) : State := { s with plat := f s.plat }

/-- Supervisor cores are numbered from 768 (R329). -/
def isSup (c : Nat) : Bool := 768 ≤ c

/-- The die of a core (R7, R329). -/
def dieOf (c : Nat) : Nat := if isSup c then (c - 768) / 2 else c / 96

/-- The package quad of a core (R7). -/
def quadOf (c : Nat) : Nat := c / 4

/-- The stream of a code (R10). -/
def streamId (n : Nat) : StreamId :=
  match n with
  | 0 => .C | 1 => .L | 2 => .M | 3 => .V | _ => .S

/-- The executing stream's code as a name; a supervisor core executes control instructions as C does (R329). -/
def State.sid (s : State) : StreamId := if isSup s.cur.1 then .C else streamId s.cur.2

/-- The tc that the executing cohort executes. -/
def State.tc (s : State) : Nat := s.my.tc

/-- The stage guard of the word in execution (R46, R47). -/
def State.guard (s : State) : Bool := s.str.now.guard

/-- The cohort keeps a timetable: it is RUNNING, or its wind-up stubs run (R322, R333). -/
def Slot.live (x : Slot) : Bool := x.st == 2 || x.resume == .stubs

/-- A tc as the program and its records see it: the curtain's tc T throughout the stubs (R322). -/
def Slot.outTc (x : Slot) (t : Nat) : Nat := if x.resume = .stubs then x.stubs else t

/-- The curtain's tc T while wind-up stubs run (R322). -/
def Slot.stubOf (x : Slot) : Option Nat := if x.resume = .stubs then some x.stubs else none

/-- One moment lies before another. -/
def Moment.before (a b : Moment) : Bool := a.tc < b.tc || (a.tc == b.tc && a.stub < b.stub)

/-- The moment of tc `t` as the slot counts: inside a stub the curtain's tc, by stub count (R128, R322; notes/assumptions/22.md). -/
def Slot.writeTc (x : Slot) (t : Nat) : Moment :=
  match x.stubOf with
  | some u => ⟨u, t + 1⟩
  | none => ⟨t, 0⟩

/-- The tc of an access as records name it: the curtain's in a stub (R322). -/
def Access.outTc (a : Access) : Nat := a.stub.getD a.tc

/-- The moment of the coherence key of an access (R128; notes/assumptions/22.md). -/
def Access.keyTc (a : Access) : Moment := match a.stub with
  | some u => ⟨u, a.tc + 1⟩
  | none => ⟨a.tc, 0⟩

/-- The moment at which an access reads: that of its instruction (R127, R322). -/
def Access.issueTc (a : Access) : Moment := match a.stub with
  | some u => ⟨u, a.issue.tc + 1⟩
  | none => ⟨a.issue.tc, 0⟩

/-- The tc of an access's fault as its slot counts now: an access from outside a running stub fails at its present count, and one of a
stub that has ended at the curtain's tc (R322; notes/assumptions/22.md). -/
def Slot.faultTc (x : Slot) (a : Access) (t : Nat) : Nat :=
  if a.stub = x.stubOf then t
  else match x.stubOf with
    | some _ => x.tc
    | none => a.outTc

/-! ## Little-endian numbers -/

/-- The value of bytes, lowest first (R2). -/
def leNat : List Byte → Nat
  | [] => 0
  | b :: bs => b.toNat + 256 * leNat bs

/-- The `n` bytes of a number, lowest first (R2). -/
def leBytes : Nat → Nat → List Byte
  | 0, _ => []
  | n + 1, x => BitVec.ofNat 8 x :: leBytes n (x / 256)

/-- Bytes as a queue entry, zero beyond them (R93). -/
def entryOf (bs : List Byte) : Entry := BitVec.ofNat 2048 (leNat bs)

/-- The 256 bytes of an entry. -/
def entryBytes (e : Entry) : List Byte := leBytes 256 e.toNat

/-- A word in the low bytes of an entry (R177, R270). -/
def wordEntry (w : Word) : Entry := w.zeroExtend 2048

/-- The word in the low bytes of an entry (R178, R282). -/
def entryWord (e : Entry) : Word := e.extractLsb' 0 64

/-! ## Register fields -/

/-- The number that a register of a space has among the ring bases of its stream (R141): tiles from 32, predicates
k4 to k7 from 40. -/
def ringCode (sp : Space) (n : Nat) : Nat :=
  match sp with
  | .T => 32 + n
  | .K => 36 + n
  | _ => n

/-- The declared range that contains a code (R45). -/
def rangeFor : List (Nat × Nat) → Nat → Option (Nat × Nat)
  | [], _ => none
  | (b, l) :: rs, c => if b ≤ c && c < b + l then some (b, l) else rangeFor rs c

/-- The register that a field names, after rotation (R45, R139). -/
def regNum (w : Issue) (sp : Space) (f : BitVec 7) : Nat :=
  let n := f.toNat % 64
  if f.getLsbD 6 then
    match rangeFor w.ranges (ringCode sp n) with
    | some (b, l) => n - (ringCode sp n - (b + (ringCode sp n - b + (w.idx - 1)) % l)) +
        ((b + (ringCode sp n - b + (w.idx - 1)) % l) - ringCode sp n)
    | none => n
  else n

/-- The register that a field of the word in execution names (`reg` of R148). -/
def State.reg (s : State) (sp : Space) (f : BitVec 7) : Nat := regNum s.str.now sp f

/-- Scalar register `n` of a core; `s0` reads zero (R139). -/
def Core.sGet (x : Core) (n : Nat) : Word := if n = 0 then 0 else Map.get x.s n

/-- The scalar that a field names (R139, R158). -/
def State.rs (s : State) (f : BitVec 7) : Word := s.me.sGet (s.reg .S f)

/-- The value that scalar register `n` (64: `SEL`) had after the writes of tc `t` (R26, R50): `hist` lists, newest first, the
landing tc, the register and the value before each write. -/
def Core.sAt (x : Core) (n t : Nat) : Word :=
  x.hist.foldl (fun v e => if e.2.1 = n && t < e.1 then e.2.2 else v)
    (if n = 64 then x.sel else x.sGet n)

/-- Writes a scalar register under a mask and remembers its value before; `s0` ignores writes (R139). -/
def Core.sSet (x : Core) (tc n : Nat) (mask val : Word) : Core :=
  if n = 0 then x
  else
    { x with
      s := Map.set x.s n (Map.get x.s n &&& ~~~mask ||| val &&& mask)
      hist := (tc, n, Map.get x.s n) :: x.hist.filter fun e => tc < e.1 + 256 }

/-- Writes `SEL` and remembers its value before (R50, R179). -/
def Core.selSet (x : Core) (tc : Nat) (v : Word) : Core :=
  { x with sel := v, hist := (tc, 64, x.sel) :: x.hist.filter fun e => tc < e.1 + 256 }

/-! ## Timed writes -/

/-- The stores of a core as byte maps; `qs` belongs to the quad. -/
def State.file (s : State) (c : Nat) (f : File) : Map 8 :=
  match f with
  | .priv => (s.core c).priv
  | .sp => (s.core c).sp
  | .qs => s.qs
  | .v => (s.core c).v
  | .t => (s.core c).t
  | .wb => (s.core c).wb
  | .cb => (s.core c).cb

/-- The key of the first byte of a core's part of a store: quad-shared SRAM is one map of 8 MiB per quad. -/
def fileBase (c : Nat) (f : File) : Nat :=
  match f with
  | .qs => quadOf c * 0x800000
  | _ => 0

/-- Writes consecutive bytes of a store of core `c`. -/
def State.setFile (s : State) (c : Nat) (f : File) (key : Nat) (bs : List Byte) : State :=
  let m := Map.setRun (s.file c f) (fileBase c f + key) bs
  match f with
  | .qs => { s with qs := m }
  | .priv => s.modCore c fun x => { x with priv := m }
  | .sp => s.modCore c fun x => { x with sp := m }
  | .v => s.modCore c fun x => { x with v := m }
  | .t => s.modCore c fun x => { x with t := m }
  | .wb => s.modCore c fun x => { x with wb := m }
  | .cb => s.modCore c fun x => { x with cb := m }

/-- Reads consecutive bytes of a store of core `c`. -/
def State.getFile (s : State) (c : Nat) (f : File) (key n : Nat) : List Byte :=
  Map.getRun (s.file c f) (fileBase c f + key) n

/-- Replaces element `n` of a list. -/
def setAt {α : Type} : List α → Nat → α → List α
  | [], _, _ => []
  | _ :: xs, 0, y => y :: xs
  | x :: xs, n + 1, y => x :: setAt xs n y

/-- A fault of stream `st` of core `c` at tc `t`, at the word that the stream executes. -/
def State.faultRec (s : State) (c st : Nat) (k : FaultKind) (d t : Nat) (addr : Word) (space : Nat) : FaultRec :=
  let x := (s.core c).stream st
  ⟨k, d, c, st, t, x.now.pc, x.now.word, addr, space, x.cu, none, none⟩

/-- The instruction whose piece a fault interrupts, if it is the word that its stream executes and the fault arose inside it (R188). -/
def State.interrupted (s : State) (r : FaultRec) : Option Act :=
  let x := (s.core r.core).stream r.stream
  if x.now.pc = r.pc && (r.kind != .deviation || r.detail = 4 || r.detail = 5) then x.act else none

/-- Records a fatal fault; its stream issues nothing more (R33). The faults of a tc are ordered when the tc ends. -/
def State.addFault (s : State) (n : Nat) (r : FaultRec) : State :=
  let r := { r with rest := match r.rest with
    | some a => some a
    | none => s.interrupted r }
  (s.modSlot n fun x => { x with faultsNow := x.faultsNow ++ [r] }).modStreamAt r.core r.stream fun x =>
    { x with stopped := true, act := none }

/-- Records a fatal fault of stream `st` of core `c` at the tc of its cohort (`fault` of R148). -/
def State.faultAt (s : State) (c st : Nat) (k : FaultKind) (d : Nat) (addr : Word) (space : Nat) : State :=
  let n := (s.core c).slot
  s.addFault n (s.faultRec c st k d (s.slot n).tc addr space)

/-! ## Barrier objects -/

/-- Barrier object `n` of a core (R206). -/
def Core.obj (x : Core) (n : Nat) : BObj := Tbl.get ⟨.idle, 0, 0, 0, [], 0⟩ x.bobj n

/-- The bytes of a range that some covered range holds (R207). -/
def coveredBytes (cover : List (Word × Nat)) (p : Word) (len : Nat) : Nat :=
  ((List.range len).filter fun i => cover.any fun r => r.1.toNat ≤ p.toNat + i && p.toNat + i < r.1.toNat + r.2).length

/-- Offers landed bytes to object `o` of core `c` (R207, R210): an ARMED object that covers them counts them, and opens at its
total; bytes for an OPEN object are the sender's fault 0x02. The phased write that carried them, by the number of its performance,
remembers who counted it; a timed write has none. -/
def State.offerTo (s : State) (sender stream pc : Nat) (word : Word) (o : Nat) (p : Word) (len wr c : Nat) : State :=
  let b := (s.core c).obj o
  let k := coveredBytes b.cover p len
  let n := (s.core sender).slot
  let late := s.addFault n
    { s.faultRec sender stream .barrier 2 (s.slot n).tc p (0x80 + p.toNat / 2 ^ 60) with pc := pc, word := word }
  if k = 0 then s
  else
    match b.st with
    | .idle => s
    | .opened => late
    | .armed =>
      let s := s.modSlot n fun x => { x with log := x.log.map fun w =>
        if wr != 0 && w.done == wr && w.offer == some o then { w with counted := w.counted ++ [(c, o, b.uses)] } else w }
      let b' : BObj := { b with count := b.count + k, st := if b.total ≤ b.count + k then .opened else .armed }
      let s := s.modCore c fun x => { x with bobj := Tbl.set x.bobj o b' }
      if b.total < b.count + k then
        s.addFault n { s.faultRec sender stream .barrier 2 (s.slot n).tc p (0x80 + p.toNat / 2 ^ 60) with pc := pc, word := word }
      else s

/-- Offers landed bytes to the objects of a number on every member core (R207). -/
def State.offer (s : State) (sender stream pc : Nat) (word : Word) (o : Nat) (p : Word) (len wr : Nat) : State :=
  (s.slot (s.core sender).slot).members.foldl (fun s c => s.offerTo sender stream pc word o p len wr c) s

/-! ## Accumulator banks -/

/-- The key of an accumulator element by bank contents, row and column (R96). -/
def accKey (bank row col : Nat) : Nat := bank * 18432 + row * 192 + col

/-- The bank events of a step's flags (R256): AOVF, ASAT in integer mode, AINV. -/
def bankEvt (int : Bool) (fl : Flags) : BitVec 3 :=
  (if fl &&& fOvf != 0 then 1 else 0) ||| (if int && fl &&& fInx != 0 then 2 else 0) ||| (if fl &&& fInv != 0 then 4 else 0)

/-- Writes an accumulator element and sets the events of its step, which stand from the next tc on (R247, R256). -/
def State.accLand (s : State) (tc c bank key : Nat) (v : BitVec 32) (ev : BitVec 3) : State :=
  let s := s.modCore c fun x => { x with arr := { x.arr with acc := Map.set x.arr.acc key v } }
  if ev = 0 then s
  else s.modSlot (s.core c).slot fun x => { x with lands := x.lands ++ [⟨tc + 1, (s.core c).rank, 2, 0, c, .accEvt bank ev⟩] }

/-- The sub-arrays that a sum of a column uses (R265): its columns' upper one, and the lower one where cell rows from 32 on take part. -/
def subArrays (col : Nat) (deep : Bool) : BitVec 4 :=
  BitVec.ofNat 4 (2 ^ (col % 64 / 32) + if deep then 2 ^ (2 + col % 64 / 32) else 0)

/-- An accumulator element and its bank's event bits take in a result of some sub-arrays, or replace the element by it (R265). -/
def State.stain (s : State) (c bank key : Nat) (keep : Bool) (bits : BitVec 4) : State :=
  s.modCore c fun x =>
    { x with arr := { x.arr with
      taint := Map.set x.arr.taint key ((if keep then Map.get x.arr.taint key else 0) ||| bits)
      evtTaint := setAt x.arr.evtTaint bank (x.arr.evtTaint.getD bank 0 ||| bits) } }

/-- Applies a timed write to core `c` at tc `tc` (R98, R124, R158). -/
def State.apply (s : State) (tc c : Nat) (e : Eff) : State :=
  match e with
  | .s n m v => s.modCore c fun x => x.sSet tc n m v
  | .h n m v => s.modCore c fun x => { x with h := Map.set x.h n (Map.get x.h n &&& ~~~m ||| v &&& m) }
  | .csr n v => s.modCore c fun x =>
    if n = 2 then x.selSet tc v else if n = 16 then { x with upda := v } else { x with updb := v }
  | .flags st set => s.modStreamAt c st fun x => { x with flags := x.flags ||| set }
  | .flagsClear st clr =>
    let late := fun a : Access => match a.flags with
      | some (t, d) => if a.core = c && a.stream = st && t + 1 < tc then { a with flags := some (t, d ||| clr) } else a
      | none => a
    { s.modStreamAt c st fun x => { x with flags := x.flags &&& ~~~clr } with outs := s.outs.map late }
  | .bytes f key d => s.setFile c f key d
  | .k n m v => s.modCore c fun x => { x with k := Map.set x.k n (Map.get x.k n &&& ~~~m ||| v &&& m) }
  | .mac b row col ovw int deep sums =>
    match sums with
    | [] => s
    | (v, ev) :: _ =>
      let key := accKey b row col
      let s := s.stain c b key (!ovw) (subArrays col deep)
      if (s.core c).arr.unsound &&& subArrays col deep != 0 then
        { s.accLand tc c b key (BitVec.ofNat 32 (Config.freeNat s.free)) (BitVec.ofNat 3 (Config.freeNat (s.free + 1))) with free := s.free + 2 }
      else if ovw then s.accLand tc c b key v ev
      else
        let r := fadd (Map.get (s.core c).arr.acc key) v
        s.accLand tc c b key r.1 (ev ||| bankEvt int r.2)
  | .acc b row p add vals =>
    ((List.range 64).zip vals).foldl
      (fun s (e : Nat × BitVec 32) =>
        let key := accKey b row (64 * p + e.1)
        if add then
          let r := fadd (Map.get (s.core c).arr.acc key) e.2
          s.accLand tc c b key r.1 (bankEvt false r.2)
        else (s.stain c b key false 0).accLand tc c b key e.2 0) s
  | .accZero b row rows p ps => s.modCore c fun x =>
    let zero := fun {w : Nat} (m : Map w) => (List.range rows).foldl (fun m r => Map.clearRun m (accKey b (row + r) (64 * p)) (64 * ps)) m
    { x with arr := { x.arr with acc := zero x.arr.acc, taint := zero x.arr.taint } }
  | .accEvt b set => s.modCore c fun x =>
    { x with arr := { x.arr with evt := setAt x.arr.evt b ((x.arr.evt.getD b 0) ||| set) } }
  | .cursors st cu => s.modStreamAt c st fun x => { x with cu := cu }
  | .bobj n p len pc word => s.offer c 4 pc word n p len 0
  | .bobjSet n o => s.modCore c fun x => { x with bobj := Tbl.set x.bobj n o }
  | .swapBanks => s.modCore c fun x => { x with arr := { x.arr with swap := !x.arr.swap } }
  | .switchSet a b => s.modCore c fun x =>
    let v := 1 - x.arr.active
    { x with arr := { x.arr with active := v, switch := none, wfmt := setAt (setAt x.arr.wfmt (2 * v) a) (2 * v + 1) b } }
  | .fuse on => s.modCore c fun x => { x with arr := { x.arr with fused := on } }
  | .policy r => s.modCore c fun x => { x with arr := { x.arr with report := r } }
  | .vshape v => s.modCore c fun x => { x with vshape := v }
  | .allot n => s.modCore c fun x => { x with allot := n, v := Map.clearRun x.v (4096 * n) (4096 * (32 - n)) }
  | .bank b off ret => s.modCore c fun x =>
    { x with banks := setAt x.banks b (if off then .off else if ret then .retention else .on)
             v := if off then Map.clearRun x.v (32768 * b) 32768 else x.v }

/-- The place of a write among those of its stream: by the issue tc of its instruction, then by piece (R125, R158). -/
def landSeq (issue piece : Nat) : Nat := issue * 2 ^ 20 + piece

/-- The place of a write that the executing stream makes now. -/
def Stream.landSeq (x : Stream) : Nat :=
  Sys2Proof.Machine.landSeq x.now.tc (match x.act with
    | some a => a.j
    | none => 0)

/-- A timed write of the executing stream to core `c`, visible from tc `t` on (`land` of R148). On a supervisor core, which
keeps no timetable, the write is done when its instruction completes (R329). -/
def State.landOn (s : State) (c t : Nat) (e : Eff) : State :=
  if isSup s.cur.1 then s.apply 0 c e
  else s.modMy fun x => { x with lands := x.lands ++ [⟨t, s.me.rank, s.cur.2, s.str.landSeq, c, e⟩] }

/-- A timed write of the executing stream to its own core. -/
def State.land (s : State) (t : Nat) (e : Eff) : State := s.landOn s.cur.1 t e

/-- Writes a whole scalar register at tc `t`. -/
def State.landS (s : State) (f : BitVec 7) (t : Nat) (v : Word) : State :=
  s.land t (.s (s.reg .S f) (BitVec.allOnes 64) v)

/-- Sets sticky flags of the executing stream on tc `t` (`setflag` of R148): reads from `t + 1` on see them (R80). -/
def State.setFlags (s : State) (t : Nat) (fl : BitVec 6) : State :=
  if fl = 0 then s else s.land (t + 1) (.flags s.cur.2 fl)

/-- The place of a pending write among those of one tc: flag clears before flag sets (R80) and objects' new states before the
bytes they count (R208), then cohort rank, then stream, then the order of issue and piece (R125, R158). -/
def Land.before (a b : Land) : Bool :=
  let cls := fun l : Land => match l.eff with
    | .flagsClear _ _ => 0
    | .bobjSet _ _ => 0
    | _ => 1
  a.tc < b.tc || (a.tc == b.tc && (cls a < cls b || (cls a == cls b &&
    (a.rank < b.rank || (a.rank == b.rank && (a.stream < b.stream || (a.stream == b.stream && a.seq ≤ b.seq)))))))

/-- Inserts a write behind those that stand before it or beside it. -/
def insertLand : List Land → Land → List Land
  | [], l => [l]
  | x :: xs, l => if l.before x && !x.before l then l :: x :: xs else x :: insertLand xs l

/-- The writes in the order in which they take effect. -/
def sortLands (ls : List Land) : List Land := ls.foldl insertLand []

/-- What is left of a write after its landing tc: the later columns of an A-row, in its place (R255). -/
def Land.rest (l : Land) : Option Land :=
  match l.eff with
  | .mac b row col ovw int deep (_ :: v :: vs) => some { l with tc := l.tc + 1, eff := .mac b row (col + 1) ovw int deep (v :: vs) }
  | _ => none

/-- A write that sets what it names whatever stood there: made again after others of its tc, it stands over them. -/
def Eff.sets : Eff → Bool
  | .s _ _ _ | .h _ _ _ | .csr _ _ | .bytes _ _ _ | .k _ _ _ => true
  | _ => false

/-- What is left of a run of bytes outside another: first byte and length of each part. -/
def runOutside (k n k2 n2 : Nat) : List (Nat × Nat) :=
  [(k, min (k + n) k2 - k), (max k (k2 + n2), (k + n) - max k (k2 + n2))].filter fun r => r.2 != 0

/-- What a drain has put out and a write leaves standing: a timed write after the drain's own takes its bytes away from it (R125, R265). -/
def Drained.under (d : Drained) (rank : Nat) (l : Land) : Drained :=
  let own : Land := ⟨d.lands, rank, 2, d.seq, 0, l.eff⟩
  match l.eff with
  | .bytes f key bs =>
    if l.before own then d
    else { d with timed := d.timed.flatMap fun r =>
      if r.2.1 = f && (f == .qs || r.1 = l.core) then
        (runOutside r.2.2.1 r.2.2.2 (fileBase l.core f + key) bs.length).map fun k => (r.1, f, k.1, k.2)
      else [r] }
  | _ => d

/-- A write has taken effect: what drains had put in its place stands no more. -/
def State.overDrained (s : State) (n : Nat) (l : Land) : State :=
  (s.slot n).members.foldl
    (fun s c => if (s.core c).arr.drained.isEmpty then s
      else s.modCore c fun x => { x with arr := { x.arr with drained := x.arr.drained.map fun d => d.under x.rank l } }) s

/-- Applies every write of slot `n` that lands at its tc or earlier. Where replies come late at a held tc, the writes that have already taken
effect at it are made again in their places among them (R38, R125). -/
def State.landDue (s : State) (n : Nat) : State :=
  let x := s.slot n
  let new_ := x.lands.filter fun l => l.tc ≤ x.tc
  if new_.isEmpty then s
  else
    let due := sortLands (new_ ++ x.landed)
    due.foldl (fun s l => (s.apply l.tc l.core l.eff).overDrained n l)
      (s.modSlot n fun x =>
        { x with lands := x.lands.filterMap fun l => if x.tc < l.tc then some l else l.rest, landed := due.filter fun l => l.eff.sets })

/-! ## Faults and traps -/

/-- KIND of a report frame (R369). -/
def FaultKind.code : FaultKind → Nat
  | .deviation => 0x01 | .illegal => 0x02 | .wrongStream => 0x03 | .format => 0x04 | .handle => 0x05 | .pointer => 0x06
  | .foreign => 0x07 | .page => 0x08 | .record => 0x09 | .allotment => 0x0A | .gatedBank => 0x0B | .barrier => 0x0C
  | .matrix => 0x0D | .round => 0x0E | .collective => 0x0F | .curtainDistance => 0x10 | .curtainSelection => 0x11
  | .watchdog => 0x12 | .exchange => 0x13 | .uncorrectable => 0x14 | .linkLoss => 0x15 | .kill => 0x16 | .restore => 0x17

/-- Puts an event into the queue of a supervisor core (R341): the 33rd is lost. -/
def State.event (s : State) (c cause : Nat) (info : Word) : State :=
  s.modCore c fun x =>
    if x.sup.events.length < 32 then { x with sup := { x.sup with events := x.sup.events ++ [(cause, info)] } }
    else { x with sup := { x.sup with lost := true } }

/-- A word that a supervisor core does not accept: event cause 7 with the low half of its address (R329, R341, R342). -/
def State.misuse (s : State) : State := s.event s.cur.1 7 (BitVec.ofNat 64 (s.str.now.pc % 2 ^ 32))

/-- A fatal fault of the executing stream with an address and the space that its report names. A supervisor core takes a
misuse event instead (R329; notes/assumptions/3.md). -/
def State.faultPtr (s : State) (k : FaultKind) (d : Nat) (addr : Word) : State :=
  if isSup s.cur.1 then s.misuse
  else s.faultAt s.cur.1 s.cur.2 k d addr (0x80 + (addr.extractLsb' 60 4).toNat)

/-- A fatal fault of the executing stream that names no address. -/
def State.fault (s : State) (k : FaultKind) (d : Nat) : State :=
  if isSup s.cur.1 then s.misuse else s.faultAt s.cur.1 s.cur.2 k d 0 0

/-- A trap of the executing stream for the next curtain (`trap` of R148). -/
def State.trapRec (s : State) (code arg : Nat) (elem : Word) (from_ : Nat) : Trap :=
  ⟨code, s.me.rank, s.cur.2, s.cur.1, false, s.str.now.pc, arg, s.my.outTc s.str.now.tc, s.str.now.word, elem, s.my.outTc from_⟩

/-- Records a trap. -/
def State.addTrap (s : State) (t : Trap) : State := s.modMy fun x => { x with traps := x.traps ++ [t] }

/-! ## Queues -/

/-- Queue `q` of a core, head first. -/
def Core.queue (x : Core) (q : Nat) : List QEntry := Tbl.get [] x.queues q

/-- Replaces queue `q`. -/
def Core.setQueue (x : Core) (q : Nat) (es : List QEntry) : Core := { x with queues := Tbl.set x.queues q es }

/-- Pops the head of queue `q` at the executing tc and goes on with its bytes (R29, R94). An empty queue and an early pop are
timetable deviations. -/
def State.pop (s : State) (q : Nat) (k : Entry → State → State) : State :=
  match s.me.queue q with
  | [] => s.fault .deviation 0x04
  | e :: es =>
    if s.tc < e.ready then s.fault .deviation (if e.phased then 0x05 else 0x04)
    else k e.data (s.modMe fun x => x.setQueue q es)

/-- Appends an entry to queue `q` of core `c` when the tc ends, as its stream `order`; an overflow is the executing stream's
(R94, R203). -/
def State.pushTo (s : State) (c order q : Nat) (e : QEntry) : State :=
  s.modCore c fun x => { x with pushes := x.pushes ++ [⟨order, q, e, s.cur.1, s.cur.2⟩] }

/-- Pushes an entry onto queue `q`, landing at tc `t`: it joins the queue when the tc ends (R94). -/
def State.push (s : State) (q : Nat) (e : Entry) (t : Nat) : State :=
  s.pushTo s.cur.1 s.cur.2 q ⟨e, t, false, none, s.cur⟩

/-- Reserves an entry of queue `q` for access `id`, to be popped from tc `t` on (R29, R94). -/
def State.reserve (s : State) (q : Nat) (t id : Nat) : State := s.pushTo s.cur.1 s.cur.2 q ⟨0, t, true, some id, s.cur⟩

/-- Reserves a zero entry that no access fills. -/
def State.reserveZero (s : State) (q : Nat) (t : Nat) : State := s.pushTo s.cur.1 s.cur.2 q ⟨0, t, true, none, s.cur⟩

/-- The data of entry `id` of core `c` comes: the entry is outstanding no more (R29). -/
def State.fill (s : State) (c id : Nat) (e : Entry) : State :=
  let put := fun x : QEntry => if x.wait = some id then { x with data := e, wait := none } else x
  s.modCore c fun x =>
    { x with
      queues := x.queues.map fun (q : Nat × List QEntry) => (q.1, q.2.map put)
      pushes := x.pushes.map fun p => { p with entry := put p.entry } }

/-- Room for one more entry of queue `q` (R93). -/
def Core.hasRoom (x : Core) (q : Nat) : Bool :=
  let occ := fun i => (x.queue i).length
  let mins := x.qmin.foldl (· + ·) 0
  let taken := (List.range 8).foldl (fun a i => a + (occ i - x.qmin.getD i 0)) 0
  occ q < x.qcap.getD q 512 && (occ q < x.qmin.getD q 0 || mins + taken < 512)

/-- The pushes of one core at the end of a tc, in stream-code order; each that finds no room is an overflow of its stream
(R94). -/
def State.endPushes (s : State) (c : Nat) : State :=
  let ps := (s.core c).pushes
  let sorted := (List.range 5).flatMap fun st => ps.filter fun p => p.order == st
  sorted.foldl
    (fun s p =>
      if (s.core c).hasRoom p.queue then s.modCore c fun x => x.setQueue p.queue (x.queue p.queue ++ [p.entry])
      else s.faultAt p.core p.stream .deviation 0x06 0 0)
    (s.modCore c fun x => { x with pushes := [] })

/-- The `fq` pushes at the end of a tc: more than 16 words is a format-queue overflow of C (R30). -/
def State.endFpushes (s : State) (c : Nat) : State :=
  let x := s.core c
  let s := s.modCore c fun x => { x with fq := x.fq ++ x.fpushes, fpushes := [] }
  if 16 < x.fq.length + x.fpushes.length then s.faultAt c 0 .deviation 0x08 0 0 else s

/-! ## Tokens -/

/-- The counter acts of the token bits of a stream's word (R12, R27): push and pop on the next stream's counter, and on the
previous stream's. -/
def tokenActs (st : Nat) (tok : BitVec 4) : List (Nat × Nat × Bool) :=
  (if tok.getLsbD 3 then [(st, st, true)] else []) ++ (if tok.getLsbD 2 then [(st, (st + 4) % 5, true)] else []) ++
    (if tok.getLsbD 1 then [(st, st, false)] else []) ++ (if tok.getLsbD 0 then [(st, (st + 4) % 5, false)] else [])

/-- The greatest stream code of some acts. -/
def maxStream (as : List (Nat × Nat × Bool)) : Nat := as.foldl (fun m a => max m a.1) 0

/-- The token acts of one counter of a core at the end of a tc (R27, R403). -/
def State.endToken (s : State) (c n : Nat) : State :=
  let x := s.core c
  let pops := x.tokActs.filter fun a => a.2.1 == n && !a.2.2
  let puts := x.tokActs.filter fun a => a.2.1 == n && a.2.2
  let v := x.tok.getD n 0
  if v < pops.length then s.faultAt c (maxStream pops) .deviation 0x01 0 0
  else if 63 < v - pops.length + puts.length then s.faultAt c (maxStream puts) .deviation 0x02 0 0
  else s.modCore c fun x => { x with tok := setAt x.tok n (v - pops.length + puts.length) }

/-- All five counters of a core at the end of a tc. -/
def State.endTokens (s : State) (c : Nat) : State :=
  ((List.range 5).foldl (fun s n => s.endToken c n) s).modCore c fun x => { x with tokActs := [] }

/-- The stream charged with a non-zero counter (R28, R403): the first of the core's counters, its pair's lower code. -/
def Core.residue (x : Core) : Option Nat :=
  match (List.range 5).find? fun n => x.tok.getD n 0 != 0 with
  | some 4 => some 0
  | some n => some n
  | none => none

/-! ## Free values and later events -/

/-- The next free byte. -/
def State.freeByte (s : State) : Byte × State := (Config.freeByte s.free, { s with free := s.free + 1 })

/-- `n` free bytes. -/
def State.freeBytes (s : State) (n : Nat) : List Byte × State :=
  ((List.range n).map fun i => Config.freeByte (s.free + i), { s with free := s.free + n })

/-- A free word: a value that the spec does not state (notes/assumptions/9.md). -/
def State.freeWord (s : State) : Word × State := (BitVec.ofNat 64 (Config.freeNat s.free), { s with free := s.free + 1 })

/-- Plans an event after a delay that the spec leaves open (notes/assumptions/8.md). -/
def State.later (s : State) (i : Instr) : State :=
  { s with timers := s.timers ++ [(s.clock + 1 + Config.delay s.free, i)], free := s.free + 1 }

/-- Plans an event `n` clocks from now. -/
def State.inClocks (s : State) (n : Nat) (i : Instr) : State := { s with timers := s.timers ++ [(s.clock + n, i)] }

/-- The blocking instruction of supervisor core `c` completes on this clock; the IDLE of its next word counts from here (R329). -/
def State.unblock (s : State) (c : Nat) : State :=
  s.modCore c fun x => { x with sup := { x.sup with blocked := false, busy := max x.sup.busy s.clock } }

/-- Drops the planned events that satisfy a test. -/
def State.unplan (s : State) (p : Instr → Bool) : State := { s with timers := s.timers.filter fun t => !p t.2 }

/-- Sends a message of the package. -/
def State.send (s : State) (m : Msg) : State := s.modPlat fun p => { p with msgs := p.msgs ++ [m] }

/-! ## Holds -/

/-- A hold request of slot `n` that names tc `x` (`hold_at` of R148). -/
def State.request (s : State) (n x : Nat) (c : Cause) : State :=
  s.modSlot n fun y =>
    if y.reqs.any fun r => r.target == x && r.cause == c && r.cleared.isNone then y
    else { y with reqs := y.reqs ++ [⟨x, c, none⟩] }

/-- Clears a cause on the present clock: its target may execute H clocks later (R37). -/
def State.clearCause (s : State) (n : Nat) (c : Cause) : State :=
  s.modSlot n fun y =>
    let at_ := if y.live then y.clk + y.horizon else 0
    { y with reqs := y.reqs.map fun r => if r.cause == c && r.cleared.isNone then { r with cleared := some at_ } else r }

/-- The slots that keep a timetable, in rising number. -/
def State.running (s : State) : List Nat := (s.slots.filter fun p => p.2.live).map (·.1)

/-- The running cohorts with a member on a die. -/
def State.onDie (s : State) (d : Nat) : List Nat :=
  s.running.filter fun n => (s.slot n).members.any fun c => dieOf c == d

/-- A cohort occupies its quads (R333): it is LOADED, RUNNING or SAVING, or its `LAUNCH` is under way. -/
def Slot.holdsQuads (x : Slot) : Bool := x.st == 1 || x.st == 2 || x.st == 3 || x.resume != .none

/-- The quads of a cohort, each once. -/
def Slot.quads (x : Slot) : List Nat := (x.members.map quadOf).eraseDups

/-- A cohort leaves its quads (R333, R347): they lose power and keep their frequency (R395, R396). -/
def State.dropQuads (s : State) (x : Slot) : State :=
  if x.holdsQuads then
    s.modPlat fun p =>
      { p with onQuads := p.onQuads.filter fun q => !x.quads.contains q
               freqs := x.quads.foldl (fun t q => Tbl.set t q x.freq) p.freqs }
  else s

/-- The cohort that occupies a quad. -/
def State.quadHolder (s : State) (q : Nat) : Option Nat :=
  (s.slots.find? fun e => e.2.holdsQuads && e.2.quads.contains q).map (·.1)

/-- A quad of a cohort pauses for a droop (R399). -/
def State.drooping (s : State) (n : Nat) : Bool := (s.slot n).quads.any fun q => s.plat.droops.contains q

/-- The requests that a slot must see cleared before its tc executes (R36). -/
def Slot.binding (x : Slot) : List Req := x.reqs.filter fun r => r.target ≤ x.tc

/-- The clock from which the hold at the slot's tc may end: the latest that its causes give (R37); none while one stands. -/
def Slot.releaseAt (x : Slot) : Option Nat :=
  x.binding.foldl
    (fun m r =>
      match m, r.cleared with
      | some k, some c => some (max k c)
      | _, _ => none) (some 0)

/-- A platform hold request of a cohort: it names the current tc plus H (R35 row 3), and tc 0 before `TT.START`. -/
def State.platformHold (s : State) (n tag : Nat) : State :=
  let x := s.slot n
  s.request n (if x.st = 1 then 0 else x.tc + x.horizon) (.platform tag)

/-- A platform request of a tag stands in a slot. -/
def Slot.asked (x : Slot) (tag : Nat) : Bool := x.reqs.any fun r => r.cause == .platform tag && r.cleared.isNone

/-- Clears a platform cause wherever a request of it stands. -/
def State.clearPlatform (s : State) (tag : Nat) : State :=
  ((s.slots.filter fun e => e.2.asked tag).map (·.1)).foldl (fun s n => s.clearCause n (.platform tag)) s

/-- The tc at which a request of this clock takes effect: the one executed on it, the held one, or the curtain's T while wind-up stubs run
(R322, R340). A `PCSR` write acts on the clock after it. -/
def Slot.effectTc (x : Slot) : Nat := x.outTc x.tc

/-- The timebase `n` clocks from now: seven clocks are 4 ns at 1.75 GHz (R3, R272; notes/assumptions/6.md). -/
def State.timeAfter (s : State) (n : Nat) : Nat := s.ns + (s.frac + 4 * n) / 7

end Sys2Proof.Machine
end

