-- ==== Sys2Proof/Machine/Operands.lean ====
section
/-! DEFINITION. Operand forms: generic pointers and their checks (spec/04_memory_spaces.md R82 to R87), tensor handles, element
addresses and cursors (R88 to R92), and the timed memories that pointers reach. -/

namespace Sys2Proof.Machine

/-! ## Pointers -/

/-- The space tag (R82). -/
def ptrTag (p : Word) : Nat := (p.extractLsb' 60 4).toNat

/-- The tag names a space (R82). -/
def tagOk (t : Nat) : Bool := t == 0 || t == 8 || t == 9 || t == 10 || t == 11

/-- Width of the offset field (R82, R171); a tag that names no space sums over bits 59 to 0. -/
def offWidth (t : Nat) : Nat :=
  match t with
  | 0 => 57 | 8 => 24 | 9 => 23 | 10 => 24 | 11 => 28 | _ => 60

/-- The offset field as a number (R82). -/
def ptrOff (p : Word) : Nat := p.toNat % 2 ^ offWidth (ptrTag p)

/-- The core, quad or die field (R82). -/
def ptrNum (p : Word) : Nat :=
  match ptrTag p with
  | 9 => (p.extractLsb' 50 10).toNat
  | 10 => (p.extractLsb' 52 8).toNat
  | 11 => (p.extractLsb' 57 3).toNat
  | _ => 0

/-- Check 2 of R83: the bits that must be zero, and the range of the number. -/
def ptrZeroOk (p : Word) : Bool :=
  match ptrTag p with
  | 0 => p.extractLsb' 57 3 == 0
  | 8 => p.extractLsb' 24 36 == 0
  | 9 => p.extractLsb' 23 27 == 0 && ptrNum p ≤ 767
  | 10 => p.extractLsb' 24 28 == 0 && ptrNum p ≤ 191
  | 11 => p.extractLsb' 28 29 == 0
  | _ => false

/-- The offset limit of a space (R82, R84); a supervisor core has no window of its own (R329). -/
def State.ptrLimit (s : State) (p : Word) : Nat :=
  match ptrTag p with
  | 0 => 2 ^ 57
  | 8 => if isSup s.cur.1 then 2 ^ 24 else s.my.privSz.getD s.cur.2 0 * 4096
  | 9 => if isSup s.cur.1 then 0x600000 else s.my.splim * 4096
  | 10 => 0x800000
  | 11 => 2 ^ 28
  | _ => 0

/-- The die whose store a pointer with tag 9 to B names (R82). -/
def ptrDie (p : Word) : Nat := if ptrTag p = 9 then ptrNum p / 96 else if ptrTag p = 10 then ptrNum p / 24 else ptrNum p

/-- Checks 4 and 5 of R83. A supervisor core makes neither; its pointers name the stores of its own die only (R329;
notes/assumptions/3.md). -/
def State.ptrOwner (s : State) (p : Word) : Option (FaultKind × Nat) :=
  if isSup s.cur.1 then
    if 9 ≤ ptrTag p && ptrDie p != dieOf s.cur.1 then some (.foreign, 4) else none
  else if ptrTag p = 9 && ptrNum p != s.cur.1 then some (.foreign, 4)
  else if ptrTag p = 10 && ptrNum p != quadOf s.cur.1 then some (.foreign, 5)
  else none

/-- Checks 1 to 5 of R83 for `n` bytes, with an entry's condition on the space after check 1 and one on alignment after
check 5. The first that fails gives kind and detail. -/
def State.ptrCheck (s : State) (p : Word) (n : Nat) (spaceOk : Nat → Bool) (align : Nat) : Option (FaultKind × Nat) :=
  if !tagOk (ptrTag p) then some (.pointer, 1)
  else if !spaceOk (ptrTag p) then some (.pointer, 0)
  else if !ptrZeroOk p then some (.pointer, 2)
  else if s.ptrLimit p < ptrOff p + n then some (.pointer, 3)
  else
    match s.ptrOwner p with
    | some e => some e
    | none => if ptrOff p % align = 0 then none else some (.pointer, 0)

/-- Goes on where the checks of R83 pass; otherwise the instruction takes their fault. -/
def State.withPtr (s : State) (p : Word) (n : Nat) (spaceOk : Nat → Bool) (align : Nat) (k : State → State) : State :=
  match s.ptrCheck p n spaceOk align with
  | some (kd, d) => s.faultPtr kd d p
  | none => k s

/-- Adds to the offset field and leaves every other bit (R87, R171). -/
def ptrAdd (p : Word) (x : Word) : Word :=
  let w := offWidth (ptrTag p)
  let m : Word := BitVec.ofNat 64 (2 ^ w - 1)
  (p &&& ~~~m) ||| ((p + x) &&& m)

/-- The timed spaces (R123). -/
def timedTag (t : Nat) : Bool := t == 8 || t == 9 || t == 10

/-- Tc from a timed access to its result, by space (R157, R13). -/
def timedLat (t : Nat) : Nat := if t == 10 then 20 else 12

/-- Where a timed pointer of the executing stream leads: core, store and key (R82, R84). -/
def State.timedAt (s : State) (p : Word) : Nat × File × Nat :=
  match ptrTag p with
  | 8 => (s.cur.1, .priv, s.cur.2 * 2 ^ 24 + ptrOff p)
  | 9 => (ptrNum p, .sp, ptrOff p)
  | _ => (ptrNum p * 4, .qs, ptrOff p)

/-- Reads timed memory as it stands (R124). -/
def State.timedRead (s : State) (p : Word) (n : Nat) : List Byte :=
  let (c, f, k) := s.timedAt p
  s.getFile c f k n

/-- A timed store that lands at tc `t` (R124). -/
def State.timedWrite (s : State) (p : Word) (bs : List Byte) (t : Nat) : State :=
  let (c, f, k) := s.timedAt p
  s.landOn c t (.bytes f k bs)

/-! ## Handles -/

/-- BASE (R88). -/
def hBase (h : Handle) : Word := h.extractLsb' 0 64

/-- EXT of dimension d (R88). -/
def hExt (h : Handle) (d : Nat) : Nat := (h.extractLsb' (64 + 16 * d) 16).toNat

/-- The stride of dimension d; dimension 0 has stride one (R88). -/
def hStr (h : Handle) (d : Nat) : Int := if d = 0 then 1 else (h.extractLsb' (128 + 20 * (d - 1)) 20).toInt

/-- The broadcast flag of dimension d (R88). -/
def hBcast (h : Handle) (d : Nat) : Bool := h.getLsbD (188 + d)

/-- FMT (R88). -/
def hFmt (h : Handle) : Nat := (h.extractLsb' 192 4).toNat

/-- SREC (R88). -/
def hSrec (h : Handle) : Nat := (h.extractLsb' 200 12).toNat

/-- SRV (R88). -/
def hSrv (h : Handle) : Bool := h.getLsbD 212

/-- XSEAL (R88). -/
def hXseal (h : Handle) : BitVec 8 := h.extractLsb' 213 8

/-- SOFF (R88). -/
def hSoff (h : Handle) : Nat := (h.extractLsb' 221 34).toNat

/-- Some extent is zero: the handle names no elements (R89). -/
def hEmpty (h : Handle) : Bool := (List.range 4).any fun d => hExt h d == 0

/-- Strides and the innermost extent are multiples of `m` (R89 check 4). -/
def hMultiple (h : Handle) (m : Nat) : Bool :=
  hExt h 0 % m == 0 && (List.range 3).all fun d => hStr h (d + 1) % m == 0

/-- The checks of R89 in their order; the first that fails gives kind and detail. `cu` are the cursors of check 8. -/
def State.handleCheck (s : State) (h : Handle) (write : Bool) (cu : List Nat) : Option (FaultKind × Nat) :=
  let f := hFmt h
  if h.getLsbD 255 || h.extractLsb' 196 4 != 0 then some (.handle, 0)
  else if 7 ≤ f then some (.format, 0)
  else if hSoff h != 0 && f != 5 then some (.handle, 0)
  else if (f == 5 && !hMultiple h 32) || (f == 6 && !hMultiple h 4) then some (.handle, 0)
  else if ((f == 0 || f == 2) && ptrOff (hBase h) % 4 != 0) || (f == 1 && ptrOff (hBase h) % 2 != 0) then some (.handle, 0)
  else if write && (List.range 4).any fun d => hBcast h d then some (.handle, 0)
  else if hSrv h && !(s.my.recs.any fun r => r.1 == hSrec h) then some (.record, 0x01)
  else if !hEmpty h && (List.range 4).any fun d => hExt h d ≤ cu.getD d 0 then some (.handle, 0)
  else none

/-- Goes on where the checks of R89 pass. -/
def State.withHandle (s : State) (h : Handle) (write : Bool) (cu : List Nat) (k : State → State) : State :=
  match s.handleCheck h write cu with
  | some (kd, d) => s.fault kd d
  | none => k s

/-- The element offset e of a logical element (R90, R91). -/
def elemOff (h : Handle) (i : List Nat) : Int :=
  (List.range 4).foldl (fun a d => if hBcast h d then a else a + (i.getD d 0 : Int) * hStr h d) 0

/-- The byte ranges of a logical element, by offset: the code or value bytes, and for LNS6 its scale byte (R90). -/
def elemBytes (h : Handle) (i : List Nat) : List (Int × Nat) :=
  let e := elemOff h i
  let off : Int := ptrOff (hBase h)
  match hFmt h with
  | 0 | 2 => [(off + 4 * e, 4)]
  | 1 => [(off + 2 * e, 2)]
  | 3 | 4 => [(off + e, 1)]
  | 5 => [(off + 24 * (e / 32) + 3 * (e % 32 / 4), 3), (off + hSoff h * 256 + e / 32, 1)]
  | _ => [(off + e / 4, 1)]

/-- The pointer of a byte offset in BASE's space; none where the offset leaves the offset field (R87). -/
def elemPtr (h : Handle) (off : Int) : Option Word :=
  let w := offWidth (ptrTag (hBase h))
  if off < 0 || 2 ^ w ≤ off then none
  else some ((hBase h &&& ~~~(BitVec.ofNat 64 (2 ^ w - 1))) ||| BitVec.ofNat 64 off.toNat)

/-- Moves a cursor in dimension d by `n`: reaching the extent returns it to 0 and carries one (R92). -/
def advance (h : Handle) : List Nat → Nat → Nat → List Nat
  | [], _, _ => []
  | c :: cs, d, n => if hExt h d ≤ c + n then 0 :: advance h cs (d + 1) 1 else (c + n) :: cs

/-- The elements of a run of `n` from cursors, in odometer order, and the cursors after it (R92, `run` of R148). -/
def runFrom (h : Handle) (cu : List Nat) : Nat → List (List Nat) × List Nat
  | 0 => ([], cu)
  | n + 1 =>
    let r := runFrom h (advance h cu 0 1) n
    (cu :: r.1, r.2)

/-- The linear index of an element, dimension 0 fastest. -/
def elemIndex (h : Handle) (i : List Nat) : Nat :=
  i.getD 0 0 + hExt h 0 * (i.getD 1 0 + hExt h 1 * (i.getD 2 0 + hExt h 2 * i.getD 3 0))

end Sys2Proof.Machine
end

