-- ==== Sys2Proof/Machine/Mem.lean ====
section
/-! DEFINITION. Phased memory: home bytes, translation and TLBs (spec/18_translation.md R356 to R362), what a core sees
(spec/06_consistency.md R126 to R134), and the accesses under way. -/

namespace Sys2Proof.Machine

/-! ## Home bytes -/

/-- The key of a home byte: tier, peer package and physical address (R358); tier 3 is die SRAM by die and offset. -/
def homeKey (tier peer addr : Nat) : Nat := tier * 2 ^ 60 + peer * 2 ^ 54 + addr

/-- The key of a die-SRAM byte (R359). -/
def dieKey (die off : Nat) : Nat := homeKey 3 0 (die * 2 ^ 28 + off)

/-- Home bytes from a key. -/
def State.devBytes (s : State) (key n : Nat) : List Byte := Map.getRun s.dev key n

/-- A little-endian number at a physical address of the package's own memory. -/
def State.devNat (s : State) (addr n : Nat) : Nat := leNat (s.devBytes addr n)

/-- Slots whose cohort may still read its view: running, being saved, or saved (R333). -/
def State.viewers (s : State) : List Nat := (s.slots.filter fun p => p.2.st == 2 || p.2.st == 3 || p.2.st == 4).map (·.1)

/-- The byte of a run of bytes at a key. -/
def runAt (key : Nat) (bs : List Byte) (k : Nat) : Option Byte := if key ≤ k then bs[k - key]? else none

/-- The number of a stream of a cohort, by cohort rank, among the agents whose writes keep their order (R129). -/
def agentOf (n rank st : Nat) : Nat := n * 2 ^ 16 + rank * 8 + st

/-- Writes consecutive home bytes, as the agent of a number or as an agent of its own. Every cohort keeps what the bytes held before
its kernel, the oldest run first, and every cohort but the writer's sees an outside write (R128, R130). -/
def State.devWrites (s : State) (by_ : Option Nat) (key : Nat) (bs : List Byte) : State :=
  let old := Map.getRun s.dev key bs.length
  let t := s.viewers.foldl
    (fun (t : State) n => t.modSlot n fun x =>
      let x := if x.base.any fun e => e.1 ≤ key && key + bs.length ≤ e.1 + e.2.length then x else { x with base := x.base ++ [(key, old)] }
      if by_.map (· / 2 ^ 16) = some n then x
      else { x with outside := x.outside ++ [⟨key, x.outTc x.tc, bs, s.done, by_.getD (2 ^ 32 + s.done)⟩] }) s
  { t with dev := Map.setRun s.dev key bs, done := s.done + bs.length }

/-- Bytes by key as runs of consecutive keys. -/
def runsOf : List (Nat × Byte) → List (Nat × List Byte)
  | [] => []
  | (k, b) :: es =>
    match runsOf es with
    | (j, bs) :: rs => if j = k + 1 then (k, b :: bs) :: rs else (k, [b]) :: (j, bs) :: rs
    | [] => [(k, [b])]

/-! ## Capped masters -/

/-- The function of the partition of a die, which is the partition's number (R387, R388). -/
def Plat.fnOfDie (p : Plat) (d : Nat) : Nat := ((Tbl.get (0 : Word) p.partcfg d).extractLsb' 32 4).toNat

/-- The function in whose mailbox a master's violations are logged (R387, R390): that of its die's partition, and of die 0's for the parity
and collective engines, which the model holds once per package (notes/assumptions/25.md). -/
def Plat.fnOf (p : Plat) (master : Nat) : Nat :=
  p.fnOfDie (if master < 16 then master / 2 else if master < 24 then master - 16 else 0)

/-- The freeze log of a function's mailbox (R387, R390). -/
def Plat.freezeLog (p : Plat) (fn : Nat) : List Freeze := p.flog.filter fun e => e.fn == fn

/-- Freezes a master that violates a cap (R390): the access is not performed, the log gains an entry, and MSI-X vector 1 is
raised. Masters 0 to 15 are the supervisor cores, 16 to 23 the copy engines of the dies, 24 the parity and 25 the collective
engine. -/
def State.freeze (s : State) (master cap addr : Nat) : State :=
  let s := s.modPlat fun p =>
    { p with frozen := master :: p.frozen.filter (· != master), flog := p.flog ++ [⟨p.fnOf master, master, cap, addr, true⟩] }
  (if master < 16 then s.modCore (768 + master) fun x => { x with sup := { x.sup with frozen := true } } else s).send (.msix (s.plat.fnOf master) 1)

/-! ## Page tables -/

/-- What a walk finds (R362). -/
inductive Walk where
  | leaf (l : Word) (page size : Nat)
  | none_ (level : Nat)
  | malformed
  deriving DecidableEq, Repr

/-- ADDR of an entry (R358). -/
def pteAddr (e : Word) : Nat := (e.extractLsb' 8 46).toNat * 256

/-- Bits of the page offset of a leaf at a level (R357). -/
def pageBits (level : Nat) : Nat := if level = 2 then 30 else if level = 3 then 21 else 16

/-- A valid entry that breaks R358. -/
def pteBad (e : Word) (level : Nat) : Bool :=
  let leaf := e.getLsbD 1
  let tier := (e.extractLsb' 60 4).toNat
  e.extractLsb' 5 3 != 0 || 3 ≤ tier || (!leaf && (tier != 0 || e.extractLsb' 54 6 != 0)) || (leaf && level < 2) ||
    (!leaf && level == 4) || (tier != 2 && e.extractLsb' 54 6 != 0) ||
    (if leaf then pteAddr e % 2 ^ pageBits level != 0 else pteAddr e % (if level == 3 then 256 else 4096) != 0) ||
    (e.getLsbD 3 && e.getLsbD 2) || (leaf && e.getLsbD 4 && level == 2)

/-- Some ranges together hold the bytes from `a` to `e`; `fuel` bounds the ranges that it takes. -/
def coversAll (ws : List (Nat × Nat)) (a e : Nat) : Nat → Bool
  | 0 => e ≤ a
  | fuel + 1 => e ≤ a || match ws.find? fun w => w.1 ≤ a && a < w.1 + w.2 with
    | some w => coversAll ws (w.1 + w.2) e fuel
    | none => false

/-- The windows of the caps of a die's partition hold a physical range (R388, R389, R390); before a configuration is loaded none is walled
off (notes/assumptions/15.md). -/
def Plat.inWindows (p : Plat) (die : Nat) (host : Bool) (addr n : Nat) : Bool :=
  let ws := (List.range 8).map fun i => Map.get p.capwin (8 * die + i)
  let on := ws.filter fun w => w.getLsbD 63 && w.getLsbD 62 == host
  !p.caps || coversAll (on.map fun w => ((w.extractLsb' 16 38).toNat * 65536, 2 ^ (w.extractLsb' 54 8).toNat)) addr (addr + n) 8

/-- Two dies belong to one partition (R388): `PARTCFG` is one register of a partition, read on each of its dies. -/
def Plat.samePart (p : Plat) (a b : Nat) : Bool := Tbl.get 0 p.partcfg a == Tbl.get 0 p.partcfg b

/-- A function's range holds some bytes of device memory (R387); before a configuration is loaded none is given (notes/assumptions/15.md). -/
def Plat.hdmHolds (p : Plat) (fn addr n : Nat) : Bool :=
  let r := Tbl.get (0, 0) p.hdm fn
  !p.caps || (r.1 ≤ addr && addr + n ≤ r.1 + r.2)

/-- The wall of a die's partition lets a package's flits through (R388). -/
def Plat.wallOpen (p : Plat) (die pkg : Nat) : Bool := !p.caps || (Tbl.get 0 p.partcfg die).getLsbD (Config.podGroup pkg % 32)

/-- The count of a window after `n` more bytes at window number `now`. -/
def countOn (c : Nat × Nat) (now n : Nat) : Nat × Nat := if c.1 = now then (now, c.2 + n) else (now, n)

/-- A capped master writes `n` bytes of host memory (R390): refused beyond HOSTMB in a window of 1 ms. -/
def State.capHost (s : State) (master addr n : Nat) : Except State State :=
  let c := countOn s.plat.hostOut (s.ns / 1000000) n
  if (s.plat.caplim.extractLsb' 0 16).toNat * 2 ^ 20 < c.2 then .error (s.freeze master 3 addr)
  else .ok (s.modPlat fun p => { p with hostOut := c })

/-- The fabric port of a die that a capped master uses: the one that it is to use, unless that has failed (R6, R381, R395;
notes/assumptions/53.md). -/
def Plat.portOf (p : Plat) (die lane : Nat) : Nat := 2 * die + if p.failedLinks.contains (die, 2, lane % 2) then 1 - lane % 2 else lane % 2

/-- A capped master of a die sends `n` bytes in flits of 256 to a package (R1, R388, R390): refused beyond BYTES in a window of 1 µs and across
the wall. A frozen one sends nothing. -/
def State.capSend (s : State) (master die lane pkg addr n : Nat) : Except State State :=
  let port := s.plat.portOf die lane
  let c := countOn (Tbl.get (0, 0) s.plat.egress port) (s.ns / 1000) ((n + 255) / 256 * 256)
  if s.plat.frozen.contains master then .error s
  else if !s.plat.caps then .ok s
  else if !s.plat.wallOpen die pkg then .error (s.freeze master 4 addr)
  else if s.plat.capegr.toNat < c.2 then .error (s.freeze master 2 addr)
  else .ok (s.modPlat fun p => { p with egress := Tbl.set p.egress port c })

/-- A capped master of a die reaches `n` home bytes (R388, R389, R390): inside its windows, in its partition's dies, in its peers over the
fabric, and with host writes counted. What it may not reach is not touched and freezes it; a frozen one reaches nothing. -/
def State.capAccess (s : State) (master die key n : Nat) (write : Bool) : Except State State :=
  let addr := key % 2 ^ 54
  if s.plat.frozen.contains master then .error s
  else if !s.plat.caps then .ok s
  else
    match key / 2 ^ 60 with
    | 2 => if write then s.capSend master die 0 (key / 2 ^ 54 % 64) addr n else .ok s
    | 3 => if s.plat.samePart die (addr / 2 ^ 28 % 8) then .ok s else .error (s.freeze master 4 addr)
    | t =>
      if !s.plat.inWindows die (t == 1) addr n then .error (s.freeze master 1 addr)
      else if t = 0 && !s.plat.samePart die (Config.homeDie addr % 8) then .error (s.freeze master 4 addr)
      else if t = 1 && write then s.capHost master addr n
      else .ok s

/-- What a package sends to a die passes the wall of its partition; a flit that does not is dropped, and a violation is logged for the sender
(R388; notes/assumptions/53.md). -/
def State.fromPackage (s : State) (die pkg : Nat) (k : State → State) : State :=
  if s.plat.wallOpen die pkg then k s
  else s.modPlat fun p => { p with flog := p.flog ++ [⟨p.fnOfDie die, 64 + pkg, 4, 0, false⟩] }

/-- Bits of a virtual address that index a level (R357). -/
def vaIndex (va level : Nat) : Nat :=
  match level with
  | 0 => va / 2 ^ 48 % 512
  | 1 => va / 2 ^ 39 % 512
  | 2 => va / 2 ^ 30 % 512
  | 3 => va / 2 ^ 21 % 512
  | _ => va / 2 ^ 16 % 32

/-- Walks the global tables from `level` down, with as much fuel as levels are left (R357), for a cohort of the partition of a die
(R388). -/
def State.walkFrom (s : State) (die va : Nat) : Nat → Nat → Nat → Walk
  | 0, _, _ => .malformed
  | fuel + 1, level, table =>
    let e : Word := BitVec.ofNat 64 (s.devNat (table + 8 * vaIndex va level) 8)
    if !e.getLsbD 0 then .none_ level
    else if pteBad e level then .malformed
    else if e.getLsbD 1 then
      if (e.extractLsb' 60 4).toNat = 0 && !s.plat.inWindows die false (pteAddr e) (2 ^ pageBits level) then .malformed
      else .leaf e (va / 2 ^ pageBits level * 2 ^ pageBits level) (2 ^ pageBits level)
    else s.walkFrom die va fuel (level + 1) (pteAddr e)

/-- The physical address of the last entry that the walk of global tables reads (R357). -/
def State.lastEntry (s : State) (va : Nat) : Nat → Nat → Nat → Nat
  | 0, _, table => table
  | fuel + 1, level, table =>
    let at_ := table + 8 * vaIndex va level
    let e : Word := BitVec.ofNat 64 (s.devNat at_ 8)
    if !e.getLsbD 0 || e.getLsbD 1 || pteBad e level then at_ else s.lastEntry va fuel (level + 1) (pteAddr e)

/-- The physical address of the table entry that decides the walk of an address (R357, R359, R370). -/
def State.walkEntry (s : State) (sl : Slot) (p : Word) : Nat :=
  if ptrTag p = 0 then s.lastEntry (ptrOff p) 5 0 sl.groot else sl.dsrt + 8 * (ptrNum p * 4096 + ptrOff p / 65536)

/-- Walks the table that an address needs: tag 0 the global tables, tag B the die-SRAM table (R357, R359). Die SRAM of another partition
lies outside the partition's windows (R388; notes/assumptions/15.md). -/
def State.walk (s : State) (sl : Slot) (p : Word) : Walk :=
  if ptrTag p = 0 then s.walkFrom sl.die (ptrOff p) 5 0 sl.groot
  else
    let i := ptrNum p * 4096 + ptrOff p / 65536
    let e : Word := BitVec.ofNat 64 (s.devNat (sl.dsrt + 8 * i) 8)
    if !e.getLsbD 0 then .none_ 0
    else if e &&& ~~~(0x0FFF0003 : Word) != 0 || !s.plat.samePart sl.die (ptrNum p) then .malformed
    else .leaf e (i * 65536) 65536

/-- The TLB tables' answer for an address: the first level of the core, then the second of its quad (R360). -/
def State.tlbHit (s : State) (c asid : Nat) (p : Word) : Option TlbEntry :=
  let dsr := ptrTag p == 11
  let a := if dsr then ptrNum p * 2 ^ 28 + ptrOff p else ptrOff p
  let hit := fun e : TlbEntry => e.asid == asid && e.dsr == dsr && e.page ≤ a && a < e.page + e.size
  match (Tbl.get [] s.tlb1 c).find? hit with
  | some e => some e
  | none => (Tbl.get [] s.tlb2 (quadOf c)).find? hit

/-- Adds an entry to a TLB of a size; a full one loses an entry that the spec does not name (notes/assumptions/12.md). -/
def tlbAdd (es : List TlbEntry) (size victim : Nat) (e : TlbEntry) : List TlbEntry :=
  if es.length < size then es ++ [e] else es.eraseIdx (victim % size) ++ [e]

/-- The translation of one address: the cached or walked leaf, filling the TLBs from a valid leaf (R360). -/
def State.lookup (s : State) (c asid : Nat) (p : Word) : Walk × State :=
  match s.tlbHit c asid p with
  | some e => (.leaf e.leaf e.page e.size, s)
  | none =>
    match s.walk (s.slot asid) p with
    | .leaf l pg sz =>
      let e : TlbEntry := ⟨asid, ptrTag p == 11, pg, sz, l⟩
      (.leaf l pg sz,
        { s with
          tlb1 := Tbl.set s.tlb1 c (tlbAdd (Tbl.get [] s.tlb1 c) 64 (Config.freeNat s.free) e)
          tlb2 := Tbl.set s.tlb2 (quadOf c) (tlbAdd (Tbl.get [] s.tlb2 (quadOf c)) 1024 (Config.freeNat (s.free + 1)) e)
          free := s.free + 2 })
    | w => (w, s)

/-- The home byte of an address under a leaf (R357, R359). A leaf whose address lies at or above the 1 TiB of the package's HBM4E has a home
byte of its own too (notes/assumptions/76.md). -/
def leafKey (p : Word) (l : Word) (page : Nat) : Nat :=
  if ptrTag p = 11 then dieKey (ptrNum p) ((l.extractLsb' 16 12).toNat * 65536 + ptrOff p % 65536)
  else homeKey (l.extractLsb' 60 4).toNat (l.extractLsb' 54 6).toNat (pteAddr l + (ptrOff p - page))

/-- An entry maps an address. -/
def TlbEntry.maps (e : TlbEntry) (p : Word) : Bool :=
  let a := if ptrTag p = 11 then ptrNum p * 2 ^ 28 + ptrOff p else ptrOff p
  e.dsr == (ptrTag p == 11) && e.page ≤ a && a < e.page + e.size

/-- The translation of an address without touching a TLB: one that its access has taken, or what the TLBs or the tables hold; none where
no leaf maps it. -/
def State.mapping (s : State) (pages : List TlbEntry) (c asid : Nat) (p : Word) : Option TlbEntry :=
  match pages.find? fun e => e.maps p with
  | some e => some e
  | none =>
    match s.tlbHit c asid p with
    | some e => some e
    | none =>
      match s.walk (s.slot asid) p with
      | .leaf l pg sz => some ⟨asid, ptrTag p == 11, pg, sz, l⟩
      | _ => none

/-- The leaf and the home byte of an address for an access with some translations (R361). -/
def State.keyFor (s : State) (pages : List TlbEntry) (c asid : Nat) (p : Word) : Option (Word × Nat) :=
  (s.mapping pages c asid p).map fun e => (e.leaf, leafKey p e.leaf e.page)

/-- The leaf and the home byte of an address as the TLBs and the tables stand. -/
def State.keyOf (s : State) (c asid : Nat) (p : Word) : Option (Word × Nat) := s.keyFor [] c asid p

/-- The lines of a compressed page's frame that the byte at an offset reads (R386): the one of its index entry and, once that has moved to the
new frame, those of its body. -/
def State.bodyLines (s : State) (has : Nat → Bool) (frame size off : Nat) : List Nat :=
  let i := 4 * (off / 256)
  if !has (i / 256) then [i / 256]
  else
    let e := s.devNat (frame + i) 4
    let meth := e / 2 ^ 28
    let body := e % 2 ^ 28 * 16
    let upTo := fun n => if body + n ≤ size then (List.range ((body + n - 1) / 256 - body / 256 + 1)).map fun j => body / 256 + j else []
    if meth = 0 then upTo 256
    else if meth = 2 then upTo 4
    else if meth = 3 then
      (match (upTo 8).find? fun l => !has l with
        | some l => [l]
        | none =>
          let bm := s.devNat (frame + body) 8
          upTo (8 + 4 * (List.range 64).foldl (fun a i => a + bm / 2 ^ i % 2) 0))
    else []

/-- A byte of a compressed page, by frame key and offset in the page of a size (R386); none for an entry that breaks the format. -/
def State.expand (s : State) (frame size off : Nat) : Option Byte :=
  let e := s.devNat (frame + 4 * (off / 256)) 4
  let meth := e / 2 ^ 28
  let body := e % 2 ^ 28 * 16
  let o := off % 256
  let inFrame := fun n => body + n ≤ size
  if meth = 0 then (if inFrame 256 then some (Map.get s.dev (frame + body + o)) else none)
  else if meth = 1 then (if body = 0 then some 0 else none)
  else if meth = 2 then (if inFrame 4 then some (Map.get s.dev (frame + body + o % 4)) else none)
  else if meth = 3 then
    let bm := s.devNat (frame + body) 8
    let ones := fun n => (List.range n).foldl (fun a i => a + bm / 2 ^ i % 2) 0
    if inFrame (8 + 4 * ones 64) then
      some (if bm / 2 ^ (o / 4) % 2 = 1 then Map.get s.dev (frame + body + 8 + 4 * ones (o / 4) + o % 4) else 0)
    else none
  else none

/-! ## What a core sees -/

/-- The scope unit of a core, by the code of R4 (R126): core, quad, die, package. -/
def unitOf (scope c : Nat) : Nat :=
  match scope with
  | 1 => c
  | 2 => quadOf c
  | 3 => dieOf c
  | _ => 0

/-- A boundary whose unit holds both cores lies after moment `a` and before moment `b` (R127). -/
def Slot.published (x : Slot) (c d : Nat) (a b : Moment) : Bool :=
  x.bounds.any fun p => a.tc < p.tc && p.tc < b.tc && unitOf p.scope c == p.unit && unitOf p.scope d == p.unit

/-- A pointer lies in a range of pointers of one space. -/
def inRange (p : Word) (r : Word × Nat) : Bool := r.1.toNat ≤ p.toNat && p.toNat < r.1.toNat + r.2

/-- Core `d` sees the byte at `p` of write `w` at moment `q` (R127, R132 to R134, R315). -/
def Slot.sees (x : Slot) (w : PWrite) (d : Nat) (q : Moment) (p : Word) : Bool :=
  (match w.peer with
    | some (_, from_, scope) => x.bounds.any fun b => from_ ≤ b.tc && b.tc < q.tc && scope ≤ b.scope && unitOf b.scope d == b.unit
    | none => false) ||
  (w.peer.isNone && w.core == d && w.tc.before q && w.engine.isNone) || (w.peer.isNone && w.engine.isNone && x.published w.core d w.tc q) || (w.atom && w.done != 0) ||
    x.acq.any fun a => a.core == d && a.tc.before q && a.ranges.any (inRange p) &&
      (match a.obj with
       | some (o, u) => w.counted.contains (d, o, u)
       | none => match a.coll with
         | some t => w.engine == some t || (w.engine.isNone && w.tc.before t)
         | none => false)

/-- The coherence key of a write (R128), with the stub count behind the tc (R322). -/
def PWrite.key (w : PWrite) : List Nat := [w.npod, w.prank, w.tc.tc, w.tc.stub, w.rank, w.stream]

/-- Two ranges share a byte. -/
def overlap (a n b m : Nat) : Bool := a < b + m && b < a + n

/-- The order of numbers in lists of one length, from the first. -/
def lexLe : List Nat → List Nat → Bool
  | x :: xs, y :: ys => x < y || (x == y && lexLe xs ys)
  | _, _ => true

/-- The order of coherence keys (R128). Atomics stand among themselves in the order in which they were performed (R132); against a plain
store of a member an atomic keeps the place of its key, though the store may have been performed first (notes/assumptions/73.md). A collective
engine's write stands behind every write of any member issued before its `COLL`, and before the later ones (R134). -/
def PWrite.le (a b : PWrite) : Bool :=
  match a.engine, b.engine with
  | some t, none => !b.tc.before t
  | none, some t => a.tc.before t
  | some t, some u => !u.before t
  | none, none => if a.atom && b.atom then a.done ≤ b.done else lexLe a.key b.key

/-- The byte of a write at a pointer. -/
def PWrite.at_ (w : PWrite) (p : Word) : Option Byte :=
  if inRange p (w.addr, w.data.length) then w.data[p.toNat - w.addr.toNat]? else none

/-- The byte of a write at a pointer whose home byte is known; another package's store is found by that byte (R315). -/
def PWrite.byteAt (w : PWrite) (p : Word) (key : Nat) : Option Byte :=
  match w.peer with
  | some (k, _, _) => runAt k w.data key
  | none => w.at_ p

/-- The boundary that admits an outside write to core `d` by moment `q` (R130): the first one that follows it and reaches as far among the
writes of its agent, for the member's place in the cohort, which a migration keeps (R23). An agent's writes are admitted in the order in which
they were performed (R129). -/
def Slot.admitted (x : Slot) (o : Outside) (d : Nat) (q : Moment) : Option Nat :=
  (x.bounds.find? fun b => o.tc ≤ b.tc && b.tc < q.tc && unitOf b.scope d == b.unit &&
    o.seq < Config.admits o.agent b.tc (x.members.idxOf d)).map (·.tc)

/-- The last of some writes in coherence order (R128, R134): the last of the members' writes, unless an engine's write stands behind it. -/
def lastWrite (ws : List PWrite) : Option PWrite :=
  let last := fun (p : PWrite → Bool) => (ws.filter p).foldl (fun (m : Option PWrite) w => match m with
    | none => some w
    | some v => if v.le w then some w else some v) none
  match last (·.engine.isNone), last (·.engine.isSome) with
  | some w, some e => if w.le e then some e else some w
  | some w, none => some w
  | none, e => e

/-- The byte at `p` that a phased read of core `d` issued at moment `q` returns, where `key` is its home byte and `home` what the home holds
(R128, R130, R132). An outside write stands before the member writes issued from its admitting boundary on and after every other one,
whether the core sees that at the boundary or later (notes/assumptions/10.md); an atomic stands where it was performed at the home. -/
def Slot.view (x : Slot) (d : Nat) (q : Moment) (p : Word) (key : Nat) (home : Byte) : Byte :=
  let best := lastWrite (x.log.filter fun w => (w.byteAt p key).isSome && x.sees w d q p)
  let outs := x.outside.filterMap fun o => (runAt o.key o.data key).bind fun b => (x.admitted o d q).map fun t => (t, o.seq, b)
  let lastOut := outs.foldl (fun (m : Option (Nat × Nat × Byte)) o =>
    match m with
    | none => some o
    | some v => if v.1 ≤ o.1 then some o else some v) none
  let old := x.base.findSome? fun e => runAt e.1 e.2 key
  match best, lastOut with
  | some w, some (t, q', o) => if (if w.atom then w.done ≤ q' else w.tc.tc < t) then o else (w.byteAt p key).getD home
  | some w, none => (w.byteAt p key).getD home
  | none, some (_, _, o) => o
  | none, none => old.getD home

/-- The bytes that members have written at an address since moment `t`, and before `u` where one is given (R134). -/
def Slot.writtenSince (x : Slot) (p : Word) (t : Moment) (u : Option Moment) : List Byte :=
  (x.log.filter fun w => w.peer.isNone && w.engine.isNone && !w.tc.before t && u.all fun u => w.tc.before u).filterMap fun w => w.at_ p

/-- One byte of each of some lists, where a list has several a free choice among them (notes/assumptions/9.md). -/
def State.pickBytes (s : State) (cs : List (List Byte)) : List Byte × State :=
  if cs.all fun c => c.length ≤ 1 then (cs.map fun c => c.headD 0, s)
  else (((List.range cs.length).zip cs).map fun e => e.2.getD (Config.freeNat (s.free + e.1) % e.2.length) 0,
    { s with free := s.free + cs.length })

/-! ## Accesses -/

/-- Nothing, or the fault that R362 gives a page of an access: kind of finding, and the level of the walk; a line to pull, or one that its old
frame has lost, by physical address (R368). -/
inductive PageFault where
  | logged (cause level : Nat)
  | fatal (detail : Nat)
  | pull (sv m line : Nat)
  | lost (phys : Nat)
  deriving DecidableEq, Repr

/-- The migration slot that serves a leaf (R367): supervisor core and index. -/
def State.migSlot (s : State) (asid : Nat) (l : Word) : Option (Nat × Nat) :=
  let cands := (List.range 16).flatMap fun v => (List.range 8).map fun m => (768 + v, m)
  cands.find? fun vm =>
    let ctl := Map.get (s.core vm.1).sup.migctl vm.2
    ctl.getLsbD 1 && (ctl.extractLsb' 8 8).toNat == asid && (ctl.extractLsb' 16 38).toNat * 65536 == pteAddr l

/-- A leaf that an access of a kind can use: a write needs a writable, uncompressed page (R358, R359, R362). -/
def usable (p l : Word) (k : AccKind) : Bool :=
  k == .read || (if ptrTag p == 11 then l.getLsbD 1 else l.getLsbD 2 && !l.getLsbD 3)

/-- Drops the entry that answers an address where its leaf does not allow an access: a fault is what a walk finds and is never cached
(R360, R362). -/
def State.dropUnusable (s : State) (c asid : Nat) (p : Word) (k : AccKind) : State :=
  match s.tlbHit c asid p with
  | none => s
  | some e =>
    if usable p e.leaf k then s
    else
      let keep := fun es : List TlbEntry => es.filter fun x => !(x.asid == e.asid && x.dsr == e.dsr && x.page == e.page)
      { s with
        tlb1 := Tbl.set s.tlb1 c (keep (Tbl.get [] s.tlb1 c)), tlb2 := Tbl.set s.tlb2 (quadOf c) (keep (Tbl.get [] s.tlb2 (quadOf c))) }

/-- Checks one address of an access against its leaf (R362, R367). -/
def State.pageCheck (s : State) (c asid : Nat) (p : Word) (k : AccKind) : Option PageFault × State :=
  let (w, s) := (s.dropUnusable c asid p k).lookup c asid p
  let die := ptrTag p == 11
  match w with
  | .malformed => (some (.fatal 4), s)
  | .none_ lv => (some (if die then .fatal 3 else .logged 1 lv), s)
  | .leaf l pg size =>
    let wr := k != .read
    if die then (if wr && !l.getLsbD 1 then some (.fatal 3) else none, s)
    else if wr && l.getLsbD 3 then (some (.fatal 2), s)
    else if wr && !l.getLsbD 2 then (some (.logged 2 (if size = 2 ^ 30 then 2 else if size = 2 ^ 21 then 3 else 4)), s)
    else if l.getLsbD 4 then
      match s.migSlot asid l with
      | none => (some (.fatal 4), s)
      | some (v, m) =>
        let has := fun line => (s.core v).sup.moved.contains (m, line)
        let frame := homeKey (l.extractLsb' 60 4).toNat (l.extractLsb' 54 6).toNat (pteAddr l)
        let lines := if l.getLsbD 3 then s.bodyLines has frame size (ptrOff p - pg) else [(ptrOff p - pg) / 256]
        ((lines.find? fun line => !has line).map fun line => .pull v m line, s)
    else (none, s)

/-- The addresses of a range that an access must translate: its first byte and every 256-byte line start inside. -/
def lineStarts (p : Word) (n : Nat) : List Word :=
  p :: ((List.range (n / 256 + 1)).map fun i => (p.toNat / 256 + 1 + i) * 256).filterMap fun a =>
    if a < p.toNat + n then some (BitVec.ofNat 64 a) else none

/-- Bytes from an address on in runs that lie in one page each: no page is smaller than 64 KiB (R357). -/
def pageRuns (p : Word) (bs : List Byte) : List (Word × List Byte) :=
  ((lineStarts p bs.length).filter fun a => a = p || ptrOff a % 65536 = 0).map fun a =>
    (a, (bs.drop (a.toNat - p.toNat)).take (65536 - ptrOff a % 65536))

/-- The first page fault among some addresses. -/
def State.pagesCheck (s : State) (c asid : Nat) (k : AccKind) : List Word → Option (Word × PageFault) × State
  | [] => (none, s)
  | p :: ps =>
    match s.pageCheck c asid p k with
    | (some f, s) => (some (p, f), s)
    | (none, s) => s.pagesCheck c asid k ps

/-- Bytes of phased memory as a member core sees them at moment `q` under the translations of its access (R128, R361); a compressed page is
expanded (R101, R386). None where a compressed entry breaks its format. -/
def State.phasedRead (s : State) (pages : List TlbEntry) (c : Nat) (q : Moment) (p : Word) (n : Nat) : Option (List Byte) :=
  let asid := (s.core c).slot
  let x := s.slot asid
  (List.range n).mapM fun i =>
    let a := p + BitVec.ofNat 64 i
    match s.mapping pages c asid a with
    | none => some 0
    | some e =>
      let l := e.leaf
      let key := leafKey a l e.page
      if ptrTag a = 0 && l.getLsbD 3 then
        s.expand (homeKey (l.extractLsb' 60 4).toNat (l.extractLsb' 54 6).toNat (pteAddr l)) e.size (ptrOff a % e.size)
      else some (x.view c q a key (Map.get s.dev key))

/-- A number for a new access. -/
def State.newId (s : State) : Nat × State := (s.uid, { s with uid := s.uid + 1 })

/-- The event that ends an access. -/
def Access.ending (a : Access) : Instr :=
  match a.kind with
  | .read => .phasedReplyArrival a.id
  | .store => .storePerformed (.own a.id)
  | .atomic => .atomPerformed a.id

/-- Changes the access of a number. -/
def State.modAccess (s : State) (id : Nat) (f : Access → Access) : State :=
  { s with outs := s.outs.map fun a => if a.id = id then f a else a }

/-- The access of a number. -/
def State.access (s : State) (id : Nat) : Option Access := s.outs.find? fun a => a.id == id

/-- Ends an access: it is no longer outstanding, and what waits for its reply goes on (R37). -/
def State.endAccess (s : State) (a : Access) : State :=
  ({ s with outs := s.outs.filter fun b => b.id != a.id }).clearCause a.slot (.reply a.id)

/-- The fault that an access takes when its page fault is fatal, at A for a read and at its piece tc otherwise (R362). -/
def Access.faultRec (a : Access) (k : FaultKind) (d : Nat) (addr : Word) : FaultRec :=
  let cu := match a.els.find? fun e => e.parts.any (inRange addr) with
    | some e => if e.idx.isEmpty then a.cu else e.idx
    | none => a.cu
  ⟨k, d, a.core, a.stream, if a.kind == .read then a.arr else a.tc, a.issue.pc, a.issue.word, addr,
    0x80 + ptrTag addr, cu, none, some ⟨a.ins, a.id, a.issue.tc, a.piece, 0, a.hnd, a.cu, a.aux, []⟩⟩

/-- Gives a slot a fault that counts from its own tc on. -/
def State.dueFault (s : State) (n : Nat) (r : FaultRec) : State :=
  s.modSlot n fun x => { x with dueFaults := x.dueFaults ++ [r] }

/-- The size of the page that a fault record covers (R365): that of the leaf that forbids the write, and 64 KiB where no leaf maps the
address (notes/assumptions/12.md). -/
def faultSize (cause level : Nat) : Nat := if cause = 2 then 2 ^ pageBits level else 65536

/-- The page of a size that holds an address. -/
def faultPage (p : Word) (size : Nat) : Word := p - BitVec.ofNat 64 (ptrOff p % size)

/-- A collective of a slot changes. -/
def State.modColl (s : State) (n id : Nat) (f : Coll → Coll) : State :=
  s.modSlot n fun x => { x with colls := x.colls.map fun k => if k.id = id then f k else k }

/-- An access made by `COLL`: 0 its source, 1 the check of its destination, 2 the engine's write (R293). Its `aux` names the
collective. -/
def Access.coll (a : Access) : Option Nat :=
  match a.ins with
  | .coll _ _ => some a.piece
  | _ => none

/-- An access ends in a fatal fault (R362, R364, R370): its hold causes clear, and it is never delivered or performed. The engine's write of
a collective is charged to its `COLL.WAIT` (R295, R371). -/
def State.failWith (s : State) (a : Access) (r : FaultRec) : State :=
  let s := if a.coll = some 2 then s.modColl a.slot (a.aux.getD 0 0) fun k => { k with fault := some (r.kind, r.detail, r.addr) }
    else s.dueFault a.slot { r with tc := (s.slot a.slot).faultTc a r.tc }
  (((s.unplan fun i => i == a.ending).clearCause a.slot (.fault a.id)).clearCause a.slot (.reply a.id)).modAccess a.id fun b =>
    { b with st := .failed }

/-- A fault-log record's 32 bytes (R363). -/
def logRecord (seq slot kind cause level addr tc rank stream : Nat) : List Byte :=
  leBytes 2 seq ++ leBytes 1 slot ++ leBytes 1 kind ++ leBytes 1 cause ++ leBytes 1 level ++ leBytes 2 0 ++ leBytes 8 addr ++
    leBytes 8 tc ++ leBytes 2 rank ++ leBytes 1 stream ++ leBytes 5 0

/-- The fault log of a supervisor core is full (R363). -/
def Sup.logFull (x : Sup) : Bool :=
  ((x.flogp.extractLsb' 8 8).toNat + 1) % 128 == (x.flogp.extractLsb' 0 8).toNat % 128

/-- The watched line that a write to device memory touches raises event cause 1 (R341, R342, R387). -/
def State.watchHit (s : State) (addr : Nat) : State :=
  (List.range 16).foldl
    (fun s v => (List.range 16).foldl
      (fun s j =>
        let w := Map.get (s.core (768 + v)).sup.watch j
        if w.getLsbD 0 && w.toNat / 64 == addr / 64 then s.event (768 + v) 1 (BitVec.ofNat 64 j) else s) s) s

/-- Appends a record to the log of supervisor core `v` (R363); the log must have room. -/
def State.appendLog (s : State) (v : Nat) (bytes : Nat → List Byte) : State :=
  let x := (s.core v).sup
  let prod := (x.flogp.extractLsb' 8 8).toNat
  let addr := (x.flogb.extractLsb' 12 42).toNat * 4096 + 32 * prod
  let s := s.devWrites none addr (bytes x.seq)
  (s.modCore v fun y =>
    { y with
      sup := { y.sup with
        flogp := (y.sup.flogp &&& 0xFF) ||| BitVec.ofNat 64 ((prod + 1) % 128 * 256)
        seq := (x.seq + 1) % 65536 } }).watchHit addr

/-- The next record of a log: slot, kind, cause, level, address, tc, rank and stream in `r` (R363). -/
def State.appendNats (s : State) (v : Nat) (r : List Nat) : State :=
  let g := fun i => r.getD i 0
  s.appendLog v fun q => logRecord q (g 0) (g 1) (g 2) (g 3) (g 4) (g 5) (g 6) (g 7)

/-- Appends a record, or lets it wait while the log is full; a log that is off takes none (R362, R363). -/
def State.logOrWait (s : State) (v : Nat) (r : List Nat) : State :=
  let x := (s.core v).sup
  if !x.flogb.getLsbD 0 then s
  else if x.logFull || !x.waiting.isEmpty then s.modCore v fun y => { y with sup := { y.sup with waiting := y.sup.waiting ++ [r] } }
  else s.appendNats v r

/-- Appends waiting records while there is room (R363); `fuel` bounds them. -/
def State.flushLog (s : State) (v : Nat) : Nat → State
  | 0 => s
  | fuel + 1 =>
    let x := (s.core v).sup
    match x.waiting with
    | r :: rs =>
      if x.logFull then s
      else ((s.modCore v fun y => { y with sup := { y.sup with waiting := rs } }).appendNats v r).flushLog v fuel
    | [] => s

/-- The code of an access kind (R363). -/
def AccKind.code : AccKind → Nat
  | .read => 0 | .store => 1 | .atomic => 2

/-- The first leaf under a table that meets a test, with as much fuel as levels are left (R357, R358). -/
def State.findLeaf (s : State) (p : Word → Bool) : Nat → Nat → Nat → Option Word
  | 0, _, _ => none
  | fuel + 1, level, table =>
    (List.range (if level = 4 then 32 else 512)).findSome? fun i =>
      let e : Word := BitVec.ofNat 64 (s.devNat (table + 8 * i) 8)
      if !e.getLsbD 0 || pteBad e level then none
      else if e.getLsbD 1 then (if p e then some e else none)
      else s.findLeaf p fuel (level + 1) (pteAddr e)

/-- The leaf of the page that migration slot `m` of supervisor core `v` moves (R367): the one with MIG and the new frame's address, which names
the tier and the peer of that frame. A translation that a TLB holds is as good as a walk. -/
def State.migLeaf (s : State) (v m : Nat) : Option Word :=
  let ctl := Map.get (s.core v).sup.migctl m
  let n := (ctl.extractLsb' 8 8).toNat
  let is := fun l : Word => l.getLsbD 4 && pteAddr l == (ctl.extractLsb' 16 38).toNat * 65536
  match (s.tlb1.flatMap (·.2) ++ s.tlb2.flatMap (·.2)).find? fun e => e.asid == n && !e.dsr && is e.leaf with
  | some e => some e.leaf
  | none => s.findLeaf is 5 0 (s.slot n).groot

/-- Old and new home keys of a line of migration slot `m` of supervisor core `v` (R100, R367). -/
def State.migKeys (s : State) (v m line : Nat) : Nat × Nat :=
  let x := (s.core v).sup
  let src := Map.get x.migsrc m
  let ctl := Map.get x.migctl m
  let l := (s.migLeaf v m).getD 0
  (homeKey (src.extractLsb' 60 4).toNat (src.extractLsb' 54 6).toNat ((src.extractLsb' 16 38).toNat * 65536 + line * 256),
    homeKey (l.extractLsb' 60 4).toNat (l.extractLsb' 54 6).toNat ((ctl.extractLsb' 16 38).toNat * 65536 + line * 256))

/-- The number of 256-byte lines of a migration (R367). -/
def migLines (ctl : Word) : Nat := if ctl.getLsbD 4 then 8192 else 256

/-- Every line of a migration has moved: DONE is set and a record with CAUSE 0x10 is appended (R368). -/
def State.migDone (s : State) (v m : Nat) : State :=
  let x := (s.core v).sup
  let ctl := Map.get x.migctl m
  if (x.moved.filter fun e => e.1 == m).length < migLines ctl || ctl.getLsbD 3 then s
  else
    let s := s.modCore v fun y => { y with sup := { y.sup with migctl := Map.set y.sup.migctl m (ctl ||| 0x8) } }
    let asid := (ctl.extractLsb' 8 8).toNat
    s.logOrWait v [asid, 0, 0x10, 0, (ctl.extractLsb' 16 38).toNat * 65536, 0, 0, 0]

/-- A write with the home bytes that it names in their new places (R100, R315). -/
def PWrite.rekey (w : PWrite) (re : Nat → Nat) : List PWrite :=
  match w.peer with
  | none => [w]
  | some (k, t, sc) =>
    (runsOf (((List.range w.data.length).zip w.data).map fun (b : Nat × Byte) => (re (k + b.1), b.2))).map fun (r : Nat × List Byte) =>
      { w with data := r.2, peer := some (r.1, t, sc) }

/-- Moves one line to the new frame, with the values that cohorts' views and the round log keep by home byte (R100, R368); what views kept
of the new frame's earlier use goes. -/
def State.moveLine (s : State) (v m line : Nat) : State :=
  let (o, n) := s.migKeys v m line
  let bs := s.devBytes o 256
  let re := fun k => if o ≤ k && k < o + 256 then n + (k - o) else k
  let stale := fun k => n ≤ k && k < n + 256
  let s := s.modPlat fun p => { p with rlog := p.rlog.map fun e => { e with key := re e.key } }
  let s := { s with
    dev := Map.setRun s.dev n bs
    slots := s.slots.map fun (e : Nat × Slot) =>
      (e.1, { e.2 with
        log := e.2.log.flatMap fun (w : PWrite) => w.rekey re
        base := e.2.base.flatMap fun (r : Nat × List Byte) => runsOf ((((List.range r.2.length).zip r.2).filter fun (b : Nat × Byte) => !stale (r.1 + b.1)).map fun (b : Nat × Byte) => (re (r.1 + b.1), b.2))
        outside := e.2.outside.flatMap fun (w : Outside) =>
          let far := fun k => w.key + w.data.length ≤ k || k + 256 ≤ w.key
          if far o && far n then [w]
          else (((List.range w.data.length).zip w.data).filter fun (b : Nat × Byte) => !stale (w.key + b.1)).map fun (b : Nat × Byte) =>
            ⟨re (w.key + b.1), w.tc, [b.2], w.seq + b.1, w.agent⟩ }) }
  (s.modCore v fun y => { y with sup := { y.sup with moved := y.sup.moved ++ [(m, line)] } }).migDone v m

/-- Stages of a migration slot's `TLBI`s (R367, R368): none yet, one issued after START, that one completed, and one issued after the last
line has moved. While one is awaited, 4 times its supervisor core's number stands beside the stage. -/
def migIssued : BitVec 8 := 1
def migMay : BitVec 8 := 2
def migLast : BitVec 8 := 3

/-- The copy engine of a supervisor core's die may move a line of a migration slot (R389, R390): it reaches both frames. What it does not
reach is not moved. -/
def State.migReach (s : State) (v m line : Nat) : Except State State :=
  let d := (v - 768) / 2
  let (o, n) := s.migKeys v m line
  match s.capAccess (16 + d) d o 256 false with
  | .error s => .error s
  | .ok s => s.capAccess (16 + d) d n 256 true

/-- A line of the old frame cannot be read (R368): ERR is set, and the line is zero in the new frame, whatever views kept of its bytes. -/
def State.loseLine (s : State) (v m line : Nat) : State :=
  let (_, new_) := s.migKeys v m line
  let asid := ((Map.get (s.core v).sup.migctl m).extractLsb' 8 8).toNat
  let s := s.moveLine v m line
  let here := fun k => new_ ≤ k && k < new_ + 256
  let gone := fun (w : PWrite) (i : Nat) => match w.peer with
    | some (k, _, _) => here (k + i)
    | none => (s.keyOf w.core asid (w.addr + BitVec.ofNat 64 i)).any fun e => here e.2
  let cut := fun w : PWrite =>
    if w.done = 0 || !((List.range w.data.length).any (gone w)) then [w]
    else (runsOf (((List.range w.data.length).zip w.data).filter fun (b : Nat × Byte) => !gone w b.1)).map fun (r : Nat × List Byte) =>
      { w with addr := w.addr + BitVec.ofNat 64 r.1, data := r.2, peer := w.peer.map fun p => (p.1 + r.1, p.2) }
  let s := s.modSlot asid fun x =>
    { x with
      log := x.log.flatMap cut
      outside := x.outside.filter fun o => !(here o.key && o.data.length = 1) }
  let rest := fun (r : Nat × List Byte) =>
    if r.1 + r.2.length ≤ new_ || new_ + 256 ≤ r.1 then [r]
    else runsOf ((((List.range r.2.length).zip r.2).map fun (b : Nat × Byte) => (r.1 + b.1, b.2)).filter fun (b : Nat × Byte) => !here b.1)
  let s := s.modCore v fun y => { y with sup := { y.sup with migctl := Map.set y.sup.migctl m (Map.get y.sup.migctl m ||| 4) } }
  { s with
    dev := Map.clearRun s.dev new_ 256
    slots := s.slots.map fun (e : Nat × Slot) => (e.1, { e.2 with base := e.2.base.flatMap rest }) }

/-- What pulling a line for an access comes to (R368): it has moved, it waits, or its old frame cannot be read. -/
inductive Pulled where
  | moved | waits | lost
  deriving DecidableEq, Repr

/-- Pulls a line for an access: it moves once the first `TLBI` after START has completed, and waits before that (R368). -/
def State.pullLine (s : State) (v m line : Nat) : State × Pulled :=
  let x := (s.core v).sup
  if x.moved.contains (m, line) then (s, .moved)
  else if Map.get x.migtlbi m != migMay then (s, .waits)
  else
    match s.migReach v m line with
    | .error s => (s, .waits)
    | .ok s => if x.bad.contains (m, line) then (s.loseLine v m line, .lost) else (s.moveLine v m line, .moved)

/-- The first page fault of an access among its lines, pulling the lines that are to move and may (R362, R368); `fuel` bounds the
pulls. -/
def State.pagesPull (s : State) (c asid : Nat) (k : AccKind) (pts : List Word) : Nat → Option (Word × PageFault) × State
  | 0 => (none, s)
  | fuel + 1 =>
    match s.pagesCheck c asid k pts with
    | (some (p, .pull v m line), s) =>
      (match s.pullLine v m line with
        | (s, .moved) => s.pagesPull c asid k pts fuel
        | (t, .lost) => (some (p, .lost ((s.migKeys v m line).1 % 2 ^ 54)), t)
        | (s, .waits) => (some (p, .pull v m line), s))
    | r => r

/-- What every fatal case of R370 does beside its fault: event cause 8 and a record with CAUSE 0x20. -/
def State.reportError (s : State) (n kind phys tc rank stream : Nat) : State :=
  let v := (s.slot n).sup
  (s.event v 8 (BitVec.ofNat 64 n)).logOrWait v [n, kind, 0x20, 0, phys, tc, rank, stream]

/-- An access takes the fatal fault of an uncorrectable error at a physical address (R370): it is never delivered or performed. -/
def State.failAccess (s : State) (a : Access) (r : FaultRec) (phys : Nat) : State :=
  (s.failWith a r).reportError a.slot a.kind.code phys a.outTc a.rank a.stream

/-- Translates an access (R362): it goes on its way, joins or starts a fault record, takes a fatal page fault, or waits for a
line to move. -/
def State.translate (s : State) (a : Access) : State :=
  let pts := a.parts.flatMap fun p => lineStarts p.1 p.2.length
  let (r, s) := s.pagesPull a.core a.slot a.kind pts (pts.length + 1)
  match r with
  | none =>
    let pages := (pts.filterMap fun p => s.mapping [] a.core a.slot p).eraseDups
    (s.modAccess a.id fun b => { b with st := .sent, pages := pages }).clearCause a.slot (.fault a.id) |>.later a.ending
  | some (p, .fatal d) =>
    s.failWith a (a.faultRec .page d p)
  | some (_, .pull _ _ _) => s.modAccess a.id fun b => { b with st := .walk }
  | some (p, .lost phys) => s.failAccess a (a.faultRec .uncorrectable 1 p) phys
  | some (p, .logged cause level) =>
    let x := s.slot a.slot
    let sup := (s.core x.sup).sup
    if !sup.flogb.getLsbD 0 then
      s.failWith a (a.faultRec .page 1 p)
    else
      let s := if x.reqs.any fun r => r.cause == .fault a.id && r.cleared.isNone then s
        else s.request a.slot (x.tc + x.horizon) (.fault a.id)
      let size := faultSize cause level
      match x.faults.find? fun f => f.page == faultPage p f.size && f.size == size && f.kind == a.kind with
      | some f => s.modAccess a.id fun b => { b with st := .faulted f.seq }
      | none =>
        if sup.logFull then
          (s.modAccess a.id fun b => { b with st := .walk }).later (.faultLogAppend a.slot a.id)
        else
          let s := s.modSlot a.slot fun x => { x with faults := x.faults ++ [⟨sup.seq, faultPage p size, size, a.kind⟩] }
          let s := s.modAccess a.id fun b => { b with st := .faulted sup.seq }
          s.appendLog x.sup fun q => logRecord q a.slot a.kind.code cause level p.toNat a.outTc a.rank a.stream

/-- A mark counts for a write of a tc (R284): it was made before, and it is not removed by a `PROT.MARK` of an earlier tc. -/
def Mark.countsAt (m : Mark) (tc : Moment) : Bool := m.tc.before tc && m.gone.all fun t => !t.before tc

/-- A mark of the cohort that holds a byte (R284). -/
def Slot.markAt (x : Slot) (p : Word) (tc : Moment) : Option Mark :=
  if ptrTag p = 0 then x.marks.find? fun m => m.countsAt tc && m.base ≤ ptrOff p && ptrOff p < m.base + m.len else none

/-- The first marked byte of a range among those that a mark can begin or end at, with its mark (R284): marks stand on 64 KiB. -/
def Slot.markIn (x : Slot) (p : Word) (n : Nat) (tc : Moment) : Option (Word × Mark) :=
  (lineStarts p n ++ [p + BitVec.ofNat 64 (n - 1)]).findSome? fun a => (x.markAt a tc).map fun m => (a, m)

/-- The first byte of a range that a mark of group slot `gs` holds for a write of a moment, among those that a mark can begin at (R284). -/
def Slot.markedBy (x : Slot) (gs : Nat) (p : Word) (n : Nat) (tc : Moment) : Option Word :=
  (lineStarts p n).find? fun a => (x.markAt a tc).any fun m => m.grp == gs

/-- The round-state cause of a write to a marked range (R283, R289): 6 while the slot is IDLE, 1 while PREPARED. -/
def Slot.markFault (x : Slot) (p : Word) (n : Nat) (tc : Moment) : Option Nat :=
  match x.markIn p n tc with
  | none => none
  | some (_, m) =>
    match (Tbl.get Round.idle x.rounds m.grp).st with
    | .idle => some 6
    | .opened => none
    | .prepared => some 1

/-- A phased access of the executing stream at its tc, outstanding and translated. Stores join the coherence order at once
(R128); a read takes no place in it, and an atomic takes it when it is performed (R132). `els` are the elements of a piece, `d`
its byte ranges with the bytes of a store, `offer` the barrier objects' number. -/
def State.startAs (s : State) (id : Nat) (k : AccKind) (ins : Instr) (arr piece : Nat) (hnd : Handle) (cu aux : List Nat)
    (els : List Elem) (d : List (Word × List Byte)) (offer : Option Nat) : State :=
  let x := s.me
  let sl := s.my
  let a : Access := ⟨id, x.slot, s.cur.1, x.rank, s.cur.2, k, ins, s.str.now, sl.tc, arr, piece, hnd, cu, aux, d, els, sl.npod,
    s.str.fences, .walk, none, [], sl.stubOf⟩
  let s := { s with outs := s.outs ++ [a] }
  let s := if k = .store then
      s.modMy fun y => { y with log := y.log ++ d.map fun (e : Word × List Byte) =>
        ⟨sl.npod, sl.prank, sl.writeTc sl.tc, x.rank, s.cur.2, s.cur.1, e.1, e.2, false, offer, [], none, 0, id, none⟩ }
    else s
  s.translate a

/-- `startAs` with the next number. -/
def State.start (s : State) (k : AccKind) (ins : Instr) (arr piece : Nat) (hnd : Handle) (cu aux : List Nat)
    (els : List Elem) (d : List (Word × List Byte)) (offer : Option Nat) : State :=
  let (id, s) := s.newId
  s.startAs id k ins arr piece hnd cu aux els d offer

/-- Goes on unless a write to phased bytes breaks a round (R283, R289). -/
def State.withMarks (s : State) (p : Word) (n : Nat) (k : State → State) : State :=
  match s.my.markFault p n (s.my.writeTc s.tc) with
  | some c => s.faultPtr .round c p
  | none => k s

/-- The scheduled arrival of the word in execution by latency class (R34). -/
def State.arrival (s : State) (lcl : Nat) : Nat := s.tc + s.my.latcls.getD lcl 0

end Sys2Proof.Machine
end

