-- ==== Sys2Proof/Machine/Issue.lean ====
section
/-! DEFINITION. Issue of a word: fetching, the checks of R144, token bits, loop levels, rings and stage predicates
(spec/02_timetable.md R24 to R28, R41 to R47; spec/07_encoding.md R137 to R145). -/

namespace Sys2Proof.Machine

/-- The word at an offset; zero outside the text section (R138). -/
def Stream.wordAt (x : Stream) (pc : Nat) : Word := if pc < x.textLen then Map.get x.text (pc / 8) else 0

/-- The next word of a stream. -/
def Stream.next (x : Stream) : Word := x.wordAt x.pc

/-- The tc on which the next word issues (R24). -/
def Stream.due (x : Stream) : Nat := x.base + (hdrOf x.next).idle.toNat

/-- The ringed loop level in force, if any: the innermost level that an `LRING` heads (R45). -/
def ringOf : List Level → Option Level
  | [] => none
  | l :: ls => if l.ringed then some l else ringOf ls

/-- The stage predicates k1 to k3 of a level in bits 0 to 2; true outside a ringed loop and beyond D (R46). -/
def stagesOf (l : Option Level) : BitVec 3 :=
  match l with
  | none => 7
  | some v =>
    let on := fun j => v.d ≤ j || (j ≤ v.idx && v.idx - j < v.n)
    BitVec.ofNat 3 ((if on 0 then 1 else 0) + (if on 1 then 2 else 0) + (if on 2 then 4 else 0))

/-- The stage field of a word: RRR, RRI, MEM, MX and SYS words carry one, the JL words none (R140, R165). -/
def stgOf (w : Word) : Nat :=
  let op := (opOf w).toNat
  if 0x20 ≤ op && op ≤ 0x24 then 0 else (w.extractLsb' 44 2).toNat

/-- The open loop levels, innermost first; inside a stub that opens none, those of the curtain (R322, R323). -/
def Stream.openLevels (x : Stream) : List Level :=
  match x.loops, x.main with
  | [], some (_, ls) => ls
  | ls, _ => ls

/-- What a stream records of the word that it issues at tc `t`. -/
def Stream.issueOf (x : Stream) (isV : Bool) (t : Nat) : Issue :=
  let r := ringOf x.loops
  let st := stagesOf r
  let g := stgOf x.next
  { pc := x.pc, word := x.next, tc := t, guard := isV || g == 0 || st.getLsbD (g - 1),
    ranges := (r.map (·.ranges)).getD [], idx := (r.map fun l => l.idx + 1).getD 0, stages := st,
    lcs := x.openLevels.reverse.map (·.idx), stamp := none }

/-- Moves past the word at `pc` through the loop levels, innermost first: the last word of a body goes back to the first
while iterations are left, and closes its level otherwise (R41, R43). -/
def advanceLoops (pc : Nat) : List Level → Nat × List Level
  | [] => (pc + 8, [])
  | l :: ls =>
    if l.last = pc then
      if l.idx + 1 < l.total then (l.first, { l with idx := l.idx + 1 } :: ls) else advanceLoops pc ls
    else (pc + 8, l :: ls)

/-- The register fields of a word with their spaces (R139), for the ring rule of check 7. -/
def ringFields (st : StreamId) (i : Instr) : List (Space × BitVec 7) :=
  match encode i with
  | none => []
  | some w =>
    let f := rrrOf w
    let r3 := fun a b c d : Space => [(a, f.rd), (b, f.ra), (c, f.rb), (d, f.rc)]
    let op := (opOf w).toNat
    if op ≤ 0x18 then
      if op = 0x14 || op = 0x17 || op = 0x18 then r3 .S .S .none .none
      else if op = 0x15 || op = 0x16 then r3 .S .none .none .none
      else r3 .S .S .S .S
    else if op ≤ 0x24 then []
    else
      match i with
      | .sptest _ _ | .spcastS _ _ | .spcastG _ _ | .padd _ _ => r3 .S .S .S .none
      | .hld _ g | .hst _ g => [(.S, g.rx)]
      | .hset _ _ | .hstat _ _ => [(.S, f.ra)]
      | .hget _ _ => [(.S, f.rd)]
      | .lds _ g | .sts _ g => [(.S, g.rd), (.S, g.rx)]
      | .fpush _ _ => [(.S, f.ra)]
      | .rdctr _ _ | .csrr _ _ => if st = .C then [(.S, f.rd)] else []
      | .flagsClear _ g | .selWrite _ g | .csrw _ g => if st = .C && !g.imm.getLsbD 12 then [(.S, g.ra)] else []
      | .ldV _ g | .stV _ g => [(.V, g.rd)]
      | .ldT _ g | .ldTr _ g | .stT _ g => [(.T, g.rd)]
      | .vbcast _ _ => r3 .VQ .VQ .none .none
      | .vqpop _ _ => [(.V, f.rd)]
      | .vqpush _ _ => [(.V, f.ra)]
      | .tmovR _ _ => r3 .T .VQ .none .none
      | .tmovC _ _ => r3 .VQ .T .none .none
      | .kop _ _ => r3 .K .K .K .none
      | .kset _ _ => r3 .K .none .none .none
      | .kmov _ _ => [(if f.fn = 2 then .VQ else .K, f.rd), (if f.fn = 1 then .VQ else .K, f.ra)]
      | .vcmp _ _ => r3 .K .VQ .VQ .none
      | .vsel _ _ => r3 .VQ .VQ .VQ .K
      | .vshape _ _ | .valloc _ _ | .vshrink _ _ | .vgate _ _ => []
      | .launch _ g | .launchResume _ g | .ttStart _ g | .ttStartAt _ g | .tlbi _ g | .pcsrRead _ g | .pcsrWrite _ g
      | .waitTime _ g | .rndOpen _ g | .rndCommit _ g | .protMark _ g | .pwrAcq _ g | .coll _ g => [(.S, g.ra)]
      | .curGetTrap _ g | .statRd _ g => if st = .C then [(.S, g.ra)] else []
      | _ => if 0x80 ≤ op && op ≤ 0xBB then r3 .VQ .VQ .VQ .VQ else []

/-- Rotated fields lie in declared ranges of a ringed loop (R45, check 7 of R144). -/
def ringsOk (st : StreamId) (w : Issue) (i : Instr) : Bool :=
  (ringFields st i).all fun f =>
    f.1 == .none || !f.2.getLsbD 6 || (w.idx != 0 && (rangeFor w.ranges (ringCode f.1 (f.2.toNat % 64))).isSome)

/-- The stage predicates that a word writes as registers (R224): k1 to k3 as a plain destination. -/
def writesStage (i : Instr) : Bool :=
  let k := fun f : BitVec 7 => 1 ≤ f.toNat % 64 && f.toNat % 64 ≤ 3
  match i with
  | .vcmp _ f | .kop _ f | .kset _ f => k f.rd
  | .kmov _ f => f.fn != 2 && k f.rd
  | _ => false

/-- The structural rules of loops, jumps and rings (R41, R44, R45; check 7 of R144). An `LRING` that ends a loop body is followed by no
`LOOP` of that body, though one stands after it in the text (notes/assumptions/62.md). -/
def structOk (st : StreamId) (x : Stream) (w : Issue) (i : Instr) : Bool :=
  ringsOk st w i && !(writesStage i && (match ringOf x.loops with
      | some l => 1 ≤ l.d
      | none => false)) &&
    match i with
    | .loop _ f =>
      x.loops.length < 3 &&
        match x.loops with
        | [] => true
        | l :: _ => w.pc + 8 * (f.blen.toNat + 1) ≤ l.last
    | .jmp _ _ | .call _ _ | .ret _ _ => x.loops.isEmpty
    | .lring _ _ =>
      (ringOf x.loops).isNone && (opOf (x.wordAt (w.pc + 8))).toNat == 0x23 && x.loops.all fun l => l.last != w.pc
    | _ => true

/-- The return stack's rules (R166): 0x17, 0x18 and 0x19. -/
def stackDetail (x : Stream) (i : Instr) : Nat :=
  match i with
  | .call _ _ => if x.ret.length < 8 then 0 else 0x17
  | .ret _ _ => if x.ret.isEmpty then 0x18 else 0
  | .curtain _ _ | .rdvEnd _ _ => if x.ret.isEmpty then 0 else 0x19
  | _ => 0

/-- The checks of a word on a cohort stream (R144, R155, R322), in order: the instruction, or kind and detail of the first that fails. -/
def State.wordCheck (s : State) (st : StreamId) (x : Stream) (w : Issue) : Except (FaultKind × Nat) Instr :=
  match decodeWord w.word with
  | .error _ => .error (.illegal, 0x10)
  | .ok i =>
    if isPrivileged i then .error (.illegal, 0x11)
    else if !streamOk st i then .error (.wrongStream, 0x12)
    else if fieldDetail st i != 0 then .error (.illegal, (fieldDetail st i).toNat)
    else
      let stub := s.my.resume = .stubs
      let curOk := match i with
        | .curtain _ f => f.imm.toNat < s.my.curts.length && (!stub || f.imm.toNat == s.my.curtain)
        | .rdv _ _ | .rdvEnd _ _ | .phase _ _ | .bar _ _ | .yield _ _ => !stub
        | _ => true
      if !curOk then .error (.illegal, 0x15)
      else if !structOk st x w i then .error (.illegal, 0x16)
      else if stackDetail x i != 0 then .error (.illegal, stackDetail x i)
      else .ok i

/-- The predicate registers k1 to k3 of V follow the stage predicates when an iteration starts or a ringed loop ends (R46). -/
def Core.setStages (x : Core) (st : BitVec 3) : Core :=
  { x with
    k := (List.range 3).foldl
      (fun m j => Map.set m (j + 1) (if st.getLsbD j then BitVec.allOnes 4096 else 0)) x.k }

/-- The state in which the word of stream `st` of core `c` executes: the stream is the executing one, it has recorded the
word, moved past it and taken an occupancy of one tc; on V the stage predicates of a loop that declares stages stand (R46, R140). -/
def State.enter (s : State) (c st : Nat) : State :=
  let s := { s with cur := (c, st) }
  let x := s.str
  let w := { x.issueOf (st == 3) s.tc with stamp := (s.me.stream 0).stamp }
  let staged := fun ls : List Level => (ringOf ls).any fun l => 1 ≤ l.d
  let s := if st = 3 && w.idx != x.now.idx && (staged x.before || staged x.loops) then s.modMe fun y => y.setStages w.stages else s
  let (pc, ls) := advanceLoops x.pc x.loops
  s.modStr fun y => { y with now := w, before := y.loops, pc := pc, loops := ls, base := w.tc + 1 }

/-- The token bits of the word in execution act on the core's counters when the tc ends (R27). -/
def State.tokens (s : State) (tok : BitVec 4) : State :=
  s.modMe fun x => { x with tokActs := x.tokActs ++ tokenActs s.cur.2 tok }

/-- The occupancy of the word in execution (R24). -/
def State.occupy (s : State) (n : Nat) : State := s.modStr fun x => { x with base := s.str.now.tc + max n 1 }

/-! ## Jumps, loops and rings -/

/-- The word offset that JL's OFF names (R165). -/
def jumpTo (pc : Nat) (off : BitVec 32) : Nat := ((pc : Int) + off.toInt * 8).toNat + (if (pc : Int) + off.toInt * 8 < 0 then 2 ^ 32 else 0)

/-- The count of a `LOOP` (R167). -/
def loopCount (x : Stream) (f : Loop) : Nat :=
  if f.csrc = 0 then f.count.toNat
  else if f.csrc = 1 then (Map.get x.lk (f.count.toNat % 16)).toNat
  else if f.count.getLsbD 0 then (x.segp.extractLsb' 16 16).toNat
  else (x.segp.extractLsb' 0 16).toNat

/-- A range field of `LRING` as base and length; none where it is empty (R140, R141). -/
def ringRange (r : BitVec 11) : List (Nat × Nat) :=
  if r.extractLsb' 0 5 = 0 then [] else [((r.extractLsb' 5 6).toNat, (r.extractLsb' 0 5).toNat + 1)]

/-- A stream that has issued `LOOP`: a level is open over the words that follow, or the body is skipped where it runs no iteration (R41,
R42, R167). A heading `LRING` gives rings and the stage count. -/
def Stream.loop (x : Stream) (f : Loop) : Stream :=
  let n := loopCount x f
  let d := match x.lring with
    | some (d, _) => d
    | none => 0
  let total := n + max d 1 - 1
  let last := x.now.pc + 8 * (f.blen.toNat + 1)
  if total = 0 then { x with pc := (advanceLoops last x.loops).1, loops := (advanceLoops last x.loops).2, lring := none }
  else
    { x with
      pc := x.now.pc + 8
      lring := none
      loops := { first := x.now.pc + 8, last := last, n := n, d := d, total := total, idx := 0,
                 ringed := x.lring.isSome, ranges := (x.lring.map (·.2)).getD [] } :: x.loops }

/-- A stream that has issued an instruction, as far as its control flow goes: jumps, calls, loops and rings (R41, R165 to R168). -/
def Stream.flow (x : Stream) (i : Instr) : Stream :=
  match i with
  | .jmp _ f => { x with pc := jumpTo x.now.pc f.off }
  | .call _ f => { x with pc := jumpTo x.now.pc f.off, ret := (x.now.pc + 8) :: x.ret }
  | .ret _ _ => { x with pc := x.ret.headD 0, ret := x.ret.tail }
  | .loop _ f => x.loop f
  | .lring _ f =>
    { x with lring := some (f.d.toNat, ringRange f.rng0 ++ ringRange f.rng1 ++ ringRange f.rng2 ++ ringRange f.rng3) }
  | _ => x

/-- The instruction of the word that a stream issues at tc `t`, if one issues then. -/
def Stream.dueAt (x : Stream) (t : Nat) : Option Instr :=
  if x.stopped || x.ended || x.act.isSome || x.due != t then none
  else
    match decodeWord x.next with
    | .ok i => some i
    | .error _ => none

/-- The words of a cohort that issue at tc `t`, by core and stream, guarded-off ones apart (R47). -/
def State.dueWords (s : State) (n t : Nat) : List (Nat × Nat × Instr) :=
  (s.slot n).members.flatMap fun c => (List.range 5).filterMap fun st =>
    let y := (s.core c).stream st
    match y.dueAt t with
    | some i => if (y.issueOf (st == 3) t).guard then some (c, st, i) else none
    | none => none

/-- `JMP` (R165). -/
def execJmp (h : Hdr) (f : Jmp) (s : State) : Host.Outcome State Fault Refusal := .next (s.modStr fun x => x.flow (.jmp h f))

/-- `CALL` (R165). -/
def execCall (h : Hdr) (f : Jmp) (s : State) : Host.Outcome State Fault Refusal := .next (s.modStr fun x => x.flow (.call h f))

/-- `RET` (R165). -/
def execRet (h : Hdr) (f : Ret) (s : State) : Host.Outcome State Fault Refusal := .next (s.modStr fun x => x.flow (.ret h f))

/-- `LOOP` (R41, R42, R167). -/
def execLoop (h : Hdr) (f : Loop) (s : State) : Host.Outcome State Fault Refusal := .next (s.modStr fun x => x.flow (.loop h f))

/-- `LRING` (R168): its ring is that of the `LOOP` that follows, which the stream issues next. A `LOOP` that a jump reaches past its
`LRING` has no ring (notes/assumptions/62.md). -/
def execLring (h : Hdr) (f : Lring) (s : State) : Host.Outcome State Fault Refusal := .next (s.modStr fun x => x.flow (.lring h f))

end Sys2Proof.Machine
end

