-- ==== Sys2Proof/Machine/Scalar.lean ====
section
/-! DEFINITION. Scalar arithmetic, logic, immediates, bit fields, pointer and handle instructions of the C stream
(spec/08_isa_control.md R157 to R173). -/

namespace Sys2Proof.Machine

/-- The outcome of every instruction here. -/
abbrev Result := Host.Outcome State Fault Refusal

/-- An RRR instruction that writes a function of RA and RB to RD at issue plus `lat`; nothing under a false guard (R157). -/
def State.alu (s : State) (f : Rrr) (lat : Nat) (op : Word → Word → Word) : State :=
  if s.guard then s.landS f.rd (s.tc + lat) (op (s.rs f.ra) (s.rs f.rb)) else s

/-- `ADD` (R161). -/
def execAdd (_ : Hdr) (f : Rrr) (s : State) : Result := .next (s.alu f 1 fun a b => a + b)

/-- `SUB` (R161). -/
def execSub (_ : Hdr) (f : Rrr) (s : State) : Result := .next (s.alu f 1 fun a b => a - b)

/-- `MUL`: the low half of the product (R161). -/
def execMul (_ : Hdr) (f : Rrr) (s : State) : Result := .next (s.alu f 3 fun a b => a * b)

/-- The high half of the exact product, by MOD: unsigned, signed, signed by unsigned (R161). -/
def mulHigh (md : Nat) (a b : Word) : Word :=
  let x : Int := if md = 0 then a.toNat else a.toInt
  let y : Int := if md = 1 then b.toInt else b.toNat
  BitVec.ofInt 64 (x * y / 2 ^ 64)

/-- `MULH` (R161). -/
def execMulh (_ : Hdr) (f : Rrr) (s : State) : Result := .next (s.alu f 3 (mulHigh (f.md.toNat % 4)))

/-- The quotient of R162. -/
def quot (signed : Bool) (a b : Word) : Word :=
  if b = 0 then BitVec.allOnes 64
  else if signed then BitVec.ofInt 64 (a.toInt.tdiv b.toInt)
  else BitVec.ofNat 64 (a.toNat / b.toNat)

/-- The remainder of R162. -/
def remn (signed : Bool) (a b : Word) : Word :=
  if b = 0 then a
  else if signed then BitVec.ofInt 64 (a.toInt.tmod b.toInt)
  else BitVec.ofNat 64 (a.toNat % b.toNat)

/-- `DIV` (R161, R162). -/
def execDiv (_ : Hdr) (f : Rrr) (s : State) : Result := .next (s.alu f 20 (quot (f.md.getLsbD 0)))

/-- `REM` (R161, R162). -/
def execRem (_ : Hdr) (f : Rrr) (s : State) : Result := .next (s.alu f 20 (remn (f.md.getLsbD 0)))

/-- `AND` (R161). -/
def execAnd (_ : Hdr) (f : Rrr) (s : State) : Result := .next (s.alu f 1 fun a b => a &&& b)

/-- `OR` (R161). -/
def execOr (_ : Hdr) (f : Rrr) (s : State) : Result := .next (s.alu f 1 fun a b => a ||| b)

/-- `XOR` (R161). -/
def execXor (_ : Hdr) (f : Rrr) (s : State) : Result := .next (s.alu f 1 fun a b => a ^^^ b)

/-- `ANDN` (R161). -/
def execAndn (_ : Hdr) (f : Rrr) (s : State) : Result := .next (s.alu f 1 fun a b => a &&& ~~~b)

/-- `SHL`: bits above 5 of the amount are ignored (R161). -/
def execShl (_ : Hdr) (f : Rrr) (s : State) : Result := .next (s.alu f 1 fun a b => a <<< (b.toNat % 64))

/-- `SHR` (R161). -/
def execShr (_ : Hdr) (f : Rrr) (s : State) : Result := .next (s.alu f 1 fun a b => a >>> (b.toNat % 64))

/-- `SAR` (R161). -/
def execSar (_ : Hdr) (f : Rrr) (s : State) : Result := .next (s.alu f 1 fun a b => a.sshiftRight (b.toNat % 64))

/-- a is below b, signed or unsigned. -/
def less (signed : Bool) (a b : Word) : Bool := if signed then a.toInt < b.toInt else a.toNat < b.toNat

/-- `MIN` (R161). -/
def execMin (_ : Hdr) (f : Rrr) (s : State) : Result :=
  .next (s.alu f 1 fun a b => if less (f.md.getLsbD 0) a b then a else b)

/-- `MAX` (R161). -/
def execMax (_ : Hdr) (f : Rrr) (s : State) : Result :=
  .next (s.alu f 1 fun a b => if less (f.md.getLsbD 0) a b then b else a)

/-- The relation that MOD names (R161). -/
def relation (md : Nat) (a b : Word) : Bool :=
  match md with
  | 0 => a == b
  | 1 => a != b
  | 2 => less true a b
  | 3 => !less true a b
  | 4 => less false a b
  | _ => !less false a b

/-- `CMP` (R161). -/
def execCmp (_ : Hdr) (f : Rrr) (s : State) : Result :=
  .next (s.alu f 1 fun a b => if relation (f.md.toNat % 8) a b then 1 else 0)

/-- `SEL` (R161). -/
def execSel (_ : Hdr) (f : Rrr) (s : State) : Result :=
  .next (s.alu f 1 fun a b => if s.rs f.rc != 0 then a else b)

/-- Leading zero bits among the low `n` bits. -/
def clzFrom (a : Word) : Nat → Nat
  | 0 => 0
  | n + 1 => if a.getLsbD n then 0 else clzFrom a n + 1

/-- Set bits among the low `n` bits. -/
def popFrom (a : Word) : Nat → Nat
  | 0 => 0
  | n + 1 => popFrom a n + if a.getLsbD n then 1 else 0

/-- `CLZ` (R161). -/
def execClz (_ : Hdr) (f : Rrr) (s : State) : Result := .next (s.alu f 1 fun a _ => BitVec.ofNat 64 (clzFrom a 64))

/-- `POPC` (R161). -/
def execPopc (_ : Hdr) (f : Rrr) (s : State) : Result := .next (s.alu f 1 fun a _ => BitVec.ofNat 64 (popFrom a 64))

/-! ## Immediates and bit fields -/

/-- `ADDI` (R163). -/
def execAddi (_ : Hdr) (f : Rri) (s : State) : Result :=
  .next (if s.guard then s.landS f.rd (s.tc + 1) (s.rs f.ra + f.imm.signExtend 64) else s)

/-- `LI` (R163). -/
def execLi (_ : Hdr) (f : Rriw) (s : State) : Result :=
  .next (if s.guard then s.landS f.rd (s.tc + 1) (f.imm.signExtend 64) else s)

/-- `LIH`: the high half, merging at its result tc (R163, R158). -/
def execLih (_ : Hdr) (f : Rriw) (s : State) : Result :=
  .next (if s.guard then
      s.land (s.tc + 1) (.s (s.reg .S f.rd) 0xFFFFFFFF00000000 (f.imm ++ 0#32))
    else s)

/-- A mask of the low `n` bits. -/
def lowMask (n : Nat) : Word := BitVec.ofNat 64 (2 ^ n - 1)

/-- Sign-extends the low `n` bits of a word, 1 to 64. -/
def sextFrom (n : Nat) (w : Word) : Word := (w <<< (64 - n)).sshiftRight (64 - n)

/-- `EXT` (R164). -/
def execExt (_ : Hdr) (f : Rri) (s : State) : Result :=
  let pos := (f.imm.extractLsb' 0 6).toNat
  let len := (f.imm.extractLsb' 6 6).toNat + 1
  let v := s.rs f.ra >>> pos &&& lowMask len
  .next (if s.guard then s.landS f.rd (s.tc + 1) (if f.imm.getLsbD 12 then sextFrom len v else v) else s)

/-- `INS`: merges at its result tc (R164, R158). -/
def execIns (_ : Hdr) (f : Rri) (s : State) : Result :=
  let pos := (f.imm.extractLsb' 0 6).toNat
  let len := (f.imm.extractLsb' 6 6).toNat + 1
  .next (if s.guard then
      s.land (s.tc + 1) (.s (s.reg .S f.rd) (lowMask len <<< pos) ((s.rs f.ra &&& lowMask len) <<< pos))
    else s)

/-! ## Pointers -/

/-- The word that `SPTEST` writes (R169). -/
def State.sptest (s : State) (p : Word) : Word :=
  let t := ptrTag p
  let ok := tagOk t && ptrZeroOk p && ptrOff p < s.ptrLimit p
  let num := if t == 9 || t == 10 || t == 11 then ptrNum p else 0
  BitVec.ofNat 64 (t + num * 2 ^ 16 + (if ok then 2 ^ 32 else 0) + (if ok && (s.ptrOwner p).isNone then 2 ^ 33 else 0) +
    (if timedTag t then 2 ^ 34 else 0))

/-- `SPTEST` (R169). -/
def execSptest (_ : Hdr) (f : Rrr) (s : State) : Result :=
  .next (s.alu f 1 fun a _ => s.sptest a)

/-- `SPCAST.S` (R170). -/
def execSpcastS (_ : Hdr) (f : Rrr) (s : State) : Result :=
  let p := s.rs f.ra
  .next (if !s.guard then s
    else if ptrTag p != f.md.toNat % 16 then s.faultPtr .pointer 0 p
    else s.withPtr p 1 (fun _ => true) 1 fun s => s.landS f.rd (s.tc + 1) (BitVec.ofNat 64 (ptrOff p)))

/-- The executing core's own core, quad or die number, by tag (R170). -/
def ownNum (c t : Nat) : Nat := if t = 9 then c else if t = 10 then quadOf c else dieOf c

/-- The pointer that `SPCAST.G` builds before its checks: tag, number, and the offset register's bits (R170). -/
def castPtr (t n : Nat) (off : Word) : Word :=
  let low := BitVec.ofNat 64 (t * 2 ^ 60 + (match t with
    | 9 => n * 2 ^ 50
    | 10 => n * 2 ^ 52
    | 11 => n * 2 ^ 57
    | _ => 0))
  low ||| off

/-- `SPCAST.G`: the number and the offset must fit their fields (R170, checks 2 and 3 of R83); a die number above 7 is taken as check 2, an
offset past its space's limit as check 3 (notes/assumptions/19.md). -/
def execSpcastG (_ : Hdr) (f : Rrr) (s : State) : Result :=
  let t := f.md.toNat % 16
  let a := s.rs f.ra
  let n := if f.md.getLsbD 5 then ownNum s.cur.1 t else (s.rs f.rb).toNat
  let numOk := match t with
    | 9 => n ≤ 767
    | 10 => n ≤ 191
    | 11 => n ≤ 7
    | _ => true
  .next (if !s.guard then s
    else if !numOk then s.faultPtr .pointer 2 a
    else if s.ptrLimit (castPtr t n 0) ≤ a.toNat then s.faultPtr .pointer 3 a
    else s.landS f.rd (s.tc + 1) (castPtr t n a))

/-- `PADD` (R171). -/
def execPadd (_ : Hdr) (f : Rrr) (s : State) : Result :=
  .next (s.alu f 1 fun a b => ptrAdd a (b <<< (f.md.toNat % 64)))

/-! ## Handles -/

/-- The lowest bit and the width of a handle field by its code (R172). -/
def handleField (m : Nat) : Nat × Nat :=
  match m with
  | 0 => (0, 64)
  | 1 => (64, 16) | 2 => (80, 16) | 3 => (96, 16) | 4 => (112, 16)
  | 5 => (128, 20) | 6 => (148, 20) | 7 => (168, 20)
  | 8 => (188, 4) | 9 => (192, 4) | 10 => (213, 8) | 11 => (221, 34)
  | _ => (64 * (m - 12), 64)

/-- A mask over a handle field. -/
def fieldMask (fw : Nat × Nat) : Handle := BitVec.ofNat 256 ((2 ^ fw.2 - 1) * 2 ^ fw.1)

/-- The handle that a field of the word names. -/
def State.rh (s : State) (f : BitVec 7) : Handle := Map.get s.me.h (s.reg .H f)

/-- `HSET`: merges at its result tc (R172, R158). -/
def execHset (_ : Hdr) (f : Rrr) (s : State) : Result :=
  let fw := handleField (f.md.toNat % 16)
  .next (if s.guard then
      s.land (s.tc + 1) (.h (s.reg .H f.rd) (fieldMask fw) ((s.rs f.ra).zeroExtend 256 <<< fw.1))
    else s)

/-- A handle field as `HGET` extends it (R172). -/
def handleGet (m : Nat) (h : Handle) : Word :=
  let fw := handleField m
  let v := (h >>> fw.1).truncate 64 &&& lowMask fw.2
  if 5 ≤ m && m ≤ 7 then sextFrom 20 v else v

/-- `HGET` (R172). -/
def execHget (_ : Hdr) (f : Rrr) (s : State) : Result :=
  .next (if s.guard then s.landS f.rd (s.tc + 1) (handleGet (f.md.toNat % 16) (s.rh f.ra)) else s)

/-- The mask over SREC and SRV (R88). -/
def srecMask : Handle := fieldMask (200, 13)

/-- `HSTAT`: binds a record index (R173, R108). -/
def execHstat (_ : Hdr) (f : Rri) (s : State) : Result :=
  let idx := (s.rs f.ra + f.imm.zeroExtend 64 &&& 0xFFF) &&& 0xFFF
  .next (if s.guard then
      s.land (s.tc + 1) (.h (s.reg .H f.rd) srecMask (((idx ||| 0x1000).zeroExtend 256) <<< 200))
    else s)

/-- `HSTAT.off` (R173). -/
def execHstatOff (_ : Hdr) (f : Rri) (s : State) : Result :=
  .next (if s.guard then s.land (s.tc + 1) (.h (s.reg .H f.rd) srecMask 0) else s)

/-- `HCPY` (R173). -/
def execHcpy (_ : Hdr) (f : Rrr) (s : State) : Result :=
  .next (if s.guard then s.land (s.tc + 1) (.h (s.reg .H f.rd) (BitVec.allOnes 256) (s.rh f.ra)) else s)

end Sys2Proof.Machine
end

