-- ==== Sys2Proof/Machine/Control.lean ====
section
/-! DEFINITION. Scalar and handle transfers, format words, counters and control registers (spec/08_isa_control.md R174 to R180). -/

namespace Sys2Proof.Machine

/-! ## Memory of a supervisor core -/

/-- The home key of a pointer of a supervisor core: tag 0 is an untranslated device address, tag B the local die's SRAM (R329). -/
def State.supKey (s : State) (p : Word) : Nat :=
  if ptrTag p = 11 then dieKey (dieOf s.cur.1) (ptrOff p) else ptrOff p

/-- What a supervisor core reads at a pointer: the local die's stores by tags 8 to B, device memory by tag 0 (R329). -/
def State.supRead (s : State) (p : Word) (n : Nat) : List Byte :=
  if timedTag (ptrTag p) then s.timedRead p n else s.devBytes (s.supKey p) n

/-- Goes on where the executing supervisor core may reach some ranges of device memory (R389, R390); otherwise it is frozen. -/
def State.withReach (s : State) (rs : List (Nat × Nat)) (k : State → State) : State :=
  match rs.foldlM (fun (s : State) r => s.capAccess (s.cur.1 - 768) (dieOf s.cur.1) r.1 r.2 true) s with
  | .ok s => k s
  | .error s => s

/-- Goes on where the executing supervisor core may touch `n` bytes at a pointer: those of its die's stores are not walled off. -/
def State.withCap (s : State) (p : Word) (n : Nat) (k : State → State) : State :=
  if ptrTag p != 0 then k s else s.withReach [(ptrOff p, n)] k

/-- A store of a supervisor core to device memory: cohorts see it as an outside write (R130), a watched line raises its event
(R341). -/
def State.supStore (s : State) (p : Word) (bs : List Byte) : State :=
  let key := s.supKey p
  let s := s.devWrites none key bs
  if ptrTag p = 0 then s.watchHit key else s

/-! ## Transfers -/

/-- Bytes as a scalar, zero- or sign-extended (R175). -/
def loadVal (size : Nat) (sx : Bool) (bs : List Byte) : Word :=
  let v := BitVec.ofNat 64 (leNat bs)
  if sx then sextFrom (8 * size) v else v

/-- The size in bytes of `LDS` and `STS` (R175). -/
def memSize (f : Mem) : Nat := 2 ^ (f.fn.toNat % 4)

/-- The address of `LDS` and `STS` (R175). -/
def State.ldsAddr (s : State) (f : Mem) : Word := ptrAdd (s.rs f.rx) (f.imm.signExtend 64)

/-- `LDS` (R175, R157). A phased load delivers at A + H (R34). -/
def execLds (h : Hdr) (f : Mem) (s : State) : Result :=
  let p := s.ldsAddr f
  let n := memSize f
  .next (if !s.guard then s
    else s.withPtr p n (fun _ => true) n fun s =>
      if timedTag (ptrTag p) then
        s.landS f.rd (s.tc + timedLat (ptrTag p)) (loadVal n (f.fn.getLsbD 2) (s.timedRead p n))
      else if isSup s.cur.1 then
        s.withCap p n fun s => s.landS f.rd 0 (loadVal n (f.fn.getLsbD 2) (s.devBytes (s.supKey p) n))
      else s.start .read (.lds h f) (s.arrival f.lcl.toNat) 0 0 [] [s.reg .S f.rd] [] [(p, List.replicate n 0)] none)

/-- `STS` (R175). -/
def execSts (h : Hdr) (f : Mem) (s : State) : Result :=
  let p := s.ldsAddr f
  let n := memSize f
  let bs := leBytes n (s.rs f.rd).toNat
  .next (if !s.guard then s
    else s.withPtr p n (fun _ => true) n fun s =>
      if timedTag (ptrTag p) then s.timedWrite p bs (s.tc + timedLat (ptrTag p))
      else if isSup s.cur.1 then s.withCap p n fun s => s.supStore p bs
      else s.withMarks p n fun s => s.start .store (.sts h f) s.tc 0 0 [] [] [] [(p, bs)] none)

/-- The address of `HLD` and `HST` (R174). -/
def State.hldAddr (s : State) (f : Mem) : Word := ptrAdd (s.rs f.rx) (f.imm.zeroExtend 64 * 32)

/-- `HLD`: timed spaces only (R174). -/
def execHld (_ : Hdr) (f : Mem) (s : State) : Result :=
  let p := s.hldAddr f
  .next (if !s.guard then s
    else s.withPtr p 32 timedTag 8 fun s =>
      s.land (s.tc + timedLat (ptrTag p))
        (.h f.hnd.toNat (BitVec.allOnes 256) (BitVec.ofNat 256 (leNat (s.timedRead p 32)))))

/-- `HST` (R174). -/
def execHst (_ : Hdr) (f : Mem) (s : State) : Result :=
  let p := s.hldAddr f
  .next (if !s.guard then s
    else s.withPtr p 32 timedTag 8 fun s =>
      s.timedWrite p (leBytes 32 (Map.get s.me.h f.hnd.toNat).toNat) (s.tc + timedLat (ptrTag p)))

/-- `FPUSH`: a zero word under a false guard; it joins `fq` when the tc ends (R176, R30). -/
def execFpush (_ : Hdr) (f : Rrr) (s : State) : Result :=
  .next (s.modMe fun x => { x with fpushes := x.fpushes ++ [if s.guard then s.rs f.ra else 0] })

/-! ## Counters and control registers -/

/-- Delivers a value: to an S register on C at issue + 1, and as a pushed entry elsewhere, zero under a false guard (R177). -/
def State.deliver (s : State) (rd : BitVec 7) (v : Word) : State :=
  if s.sid = .C then (if s.guard then s.landS rd (s.tc + 1) v else s)
  else s.push (s.reg .Q rd) (if s.guard then wordEntry v else 0) (s.tc + 1)

/-- `RDCTR` (R177). A supervisor core keeps no timetable: its tc, hold and energy counters are free values. -/
def execRdctr (_ : Hdr) (f : Rri) (s : State) : Result :=
  let n := f.imm.toNat % 16
  .next (if isSup s.cur.1 && n != 2 then
      let (w, s) := s.freeWord
      s.deliver f.rd w
    else
      s.deliver f.rd (match n with
        | 0 => BitVec.ofNat 64 (s.my.outTc s.tc)
        | 1 => BitVec.ofNat 64 s.my.heldClks
        | 2 => BitVec.ofNat 64 s.ns
        | _ => s.my.energy))

/-- `COHID` of the executing stream (R19). -/
def State.cohid (s : State) : Word :=
  BitVec.ofNat 64 (s.me.rank * 2 ^ 48 + s.plat.pkg * 2 ^ 42 + s.my.prank * 2 ^ 36 + s.cur.2 * 2 ^ 16 + s.cur.1)

/-- `COHSZ` (R19). -/
def State.cohsz (s : State) : Word :=
  let n := s.my.members.length * s.my.npkg
  BitVec.ofNat 64 (n * 2 ^ 48 + n / 4 * 2 ^ 32 + s.my.npkg * 2 ^ 16 + s.my.scope)

/-- `MEMCFG` (R85). -/
def State.memcfg (s : State) : Word :=
  BitVec.ofNat 64 (s.my.splim * 2 ^ 32 + s.my.privSz.getD s.cur.2 0 * 2 ^ 16)

/-- `LATCLS` (R34). -/
def Slot.latWord (x : Slot) : Word :=
  BitVec.ofNat 64 (x.latcls.getD 0 0 + x.latcls.getD 1 0 * 2 ^ 16 + x.latcls.getD 2 0 * 2 ^ 32 + x.latcls.getD 3 0 * 2 ^ 48)

/-- A user CSR as an instruction of the executing stream reads it (R179). -/
def State.csr (s : State) (n : Nat) : Word :=
  match n with
  | 0 => s.str.flags.zeroExtend 64
  | 1 => s.str.segp.zeroExtend 64
  | 2 => s.me.sel
  | 3 => BitVec.ofNat 64 (s.str.now.lcs.getD 0 0)
  | 4 => BitVec.ofNat 64 (s.str.now.lcs.getD 1 0)
  | 5 => BitVec.ofNat 64 (s.str.now.lcs.getD 2 0)
  | 8 => s.cohid
  | 9 => s.cohsz
  | 10 => s.memcfg
  | 11 => s.my.latWord
  | 16 => s.me.upda
  | _ => s.me.updb

/-- The flags of the executing stream that may be set by now and are not known yet: those of accesses whose conversion waits for its value
(R80, R189), but for what a `CSRW` has cleared since (notes/assumptions/30.md). -/
def State.openFlags (s : State) : BitVec 6 :=
  s.outs.foldl (fun m a => match a.flags with
    | some (t, d) => if a.core = s.cur.1 && a.stream = s.cur.2 && t < s.tc then m ||| ~~~d else m
    | none => m) 0

/-- `CSRR` (R178). A supervisor core belongs to no cohort: its cohort registers are free values. A flag that may be set and is not known yet
reads as a free value. -/
def execCsrr (_ : Hdr) (f : Rri) (s : State) : Result :=
  .next (if isSup s.cur.1 && 8 ≤ f.csr.toNat then
      let (w, s) := s.freeWord
      s.deliver f.rd w
    else if f.csr = 0 && s.openFlags != 0 then
      let (w, s) := s.freeWord
      s.deliver f.rd (s.csr 0 ||| w &&& (s.openFlags.zeroExtend 64))
    else s.deliver f.rd (s.csr f.csr.toNat))

/-- The value of a `CSRW`: the immediate, an S register on C, or a popped entry elsewhere, which is popped under a false guard
too (R178, R47). -/
def State.csrwVal (s : State) (f : Rri) (k : Word → State → State) : State :=
  if f.imm.getLsbD 12 then k ((f.imm.extractLsb' 13 16).zeroExtend 64) s
  else if s.sid = .C then k (s.rs f.ra) s
  else s.pop (s.reg .Q f.ra) fun e s => k (entryWord e) s

/-- `CSRW` of `FLAGS`: clears the named bits at the end of the tc (R80). -/
def execFlagsClear (_ : Hdr) (f : Rri) (s : State) : Result :=
  .next (s.csrwVal f fun v s =>
    if s.guard then s.land (s.tc + 1) (.flagsClear s.cur.2 (v.truncate 6)) else s)

/-- The bits of `SEL` that a write reaches (R179). -/
def selMask : Word := 0xFFFFFFFF00000007

/-- `CSRW` of `SEL` (R179, R180). -/
def execSelWrite (_ : Hdr) (f : Rri) (s : State) : Result :=
  .next (s.csrwVal f fun v s => if s.guard then s.land (s.tc + 1) (.csr 2 (v &&& selMask)) else s)

/-- `CSRW` of `UPDA` and `UPDB` (R180). -/
def execCsrw (_ : Hdr) (f : Rri) (s : State) : Result :=
  .next (s.csrwVal f fun v s => if s.guard then s.land (s.tc + 1) (.csr f.csr.toNat v) else s)

end Sys2Proof.Machine
end

