-- ==== Sys2Proof/Machine/Stats.lean ====
section
/-! DEFINITION. Statistics records: updates, the open and sealed views, seal and clear points, scale derivation, and the rescale
and stale-scale traps (spec/05_statistics.md R103 to R122). -/

namespace Sys2Proof.Machine

/-- Bits of EVT (R103): OVF 0, SAT 1, INV 2, AOVF 3, ASAT 4, AINV 5, NANINF 6, CSAT 7. -/
def evtOvf : BitVec 8 := 1
/-- EVT.SAT. -/
def evtSat : BitVec 8 := 2
/-- EVT.INV. -/
def evtInv : BitVec 8 := 4
/-- EVT.NANINF. -/
def evtNan : BitVec 8 := 64

/-- The open view (R103). -/
structure OpenView where
  omax : BitVec 32
  zcnt : Nat
  ncnt : Nat
  ocnt : Nat
  evt : BitVec 8
  hist : List Nat
  deriving DecidableEq, Repr

/-- An open view without updates (R113). -/
def OpenView.zero : OpenView := { omax := 0, zcnt := 0, ncnt := 0, ocnt := 0, evt := 0, hist := List.replicate 48 0 }

/-- Adds one to a counter of 32 bits that saturates, with EVT.CSAT where it would pass its limit (R105). -/
def satInc (n : Nat) : Nat × BitVec 8 := if n < 0xFFFFFFFF then (n + 1, 0) else (n, 128)

/-- One update (R111, R119). Magnitudes are FP32 bits without sign, whose order is that of their values. -/
def OpenView.add (v : OpenView) (u : Upd) : OpenView :=
  let v :=
    match u.cls with
    | 0 =>
      let r := satInc v.zcnt
      { v with zcnt := r.1, evt := v.evt ||| r.2 }
    | 1 =>
      let r := satInc v.ncnt
      { v with ncnt := r.1, evt := v.evt ||| r.2 ||| evtNan }
    | 2 =>
      let r := satInc (v.hist.getD u.bin 0)
      { v with omax := if v.omax.toNat < u.mag.toNat then u.mag else v.omax, hist := setAt v.hist u.bin r.1,
               evt := v.evt ||| r.2 }
    | _ => v
  let v :=
    if u.ovf then
      let r := satInc v.ocnt
      { v with ocnt := r.1, evt := v.evt ||| r.2 ||| evtOvf }
    else v
  { v with evt := v.evt ||| u.evt }

/-- The view that some updates make; their order does not matter (R112). -/
def viewOf (us : List Upd) : OpenView := us.foldl OpenView.add OpenView.zero

/-- What an update observes of a value: class, magnitude rounded up, histogram bin (R104, R111). -/
def observe (v : Val) : Nat × BitVec 32 × Nat :=
  match v with
  | .nan _ => (1, 0, 0)
  | .inf _ => (1, 0, 0)
  | .fin _ m e =>
    if m = 0 then (0, 0, 0)
    else (2, (rnd32 2 (.fin false m e)).1, (max 0 (min 47 (log2Mag m e + 40))).toNat)

/-- The record of an index in the executing cohort's grant. -/
def State.record (s : State) (i : Nat) : Option Record := (s.my.recs.find? fun r => r.1 == i).map (·.2)

/-- The record of an index in a slot's grant. -/
def State.recOf (s : State) (n i : Nat) : Option Record := ((s.slot n).recs.find? fun r => r.1 == i).map (·.2)

/-- Changes a record of slot `n`. -/
def State.modRecord (s : State) (n i : Nat) (f : Record → Record) : State :=
  s.modSlot n fun x => { x with recs := x.recs.map fun r => if r.1 = i then (i, f r.2) else r }

/-- Adds an update by the executing stream (`stat` of R148): the observed value, the element's index, whether it overflowed,
other events, and the tc that reports them. -/
def State.stat (s : State) (h : Handle) (v : Option Val) (elem : Nat) (ovf : Bool) (evt : BitVec 8) (report : Nat) : State :=
  if hSrv h then
    let o := match v with
      | some x => observe x
      | none => (3, 0, 0)
    s.modRecord s.me.slot (hSrec h) fun r =>
      { r with upd := r.upd ++ [⟨s.cur.1, s.my.outTc s.str.now.tc, s.my.writeTc s.tc, s.me.rank, s.cur.2, elem, o.1, o.2.1, o.2.2, ovf, evt, s.my.outTc report,
          s.str.now.pc, s.str.now.word⟩] }
  else s

/-- The event bits that a conversion's flags report (R111): INV, and SAT unless the write quantises. -/
def convEvt (quantising : Bool) (fl : Flags) : BitVec 8 :=
  (if fl &&& fInv != 0 then evtInv else 0) ||| (if !quantising && fl &&& fSat != 0 then evtSat else 0)

/-- The order of overflow events (R120). -/
def Upd.le (a b : Upd) : Bool :=
  let k := fun u : Upd => [u.tc, u.rank, u.stream, u.elem]
  let rec go : List Nat → List Nat → Bool
    | x :: xs, y :: ys => x < y || (x == y && go xs ys)
    | _, _ => true
  go (k a) (k b)

/-- Inserts an event behind those that stand before it. -/
def insertUpd : List Upd → Upd → List Upd
  | [], u => [u]
  | x :: xs, u => if x.le u then x :: insertUpd xs u else u :: x :: xs

/-- The rescale trap of a record from some overflow events, counted in the order of R120 whatever order they are reported in: the
first event is named, and the event after the threshold gives the record tc and the tc from which the trap counts. A saturated count exceeds no
threshold of all ones (R105). -/
def Record.rescale (r : Record) (i : Nat) (us : List Upd) : Option Trap :=
  let evs := (us.filter (·.ovf)).foldl insertUpd []
  if !r.rste || r.rlatch || r.othr = 0xFFFFFFFF then none
  else
    match evs, evs[r.othr.toNat]? with
    | f :: _, some u =>
      some ⟨1, f.rank, f.stream, f.core, false, f.pc, i, u.tc, f.word, BitVec.ofNat 64 f.elem, u.report⟩
    | _, _ => none

/-- Records a trap of record `i` in slot `n` and latches the record (R120). -/
def State.recordRescale (s : State) (n i : Nat) (t : Trap) : State :=
  (s.modRecord n i fun r => { r with rlatch := true }).modSlot n fun x => { x with traps := x.traps ++ [t] }

/-- Records the rescale traps of slot `n` that count from tc `d` or earlier (R120). -/
def State.rescaleTraps (s : State) (n d : Nat) : State :=
  (s.slot n).recs.foldl
    (fun s r =>
      match r.2.rescale r.1 r.2.upd with
      | some t => if t.from_ ≤ d then s.recordRescale n r.1 t else s
      | none => s) s

/-! ## Seal and clear points -/

/-- The moment from which boundaries publish an update: that of the piece that wrote the element, or, for the event of a `VQNT`, which writes
no tensor, that of its report (R113, R119, R187). -/
def Upd.at_ (u : Upd) : Moment := if u.cls = 3 then ⟨u.report, 0⟩ else u.wr

/-- An update that the boundary at `p` covers for a core of the boundary's unit (R113); which updates a narrow seal takes from
outside its unit is free (R115). -/
def Slot.covers (x : Slot) (i p c scope : Nat) (u : Upd) : Bool :=
  u.at_.tc < p && (x.scope ≤ scope || unitOf scope u.core == unitOf scope c || x.published u.core c u.at_ ⟨p, 0⟩ ||
    Config.sealTakes i (u.tc * 65536 + u.rank * 8 + u.stream))

/-- An update that one of some boundaries at `p` covers, by a core of its unit and its scope (R113). -/
def Slot.coversAny (x : Slot) (i p : Nat) (us : List (Nat × Nat)) (u : Upd) : Bool := us.any fun e => x.covers i p e.1 e.2 u

/-- A seal at tc `p` (R113). -/
def Slot.sealRec (x : Slot) (i p : Nat) (us : List (Nat × Nat)) (r : Record) : Record :=
  let v := viewOf (r.upd.filter (x.coversAny i p us))
  { r with smax := v.omax, nseal := r.nseal + 1, evt := r.evt ||| v.evt,
           upd := r.upd.filter fun u => !x.coversAny i p us u, rlatch := false }

/-- A clear at tc `p` (R290). -/
def Slot.clearRec (x : Slot) (i p : Nat) (us : List (Nat × Nat)) (all : Bool) (r : Record) : Record :=
  { r with upd := r.upd.filter fun u => !x.coversAny i p us u, rlatch := false, evt := 0,
           smax := if all then 0 else r.smax, nseal := if all then r.nseal + 1 else r.nseal }

/-- Whether a boundary's scope reaches a seal's, where both act as the cohort's scope at most (R113). -/
def Slot.scopeReaches (x : Slot) (a b : Nat) : Bool := min a x.scope ≤ min b x.scope

/-- The pending seals and clears of some cores whose point is a boundary of a scope at the slot's tc, each with the core and the scope
(R113). -/
def State.sealsDue (s : State) (n scope : Nat) (cores : List Nat) : List (Nat × Nat × Seal) :=
  cores.flatMap fun c => (List.range 5).flatMap fun st =>
    (((s.core c).stream st).seals.filter fun e => (s.slot n).scopeReaches e.scope scope).map fun e => (c, scope, e)

/-- The seals and clears of the boundaries that some units, given by scope and cores, take at the slot's tc: seals of one record act once
and first, then its clears once (R114, R290). -/
def State.sealPoint (s : State) (n : Nat) (units : List (Nat × List Nat)) : State :=
  let x := s.slot n
  let due := units.flatMap fun u => s.sealsDue n u.1 u.2
  let s := units.foldl (fun s u => u.2.foldl (fun s c => (List.range 5).foldl (fun s st => s.modStreamAt c st fun y =>
    { y with seals := y.seals.filter fun e => !x.scopeReaches e.scope u.1 }) s) s) s
  ((due.map fun d => d.2.2.idx).eraseDups).foldl
    (fun s i =>
      let mine := due.filter fun d => d.2.2.idx == i
      let by_ := fun clears : Bool => (mine.filter fun d => d.2.2.isClear == clears).map fun d => (d.1, d.2.1)
      let s := match s.recOf n i with
        | some r =>
          (match r.rescale i (r.upd.filter (x.coversAny i x.tc (mine.map fun d => (d.1, d.2.1)))) with
          | some t => s.recordRescale n i t
          | none => s)
        | none => s
      let s := if (by_ false).isEmpty then s else s.modRecord n i (x.sealRec i x.tc (by_ false))
      if (by_ true).isEmpty then s
      else s.modRecord n i (x.clearRec i x.tc (by_ true) (mine.any fun d => d.2.2.isClear && d.2.2.all))) s

/-! ## The record image -/

/-- The 256 bytes that `STAT.RD` returns to core `c` at moment `t` (R103, R135, R291). -/
def Slot.recImage (x : Slot) (r : Record) (c : Nat) (t : Moment) : List Byte :=
  let v := viewOf (r.upd.filter fun u => x.published u.core c u.at_ t)
  let latch := r.rste && r.othr.toNat < v.ocnt
  let ctl := (if r.rste then 2 ^ 31 else 0) + (if latch then 2 ^ 30 else 0) + r.home * 256 + r.owner
  leBytes 4 v.omax.toNat ++ leBytes 4 r.smax.toNat ++ leBytes 4 r.nseal.toNat ++ leBytes 4 v.zcnt ++ leBytes 4 v.ncnt ++
    leBytes 4 v.ocnt ++ leBytes 4 r.othr.toNat ++ leBytes 4 (r.evt ||| v.evt).toNat ++ leBytes 4 ctl ++ leBytes 28 0 ++
    v.hist.flatMap fun b => leBytes 4 b

/-! ## Scale derivation -/

/-- LEXP and LIMF of a target format (R117). -/
def scaleLim (fmt : Nat) : Int × Nat :=
  match fmt with
  | 0 => (127, 0x7FFFFF)
  | 1 => (127, 0x7F0000)
  | 2 => (30, 0x7FFFFF)
  | 3 => (6, 0x7E0000)
  | 4 => (7, 0x7F0000)
  | _ => (2, 0x7FFFFF)

/-- The tensor scale exponent that a sealed maximum gives with a headroom (R117). Its derivation names normal and subnormal maxima; that an
infinite one counts as a normal of exponent 128 and fraction 0 is the model's choice (notes/assumptions/69.md). -/
def deriveScale (smax : BitVec 32) (fmt : Nat) (h : Int) : Int :=
  let f : Nat := smax.toNat % 2 ^ 23
  let e : Nat := smax.toNat / 2 ^ 23 % 256
  if smax.toNat % 2 ^ 31 = 0 then 0
  else
    let em : Int := if e = 0 then -150 + (Nat.log2 f : Int) + 1 else (e : Int) - 127
    let shift : Nat := (-126 - em).toNat
    let fm : Nat := if e = 0 then (f * 2 ^ shift) % 2 ^ 23 else f
    let c : Int := if (scaleLim fmt).2 < fm then 1 else 0
    max (-512) (min 511 (em - (scaleLim fmt).1 + c + h))

/-- The tensor scale exponent of a quantising instruction by QMODE (R116). -/
def quantScale (qmode : Nat) (qexp : Int) (fmt : Nat) (smax : BitVec 32) : Int :=
  match qmode with
  | 1 => deriveScale smax fmt qexp
  | 2 => qexp
  | _ => 0

/-- Records a stale-scale trap where the seal in force differs from the expected one (R118): one per stream at a time. -/
def State.stale (s : State) (idx : Nat) (sl : BitVec 32) (xseal : BitVec 8) (on : Bool) : State :=
  let mine := s.my.traps.any fun t => t.code == 2 && t.core == s.cur.1 && t.stream == s.cur.2
  if on && sl.truncate 8 != xseal && !mine then
    s.addTrap (s.trapRec 2 idx (BitVec.allOnes 64) s.str.now.tc)
  else s

end Sys2Proof.Machine
end

