-- ==== Sys2Proof/Machine/Pieces.lean ====
section
/-! DEFINITION. Pieces: the elements of a walk, their checks, layouts and conversions, and the writes that carry them to memory
(spec/09_isa_load_store.md R182 to R188, R197, R198). -/

namespace Sys2Proof.Machine

/-! ## Walks -/

/-- E of R184: the elements of an entry, raw or widened. -/
def entryCap (fmt : Nat) (wide : Bool) : Nat :=
  if wide then 64
  else
    match fmt with
    | 0 | 2 => 64
    | 1 => 128
    | 3 | 4 | 5 => 256
    | _ => 1024

/-- The piece walk of R185: slots with their elements, and the cursors after it. -/
def pieceWalk (h : Handle) (cap : Nat) (cu : List Nat) : List (Nat × List Nat) × List Nat :=
  let n := min cap (hExt h 0 - cu.getD 0 0)
  ((List.range n).map fun s => (s, (cu.getD 0 0 + s) :: cu.tail), advance h cu 0 n)

/-- The condition of R185 on LNS6 and VQ8 pieces. -/
def walkOk (h : Handle) (cu : List Nat) : Bool :=
  match hFmt h with
  | 5 => cu.getD 0 0 % 32 == 0 && !hBcast h 0
  | 6 => cu.getD 0 0 % 4 == 0 && !hBcast h 0
  | _ => true

/-- Element (i, j) of dimensions 0 and 1 at cursors, where the extents hold it. -/
def gridElem (h : Handle) (cu : List Nat) (slot i j : Nat) : List (Nat × List Nat) :=
  if i < hExt h 0 && j < hExt h 1 then [(slot, i :: j :: cu.drop 2)] else []

/-- Row `j` of a tile walk, by slot (R186). -/
def tileRow (h : Handle) (cu : List Nat) (tr : Bool) (j : Nat) : List (Nat × List Nat) :=
  (List.range 64).flatMap fun c =>
    if tr then gridElem h cu c (cu.getD 0 0 + j) (cu.getD 1 0 + c) else gridElem h cu c (cu.getD 0 0 + c) (cu.getD 1 0 + j)

/-- The cursors after a tile of `rows` rows (R186, R92). -/
def tileNext (h : Handle) (cu : List Nat) (tr : Bool) (rows : Nat) : List Nat :=
  let c0 := cu.getD 0 0 + if tr then rows else 64
  if c0 < hExt h 0 then c0 :: cu.tail else 0 :: advance h cu.tail 1 (if tr then 64 else rows)

/-! ## Checks of elements -/

/-- The owner rule of a transfer between cores (R202, R204): the named core or quad has a member core. -/
def State.memberOwner (s : State) (p : Word) : Option (FaultKind × Nat) :=
  let ms := s.my.members
  if ptrTag p = 9 && !ms.contains (ptrNum p) then some (.foreign, 4)
  else if ptrTag p = 10 && !(ms.any fun c => quadOf c == ptrNum p) then some (.foreign, 5)
  else none

/-- Checks 1 to 5 of R83 for a range by offset (R87); `exchange` puts membership in the place of checks 4 and 5. -/
def State.rangeCheck (s : State) (h : Handle) (spaceOk : Word → Bool) (exchange : Bool) (off : Int) (n : Nat) :
    Except (FaultKind × Nat × Word) (Word × Nat) :=
  let base := hBase h
  let p := match elemPtr h off with
    | some p => p
    | none => ptrAdd base (BitVec.ofInt 64 (off - ptrOff base))
  if !tagOk (ptrTag base) then .error (.pointer, 1, p)
  else if !spaceOk base then .error (.pointer, 0, p)
  else if !ptrZeroOk base then .error (.pointer, 2, p)
  else if (elemPtr h off).isNone || s.ptrLimit p < ptrOff p + n then .error (.pointer, 3, p)
  else
    match if exchange then s.memberOwner p else s.ptrOwner p with
    | some (k, d) => .error (k, d, p)
    | none => .ok (p, n)

/-- The elements of a piece with their ranges, or the first fault with its pointer and element. -/
def State.resolve (s : State) (h : Handle) (spaceOk : Word → Bool) (exchange : Bool) :
    List (Nat × List Nat) → Except (FaultKind × Nat × Word × List Nat) (List Elem)
  | [] => .ok []
  | (slot, i) :: es =>
    match (elemBytes h i).mapM fun r => s.rangeCheck h spaceOk exchange r.1 r.2 with
    | .error (k, d, p) => .error (k, d, p, i)
    | .ok ps =>
      match s.resolve h spaceOk exchange es with
      | .ok r => .ok (⟨slot, i, ps⟩ :: r)
      | .error e => .error e

/-- Joins ranges of one list that follow each other, in their order. -/
def coalesce : List (Word × List Byte) → List (Word × List Byte)
  | [] => []
  | (p, b) :: rest =>
    match coalesce rest with
    | (q, c) :: r =>
      if p.toNat + b.length = q.toNat then (p, b ++ c) :: r
      else (p, b) :: (q, c) :: r
    | [] => [(p, b)]

/-- Drops a range that repeats the one before it. -/
def dropRepeats : List (Word × Nat) → List (Word × Nat)
  | a :: b :: xs => if a = b then dropRepeats (b :: xs) else a :: dropRepeats (b :: xs)
  | xs => xs

/-- The byte ranges that a piece reads: codes or values first, then scale bytes. -/
def readParts (els : List Elem) : List (Word × List Byte) :=
  let rng := fun k => (dropRepeats (els.flatMap fun e => (e.parts.drop k).take 1)).map fun r => (r.1, List.replicate r.2 (0 : Byte))
  coalesce (rng 0) ++ coalesce (rng 1)

/-- The cores of the executing quad that a `LD.BC` names (R203). -/
def State.bcCores (s : State) (f : Mem) : List Nat :=
  ((List.range 4).filter fun k => f.fn.getLsbD k).map fun k => 4 * quadOf s.cur.1 + k

/-- The entries, by core and number, that a load has reserved for piece `j` and later ones (R189, R196, R203). -/
def State.entriesFrom (s : State) (a : Act) : List (Nat × Nat) :=
  let from_ := fun c id : Nat => ((List.range (a.n - a.j)).map fun k => (c, id + a.j + k))
  match a.ins with
  | .ldQ _ _ | .ldG _ _ => from_ s.cur.1 a.id
  | .ldBc _ f => ((List.range (s.bcCores f).length).zip (s.bcCores f)).flatMap fun c => from_ c.2 (a.id + c.1 * a.n)
  | _ => []

/-- Fills some entries with free values. -/
def State.freeEntries (s : State) (es : List (Nat × Nat)) : State :=
  es.foldl (fun s e =>
    let (bs, s) := s.freeBytes 256
    s.fill e.1 e.2 (entryOf bs)) s

/-- A fatal fault of a piece (R188): at its own tc, or at its scheduled arrival for a phased source; the report's cursors name
the element. Up to that arrival the stream goes on, later pieces included (R33, R366). The entries of a timed load that have still to be filled
hold undefined contents. -/
def State.pieceFault (s : State) (arr : Option Nat) (k : FaultKind) (d : Nat) (p : Word) (i : List Nat) : State :=
  if isSup s.cur.1 then s.misuse
  else
    let sp := if k == .handle || k == .format then 0 else 0x80 + ptrTag p
    let r := { s.faultRec s.cur.1 s.cur.2 k d (arr.getD s.tc) (if sp = 0 then 0 else p) sp with cursors := i, rest := s.str.act }
    match arr, s.str.act with
    | some _, _ => s.dueFault s.me.slot r
    | none, some a => (s.addFault s.me.slot r).freeEntries (s.entriesFrom a)
    | none, none => s.addFault s.me.slot r

/-! ## Layouts -/

/-- The stored code of a logical element and its scale byte (R90, R67): raw bits, LNS6 codes taken from their group by the element offset. -/
def elemCode (h : Handle) (i : List Nat) (bs : List Byte) : Nat × Nat :=
  if hFmt h = 5 then (leNat (bs.take 3) / 2 ^ (6 * (elemOff h i % 4).toNat) % 64, (bs.getD 3 0).toNat) else (leNat bs, 0)

/-- Where a raw layout keeps slot `s`: the bit of its code (R184). -/
def rawBit (fmt s : Nat) : Nat :=
  match fmt with
  | 0 | 2 => 32 * s
  | 1 => 16 * s
  | 3 | 4 => 8 * s
  | 5 => 6 * s
  | _ => 8 * (s / 4)

/-- Width of a code in bits. -/
def rawWidth (fmt : Nat) : Nat :=
  match fmt with
  | 0 | 2 => 32
  | 1 => 16
  | 5 => 6
  | _ => 8

/-- The raw layout of slots with codes and scales, as a number; `blank` is the scale of an LNS6 block that no slot reaches, 0x7F in
a load and 0 elsewhere (R184, R185). -/
def packRaw (fmt blank : Nat) (xs : List (Nat × Nat × Nat)) : Nat :=
  let codes := xs.foldl (fun a x => a ||| (x.2.1 <<< rawBit fmt x.1)) 0
  if fmt = 5 then
    (List.range 8).foldl
      (fun a b =>
        let sc := match xs.find? fun x => x.1 / 32 == b with
          | some x => x.2.2
          | none => blank
        a ||| (sc <<< (8 * (192 + b)))) codes
  else codes

/-- The code of slot `s` of a raw layout, and its scale byte (R184). -/
def unpackRaw (fmt s e : Nat) : Nat × Nat :=
  (e >>> rawBit fmt s % 2 ^ rawWidth fmt, if fmt = 5 then e >>> (8 * (192 + s / 32)) % 256 else 0)

/-- An element widened to 32 bits (R184): floats to FP32, integers to INT32. -/
def widen32 (fmt : Nat) (c : Nat × Nat) : BitVec 32 × Flags :=
  match fmt with
  | 1 => (bfTo32 (BitVec.ofNat 16 c.1), 0)
  | 3 => ((BitVec.ofNat 8 c.1).signExtend 32, 0)
  | 5 =>
    let v := lnsVal c.1 c.2
    let r := rnd32 0 v.1
    (r.1, v.2 ||| r.2)
  | _ => (BitVec.ofNat 32 c.1, 0)

/-- The exact value of a stored element (`widen` of R81). -/
def exactVal (fmt : Nat) (c : Nat × Nat) : Val := if fmt = 5 then (lnsVal c.1 c.2).1 else widen fmt (BitVec.ofNat 32 c.1)

/-- A piece of a load as a number of bytes: raw, or 32 bits for each slot, with the flags of widening. -/
def packLoad (wide : Bool) (h : Handle) (xs : List (Elem × List Byte)) : Nat × Flags :=
  let fmt := hFmt h
  let cs := xs.map fun x => (x.1.slot, elemCode h x.1.idx x.2)
  if wide then
    cs.foldl (fun a c => let w := widen32 fmt c.2; (a.1 ||| (w.1.toNat <<< (32 * c.1)), a.2 ||| w.2)) (0, 0)
  else (packRaw fmt 0x7F (cs.map fun c => (c.1, c.2.1, c.2.2)), 0)

/-! ## Reading -/

/-- Reads the elements of a piece from timed memory as it stands (R187). -/
def State.readTimed (s : State) (els : List Elem) : List (Elem × List Byte) :=
  els.map fun e => (e, e.parts.flatMap fun r => s.timedRead r.1 r.2)

/-- Reads the elements of a piece from phased memory as core `c` sees it at tc `q` (R127); none where a compressed entry breaks
its format. -/
def State.readPhased (s : State) (pages : List TlbEntry) (c : Nat) (q : Moment) (els : List Elem) : Option (List (Elem × List Byte)) :=
  els.mapM fun e => (e.parts.mapM fun r => s.phasedRead pages c q r.1 r.2).map fun bs => (e, bs.flatten)

/-! ## Storing -/

/-- The byte ranges of a written piece (R90): LNS6 blocks whole with their scale byte, VQ8 one byte for four elements. -/
def writeParts (fmt : Nat) (els : List Elem) (code : Nat → Nat) (scale : Nat → Nat) : List (Word × List Byte) :=
  let part := fun (e : Elem) k => (e.parts.getD k (0, 0)).1
  match fmt with
  | 5 =>
    let hs := els.filter fun e => e.slot % 32 == 0
    coalesce (hs.map fun e => (part e 0, packCodes ((List.range 32).map fun j => code (e.slot + j)))) ++
      coalesce (hs.map fun e => (part e 1, [BitVec.ofNat 8 (scale (e.slot / 32))]))
  | 6 => coalesce ((els.filter fun e => e.slot % 4 == 0).map fun e => (part e 0, [BitVec.ofNat 8 (code e.slot)]))
  | f => coalesce (els.map fun e => (part e 0, leBytes (fmtSize f) (code e.slot)))

/-- What an access of a store keeps of its instruction: the number of its pieces, and what its issue read with the first bytes of its buffer
(R188, R261). -/
def State.actAux (s : State) : List Nat :=
  match s.str.act with
  | some a => a.n :: a.aux.length :: a.aux ++ (a.buf.take 32).map (·.toNat)
  | none => []

/-- Writes a piece's ranges to the executing core's memory: timed ranges land Ls later, phased ones are one store (R187, R261). -/
def State.writeOwn (s : State) (ins : Instr) (h : Handle) (piece : Nat) (cu : List Nat) (els : List Elem)
    (ps : List (Word × List Byte)) (offer : Option Nat) : State :=
  if timedTag (ptrTag (hBase h)) then
    ps.foldl (fun s (p : Word × List Byte) => s.timedWrite p.1 p.2 (s.tc + timedLat (ptrTag p.1))) s
  else
    match ps.findSome? fun p => (s.my.markFault p.1 p.2.length (s.my.writeTc s.tc)).map fun c => (p.1, c) with
    | some (p, c) =>
      let i := match els.find? fun e => e.parts.any (inRange p) with
        | some e => e.idx
        | none => cu
      s.pieceFault none .round c p i
    | none => if ps.isEmpty then s else s.start .store ins s.tc piece h cu s.actAux els ps offer

/-- The stream still runs after a check or a write of its piece. -/
def State.alive (s : State) : Bool := !s.str.stopped

/-- Begins an instruction of `n` pieces: it occupies its stream for as many tc (R182), and its first piece follows. -/
def State.begin (s : State) (ins : Instr) (id n : Nat) (hnd : Handle) (cu aux : List Nat) (buf : List Byte) : State :=
  (s.occupy n).modStr fun x => { x with act := some ⟨ins, id, s.str.now.tc, 0, n, hnd, cu, aux, buf⟩ }

/-- Runs the piece of this tc and moves on to the next; a fault has ended the instruction (R188). -/
def State.pieceWith (s : State) (f : Act → State → State) : State :=
  match s.str.act with
  | none => s
  | some a =>
    (f a s).modStr fun x => { x with act := match x.act with
      | some b => if b.j + 1 < b.n then some { b with j := b.j + 1 } else none
      | none => none }

/-- Takes `n` numbers for entries or accesses. -/
def State.newIds (s : State) (n : Nat) : Nat × State := (s.uid, { s with uid := s.uid + n })

/-! ## Slots of a drain -/

/-- The elements that piece `(i, c0)` writes through a handle: slots with indices inside the extents (R259). A handle with an
extent of 0 names no element (R89). -/
def drainSlots (h : Handle) (i c0 : Nat) (transposed : Bool) : List (Nat × List Nat) :=
  if hEmpty h then []
  else (List.range 64).filterMap fun n =>
    if transposed then (if i < hExt h 0 && c0 + n < hExt h 1 then some (n, [i, c0 + n, 0, 0]) else none)
    else if c0 + n < hExt h 0 && i < hExt h 1 then some (n, [c0 + n, i, 0, 0]) else none

/-- The blocks of an LNS6 copy that end with row `i`: column after column, 32 rows each (R260). -/
def copySlots (h : Handle) (i c0 : Nat) : List (Nat × List Nat) :=
  if hEmpty h then []
  else (List.range 64).flatMap fun n =>
    if i < hExt h 0 && c0 + n < hExt h 1 then (List.range 32).map fun r => (32 * n + r, [i - 31 + r, c0 + n, 0, 0]) else []

/-! ## Vector registers -/

/-- Checks 1 and 2 of R218 for a vector register of a core. -/
def Core.vregFault (x : Core) (r : Nat) : Option (FaultKind × Nat) :=
  if x.allot ≤ r then some (.allotment, 1)
  else if x.banks.getD (r / 8) .on == .off then some (.gatedBank, 1)
  else none

/-- `VSHAPE` as rows, columns and element size (R211). -/
def Core.shape (x : Core) : Nat × Nat × Nat :=
  ((x.vshape.extractLsb' 0 6).toNat + 1, (x.vshape.extractLsb' 6 12).toNat + 1, 2 ^ (x.vshape.extractLsb' 18 2).toNat)

end Sys2Proof.Machine
end

