-- ==== Sys2Proof/Machine/Loads.lean ====
section
/-! DEFINITION. Loads of the L stream into queues, vector registers, tiles, the weight buffer and the codebooks, and the delivery
of their pieces (spec/09_isa_load_store.md R189 to R196). -/

namespace Sys2Proof.Machine

/-- Tc from a timed source to its landing (R187). -/
def handleLat (h : Handle) : Nat := timedLat (ptrTag (hBase h))

/-- The handle's source is timed (R123). -/
def timedSrc (h : Handle) : Bool := timedTag (ptrTag (hBase h))

/-- WIDEN of a load (R181). -/
def widenBit (i : Instr) : Bool :=
  match i with
  | .ldBc _ f => f.fn.getLsbD 4
  | .ldQ _ f | .ldV _ f | .ldT _ f | .ldTr _ f | .ldG _ f => f.fn.getLsbD 0
  | _ => false

/-- The bytes of a line of a stationary image with no element: zero, and 0x7F on the scale line of LNS6 (R97, R185). -/
def blankLine (fmt k : Nat) : List Byte := if fmt = 5 && k = 12 then List.replicate 128 0x7F else List.replicate 256 0

/-- Writes runs of bytes into a line, each at its element's slot. -/
def overlay (line : List Byte) (xs : List (Elem × List Byte)) : List Byte :=
  xs.foldl (fun l x => (l.take x.1.slot ++ x.2 ++ l.drop (x.1.slot + x.2.length)).take l.length) line

/-- Delivers piece `j` of a load to its destination on tc `t`, with the bytes of its elements: a queue entry, register row, tile
row, or line (R189 to R196). -/
def State.place (s : State) (ins : Instr) (h : Handle) (aux : List Nat) (id j t : Nat) (xs : List (Elem × List Byte)) : State :=
  let d := (packLoad (widenBit ins) h xs).1
  let r := aux.getD 0 0
  match ins with
  | .ldV _ _ =>
    let w := aux.getD 2 0 * aux.getD 3 0
    s.land t (.bytes .v (4096 * r + j * w) (leBytes w d))
  | .ldT _ _ | .ldTr _ _ => s.land t (.bytes .t (16384 * r + 256 * (aux.getD 1 0 + j)) (leBytes 256 d))
  | .ldW _ _ => s.land t (.bytes .wb (256 * ((r + j) % 256)) (overlay (blankLine (hFmt h) j) xs))
  | .ldCb _ _ => s.land t (.bytes .cb (r + 256 * j) (leBytes 256 d))
  | _ => s.fill s.cur.1 id (BitVec.ofNat 2048 d)

/-- The tc of the delivery of piece `j` of a phased load (R187, R190). -/
def State.deliverTc (s : State) (ins : Instr) (issue arr : Nat) (lcl : Nat) : Nat :=
  match ins with
  | .ldV _ _ => issue + 15 + s.my.latcls.getD lcl 0 + s.my.horizon
  | _ => arr + s.my.horizon

/-- The latency class of a load (R34). -/
def lclOf (i : Instr) : Nat :=
  match i with
  | .ldQ _ f | .ldV _ f | .ldT _ f | .ldTr _ f | .ldG _ f | .ldW _ f | .ldCb _ f | .atom _ f | .lds _ f => f.lcl.toNat
  | _ => 0

/-- Sets the flags of widening (R189): at issue plus the occupancy. -/
def State.loadFlags (s : State) (ins : Instr) (h : Handle) (t : Nat) (xs : List (Elem × List Byte)) : State :=
  s.setFlags t (packLoad (widenBit ins) h xs).2

/-- A phased piece whose value is already fixed for every byte: each byte is mapped, and no atomic of them is under way (R127, R132). -/
def State.settledRead (s : State) (els : List Elem) : Bool :=
  els.all (fun e => e.parts.all fun r => (s.keyOf s.cur.1 s.me.slot r.1).isSome && (s.keyOf s.cur.1 s.me.slot (r.1 + BitVec.ofNat 64 (r.2 - 1))).isSome) &&
    !(s.outs.any fun a => a.kind == .atomic && a.slot == s.me.slot && els.any fun e => e.parts.any fun r =>
      a.parts.any fun q => overlap q.1.toNat q.2.length r.1.toNat r.2)

/-- Starts the access of a phased piece (R187). The flags of widening are set at issue plus the occupancy (R189); where the piece's value is
not fixed yet they are set for that tc when it comes (notes/assumptions/30.md). -/
def State.startLoad (s : State) (a : Act) (id j arr : Nat) (cu aux : List Nat) (els : List Elem) : State :=
  let known := s.settledRead els
  let s := if known then
      match s.readPhased [] s.cur.1 (s.my.writeTc a.start) els with
      | some xs => s.loadFlags a.ins a.hnd (a.start + a.n) xs
      | none => s
    else s
  let s := s.startAs id .read a.ins arr j a.hnd cu aux els (readParts els) none
  if known || !widenBit a.ins then s else s.modAccess id fun b => { b with flags := some (a.start + a.n, 0) }

/-- Handles the elements of piece `j` of a load at its tc (R187): a timed source is read now and lands Ls later, a phased one
becomes an access with its scheduled arrival. -/
def State.loadPiece (s : State) (a : Act) (j id : Nat) (cu : List Nat) (slots : List (Nat × List Nat)) : State :=
  let arr := s.arrival (lclOf a.ins)
  let timed := timedSrc a.hnd
  match s.resolve a.hnd (fun _ => true) false slots with
  | .error (k, d, p, i) => s.pieceFault (if timed || !tagOk (ptrTag (hBase a.hnd)) then none else some arr) k d p i
  | .ok els =>
    if timed then
      let xs := s.readTimed els
      let t := match a.ins with
        | .ldV _ _ => a.start + 15 + handleLat a.hnd
        | _ => s.tc + handleLat a.hnd
      (s.place a.ins a.hnd a.aux id j t xs).loadFlags a.ins a.hnd (a.start + a.n) xs
    else if els.isEmpty then
      s.place a.ins a.hnd a.aux id j (s.deliverTc a.ins a.start arr (lclOf a.ins)) []
    else
      s.startLoad a id j arr cu a.aux els

/-- A walking piece breaks the block rule of R185: a handle fault at that piece (R188), and no piece follows it, since its walk has no next place. -/
def State.walkFault (s : State) (a : Act) (cu : List Nat) : State :=
  (s.pieceFault (if timedSrc a.hnd then none else some (s.arrival (lclOf a.ins))) .handle 0 0 cu).modStr fun x => { x with act := none }

/-- Reserves the `n` entries of a load at its issue tc I (R29, R189): entry `j` is popped no earlier than its landing, or than
A + H. -/
def State.reserveLoad (s : State) (q : Nat) (h : Handle) (lcl n : Nat) (live : Bool) : Nat × State :=
  let (id, s) := s.newIds n
  let timed := timedSrc h
  (id, (List.range n).foldl
    (fun s j =>
      let t := if timed then s.tc + j + handleLat h else s.arrival lcl + j + s.my.horizon
      s.pushTo s.cur.1 s.cur.2 q ⟨0, t, !timed, if live then some (id + j) else none, s.cur⟩) s)

/-- One piece of a load. -/
def loadStep (a : Act) (s : State) : State :=
  let cu := s.str.cu
  match a.ins with
  | .ldQ _ f =>
    let cap := entryCap (hFmt a.hnd) (f.fn.getLsbD 0)
    if !walkOk a.hnd cu then s.walkFault a cu
    else
      let (els, cu') := pieceWalk a.hnd cap cu
      (s.loadPiece a a.j (a.id + a.j) cu els).modStr fun x => if x.stopped then x else { x with cu := cu' }
  | .ldV _ _ =>
    let w := a.aux.getD 2 0 * a.aux.getD 3 0
    ((List.range (a.aux.getD 1 0)).filter fun r => r * w / 256 == a.j).foldl
      (fun s r =>
        let cu := s.str.cu
        if s.str.act.isNone then s
        else if !walkOk a.hnd cu then s.walkFault a cu
        else
          let (els, cu') := pieceWalk a.hnd (a.aux.getD 2 0) cu
          let (id, s) := s.newId
          (s.loadPiece a r id cu els).modStr fun x => if x.stopped then x else { x with cu := cu' }) s
  | .ldT _ _ | .ldTr _ _ =>
    let tr := match a.ins with
      | .ldTr _ _ => true
      | _ => false
    let (id, s) := s.newId
    let s := s.loadPiece a a.j id a.cu (tileRow a.hnd a.cu tr a.j)
    if a.j + 1 = a.n then s.modStr fun x => if x.stopped then x else { x with cu := tileNext a.hnd a.cu tr a.n } else s
  | .ldCb _ _ =>
    let (els, cu') := pieceWalk a.hnd 128 cu
    let (id, s) := s.newId
    (s.loadPiece a a.j id cu els).modStr fun x => if x.stopped then x else { x with cu := cu' }
  | _ => s

/-! ## Instructions -/

/-- The handle that a MEM word names (R183). -/
def State.memHandle (s : State) (f : Mem) : Handle := Map.get s.me.h f.hnd.toNat

/-- `LD.Q` (R189). -/
def execLdQ (hd : Hdr) (f : Mem) (s : State) : Result :=
  let h := s.memHandle f
  let n := f.imm.toNat % 128 + 1
  let q := s.reg .Q f.rd
  .next (if !s.guard then (s.reserveLoad q h f.lcl.toNat n false).2.occupy n
    else
      s.withHandle h false s.str.cu fun s =>
        if hFmt h = 6 && f.fn.getLsbD 0 then s.fault .format 0
        else
          let (id, s) := s.reserveLoad q h f.lcl.toNat n (!hEmpty h)
          if hEmpty h then s.occupy n else (s.begin (.ldQ hd f) id n h s.str.cu [] []).pieceWith loadStep)

/-- `LD.V` (R190): register bytes beyond the shape become zero with its landing. R89 and R218 give no order between a bad handle and a bad vector
register on one issue: that the register is judged first, here and in `ST.V`, is the model's choice (notes/assumptions/72.md). -/
def execLdV (hd : Hdr) (f : Mem) (s : State) : Result :=
  let h := s.memHandle f
  let (rows, cols, esz) := s.me.shape
  let r := s.reg .V f.rd
  let wide := f.fn.getLsbD 0
  let bad := if wide then esz != 4 || hFmt h == 6 else 5 ≤ hFmt h || fmtSize (hFmt h) != esz
  .next (if !s.guard then s.occupy 16
    else
      match s.me.vregFault r with
      | some (k, d) => s.fault k d
      | none =>
        s.withHandle h false s.str.cu fun s =>
          if bad then s.fault .format 0
          else if hEmpty h then s.occupy 16
          else
            let t := if timedSrc h then s.tc + 15 + handleLat h
              else s.tc + 15 + s.my.latcls.getD f.lcl.toNat 0 + s.my.horizon
            let b := rows * cols * esz
            let s := s.land t (.bytes .v (4096 * r + b) (List.replicate (4096 - b) 0))
            (s.begin (.ldV hd f) 0 16 h s.str.cu [r, rows, cols, esz] []).pieceWith loadStep)

/-- A tile load (R191). -/
def State.tileLoad (s : State) (ins : Instr) (f : Mem) : State :=
  let h := s.memHandle f
  let n := (f.imm.extractLsb' 6 6).toNat + 1
  let wide := f.fn.getLsbD 0
  if !s.guard then s.occupy n
  else
    s.withHandle h false s.str.cu fun s =>
      if hFmt h = 6 || (!wide && hFmt h != 0 && hFmt h != 2) then s.fault .format 0
      else if hEmpty h then s.occupy n
      else
        (s.begin ins 0 n h s.str.cu [s.reg .T f.rd, (f.imm.extractLsb' 0 6).toNat, n] []).pieceWith loadStep

/-- `LD.T` (R191, R192). -/
def execLdT (hd : Hdr) (f : Mem) (s : State) : Result := .next (s.tileLoad (.ldT hd f) f)

/-- `LD.TR` (R191, R192). -/
def execLdTr (hd : Hdr) (f : Mem) (s : State) : Result := .next (s.tileLoad (.ldTr hd f) f)

/-! ## Stationary tiles and codebooks -/

/-- The lines of a stationary tile by format; none where the format has no image (R97, R193). -/
def tileLines (fmt : Nat) : Option Nat :=
  match fmt with
  | 1 => some 32
  | 3 | 4 => some 16
  | 5 => some 13
  | 6 => some 4
  | _ => none

/-- The byte runs of line `k` of a stationary image, as elements whose slot is the byte of the line (R97, R193). LNS6 blocks are
taken whole: their code bytes in three-byte groups, their scale bytes on the last line. Each line checks the bytes that it takes (R188). -/
def State.lineElems (s : State) (h : Handle) (cu : List Nat) (k : Nat) : Except (FaultKind × Nat × Word × List Nat) (List Elem) :=
  let runs : List (Nat × List Nat × Nat × Nat) :=
    match hFmt h with
    | 1 => (List.range 2).flatMap fun y => (tileRow h cu false (2 * k + y)).map fun e => (128 * y + 2 * e.1, e.2, 0, 2)
    | 5 =>
      if k = 12 then
        (List.range 64).flatMap fun r => ((tileRow h cu false r).filter fun e => e.1 % 32 == 0).map fun e =>
          (2 * r + e.1 / 32, e.2, 1, 1)
      else
        (List.range 64).flatMap fun r => ((tileRow h cu false r).filter fun e => e.1 % 4 == 0).flatMap fun e =>
          (List.range 3).filterMap fun b =>
            let at_ := 24 * (2 * r + e.1 / 32) + 3 * (e.1 % 32 / 4) + b
            if at_ / 256 = k then some (at_ % 256, e.2, 2 + b, 1) else none
    | 6 => (List.range 16).flatMap fun y => ((tileRow h cu false (16 * k + y)).filter fun e => e.1 % 4 == 0).map fun e =>
        (16 * y + e.1 / 4, e.2, 0, 1)
    | _ => (List.range 4).flatMap fun y => (tileRow h cu false (4 * k + y)).map fun e => (64 * y + e.1, e.2, 0, 1)
  runs.mapM fun r =>
    let bs := elemBytes h r.2.1
    let want := if r.2.2.1 = 0 then bs.take 1 else if r.2.2.1 = 1 then (bs.drop 1).take 1
      else (bs.take 1).map fun q => (q.1 + ((r.2.2.1 - 2 : Nat) : Int), 1)
    match want.mapM fun q => s.rangeCheck h (fun _ => true) false q.1 q.2 with
    | .error (k, d, p) => .error (k, d, p, r.2.1)
    | .ok ps => .ok ⟨r.1, r.2.1, ps⟩

/-- One line of `LD.W` (R193). -/
def ldwStep (a : Act) (s : State) : State :=
  if (hFmt a.hnd = 5 || hFmt a.hnd = 6) && !walkOk a.hnd a.cu then s.walkFault a a.cu
  else
    let arr := s.arrival (lclOf a.ins)
    let timed := timedSrc a.hnd
    let s' := match s.lineElems a.hnd a.cu a.j with
      | .error (k, d, p, i) => s.pieceFault (if timed || !tagOk (ptrTag (hBase a.hnd)) then none else some arr) k d p i
      | .ok els =>
        let (id, s) := s.newId
        if timed then s.place a.ins a.hnd a.aux id a.j (s.tc + handleLat a.hnd) (s.readTimed els)
        else if els.isEmpty then s.place a.ins a.hnd a.aux id a.j (arr + s.my.horizon) []
        else s.startAs id .read a.ins arr a.j a.hnd a.cu a.aux els (readParts els) none
    if a.j + 1 = a.n then s'.modStr fun x => if x.stopped then x else { x with cu := tileNext a.hnd a.cu false 64 } else s'

/-- `LD.W` (R193). -/
def execLdW (hd : Hdr) (f : Mem) (s : State) : Result :=
  let h := s.memHandle f
  .next (if !s.guard then s.occupy ((tileLines (hFmt h)).getD 1)
    else
      s.withHandle h false s.str.cu fun s =>
        match tileLines (hFmt h) with
        | none => s.fault .format 0
        | some n =>
          if hEmpty h then s.occupy n
          else (s.begin (.ldW hd f) 0 n h s.str.cu [f.imm.toNat % 256, n] []).pieceWith ldwStep)

/-- `LD.CB` (R194). -/
def execLdCb (hd : Hdr) (f : Mem) (s : State) : Result :=
  let h := s.memHandle f
  let n := (f.imm.extractLsb' 6 3).toNat + 1
  .next (if !s.guard then s.occupy n
    else
      s.withHandle h false s.str.cu fun s =>
        if hFmt h != 1 then s.fault .format 0
        else if hEmpty h then s.occupy n
        else
          let at_ := 2048 * (f.imm.toNat % 8) + 256 * (f.imm.extractLsb' 3 3).toNat
          (s.begin (.ldCb hd f) 0 n h s.str.cu [at_, n] []).pieceWith loadStep)

/-! ## Gather -/

/-- Index `k` of an index entry (R195), scaled. -/
def indexAt (f : Mem) (e : Entry) (k : Nat) : Int :=
  let w := 8 * 2 ^ f.iw.toNat
  let v := e.toNat >>> (w * k) % 2 ^ w
  let x : Int := if f.isg = 1 && 2 ^ (w - 1) ≤ v then (v : Int) - 2 ^ w else v
  x * 2 ^ f.isc.toNat

/-- The pieces of a gather or scatter: ceil(NIDX / E) in element mode, NIDX in row mode (R195). -/
def gatherPieces (n cap : Nat) (row : Bool) : Nat := if row then n else (n + cap - 1) / cap

/-- Checks the ranges of an element at offset e of R90, given outright (R195). -/
def State.resolveAt (s : State) (h : Handle) (xs : List (Nat × Int)) (cu : List Nat) :
    Except (FaultKind × Nat × Word × List Nat) (List Elem) :=
  xs.mapM fun x =>
    let sz := fmtSize (hFmt h)
    match s.rangeCheck h (fun _ => true) false ((ptrOff (hBase h) : Int) + x.2 * sz) sz with
    | .error (k, d, p) => .error (k, d, p, cu)
    | .ok r => .ok ⟨x.1, cu, [r]⟩

/-- The elements of piece `j` of a gather or scatter from its indices (R195, R196): none where a row index leaves EXT1. -/
def State.gatherElems (s : State) (h : Handle) (cu : List Nat) (cap n j : Nat) (row : Bool) (idx : Nat → Int) :
    Option (Except (FaultKind × Nat × Word × List Nat) (List Elem)) :=
  if row then
    let x := idx j
    if x < 0 || (hExt h 1 : Int) ≤ x then none
    else some (s.resolve h (fun _ => true) false
      ((List.range (min cap (hExt h 0))).map fun i => (i, i :: x.toNat :: cu.drop 2)))
  else
    some (s.resolveAt h ((List.range (min cap (n - j * cap))).map fun k => (k, idx (j * cap + k))) cu)

/-- One piece of `LD.G` (R196); the index entry is in `buf`. -/
def ldgStep (a : Act) (s : State) : State :=
  match a.ins with
  | .ldG _ f =>
    let cap := entryCap (hFmt a.hnd) (f.fn.getLsbD 0)
    let e := entryOf a.buf
    let arr := s.arrival f.lcl.toNat
    let timed := timedSrc a.hnd
    let late := if timed || !tagOk (ptrTag (hBase a.hnd)) then none else some arr
    match s.gatherElems a.hnd a.cu cap (f.imm.toNat % 256 + 1) a.j (f.fn.getLsbD 1) (indexAt f e) with
    | none => s.pieceFault late .handle 0 0 a.cu
    | some (.error (k, d, p, i)) => s.pieceFault late k d p i
    | some (.ok els) =>
      if timed then
        let xs := s.readTimed els
        (s.place a.ins a.hnd [] (a.id + a.j) a.j (s.tc + handleLat a.hnd) xs).loadFlags a.ins a.hnd (a.start + a.n) xs
      else s.startLoad a (a.id + a.j) a.j arr a.cu [] els
  | _ => s

/-- `LD.G` (R195, R196): the index entry is popped at issue. -/
def execLdG (hd : Hdr) (f : Mem) (s : State) : Result :=
  let h := s.memHandle f
  let q := s.reg .Q f.rd
  let cap := entryCap (hFmt h) (f.fn.getLsbD 0)
  let n := gatherPieces (f.imm.toNat % 256 + 1) cap (f.fn.getLsbD 1)
  .next (s.pop (s.reg .Q f.rx) fun e s =>
    if !s.guard then (s.reserveLoad q h f.lcl.toNat n false).2.occupy n
    else
      s.withHandle h false s.str.cu fun s =>
        if 5 ≤ hFmt h then s.fault .format 0
        else
          let (id, s) := s.reserveLoad q h f.lcl.toNat n (!hEmpty h)
          if hEmpty h then s.occupy n else (s.begin (.ldG hd f) id n h s.str.cu [] (entryBytes e)).pieceWith ldgStep)

end Sys2Proof.Machine
end

