-- ==== Sys2Proof/Machine/Rounds.lean ====
section
/-! DEFINITION. Write rounds as a cohort sees them and the protection engine behind them: marks, logs, deltas, commit, abort and
restoration (spec/12_isa_common.md R283 to R289; spec/19_protected_hbm.md R373 to R381). -/

namespace Sys2Proof.Machine

/-! ## Groups -/

/-- Protection group `g` (R373). -/
def State.group (s : State) (g : Nat) : Group := Tbl.get Group.reset s.plat.groups g

/-- Changes a protection group. -/
def State.modGroup (s : State) (g : Nat) (f : Group → Group) : State :=
  s.modPlat fun p => { p with groups := Tbl.set p.groups g (f (Tbl.get Group.reset p.groups g)) }

/-- K, the number of data members. -/
def Group.k (x : Group) : Nat := (x.gcfg.extractLsb' 20 4).toNat

/-- M, the number of parity members. -/
def Group.m (x : Group) : Nat := (x.gcfg.extractLsb' 18 2).toNat

/-- SELF, this package's member index. -/
def Group.self (x : Group) : Nat := (x.gcfg.extractLsb' 28 4).toNat

/-- GID. -/
def Group.gid (x : Group) : Nat := (x.gcfg.extractLsb' 48 16).toNat

/-- The virtual base and the size in bytes of the protected window. -/
def Group.window (x : Group) : Nat × Nat :=
  ((x.gwin.extractLsb' 16 41).toNat * 65536, (x.gwin.extractLsb' 0 16).toNat * 65536)

/-- The live data members, in rising index (R374). -/
def Group.liveData (x : Group) : List Nat := (List.range x.k).filter fun j => !x.lostmap.getLsbD j

/-- The live parity members. -/
def Group.liveParity (x : Group) : List Nat := ((List.range x.m).map fun j => x.k + j).filter fun j => !x.lostmap.getLsbD j

/-- The coordinator: the lowest live data member (R287). -/
def Group.coord (x : Group) : Nat := x.liveData.headD 0

/-- Raises event cause 10 on supervisor core 2d of the lowest die of the partition that holds the group: the one whose supervisor core
enabled it (R342, R388; notes/assumptions/15.md). -/
def State.groupEvent (s : State) (g ev member : Nat) : State :=
  let die := (List.range 8).find? fun d => s.plat.samePart d (s.group g).die
  s.event (768 + 2 * die.getD 0) 10 (BitVec.ofNat 64 ((s.group g).gid + g * 2 ^ 16 + ev * 2 ^ 20 + member * 2 ^ 24))

/-- The round number that the group works on (R285). -/
def Group.round (x : Group) : Nat := x.lastc.toNat + 1

/-- This package is a parity member. -/
def Group.isParity (x : Group) : Bool := x.k ≤ x.self

/-- This package is the coordinator. -/
def Group.coordinates (x : Group) : Bool := !x.isParity && x.self == x.coord

/-- The live members other than this one (R378). -/
def Group.others (x : Group) : List Nat := (List.range (x.k + x.m)).filter fun j => j != x.self && !x.lostmap.getLsbD j

/-- The pod package number of member `j` (R373). -/
def Group.package (x : Group) (j : Nat) : Nat :=
  if j < 10 then (x.gmem0.toNat / 2 ^ (6 * j)) % 64 else (x.gmem1.toNat / 2 ^ (6 * (j - 10))) % 64

/-- The parity engine's number among the masters of the caps. -/
def parityMaster : Nat := 24

/-- The spare's package number where it is valid (R373). -/
def Group.spare (x : Group) : Option Nat := if x.gmem1.getLsbD 42 then some (x.gmem1.extractLsb' 36 6).toNat else none

/-- The fabric port of a message: even stripes take port 0 and odd ones port 1 (R381). -/
def GroupMsg.lane (m : GroupMsg) : Nat :=
  match m with
  | .chain p => p.off / 64 % 2
  | _ => 0

/-- Sends a group message to a member, or to the spare in the place of a lost one, as far as the caps let the parity engine send (R378, R390);
each takes one flit. -/
def State.tell (s : State) (g j round : Nat) (m : GroupMsg) : State :=
  let x := s.group g
  match s.capSend parityMaster x.die m.lane (if x.lostmap.getLsbD j then x.spare.getD (x.package j) else x.package j) 0 256 with
  | .ok s => s.send (.group j ⟨x.gid, x.self, round⟩ m)
  | .error s => s

/-- Sends a group message to some members. -/
def State.tellAll (s : State) (g round : Nat) (m : GroupMsg) (js : List Nat) : State := js.foldl (fun s j => s.tell g j round m) s

/-- The enabled group that a message names (R378). -/
def State.byGid (s : State) (gid : Nat) : Option Nat :=
  (List.range 16).find? fun g => (s.group g).gcfg.getLsbD 0 && (s.group g).gid == gid

/-- The cohort slot and group slot that hold group `g`. -/
def State.holder (s : State) (g : Nat) : Option (Nat × Nat) :=
  s.slots.findSome? fun e =>
    if e.2.st = 0 then none else (e.2.grpOf.find? fun t => t.2 == g).map fun t => (e.1, t.1)

/-- The round of a group slot. -/
def Slot.round (x : Slot) (gs : Nat) : Round := Tbl.get Round.idle x.rounds gs

/-- Changes the round of a group slot of cohort slot `n`. -/
def State.modRound (s : State) (n gs : Nat) (f : Round → Round) : State :=
  s.modSlot n fun x => { x with rounds := Tbl.set x.rounds gs (f (x.round gs)) }

/-- Changes the round of the cohort that holds group `g`. -/
def State.modHeldRound (s : State) (g : Nat) (f : Round → Round) : State :=
  match s.holder g with
  | some (n, gs) => s.modRound n gs f
  | none => s

/-! ## The engine -/

/-- Multiplication by g = 2 in GF(2^8) with polynomial 0x11D (R375). -/
def gmul2 (b : Byte) : Byte := (b <<< 1) ^^^ (if b.getLsbD 7 then 0x1D else 0)

/-- `gmul2` applied i times (R375). -/
def gpow : Nat → Byte → Byte
  | 0, b => b
  | i + 1, b => gpow i (gmul2 b)

/-- Applies a byte map to a sector. -/
def mapSector (f : Byte → Byte) (d : BitVec 512) : BitVec 512 :=
  BitVec.ofNat 512 (leNat ((leBytes 64 d.toNat).map f))

/-- The 64 home bytes of the sector at a virtual address, as core `c` of slot `n` translates it for an access with some translations. -/
def State.sector (s : State) (pages : List TlbEntry) (c n : Nat) (va : Word) : BitVec 512 :=
  match s.keyFor pages c n va with
  | some (_, key) => BitVec.ofNat 512 (leNat (s.devBytes key 64))
  | none => 0

/-- The lowest place of a log that no entry holds (R377); none where the log is full. Which free place an entry takes is not stated
(notes/assumptions/59.md). -/
def freePlace (reg : Word) (used : List Nat) : Option Nat :=
  if used.length < (reg.extractLsb' 0 16).toNat * 65536 / 96 then (List.range (used.length + 1)).find? fun i => !used.contains i else none

/-- The bytes of a log entry (R377). -/
def logBytes (first round g kind sender : Nat) (d : BitVec 512) : List Byte :=
  leBytes 8 first ++ leBytes 4 round ++ leBytes 1 g ++ leBytes 1 kind ++ leBytes 1 sender ++ leBytes 1 0 ++ leBytes 64 d.toNat ++ leBytes 16 0

/-- Writes the bytes of an entry to its place in a log (R377). -/
def State.writeLog (s : State) (reg : Word) (i : Nat) (bs : List Byte) : State :=
  s.devWrites none ((reg.extractLsb' 16 38).toNat * 65536 + 96 * i) bs

/-- The parity engine of a die reaches the next free place of a log (R389, R390). -/
def State.logReach (s : State) (die : Nat) (reg : Word) (used : List Nat) : Except State State :=
  match freePlace reg used with
  | some i => s.capAccess parityMaster die ((reg.extractLsb' 16 38).toNat * 65536 + 96 * i) 96 true
  | none => .ok s

/-- Appends an entry to the round log (R377); none where it is full. -/
def State.appendRound (s : State) (e : LogEntry) : Option State :=
  (freePlace s.plat.plog (s.plat.rlog.map (·.at_))).map fun i =>
    (s.modPlat fun p => { p with rlog := p.rlog ++ [{ e with at_ := i }] }).writeLog s.plat.plog i
      (logBytes (e.key % 2 ^ 54) e.round e.grp e.kind 0 e.old)

/-- Appends an entry to the pending-parity log (R377); none where it is full. -/
def State.appendPend (s : State) (e : PendEntry) : Option State :=
  (freePlace s.plat.ppend (s.plat.pend.map (·.at_))).map fun i =>
    (s.modPlat fun p => { p with pend := p.pend ++ [{ e with at_ := i }] }).writeLog s.plat.ppend i
      (logBytes e.off e.round e.grp (if e.decision then 0xFE else 0) e.member e.delta)

/-- Sends a delta to a parity member, to be acknowledged for write `r` (R376, R378). -/
def State.sendDelta (s : State) (g j round off : Nat) (d : BitVec 512) (r : FaultRec) : State :=
  (s.tell g j round (.delta off d)).modGroup g fun y => { y with deltas := y.deltas ++ [⟨j, off, r⟩] }

/-- A marked sector that a write touches (R376): its home byte, its virtual address and its mark. -/
structure MarkedSector where
  key : Nat
  va : Word
  mark : Mark
  deriving DecidableEq, Repr

/-- The 64 bytes of a sector at its home. -/
def State.sectorAt (s : State) (key : Nat) : BitVec 512 := BitVec.ofNat 512 (leNat (s.devBytes key 64))

/-- Before a write, the engine logs the old value of a marked sector once in a round (R376); none where the log is full (R377). -/
def State.logSector (s : State) (n : Nat) (e : MarkedSector) : Option State :=
  match (s.slot n).grpOf.find? fun t => t.1 == e.mark.grp with
  | none => some s
  | some (_, g) =>
    let rd := (s.slot n).round e.mark.grp
    if s.plat.rlog.any fun l => l.grp == g && l.round == rd.num && l.va == e.va && l.kind < 2 then some s
    else s.appendRound ⟨e.key, e.va, rd.num, g, if e.mark.prot then 0 else 1, s.sectorAt e.key, 0⟩

/-- After a write, a PROTECTED sector sends its delta to each live parity member (R376). A doomed round sends none: its pending parity is
discarded (notes/assumptions/60.md). -/
def State.sendSector (s : State) (n : Nat) (e : MarkedSector) (old : BitVec 512) (r : FaultRec) : State :=
  match (s.slot n).grpOf.find? fun t => t.1 == e.mark.grp with
  | none => s
  | some (_, g) =>
    let rd := (s.slot n).round e.mark.grp
    let x := s.group g
    let d := old ^^^ s.sectorAt e.key
    if !e.mark.prot || rd.doomed then s
    else x.liveParity.foldl
      (fun s j => s.sendDelta g j rd.num (ptrOff e.va - x.window.1) (if j = x.k then d else mapSector (gpow x.self) d) r) s

/-- The parity engine reaches some marked sectors and the place of their log entry (R376, R389, R390); a frozen one does not. -/
def State.engineReach (s : State) (n : Nat) (secs : List MarkedSector) : Except State State :=
  secs.foldlM
    (fun (s : State) (e : MarkedSector) =>
      match (s.slot n).grpOf.find? fun t => t.1 == e.mark.grp with
      | none => .ok s
      | some (_, g) =>
        match s.capAccess parityMaster (s.group g).die e.key 64 true with
        | .error s => .error s
        | .ok s => s.logReach (s.group g).die s.plat.plog (s.plat.rlog.map (·.at_))) s

/-- Performs a write of some runs of home bytes by an agent through the engine of its marked sectors (R376). Where the round log has no room
for an entry the write is not performed (R366, R377). -/
def State.engineWrite (s : State) (n : Nat) (by_ : Option Nat) (secs : List MarkedSector) (runs : List (Nat × List Byte)) (r : FaultRec) :
    Option State :=
  (secs.foldlM (fun (s : State) e => s.logSector n e) s).map fun t =>
    let t := runs.foldl (fun (t : State) w => t.devWrites by_ w.1 w.2) t
    secs.foldl (fun (t : State) e => t.sendSector n e (s.sectorAt e.key) { r with kind := .round, detail := 7 }) t

/-- The 64-byte sectors that a range touches (R375). -/
def sectors (p : Word) (n : Nat) : List Word :=
  (List.range ((ptrOff p + n - 1) / 64 - ptrOff p / 64 + 1)).map fun i => p - BitVec.ofNat 64 (ptrOff p % 64) + BitVec.ofNat 64 (64 * i)

/-- The marked sectors that a write of slot `n` touches, as core `c` translates them (R284, R376). -/
def State.markedSectors (s : State) (pages : List TlbEntry) (n c : Nat) (p : Word) (len : Nat) (tc : Moment) : List MarkedSector :=
  (sectors p len).filterMap fun v =>
    ((s.slot n).markAt v tc).bind fun m => (s.keyFor pages c n v).map fun k => ⟨k.2, v, m⟩

/-- Performs a write of slot `n` at its home: a byte changes unless a performed write with a later key holds it (R128, R129),
and marked sectors pass through the engine (R376). A write that finds the round log full takes its fault and is never performed (R366, R377). -/
def State.homeWrite (s : State) (pages : List TlbEntry) (n : Nat) (w : PWrite) (r : FaultRec) : State :=
  let x := s.slot n
  let newer := x.log.filter fun v => v.done != 0 && !v.le w
  let bytes := ((List.range w.data.length).zip w.data).filterMap fun (e : Nat × Byte) =>
    let p := w.addr + BitVec.ofNat 64 e.1
    (s.keyFor pages w.core n p).bind fun k => if newer.any fun v => (v.byteAt p k.2).isSome then none else some (k.2, e.2)
  match s.engineWrite n (some (agentOf n w.rank w.stream)) (s.markedSectors pages n w.core w.addr w.data.length w.tc) (runsOf bytes) r with
  | some t => t
  | none => (s.modSlot n fun y => { y with log := y.log.filter fun v => v.done != w.done }).dueFault n { r with kind := .round, detail := 7 }

/-! ## Restoration and settlement -/

/-- The sectors of a group's log in reverse order (R379). -/
def State.logged (s : State) (g : Nat) : List Undo :=
  ((s.plat.rlog.filter fun e => e.grp == g && e.kind < 2).map fun e => ⟨e.key, e.va, g, e.old⟩).reverse

/-- Releases a group's log entries (R377, R379). -/
def State.release (s : State) (g : Nat) : State := s.modPlat fun p => { p with rlog := p.rlog.filter fun e => e.grp != g }

/-- Restores a round's sectors in reverse log order as writes of core `c` issued now, those that its member has restored before included, and
releases its entries (R136, R287, R379). -/
def State.restore (s : State) (n gs g c : Nat) : State :=
  let es := s.logged g ++ ((s.slot n).round gs).undo
  let s := es.foldl
    (fun s (e : Undo) =>
      let x := s.slot n
      let bs := leBytes 64 e.old.toNat
      let w : PWrite := ⟨x.npod, x.prank, x.writeTc x.tc, (s.core c).rank, 0, c, e.va, bs, false, none, [], none, s.done + 1, 0, none⟩
      (s.modSlot n fun y => { y with log := y.log ++ [w] }).devWrites (some (agentOf n (s.core c).rank 0)) e.key bs) s
  (s.release g).modRound n gs fun r => { r with undo := [] }

/-- A DEGRADED group whose round is settled here rebuilds into a valid spare (R381). -/
def State.startRebuild (s : State) (g : Nat) : State :=
  s.modGroup g fun x => if x.st = 2 && x.rst = 0 && !x.collecting && x.gmem1.getLsbD 42 then { x with st := 3 } else x

/-- This data member is IDLE again (R379): what its round gathered is gone, and notices of the next round stay (R310). -/
def State.closeRound (s : State) (g : Nat) : State :=
  (s.modGroup g fun x =>
    { x with rst := 0, deltas := [], aborts := [], decided := false, acks := [], answers := [], doomed := false }).startRebuild g

/-- Outcome 0 of round `r` at this data member (R287, R379): IDLE, the log entries released, LASTC = r. -/
def State.commitRound (s : State) (g r : Nat) : State :=
  let s := (s.release g).modHeldRound g fun x => { x with settled := some true }
  (s.modGroup g fun x => { x with lastc := BitVec.ofNat 32 r, notices := [] }).closeRound g

/-- The first byte of a write since moment `start` that lies in a group slot's marks. -/
def Slot.inRound (x : Slot) (gs : Nat) (start : Moment) (p : Word) (n : Nat) (tc : Moment) : Option Word :=
  if tc.before start then none else x.markedBy gs p n tc

/-- The destination of a collective (R293). -/
def Coll.dst (k : Coll) : Word := BitVec.ofNat 64 (leNat ((k.desc.drop 0x18).take 8))

/-- The bytes of a collective's destination among `np` participants (R293). -/
def Coll.dstLen (k : Coll) (np : Nat) : Nat :=
  let field := fun (off n : Nat) => leNat ((k.desc.drop off).take n)
  (if field 0 1 = 1 then np else 1) * field 8 8 * fmtSize (field 2 1)

/-- The bytes that a collective of the slot writes. -/
def Slot.dstLen (x : Slot) (k : Coll) : Nat := k.dstLen ((Tbl.get [1, 0] x.collOf k.grp).getD 0 1)

/-- A write of a round is still under way at a group slot: its deltas are not durable, and a restoration must follow it (R136, R286,
R376). -/
def State.roundPending (s : State) (n gs : Nat) : Bool :=
  let x := s.slot n
  let start := (x.round gs).start
  s.outs.any (fun a => a.slot == n && a.kind != .read && a.st != .failed && a.parts.any fun p => (x.inRound gs start p.1 p.2.length a.keyTc).isSome) ||
    x.colls.any fun k => k.result.isNone && k.fault.isNone && (x.inRound gs start k.dst (x.dstLen k) k.tc).isSome

/-- A member whose round is OPEN or PREPARED restores it on ABT or outcome 1 and is IDLE (R379): its sectors hold their old values again and
its entries are released. What its cohort sees of that are the writes which `RND.COMMIT` or `RND.ABORT` make at their tc (R136, R287;
notes/assumptions/60.md). While `RND.COMMIT` is held, those are made now. -/
def State.undoRound (s : State) (g : Nat) : State :=
  match s.holder g with
  | some (n, gs) =>
    let r := (s.slot n).round gs
    if (s.group g).rst = 0 || r.settled != some false then s
    else if (s.group g).rst = 3 then (if s.roundPending n gs then s else (s.restore n gs g r.committer).closeRound g)
    else
      let es := s.logged g
      let s := es.foldl (fun (s : State) e => s.devWrites none e.key (leBytes 64 e.old.toNat)) s
      (((s.release g).modRound n gs fun r => { r with undo := es ++ r.undo }).modGroup g fun y => { y with rst := 0, deltas := [] }).startRebuild g
  | none => s

/-- Dooms the round of group `g` (R286, R288): its outcome here is 1, and every other live member is told once (R378). -/
def State.doom (s : State) (g : Nat) : State :=
  let x := s.group g
  let s := s.modGroup g fun x => { x with doomed := true, notices := [], acks := if x.doomed then x.acks else [] }
  let s := s.modHeldRound g fun r => if r.st = .idle || r.settled.isSome then r else { r with doomed := true, settled := some false }
  if x.doomed && x.rst != 0 then s else s.tellAll g x.round .abt x.others

/-- Dooms the round and restores it; the coordinator answers 1 to the data members (R287, R378, R379). -/
def State.abandon (s : State) (g : Nat) : State :=
  let x := s.group g
  let s := s.doom g
  (if x.coordinates && !(x.doomed && x.rst != 0) then s.tellAll g x.round (.out 1) (x.others.filter (· < x.k)) else s).undoRound g

/-- Writes the coordinator's COMMIT decision and tells the live parity members (R287, R378). -/
def State.decide (s : State) (g : Nat) : State :=
  let x := s.group g
  let s := (s.appendRound ⟨0, 0, x.round, g, 0xFE, 0, 0⟩).getD s
  (s.modGroup g fun y => { y with decided := true }).tellAll g x.round .dec (x.liveParity.filter fun j => !x.acks.contains j)

/-- The outcome once every live parity member has acknowledged the decision (R378). -/
def State.giveOutcome (s : State) (g : Nat) : State :=
  let x := s.group g
  if x.decided && x.liveParity.all fun j => x.acks.contains j then
    (s.tellAll g x.round (.out 0) (x.liveData.filter (· != x.self))).commitRound g x.round
  else s

/-- The coordinator's next act (R287, R310, R378): a decision once every live data member's notice stands and its own cohort has come to
`RND.COMMIT`, before which an `RND.ABORT` would still doom the round (R283; notes/assumptions/60.md); then the outcome. -/
def State.coordinate (s : State) (g : Nat) : State :=
  let x := s.group g
  if !x.coordinates || x.doomed then s
  else if !x.decided && x.rst == 3 && x.liveData.all fun j => x.notices.contains j then (s.decide g).giveOutcome g
  else s.giveOutcome g

/-! ## Instructions -/

/-- Goes on with the group of a granted group slot; otherwise round-state fault 5 (R289), or 8 where the group has FAILED (R380). -/
def State.withGroup (s : State) (gs : Nat) (k : Nat → Option Word × State) : Option Word × State :=
  match s.my.grpOf.find? fun e => e.1 == gs with
  | some e => if (s.group e.2).st = 4 then (none, s.fault .round 8) else k e.2
  | none => (none, s.fault .round 5)

/-- The group slot that a round instruction names. -/
def roundSlot (f : Sys) : Nat := f.imm.toNat % 16

/-- Opcode, group slot and operand values of a round instruction that core `x` issues as `w` (R304). -/
def roundArgs (x : Core) (w : Issue) (i : Instr) : Option (Nat × Nat × Word × Nat) :=
  match i with
  | .rndOpen _ f => some (0xEB, roundSlot f, BitVec.ofNat 64 (regNum w .S f.ra), f.imm.toNat)
  | .rndPrep _ f => some (0xEC, roundSlot f, 0, f.imm.toNat)
  | .rndCommit _ f => some (0xED, roundSlot f, BitVec.ofNat 64 (regNum w .S f.ra), f.imm.toNat)
  | .rndAbort _ f => some (0xEE, roundSlot f, 0, f.imm.toNat)
  | .protMark _ f => some (0xEF, f.imm.toNat / 2 ^ 24 % 16, x.sGet (regNum w .S f.ra), f.imm.toNat + f.fn.toNat * 2 ^ 32)
  | _ => none

/-- A member's C stream that has still to issue on this tc carries the same instruction for a group slot with other operand values (R304). -/
def State.differs (s : State) (code gs : Nat) (val : Word) (arg : Nat) : Bool :=
  (s.dueWords s.me.slot s.tc).any fun e => e.2.1 == 0 && e.1 != s.cur.1 &&
    let x := s.core e.1
    (roundArgs x ((x.stream 0).issueOf false s.tc) e.2.2).any fun r => r.1 == code && r.2.1 == gs && (r.2.2.1 != val || r.2.2.2 != arg)

/-- Performs a round instruction of opcode `code` on a group slot (R304): the first of a tc acts, and equal ones receive its result. Where one
of them has other operand values none acts: that is a fault of the first one's stream. -/
def State.once (s : State) (code gs detail : Nat) (val : Word) (arg : Nat) (give : State → Word → State) (act : Option Word × State) : State :=
  let land := fun (s : State) (v : Option Word) => match v with
    | some v => give s v
    | none => s
  match s.my.roundOps.find? fun o => o.code == code && o.grp == gs with
  | some o =>
    if o.val = val && o.arg = arg then land s o.result
    else if ((s.core o.core).stream 0).stopped then s
    else s.faultAt o.core 0 .round detail (if detail = 4 then o.val else 0) (if detail = 4 then 0x80 + ptrTag o.val else 0)
  | none =>
    let r := if s.differs code gs val arg then (none, if detail = 4 then s.faultPtr .round 4 val else s.fault .round detail) else act
    land (r.2.modMy fun x => { x with roundOps := x.roundOps ++ [⟨code, s.cur.1, gs, val, arg, r.1⟩] }) r.1

/-- `RND.OPEN` (R283, R285). -/
def State.openRound (s : State) (gs g : Nat) : Option Word × State :=
  if (s.my.round gs).st != .idle then (none, s.fault .round 2)
  else
    let num := (s.group g).round
    let s := s.modRound s.me.slot gs fun _ => { Round.idle with st := .opened, num := num, start := s.my.writeTc s.tc, opener := s.cur.1 }
    let s := s.modGroup g fun x =>
      { x with rst := 1, doomed := false, aborts := [], decided := false, acks := [], answers := [], deltas := [] }
    (some (BitVec.ofNat 64 num), s)

/-- `RND.OPEN` (R285, R304). -/
def execRndOpen (_ : Hdr) (f : Sys) (s : State) : Result :=
  let gs := roundSlot f
  .next (s.once 0xEB gs 3 (BitVec.ofNat 64 (s.reg .S f.ra)) f.imm.toNat (fun s v => s.landS f.ra (s.tc + 1) v)
    (s.withGroup gs fun g => s.openRound gs g))

/-- The writes of a slot to a round's ranges by issue and first byte that lies in them (R136): stores, performed and outstanding atomics, and
those of collectives (R376). -/
def State.roundWrites (s : State) (n gs : Nat) (start : Moment) : List (Moment × Word) :=
  let x := s.slot n
  let logged := x.log.filterMap fun w => if w.peer.isNone then some (w.tc, w.addr, w.data.length) else none
  let atoms := s.outs.filterMap fun a => if a.slot == n && a.kind == .atomic then (a.parts.head?).map fun p => (a.keyTc, p.1, p.2.length) else none
  (logged ++ atoms ++ x.colls.map fun k => (k.tc, k.dst, x.dstLen k)).filterMap fun w => (x.inRound gs start w.2.1 w.2.2 w.1).map fun p => (w.1, p)

/-- The earliest write of the round's ranges that no boundary of the cohort's scope has published before now (R136). -/
def State.uncovered (s : State) (n gs : Nat) : Option Word :=
  let x := s.slot n
  let ws := (s.roundWrites n gs (x.round gs).start).filter fun w =>
    !(x.bounds.any fun b => x.scope ≤ b.scope && w.1.tc < b.tc && b.tc < x.outTc x.tc)
  (ws.foldl (fun (m : Option (Moment × Word)) w => match m with
    | none => some w
    | some v => if w.1.before v.1 then some w else some v) none).map (·.2)

/-- `RND.PREP` at its issue (R136, R283, R286, R377): the log is sealed, the round is prepared, and its notice goes to the coordinator. A
seal that finds no room is the fault of this instruction (notes/assumptions/59.md). A doomed round has nothing to seal or to tell (R286). -/
def State.prepareRound (s : State) (gs g : Nat) : Option Word × State :=
  let r := s.my.round gs
  if r.st != .opened then (none, s.fault .round 3)
  else
    match s.uncovered s.me.slot gs with
    | some p => (none, s.faultPtr .round 1 p)
    | none =>
      let n := (s.plat.rlog.filter fun e => e.grp == g && e.kind < 2).length
      let prepared := fun s : State =>
        s.modRound s.me.slot gs fun r => { r with st := .prepared, prepTc := s.my.writeTc s.tc, preparer := s.cur.1 }
      match if r.doomed then none else s.appendRound ⟨0, 0, r.num, g, 0xFF, BitVec.ofNat 512 n, 0⟩ with
      | none => (none, if r.doomed then prepared s else s.fault .round 7)
      | some s =>
        let s := (prepared s).modGroup g fun x => { x with rst := 2 }
        let x := s.group g
        (none, if x.coordinates then s.modGroup g fun x => { x with notices := x.notices ++ [x.self] }
          else s.tell g x.coord r.num .prep)

/-- `RND.PREP` (R286, R304). -/
def execRndPrep (_ : Hdr) (f : Sys) (s : State) : Result :=
  let gs := roundSlot f
  .next (s.once 0xEC gs 3 0 f.imm.toNat (fun s _ => s) (s.withGroup gs fun g => s.prepareRound gs g))

/-- `RND.COMMIT` at its issue (R283, R287): its outcome, with the restoration of outcome 1 unless its hold has made it. -/
def State.takeOutcome (s : State) (gs g : Nat) : Option Word × State :=
  let r := s.my.round gs
  if r.st != .prepared then (none, s.fault .round 3)
  else
    let ok := r.settled == some true
    let idle := (s.group g).rst == 0
    let s := if ok then s else s.restore s.me.slot gs g s.cur.1
    let s := if ok || idle then s else s.closeRound g
    (some (if ok then 0 else 1), s.modRound s.me.slot gs fun _ => Round.idle)

/-- `RND.COMMIT` (R287, R304). -/
def execRndCommit (_ : Hdr) (f : Sys) (s : State) : Result :=
  let gs := roundSlot f
  .next (s.once 0xED gs 3 (BitVec.ofNat 64 (s.reg .S f.ra)) f.imm.toNat (fun s v => s.landS f.ra (s.tc + 1) v)
    (s.withGroup gs fun g => s.takeOutcome gs g))

/-- `RND.ABORT` at its issue (R136, R283, R288). -/
def State.abortRound (s : State) (gs g : Nat) : Option Word × State :=
  let r := s.my.round gs
  if r.st = .idle then (none, s.fault .round 3)
  else
    let idle := (s.group g).rst == 0
    let s := if r.settled.isSome then s else s.doom g
    let s := if r.settled == some true then s else s.restore s.me.slot gs g s.cur.1
    let s := if r.settled == some true || idle then s else s.closeRound g
    (none, s.modRound s.me.slot gs fun _ => Round.idle)

/-- `RND.ABORT` (R288, R304). -/
def execRndAbort (_ : Hdr) (f : Sys) (s : State) : Result :=
  let gs := roundSlot f
  .next (s.once 0xEE gs 3 0 f.imm.toNat (fun s _ => s) (s.withGroup gs fun g => s.abortRound gs g))

/-- What is left of a mark outside a range. -/
def Mark.minus (m : Mark) (b l : Nat) : List Mark :=
  (if m.base < b then [{ m with len := min m.len (b - m.base) }] else []) ++
    (if b + l < m.base + m.len then [{ m with base := max m.base (b + l), len := m.base + m.len - max m.base (b + l) }] else [])

/-- What of a mark lies in a range that is unmarked now: it still counts for the writes of this tc (R284). -/
def Mark.gone_ (m : Mark) (b l : Nat) (t : Moment) : List Mark :=
  let lo := max m.base b
  let hi := min (m.base + m.len) (b + l)
  if lo < hi then [{ m with base := lo, len := hi - lo, gone := some t }] else []

/-- The compressed page that a range includes (R101, R284). -/
def State.compressedIn (s : State) (x : Slot) (p : Word) (len : Nat) : Option Word :=
  ((List.range (len / 65536)).find? fun i => match s.walk x (p + BitVec.ofNat 64 (i * 65536)) with
    | .leaf l _ _ => l.getLsbD 3
    | _ => false).map fun i => p + BitVec.ofNat 64 (i * 65536)

/-- The mark or unmark of a `PROT.MARK` whose group slot is granted to group `g` (R101, R283, R284, R375). -/
def State.protect (s : State) (p : Word) (len gs g : Nat) (fn : BitVec 2) : State :=
  let base := ptrOff p
  let prot := fn == 2
  let win := (s.group g).window
  let stands := fun m : Mark => m.gone.isNone
  let clash := s.my.marks.any fun m => stands m && overlap m.base m.len base len && (m.grp != gs || (fn != 0 && m.prot != prot))
  if (s.my.round gs).st != .idle || ptrTag p != 0 || base % 65536 != 0 || len = 0 || clash || base < win.1 || win.1 + win.2 < base + len then
    s.faultPtr .round 4 p
  else
    match s.compressedIn s.my p len with
    | some q => s.faultPtr .page 2 q
    | none =>
      if fn = 0 then
        let cut := fun m : Mark =>
          if stands m && m.grp == gs && overlap m.base m.len base len then m.minus base len ++ m.gone_ base len (s.my.writeTc s.tc) else [m]
        s.modMy fun x => { x with marks := x.marks.flatMap cut }
      else
        let fresh := (s.my.marks.filter stands).foldl (fun (ps : List Mark) m => ps.flatMap fun q => q.minus m.base m.len)
          [⟨gs, base, len, prot, s.my.writeTc s.tc, s.cur.1, none⟩]
        s.modMy fun x => { x with marks := x.marks ++ fresh }

/-- `PROT.MARK` (R284, R304). -/
def execProtMark (_ : Hdr) (f : Sys) (s : State) : Result :=
  let p := s.rs f.ra
  let gs := f.imm.toNat / 2 ^ 24 % 16
  .next (s.once 0xEF gs 4 p (f.imm.toNat + f.fn.toNat * 2 ^ 32) (fun s _ => s)
    (none, match s.my.grpOf.find? fun e => e.1 == gs with
      | none => s.faultPtr .round 5 p
      | some e => s.protect p ((f.imm.toNat % 2 ^ 24) * 65536) gs e.2 f.fn))

end Sys2Proof.Machine
end

