-- ==== Sys2Proof/Machine/Stores.lean ====
section
/-! DEFINITION. Stores of the S stream through a handle: registers, queue entries and tiles, scatter, quantising stores and the
update stage (spec/09_isa_load_store.md R195 to R200). -/

namespace Sys2Proof.Machine

/-! ## Conversion -/

/-- What a piece writes: slots with their elements, and for each slot the code, the observed value, the flags and whether it is a
quantising overflow; scale bytes by block. -/
structure Written where
  slots : List (Nat × List Nat)
  code : Nat → Nat
  scale : Nat → Nat
  seen : Nat → Option Val
  flags : Nat → Flags
  quantising : Bool

/-- CONV of a source element of 32 bits into the handle's format (R198): its bits and flags. -/
def convOne (conv fmt : Nat) (x : BitVec 32) : BitVec 32 × Flags :=
  if conv = 1 then (if fmt = 0 then (x, 0) else convert 0 fmt (val32 x))
  else if fmt = 2 then (x, 0)
  else convert 0 fmt (valInt x.toInt)

/-- The source value that a record observes (R110). -/
def convSeen (conv : Nat) (x : BitVec 32) : Val := if conv = 1 then val32 x else valInt x.toInt

/-- A converted or raw piece from a source of `e` as a number (R198). `fmt` is the handle's; raw codes lie as R184 lays them. -/
def convPiece (conv fmt : Nat) (slots : List (Nat × List Nat)) (e : Nat) : Written :=
  if conv = 0 then
    { slots := slots, code := fun s => (unpackRaw fmt s e).1, scale := fun b => (unpackRaw fmt (32 * b) e).2
      seen := fun s => if fmt = 6 then none else some (exactVal fmt (unpackRaw fmt s e)), flags := fun _ => 0, quantising := false }
  else
    let x := fun s : Nat => BitVec.ofNat 32 (e >>> (32 * s))
    { slots := slots, code := fun s => (convOne conv fmt (x s)).1.toNat, scale := fun _ => 0
      seen := fun s => some (convSeen conv (x s)), flags := fun s => (convOne conv fmt (x s)).2, quantising := false }

/-- A quantised piece of `n` times 32 FP32 slots with tensor scale exponent `t` (R73, R199). -/
def quantPiece (n fmt : Nat) (t : Int) (slots : List (Nat × List Nat)) (x : Nat → BitVec 32) : Written :=
  let blocks := (List.range n).map fun b => quantBlock ((List.range 32).map fun j => x (32 * b + j)) t
  let blk := fun s : Nat => (blocks.getD (s / 32) (0, [])).2.getD (s % 32) (0, 0)
  { slots := slots
    code := fun s => if fmt = 5 then (blk s).1 else (quant (x s) t fmt).1.toNat
    scale := fun b => (blocks.getD b (0, [])).1
    seen := fun s => some (val32 (x s))
    flags := fun s => if fmt = 5 then (blk s).2 else (quant (x s) t fmt).2
    quantising := true }

/-- All flags of a piece. -/
def Written.allFlags (w : Written) : Flags := w.slots.foldl (fun a e => a ||| w.flags e.1) 0

/-- The record updates of a piece (R109 to R111, R119), reported on tc `rep`; `ev` joins the first one. -/
def State.observeAll (s : State) (h : Handle) (w : Written) (ev : BitVec 8) (rep : Nat) : State :=
  (w.slots.foldl
    (fun (r : BitVec 8 × State) e =>
      match w.seen e.1 with
      | none => r
      | some v =>
        let fl := w.flags e.1
        (0, r.2.stat h (some v) (elemIndex h e.2) (w.quantising && quantOvf fl) (r.1 ||| convEvt w.quantising fl) rep)) (ev, s)).2

/-- Writes a piece of the executing core through a handle (R187): checks, memory, records and flags. `rep` is the tc of the
flags; the events `ev` join the record's first update. -/
def State.writePieceEv (s : State) (ins : Instr) (h : Handle) (piece : Nat) (cu : List Nat) (w : Written) (ev : BitVec 8)
    (rep : Nat) : State :=
  match s.resolve h (fun _ => true) false w.slots with
  | .error (k, d, p, i) => s.pieceFault none k d p i
  | .ok els =>
    let s := s.writeOwn ins h piece cu els (writeParts (hFmt h) els w.code w.scale) none
    if s.alive then (s.observeAll h w ev rep).setFlags rep w.allFlags else s

/-- `writePieceEv` without further events. -/
def State.writePiece (s : State) (ins : Instr) (h : Handle) (piece : Nat) (cu : List Nat) (w : Written) (rep : Nat) : State :=
  s.writePieceEv ins h piece cu w 0 rep

/-- Moves the stream's cursors unless a fault has stopped it. -/
def State.moveCursors (s : State) (cu : List Nat) : State := s.modStr fun x => if x.stopped then x else { x with cu := cu }

/-! ## Queue entries, registers and tiles -/

/-- CONV of a store (R181). -/
def convOf (f : Mem) : Nat := f.fn.toNat % 4

/-- E of a store's entries (R197). -/
def storeCap (conv fmt : Nat) : Nat := if conv = 0 then entryCap fmt false else 64

/-- The formats that CONV does not reach (R198). -/
def convBad (conv fmt : Nat) : Bool := conv != 0 && 5 ≤ fmt

/-- One piece of `ST.Q`, `ST.V` or `ST.T` (R197); the register or tile that the issue read is in `buf`. -/
def storeStep (a : Act) (s : State) : State :=
  let cu := s.str.cu
  match a.ins with
  | .stQ _ f =>
    s.pop (a.aux.getD 0 0) fun e s =>
      if !s.guard || hEmpty a.hnd then s
      else if !walkOk a.hnd cu then s.pieceFault none .handle 0 0 cu
      else
        let (els, cu') := pieceWalk a.hnd (storeCap (convOf f) (hFmt a.hnd)) cu
        (s.writePiece a.ins a.hnd a.j cu (convPiece (convOf f) (hFmt a.hnd) els e.toNat) (a.start + a.n)).moveCursors cu'
  | .stV _ f =>
    let w := a.aux.getD 2 0 * a.aux.getD 3 0
    ((List.range (a.aux.getD 1 0)).filter fun r => r * w / 256 == a.j).foldl
      (fun s r =>
        let cu := s.str.cu
        if s.str.act.isNone then s
        else
          let (els, cu') := pieceWalk a.hnd (a.aux.getD 2 0) cu
          (s.writePiece a.ins a.hnd r cu (convPiece (convOf f) (hFmt a.hnd) els (leNat ((a.buf.drop (r * w)).take w)))
            (a.start + a.n)).moveCursors cu') s
  | .stT _ f =>
    let els := tileRow a.hnd a.cu false a.j
    let col := a.aux.getD 1 0 + a.j
    let e := leNat ((List.range 64).flatMap fun r => (a.buf.drop (256 * r + 4 * col)).take 4)
    let s := s.writePiece a.ins a.hnd a.j a.cu (convPiece (convOf f) (hFmt a.hnd) els e) (a.start + a.n)
    if a.j + 1 = a.n then s.moveCursors (tileNext a.hnd a.cu false a.n) else s
  | _ => s

/-- `ST.Q` (R197): its entries are popped on their piece's tc, whatever the guard. -/
def execStQ (hd : Hdr) (f : Mem) (s : State) : Result :=
  let h := s.memHandle f
  let n := f.imm.toNat % 128 + 1
  let go := fun s : State => (s.begin (.stQ hd f) 0 n h s.str.cu [s.reg .Q f.rd] []).pieceWith storeStep
  .next (if !s.guard then go s
    else s.withHandle h true s.str.cu fun s => if convBad (convOf f) (hFmt h) then s.fault .format 0 else go s)

/-- The format conditions of R198 for a register source of element size `esz`. -/
def regSourceBad (conv fmt esz : Nat) : Bool := if conv = 0 then 5 ≤ fmt || fmtSize fmt != esz else 5 ≤ fmt || esz != 4

/-- `ST.V`: the register is read at issue (R183, R197). -/
def execStV (hd : Hdr) (f : Mem) (s : State) : Result :=
  let h := s.memHandle f
  let (rows, cols, esz) := s.me.shape
  let r := s.reg .V f.rd
  .next (if !s.guard then s.occupy 16
    else
      match s.me.vregFault r with
      | some (k, d) => s.fault k d
      | none =>
        s.withHandle h true s.str.cu fun s =>
          if regSourceBad (convOf f) (hFmt h) esz then s.fault .format 0
          else if hEmpty h then s.occupy 16
          else
            (s.begin (.stV hd f) 0 16 h s.str.cu [r, rows, cols, esz] (s.getFile s.cur.1 .v (4096 * r) 4096)).pieceWith storeStep)

/-- `ST.T`: tile columns become rows of the tile walk (R197). -/
def execStT (hd : Hdr) (f : Mem) (s : State) : Result :=
  let h := s.memHandle f
  let n := (f.imm.extractLsb' 6 6).toNat + 1
  let r := s.reg .T f.rd
  .next (if !s.guard then s.occupy n
    else
      s.withHandle h true s.str.cu fun s =>
        if regSourceBad (convOf f) (hFmt h) 4 then s.fault .format 0
        else if hEmpty h then s.occupy n
        else
          (s.begin (.stT hd f) 0 n h s.str.cu [r, (f.imm.extractLsb' 0 6).toNat]
            (s.getFile s.cur.1 .t (16384 * r) 16384)).pieceWith storeStep)

/-! ## Scatter -/

/-- One piece of `ST.S` (R195, R196): the index entry is in `buf`. -/
def scatterStep (a : Act) (s : State) : State :=
  match a.ins with
  | .stS _ f =>
    s.pop (a.aux.getD 0 0) fun e s =>
      if !s.guard || hEmpty a.hnd then s
      else
        let cap := storeCap (convOf f) (hFmt a.hnd)
        match s.gatherElems a.hnd a.cu cap (f.imm.toNat % 256 + 1) a.j (f.fn.getLsbD 2) (indexAt f (entryOf a.buf)) with
        | none => s.pieceFault none .handle 0 0 a.cu
        | some (.error (k, d, p, i)) => s.pieceFault none k d p i
        | some (.ok els) =>
          let w := convPiece (convOf f) (hFmt a.hnd) (els.map fun x => (x.slot, x.idx)) e.toNat
          let s := s.writeOwn a.ins a.hnd a.j a.cu els (writeParts (hFmt a.hnd) els w.code w.scale) none
          if s.alive then (s.observeAll a.hnd w 0 (a.start + a.n)).setFlags (a.start + a.n) w.allFlags else s
  | _ => s

/-- `ST.S` (R195, R196): the higher slot stands where two reach one byte. -/
def execStS (hd : Hdr) (f : Mem) (s : State) : Result :=
  let h := s.memHandle f
  let n := gatherPieces (f.imm.toNat % 256 + 1) (storeCap (convOf f) (hFmt h)) (f.fn.getLsbD 2)
  .next (s.pop (s.reg .Q f.rx) fun e s =>
    let s := s.begin (.stS hd f) 0 n h s.str.cu [s.reg .Q f.rd] (entryBytes e)
    if !s.guard then s.pieceWith scatterStep
    else s.withHandle h true s.str.cu fun s => if 5 ≤ hFmt h then s.fault .format 0 else s.pieceWith scatterStep)

/-! ## Quantising stores -/

/-- Goes on with the tensor scale exponent of a quantising instruction on a handle's record (R116, R117), after the stale
comparison of R118; QMODE 3 is a format fault, and QMODE 1 without a record is record fault 2. -/
def State.withScale (s : State) (h : Handle) (qmode : Nat) (qexp : Int) (xseal : BitVec 8) (stale : Bool)
    (k : Int → State → State) : State :=
  if qmode = 3 then s.fault .format 0
  else if qmode = 1 then
    if !hSrv h then s.fault .record 2
    else
      match s.record (hSrec h) with
      | none => s.fault .record 1
      | some r => k (quantScale 1 qexp (hFmt h) r.smax) (s.stale (hSrec h) r.nseal xseal stale)
  else k (quantScale qmode qexp (hFmt h) 0) s

/-- One piece of `ST.QNT` (R199); the tensor scale exponent plus 1024 is in `aux`. -/
def stqntStep (a : Act) (s : State) : State :=
  let cu := s.str.cu
  s.pop (a.aux.getD 0 0) fun e s =>
    if !s.guard || hEmpty a.hnd then s
    else if !walkOk a.hnd cu then s.pieceFault none .handle 0 0 cu
    else
      let (els, cu') := pieceWalk a.hnd 64 cu
      let t : Int := (a.aux.getD 1 0 : Int) - 1024
      (s.writePiece a.ins a.hnd a.j cu (quantPiece 2 (hFmt a.hnd) t els fun i => e.extractLsb' (32 * i) 32)
        (a.start + a.n)).moveCursors cu'

/-- `ST.QNT` (R199). -/
def execStQnt (hd : Hdr) (f : Mem) (s : State) : Result :=
  let h := s.memHandle f
  let n := (f.imm.extractLsb' 9 4).toNat + 1
  let go := fun (t : Int) (s : State) =>
    (s.begin (.stQnt hd f) 0 n h s.str.cu [s.reg .Q f.rd, (t + 1024).toNat] []).pieceWith stqntStep
  .next (if !s.guard then go 0 s
    else
      s.withHandle h true s.str.cu fun s =>
        if hFmt h = 6 then s.fault .format 0
        else s.withScale h (f.fn.toNat % 4) (f.imm.extractLsb' 0 9).toInt (hXseal h) (f.fn.getLsbD 2) go)

/-! ## The update stage -/

/-- One slot of the optimiser step (R200): new weight, new moment and flags. -/
def updSlot (upda updb : Word) (nomom : Bool) (g w m : BitVec 32) : BitVec 32 × BitVec 32 × Flags :=
  let lo := fun x : Word => x.truncate 32
  let hi := fun x : Word => x.extractLsb' 32 32
  let gs := fmul g (lo updb)
  let lw := fmul (lo upda) w
  let gt := fadd gs.1 lw.1
  let mm := fmul (hi updb) m
  let sm := fadd mm.1 gt.1
  let m1 := if nomom then gt.1 else sm.1
  let em := fmul (hi upda) m1
  let w1 := fadd w (em.1 ^^^ 0x80000000)
  (w1.1, m1, gs.2 ||| lw.2 ||| gt.2 ||| (if nomom then 0 else mm.2 ||| sm.2) ||| em.2 ||| w1.2)

/-- A piece of updated values written through an FP32 or BF16 handle (R200). -/
def updPiece (fmt : Nat) (els : List (Nat × List Nat)) (x : Nat → BitVec 32) : Written :=
  { slots := els, code := fun s => (convOne 1 fmt (x s)).1.toNat, scale := fun _ => 0, seen := fun s => some (val32 (x s))
    flags := fun s => (convOne 1 fmt (x s)).2, quantising := false }

/-- One piece of `ST.UPD` (R200): pops gradient, weight and moment, in this order; weights are written before moments. -/
def stupdStep (a : Act) (s : State) : State :=
  match a.ins with
  | .stUpd _ f =>
    let nomom := f.fn.getLsbD 0
    let hm : Handle := BitVec.ofNat 256 (leNat a.buf)
    let qw := a.aux.getD 1 0
    let run := fun (g w m : Entry) (s : State) =>
      if !s.guard || hEmpty a.hnd then s
      else
        let cu := s.str.cu
        let (els, cu') := pieceWalk a.hnd 64 cu
        let ua : Word := BitVec.ofNat 64 (a.aux.getD 2 0)
        let ub : Word := BitVec.ofNat 64 (a.aux.getD 3 0)
        let r := fun i : Nat => updSlot ua ub nomom (g.extractLsb' (32 * i) 32) (w.extractLsb' (32 * i) 32) (m.extractLsb' (32 * i) 32)
        let fl := els.foldl (fun (x : Flags) e => x ||| (r e.1).2.2) 0
        let rep := a.start + a.n
        let s := s.writePiece a.ins a.hnd a.j cu (updPiece (hFmt a.hnd) els fun i => (r i).1) rep
        let s := if nomom || !s.alive then s
          else s.writePiece a.ins hm a.j cu (updPiece (hFmt hm) els fun i => (r i).2.1) rep
        if s.alive then (s.setFlags rep fl).moveCursors cu' else s
    s.pop (a.aux.getD 0 0) fun g s =>
      s.pop qw fun w s => if nomom then run g w 0 s else s.pop qw fun m s => run g w m s
  | _ => s

/-- `ST.UPD` (R200). -/
def execStUpd (hd : Hdr) (f : Mem) (s : State) : Result :=
  let h := s.memHandle f
  let hm := Map.get s.me.h (f.hnd.toNat + 1)
  let nomom := f.fn.getLsbD 0
  let n := f.imm.toNat % 128 + 1
  let bad := fun x : Handle => hFmt x != 0 && hFmt x != 1
  let go := fun s : State =>
    (s.begin (.stUpd hd f) 0 n h s.str.cu [s.reg .Q f.rd, s.reg .Q f.rx, s.me.upda.toNat, s.me.updb.toNat]
      (leBytes 32 hm.toNat)).pieceWith stupdStep
  .next (if !s.guard then go s
    else
      s.withHandle h true s.str.cu fun s =>
        if nomom then if bad h then s.fault .format 0 else go s
        else
          s.withHandle hm true s.str.cu fun s =>
            if (List.range 4).any fun d => hExt h d != hExt hm d then s.fault .handle 0
            else if bad h || bad hm then s.fault .format 0
            else go s)

end Sys2Proof.Machine
end

