-- ==== Sys2Proof/Machine/Common.lean ====
section
/-! DEFINITION. Common instructions: waiting, joining points, fences, cursors, traps, record instructions and power leases
(spec/12_isa_common.md R269 to R282, R290 to R292). A joining point's effect on the cohort stands in Timetable.lean, where all
streams of its tc meet. -/

namespace Sys2Proof.Machine

/-- `NOP` (R271). -/
def execNop (_ : Hdr) (_ : Sys) (s : State) : Result := .next s

/-- The count of `WAIT.CY`: the immediate, or a launch constant (R269, R271). -/
def waitCount (x : Stream) (f : Sys) : Nat :=
  if f.fn = 0 then f.imm.toNat else (Map.get x.lk (f.imm.toNat % 16)).toNat

/-- `WAIT.CY`: an occupancy of max(n, 1), whatever its guard; a supervisor core, which keeps no timetable, is busy for as many clocks (R271, R329).
-/
def execWaitCy (_ : Hdr) (f : Sys) (s : State) : Result := .next (s.occupy (waitCount s.str f))

/-- The target of a `WAIT.TIME` that core `c` issues at tc `t` as `w`: RA, after rotation, as it stood at T − H (R45, R272). -/
def State.waitTarget (s : State) (c : Nat) (w : Issue) (f : Sys) (t : Nat) : Word :=
  (s.core c).sAt (regNum w .S f.ra) (t - (s.slot (s.core c).slot).horizon) + f.imm.signExtend 64

/-- `WAIT.TIME`: its work is the hold before its tc (R272); the target that C waited for stamps the stores of its core
(R313). -/
def execWaitTime (_ : Hdr) (f : Sys) (s : State) : Result :=
  let g := s.waitTarget s.cur.1 s.str.now f s.tc
  .next (if s.guard && s.sid = .C then s.modStr fun x => { x with stamp := some g } else s)

/-- Issues a joining point (R32). -/
def State.joinAt (s : State) (op arg : Nat) : State := s.modStr fun x => { x with join := some ⟨op, arg⟩ }

/-- `RDV` (R273). -/
def execRdv (_ : Hdr) (_ : Sys) (s : State) : Result := .next (s.joinAt 0xE3 0)

/-- `RDV.end` (R22, R273). -/
def execRdvEnd (_ : Hdr) (_ : Sys) (s : State) : Result := .next (s.joinAt 0xE3 1)

/-- `PHASE` (R126, R276). -/
def execPhase (_ : Hdr) (f : Sys) (s : State) : Result := .next (s.joinAt 0xE4 f.scope.toNat)

/-- `BAR` (R274). -/
def execBar (_ : Hdr) (f : Sys) (s : State) : Result := .next (s.joinAt 0xE6 f.scope.toNat)

/-- `CURTAIN` (R278). -/
def execCurtain (_ : Hdr) (f : Sys) (s : State) : Result := .next (s.joinAt 0xE7 f.imm.toNat)

/-- `FENCE`: accesses of the stream issued later wait for those issued before (R131, R277). A supervisor core's accesses are
done when they issue. -/
def execFence (_ : Hdr) (_ : Sys) (s : State) : Result :=
  .next (if s.guard then s.modStr fun x => { x with fences := x.fences + 1 } else s)

/-- `YIELD` (R279): the mark stands from its issue tc on. -/
def execYield (_ : Hdr) (_ : Sys) (s : State) : Result :=
  .next (if s.guard then s.modMy fun x => { x with ymark := some (x.ymark.getD x.tc) } else s)

/-! ## Cursors and traps -/

/-- The four cursors as one word, and back (R282). -/
def cursorWord (cu : List Nat) : Word :=
  BitVec.ofNat 64 (cu.getD 0 0 + cu.getD 1 0 * 2 ^ 16 + cu.getD 2 0 * 2 ^ 32 + cu.getD 3 0 * 2 ^ 48)

/-- The cursors in a word (R282). -/
def wordCursors (w : Word) : List Nat := (List.range 4).map fun d => (w.extractLsb' (16 * d) 16).toNat

/-- `CUR.SET` from a popped entry, or of one cursor (R282). -/
def execCurSet (_ : Hdr) (f : Sys) (s : State) : Result :=
  .next (if f.fn = 0 then
      s.pop (s.reg .Q f.ra) fun e s =>
        if s.guard then s.land (s.tc + 1) (.cursors s.cur.2 (wordCursors (entryWord e))) else s
    else if s.guard then
      s.land (s.tc + 1) (.cursors s.cur.2 (setAt s.str.cu (f.imm.extractLsb' 16 2).toNat (f.imm.toNat % 65536)))
    else s)

/-- `CUR.GET.cur` (R282). -/
def execCurGetCur (_ : Hdr) (f : Sys) (s : State) : Result :=
  .next (s.push (s.reg .Q f.ra) (if s.guard then wordEntry (cursorWord s.str.cu) else 0) (s.tc + 1))

/-- `CUR.GET.trap`: a word of the delivered-trap register (R281). -/
def execCurGetTrap (_ : Hdr) (f : Sys) (s : State) : Result := .next (s.deliver f.ra (s.str.dtrap.getD (f.imm.toNat % 8) 0))

/-- `TRAP`: a second one while the stream's own is pending only sets DROP (R280). -/
def execTrap (_ : Hdr) (f : Sys) (s : State) : Result :=
  let mine := fun t : Trap => t.code == 4 && t.core == s.cur.1 && t.stream == s.cur.2
  .next (if !s.guard then s
    else if s.my.traps.any mine then
      s.modMy fun x => { x with traps := x.traps.map fun t => if mine t then { t with drop := true } else t }
    else s.addTrap (s.trapRec 4 f.imm.toNat (BitVec.allOnes 64) s.tc))

/-! ## Records -/

/-- Schedules a seal or clear of the record that a word names (R114, R290). -/
def State.schedule (s : State) (f : Sys) (isClear all : Bool) : State :=
  let h := s.rh f.ra
  let hf := f.fn.getLsbD 0
  let idx := if hf then hSrec h else f.imm.toNat % 4096
  if !s.guard then s
  else if hf && (h.getLsbD 255 || h.extractLsb' 196 4 != 0) then s.fault .handle 0
  else if hf && !hSrv h then s.fault .record 4
  else if (s.record idx).isNone then s.fault .record 1
  else if 4 ≤ s.str.seals.length then s.fault .record 3
  else s.modStr fun x => { x with seals := x.seals ++ [⟨isClear, all, f.scope.toNat, idx⟩] }

/-- `STAT.SEAL` (R113, R114, R290). -/
def execStatSeal (_ : Hdr) (f : Sys) (s : State) : Result := .next (s.schedule f false false)

/-- `STAT.CLR` (R290). -/
def execStatClr (_ : Hdr) (f : Sys) (s : State) : Result := .next (s.schedule f true (f.fn.getLsbD 1))

/-- `STAT.RD`: the composite image of its issue tc arrives as a phased reply does (R135, R291). -/
def execStatRd (h : Hdr) (f : Sys) (s : State) : Result :=
  let idx := f.imm.toNat % 4096
  let arr := s.arrival (f.imm.extractLsb' 17 2).toNat
  .next (if !s.guard then (if s.sid = .C then s else s.reserveZero (s.reg .Q f.ra) (arr + s.my.horizon))
    else
      match s.record idx with
      | none => s.fault .record 1
      | some r =>
        let (id, s) := s.newId
        let x := s.me
        let a : Access := ⟨id, x.slot, s.cur.1, x.rank, s.cur.2, .read, .statRd h f, s.str.now, s.tc, arr, 0, 0, s.str.cu,
          [s.reg .S f.ra], [(0, s.my.recImage r s.cur.1 (s.my.writeTc s.tc))], [], s.my.npod, s.str.fences, .sent, none, [], s.my.stubOf⟩
        let s := { s with outs := s.outs ++ [a] }
        let s := if s.sid = .C then s else s.reserve (s.reg .Q f.ra) (arr + s.my.horizon) id
        s.later (.phasedReplyArrival id))

/-! ## Power leases -/

/-- INF: the level in force (R353), clamped by a die in the throttle zone (R401). -/
def State.levelInForce (s : State) (n : Nat) : Nat :=
  let x := s.slot n
  let base := min (match x.lease with
    | some l => l.level
    | none => x.decl) x.ceil
  ((x.members.map dieOf).eraseDups).foldl
    (fun v d =>
      let t := Tbl.get Thermal.reset s.plat.temps d
      if 2 ≤ t.zone then min v t.tcl else v) base

/-- Tag of the platform cause of a frequency change (R353). -/
def tagFreq : Nat := 1

/-- Package clocks that a frequency change takes: 20 µs at 1750 clocks each µs (R396). -/
def freqClocks : Nat := 35000

/-- The frequency of a power level from 0 to 15, 1200 + 50v MHz, in the FLL's steps of 25 MHz, of which it has 32 to 78 (R1, R353, R396). -/
def levelFreq (v : Nat) : Nat := 48 + 2 * min v 15

/-- The lowest frequency of the FLL, 800 MHz (R396). -/
def lowFreq : Nat := 32

/-- The frequency of a quad in steps of 25 MHz (R396): its cohort's, or its own. -/
def State.quadFreq (s : State) (q : Nat) : Nat :=
  match s.quadHolder q with
  | some n => (s.slot n).freq
  | none => Tbl.get lowFreq s.plat.freqs q

/-- The frequency that the level in force of a slot calls for. -/
def State.freqWanted (s : State) (n : Nat) : Nat := levelFreq (s.levelInForce n)

/-- The frequency of a cohort's quads follows its level in force (R353, R396): under a platform hold once it is LOADED, and before that as its
quads are given to it. -/
def State.retune (s : State) (n : Nat) : State :=
  let x := s.slot n
  if !x.live && x.st != 1 then s.modSlot n fun y => { y with freq := s.freqWanted n, tuning := none }
  else if x.freq = s.freqWanted n || x.reqs.any fun r => r.cause == .platform tagFreq && r.cleared.isNone then s
  else (s.platformHold n tagFreq).inClocks 0 (.frequencyChangeDone n tagFreq)

/-- `PWR.ACQ`: its hold has ended with the grant, frequency change included; RA receives the granted level, and the lease
expires in wall time (R292). -/
def execPwrAcq (_ : Hdr) (f : Sys) (s : State) : Result :=
  let us := f.imm.toNat / 256
  let lv := min (f.imm.toNat % 16) s.my.ceil
  let ex := s.ns + 1000 * us
  .next ((((s.modMy fun x => { x with lease := some ⟨lv, ex⟩, acqs := x.acqs.filter fun e => s.tc < e.1 }).retune s.me.slot).inClocks
    (1750 * us) (.leaseExpiry s.me.slot ex)).landS f.ra (s.tc + 1) (BitVec.ofNat 64 lv))

/-- `PWR.REL` (R292). -/
def execPwrRel (_ : Hdr) (_ : Sys) (s : State) : Result :=
  .next (if s.my.lease.isSome then
      (s.modMy fun x => { x with lease := none }).retune s.me.slot
    else s)

end Sys2Proof.Machine
end

