-- ==== Sys2Proof/Machine/Waits.lean ====
section
/-! DEFINITION. The wait conditions of words that may hold their cohort at their issue tc (spec/02_timetable.md R35), and what such a
word sets going when the cohort reaches that tc. -/

namespace Sys2Proof.Machine

/-- The data of queue entry `e` is still outstanding (R49); an access that has ended in a fatal fault, and a load that a pending fatal
fault cut off, bring none. -/
def State.outstanding (s : State) (n : Nat) (e : QEntry) : Bool :=
  match e.wait with
  | none => false
  | some id =>
    match s.outs.find? fun a => a.id == id with
    | some a => a.st != .failed
    | none => (s.slot n).fatal.isNone

/-- A phased reply of the cohort due by tc `t` has not landed, or a queue entry is outstanding (R49). -/
def State.unsettled (s : State) (n t : Nat) : Bool :=
  s.outs.any (fun a => a.slot == n && a.kind != .store && a.coll.isNone && a.arr ≤ t && a.st != .failed) ||
    (s.slot n).members.any fun c => (s.core c).queues.any fun q => q.2.any fun e => s.outstanding n e

/-! ## Joins of a package set -/

/-- The word joins the packages of its set (R275): kind of point, 0 where it does not. -/
def joinKind (i : Instr) : Nat :=
  match i with
  | .rdv _ _ => 1
  | .rdvEnd _ _ => 2
  | .phase _ f => if f.scope = 5 then 3 else 0
  | .bar _ f => if f.scope = 5 then 4 else 0
  | _ => 0

/-- The kind of the message by which a package tells that the stores it published at a `PHASE.pod` are performed (R275;
notes/assumptions/61.md). -/
def storesKind : Nat := 7

/-- The join messages of a sequence number that tell a kind of point, or with `stores` that stores are performed. -/
def Slot.joinsOf (x : Slot) (seq : Nat) (stores : Bool) : List (Nat × Nat × Nat) :=
  x.joinMsgs.filter fun m => m.2.1 == seq && (m.2.2 == storesKind) == stores

/-- Some package has joined another kind of point under a sequence number (R275). -/
def Slot.joinsWrong (x : Slot) (seq kind : Nat) : Bool := (x.joinsOf seq false).any fun m => m.2.2 != kind

/-- The join of a kind waits for messages of other packages of the set (R275). One of another kind ends the wait, in a deviation. -/
def Slot.joinsMissing (x : Slot) (seq kind : Nat) (stores : Bool) : Bool :=
  !x.joinsWrong seq kind && ((x.joinsOf seq stores).map (·.1)).eraseDups.length < x.npkg - 1

/-- A phased store of the cohort that a boundary at tc `t` publishes is not performed (R275). -/
def State.storesOut (s : State) (n t : Nat) : Bool :=
  s.outs.any fun a => a.slot == n && a.kind == .store && a.coll.isNone && a.tc < t

/-! ## Wait conditions -/

/-- The object that `BOBJ.WAIT`, `BOBJ.ARM` and `ST.MC` name (R181). -/
def bobjNum (f : Mem) : Nat := f.imm.toNat % 16

/-- A fatal fault of the C stream of core `c` may still retract what it issues at tc `t` (R366): a read of it that was due by then has not
come, or a store or atomic of it that it issued before waits for its translation. -/
def State.doubt (s : State) (n c t : Nat) : Bool :=
  s.outs.any fun a => a.slot == n && a.core == c && a.stream == 0 && a.coll.isNone && a.stub == (s.slot n).stubOf &&
    if a.kind = .read then a.arr ≤ t && a.st != .failed && a.st != .lost
    else a.tc ≤ t && match a.st with
      | .walk | .faulted _ => true
      | _ => false

/-- Whether a word of core `c` that issues at tc `t` as `w` could not issue as the state stands (R35, row 2 and its kinds). `asleep` answers
for the vector banks that the word names (R218), and `seq` is its sequence number if it joins packages (R275). -/
def State.waits (s : State) (asleep : Bool) (c t seq : Nat) (w : Issue) (i : Instr) : Bool :=
  let n := (s.core c).slot
  let x := s.slot n
  let grp := fun (f : Sys) (k : Nat → Nat → Bool) =>
    match x.grpOf.find? fun e => e.1 == f.imm.toNat % 16 with
    | some e => (s.group e.2).st != 4 && k e.1 e.2
    | none => false
  let stuck := s.plat.frozen.contains parityMaster
  let kind := joinKind i
  let join := kind != 0 && 1 < x.npkg && x.joinsMissing seq kind false
  asleep ||
    match i with
    | .waitTime _ f => s.ns < (s.waitTarget c w f t).toNat
    | .pwrAcq _ _ => !x.acqs.any fun e => e.1 == t && e.2.2
    | .bobjWait _ f => ((s.core c).obj (bobjNum f)).st == .armed
    | .collWait _ f => x.colls.any fun k => k.id == f.imm.toNat % 4 && k.result.isNone && k.fault.isNone
    | .rndOpen _ f => grp f fun gs g => (x.round gs).st == .idle && (s.group g).st != 1
    | .rndPrep _ f => grp f fun gs g =>
      (x.round gs).st == .opened && !(x.round gs).doomed && (stuck || !(s.group g).deltas.isEmpty || s.roundPending n gs || s.doubt n c t)
    | .rndCommit _ f => grp f fun gs _ => (x.round gs).st == .prepared && (stuck || (x.round gs).settled.isNone || s.roundPending n gs || s.doubt n c t)
    | .rndAbort _ f => grp f fun gs g =>
      (x.round gs).st != .idle && (x.round gs).settled != some true &&
        (stuck || s.doubt n c t || s.roundPending n gs || !((s.group g).liveParity.all fun j => (s.group g).acks.contains j))
    | .curtain _ _ => s.unsettled n t
    | .rdvEnd _ _ => s.outs.any (fun a => a.slot == n) || join
    | .phase _ _ => join || (kind != 0 && 1 < x.npkg && !x.joinsWrong seq kind && (s.storesOut n t || x.joinsMissing seq kind true))
    | .rdv _ _ | .bar _ _ => join
    | _ => false

/-! ## Words of a tc -/

/-- What a waiting word sets going when the cohort reaches its tc: the doom of a round for `RND.ABORT`, and the decision or the
restoration of a round for `RND.COMMIT` of core `c`, which is DECIDING from then on (R287, R373). Neither is set going while a fault of the
stream may still retract the word (R366), or while the parity engine is frozen (R390). -/
def State.stir (s : State) (n c : Nat) (i : Instr) : State :=
  match i with
  | .rndAbort _ f =>
    match (s.slot n).grpOf.find? fun e => e.1 == f.imm.toNat % 16 with
    | none => s
    | some e =>
      let r := (s.slot n).round e.1
      if r.st = .idle || r.settled.isSome || (s.group e.2).st = 4 || s.doubt n c (s.slot n).tc || s.plat.frozen.contains parityMaster then s else s.abandon e.2
  | .rndCommit _ f =>
    match (s.slot n).grpOf.find? fun e => e.1 == roundSlot f with
    | none => s
    | some e =>
      if ((s.slot n).round e.1).st != .prepared || (s.group e.2).rst != 2 || s.doubt n c (s.slot n).tc || s.plat.frozen.contains parityMaster then s
      else
        let s := (s.modRound n e.1 fun r => { r with committer := c }).modGroup e.2 fun x => { x with rst := 3 }
        (s.coordinate e.2).undoRound e.2
  | _ => s

end Sys2Proof.Machine
end

