-- ==== Sys2Proof/Machine/Exchange.lean ====
section
/-! DEFINITION. Timed transfers between cores, multicasts, atomics and barrier objects (spec/09_isa_load_store.md R201 to R210). -/

namespace Sys2Proof.Machine

/-! ## The mesh -/

/-- Mesh coordinates of a core (R201). -/
def meshXY (c : Nat) : Nat × Nat :=
  let d := c / 96
  let l := c % 96 / 4
  let k := c % 4
  (12 * (d % 4) + 2 * (l % 6) + k % 2, 8 * (d / 4) + 2 * (l / 6) + k / 2)

/-- The number of a directed link: where it starts, and 0 to 3 for rising and falling X, rising and falling Y. -/
def linkNum (x y dir : Nat) : Nat := (y * 48 + x) * 4 + dir

/-- The number of a quad's broadcast bus (R203). -/
def busNum (q : Nat) : Nat := 4096 + q

/-- Links of a route with the cost before each, and the cost of the whole (R201): first along X, then along Y, 2 tc a hop and 10
across a die bridge. `fuel` bounds the hops. -/
def routeFrom : Nat → Nat × Nat → Nat × Nat → Nat → List (Nat × Nat) × Nat
  | 0, _, _, t => ([], t)
  | fuel + 1, (x, y), (u, v), t =>
    if x = u && y = v then ([], t)
    else
      let (x', y', dir) := if x < u then (x + 1, y, 0) else if u < x then (x - 1, y, 1) else if y < v then (x, y + 1, 2) else (x, y - 1, 3)
      let cost := if dir < 2 then (if max x x' % 12 = 0 then 10 else 2) else if max y y' = 8 then 10 else 2
      let r := routeFrom fuel (x', y') (u, v) (t + cost)
      ((linkNum x y dir, t) :: r.1, r.2)

/-- The route between two cores; a quad stands at its local core 0 (R201). -/
def route (a b : Nat) : List (Nat × Nat) × Nat := routeFrom 64 (meshXY a) (meshXY b) 0

/-- The core at whose coordinates a timed destination sits (R201). -/
def destCore (p : Word) : Nat := if ptrTag p = 9 then ptrNum p else 4 * ptrNum p

/-- Occupies links on given tc (R31). -/
def State.useLinks (s : State) (ls : List (Nat × Nat)) : State :=
  let use := fun (m : List (Nat × Nat × Nat × Nat × Nat)) (l : Nat × Nat) =>
    let e := (l.2, l.1, s.me.rank, s.cur.2, s.str.now.tc)
    if m.contains e then m else m ++ [e]
  s.modMy fun x => { x with links := ls.foldl use x.links }

/-- Sends the ranges of a piece to a timed destination on another core: it leaves at I + j + 4 and lands with its last hop's cost
plus 4 (R201). `offer` names barrier objects (R207). -/
def State.sendTimed (s : State) (ps : List (Word × List Byte)) (offer : Option Nat) : State :=
  match ps with
  | [] => s
  | (p, _) :: _ =>
    let (hops, cost) := route s.cur.1 (destCore p)
    let d := s.tc + 4
    let t := d + cost + 4
    let s := s.useLinks (hops.map fun h => (h.1, d + h.2))
    ps.foldl
      (fun s (e : Word × List Byte) =>
        let s := s.timedWrite e.1 e.2 t
        match offer with
        | some o => s.land t (.bobj o e.1 e.2.length s.str.now.pc s.str.now.word)
        | none => s) s

/-! ## Exchange stores -/

/-- One piece of `ST.X` (R202). -/
def stxStep (a : Act) (s : State) : State :=
  match a.ins with
  | .stX _ f =>
    s.pop (a.aux.getD 0 0) fun e s =>
      if !s.guard || hEmpty a.hnd then s
      else
        let cu := s.str.cu
        if !walkOk a.hnd cu then s.pieceFault none .handle 0 0 cu
        else
          let (els, cu') := pieceWalk a.hnd (storeCap (convOf f) (hFmt a.hnd)) cu
          let w := convPiece (convOf f) (hFmt a.hnd) els e.toNat
          match s.resolve a.hnd (fun p => ptrTag p == 9 || ptrTag p == 10) true els with
          | .error (k, d, p, i) => s.pieceFault none k d p i
          | .ok es =>
            let s := s.sendTimed (writeParts (hFmt a.hnd) es w.code w.scale) none
            ((s.observeAll a.hnd w 0 (a.start + a.n)).setFlags (a.start + a.n) w.allFlags).moveCursors cu'
  | _ => s

/-- `ST.X` (R202). -/
def execStX (hd : Hdr) (f : Mem) (s : State) : Result :=
  let h := s.memHandle f
  let n := f.imm.toNat % 128 + 1
  let go := fun s : State => (s.begin (.stX hd f) 0 n h s.str.cu [s.reg .Q f.rd] []).pieceWith stxStep
  .next (if !s.guard then go s
    else s.withHandle h true s.str.cu fun s => if convBad (convOf f) (hFmt h) then s.fault .format 0 else go s)

/-- One piece of `LD.BC` (R203): it lands in every target on I + j + 24 and takes the bus on I + j + 20. -/
def ldbcStep (a : Act) (s : State) : State :=
  match a.ins with
  | .ldBc _ f =>
    let cu := s.str.cu
    if !walkOk a.hnd cu then s.pieceFault none .handle 0 0 cu
    else
      let (els, cu') := pieceWalk a.hnd (entryCap (hFmt a.hnd) (f.fn.getLsbD 4)) cu
      match s.resolve a.hnd (fun p => ptrTag p == 10) false els with
      | .error (k, d, p, i) => if k == .foreign then s.pieceFault none .pointer 0 p i else s.pieceFault none k d p i
      | .ok es =>
        let xs := s.readTimed es
        let e : Entry := BitVec.ofNat 2048 (packLoad (f.fn.getLsbD 4) a.hnd xs).1
        let s := s.useLinks [(busNum (quadOf s.cur.1), s.tc + 20)]
        let cs := s.bcCores f
        let s := ((List.range cs.length).zip cs).foldl (fun s (c : Nat × Nat) => s.fill c.2 (a.id + c.1 * a.n + a.j) e) s
        (s.loadFlags a.ins a.hnd (a.start + a.n) xs).moveCursors cu'
  | _ => s

/-- Reserves the entries of `LD.BC` in every target at its issue, as that core's L stream would (R203). -/
def State.reserveBc (s : State) (f : Mem) (n : Nat) (live : Bool) : Nat × State :=
  let cs := s.bcCores f
  let q := s.reg .Q f.rd
  let (id, s) := s.newIds (n * cs.length)
  (id, ((List.range cs.length).zip cs).foldl
    (fun s (c : Nat × Nat) => (List.range n).foldl
      (fun s j => s.pushTo c.2 1 q ⟨0, s.tc + j + 24, false, if live then some (id + c.1 * n + j) else none, s.cur⟩) s) s)

/-- `LD.BC` (R203). -/
def execLdBc (hd : Hdr) (f : Mem) (s : State) : Result :=
  let h := s.memHandle f
  let n := f.imm.toNat % 128 + 1
  .next (if !s.guard then (s.reserveBc f n false).2.occupy n
    else
      s.withHandle h false s.str.cu fun s =>
        if hFmt h = 6 && f.fn.getLsbD 4 then s.fault .format 0
        else
          let (id, s) := s.reserveBc f n (!hEmpty h)
          if hEmpty h then s.occupy n else (s.begin (.ldBc hd f) id n h s.str.cu [] []).pieceWith ldbcStep)

/-! ## Multicast -/

/-- SET of `ST.MC` (R181). -/
def setOf (f : Mem) : Nat := f.fn.toNat / 4

/-- Replaces the number field of a pointer (R82). -/
def withNum (p : Word) (n : Nat) : Word :=
  match ptrTag p with
  | 9 => (p &&& ~~~(0x0FFC000000000000 : Word)) ||| BitVec.ofNat 64 (n * 2 ^ 50)
  | 10 => (p &&& ~~~(0x0FF0000000000000 : Word)) ||| BitVec.ofNat 64 (n * 2 ^ 52)
  | 11 => (p &&& ~~~(0x0E00000000000000 : Word)) ||| BitVec.ofNat 64 (n * 2 ^ 57)
  | _ => p

/-- The destinations of a multicast set (R204), by core, quad or die number. -/
def State.mcNums (s : State) (set tag own : Nat) : List Nat :=
  let ms := s.my.members
  let c := s.cur.1
  let scope := fun (num : Nat → Nat) (sel : Nat → Bool) => ((ms.filter sel).map num).eraseDups
  let sel := fun (k : Nat) => fun m : Nat => if k = 2 then quadOf m == quadOf c else if k = 3 then dieOf m == dieOf c else true
  if set = 1 then [own]
  else
    match tag with
    | 9 => if set = 2 then (List.range 4).map fun k => 4 * quadOf c + k else scope id (sel set)
    | 10 => if set = 2 then [quadOf c] else scope quadOf (sel set)
    | _ => if set = 4 then scope dieOf (sel 4) else [dieOf c]

/-- One piece of `ST.MC` (R204): each element is one record update, every copy is written, and with OBV offered to an object. -/
def stmcStep (a : Act) (s : State) : State :=
  match a.ins with
  | .stMc _ f =>
    s.pop (a.aux.getD 0 0) fun e s =>
      if !s.guard || hEmpty a.hnd then s
      else
        let cu := s.str.cu
        if !walkOk a.hnd cu then s.pieceFault none .handle 0 0 cu
        else
          let (els, cu') := pieceWalk a.hnd (storeCap (convOf f) (hFmt a.hnd)) cu
          let w := convPiece (convOf f) (hFmt a.hnd) els e.toNat
          let base := hBase a.hnd
          let offer := if f.imm.getLsbD 4 then some (f.imm.toNat % 16) else none
          let spaceOk := fun p : Word => ptrTag p != 8 && (ptrTag p != 0 || setOf f == 1)
          let nums := s.mcNums (setOf f) (ptrTag base) (ptrNum base)
          let copies := nums.map fun n =>
            let h : Handle := (a.hnd &&& ~~~(0xFFFFFFFFFFFFFFFF : Handle)) ||| (withNum base n).zeroExtend 256
            (h, s.resolve h spaceOk true els)
          match copies.findSome? fun c => match c.2 with
            | .error x => some x
            | .ok _ => none with
          | some (k, d, p, i) => s.pieceFault none k d p i
          | none =>
            let s := copies.foldl
              (fun s (c : Handle × Except (FaultKind × Nat × Word × List Nat) (List Elem)) =>
                match c.2 with
                | .error _ => s
                | .ok es =>
                  if !s.alive then s
                  else
                    let ps := writeParts (hFmt a.hnd) es w.code w.scale
                    if timedTag (ptrTag base) then s.sendTimed ps offer else s.writeOwn a.ins c.1 a.j cu es ps offer) s
            if s.alive then
              ((s.observeAll a.hnd w 0 (a.start + a.n)).setFlags (a.start + a.n) w.allFlags).moveCursors cu'
            else s
  | _ => s

/-- `ST.MC` (R204). -/
def execStMc (hd : Hdr) (f : Mem) (s : State) : Result :=
  let h := s.memHandle f
  let n := (f.imm.extractLsb' 5 7).toNat + 1
  let go := fun s : State => (s.begin (.stMc hd f) 0 n h s.str.cu [s.reg .Q f.rd] []).pieceWith stmcStep
  .next (if !s.guard then go s
    else s.withHandle h true s.str.cu fun s => if convBad (convOf f) (hFmt h) then s.fault .format 0 else go s)

/-! ## Atomics -/

/-- The formats that AOP accepts (R205). -/
def atomFmtOk (aop fmt : Nat) (w64 : Bool) : Bool :=
  if aop = 1 then fmt == 0 && !w64 else if aop = 9 || aop = 10 then fmt == 0 || fmt == 2 else fmt == 2

/-- The new value of an atomic on `w` bits (R205). -/
def atomNew (aop w : Nat) (old a c : Nat) : Nat :=
  let sg := fun x : Nat => if 2 ^ (w - 1) ≤ x then (x : Int) - 2 ^ w else (x : Int)
  match aop with
  | 0 => (old + a) % 2 ^ w
  | 1 => (fadd (BitVec.ofNat 32 old) (BitVec.ofNat 32 a)).1.toNat
  | 2 => if sg old ≤ sg a then old else a
  | 3 => if sg old ≤ sg a then a else old
  | 4 => min old a
  | 5 => max old a
  | 6 => old &&& a
  | 7 => old ||| a
  | 8 => old ^^^ a
  | 9 => a
  | _ => if old = c then a else old

/-- `ATOM` (R205): pops its operand and reserves the entry of its result at issue, and advances the cursors by one element. -/
def execAtom (hd : Hdr) (f : Mem) (s : State) : Result :=
  let h := s.memHandle f
  let w64 := f.fn.getLsbD 4
  let w := if w64 then 8 else 4
  let q := s.reg .Q f.rd
  let arr := s.arrival f.lcl.toNat
  .next (s.pop (s.reg .Q f.rx) fun e s =>
    if !s.guard then s.reserveZero q (arr + s.my.horizon)
    else
      s.withHandle h true s.str.cu fun s =>
        if !atomFmtOk (f.fn.toNat % 16) (hFmt h) w64 then s.fault .format 0
        else if hEmpty h then s.reserveZero q (arr + s.my.horizon)
        else
          let cu := s.str.cu
          let off : Int := (ptrOff (hBase h) : Int) + 4 * elemOff h cu
          match s.rangeCheck h (fun p => !timedTag (ptrTag p)) false off w with
          | .error (k, d, p) => s.pieceFault none k d p cu
          | .ok (p, _) =>
            if ptrOff p % w != 0 then s.pieceFault none .pointer 0 p cu
            else
              match s.my.markFault p w (s.my.writeTc s.tc) with
              | some c => s.pieceFault none .round c p cu
              | none =>
                let (id, s) := s.newId
                let s := s.reserve q (arr + s.my.horizon) id
                let a := e.toNat % 2 ^ (8 * w)
                let c := e.toNat / 2 ^ (8 * w) % 2 ^ (8 * w)
                (s.startAs id .atomic (.atom hd f) arr 0 h [a, c] [] [⟨0, cu, [(p, w)]⟩] [(p, List.replicate w 0)] none).moveCursors
                  (advance h cu 0 1))

/-! ## Barrier objects -/

/-- The covered set of a handle: the ranges of every row of elements it addresses, scale bytes included (R90, R208), as far as
they lie inside the offset field: no byte has an address outside it (R87). -/
def coverOf (h : Handle) : List (Word × Nat) :=
  if hEmpty h then []
  else
    let n := hExt h 0
    let field : Int := 2 ^ offWidth (ptrTag (hBase h))
    let clip := fun (off : Int) (len : Nat) =>
      let lo := max off 0
      let hi := min (off + len) field
      if lo < hi then (elemPtr h lo).map fun p => (p, (hi - lo).toNat) else none
    (List.range (hExt h 3)).flatMap fun k => (List.range (hExt h 2)).flatMap fun j => (List.range (hExt h 1)).flatMap fun i =>
      let lens := match hFmt h with
        | 5 => [3 * (n / 4), n / 32]
        | 6 => [n / 4]
        | f => [n * fmtSize f]
      ((elemBytes h [0, i, j, k]).zip lens).filterMap fun r => clip r.1.1 r.2

/-- Inserts a range by its first byte. -/
def insertRange : List (Word × Nat) → Word × Nat → List (Word × Nat)
  | [], r => [r]
  | x :: xs, r => if r.1.toNat ≤ x.1.toNat then r :: x :: xs else x :: insertRange xs r

/-- The number of bytes in ranges by rising first byte, each byte once, from byte `low` on. -/
def sizeFrom : Nat → List (Word × Nat) → Nat
  | _, [] => 0
  | low, (p, n) :: rs => (p.toNat + n - max low p.toNat) + sizeFrom (max low (p.toNat + n)) rs

/-- The size of a covered set in bytes (R208). -/
def coverSize (rs : List (Word × Nat)) : Nat := sizeFrom 0 (rs.foldl insertRange [])

/-- `BOBJ.ARM` (R208, R210). A handle that fails R89 or has a `BCAST` bit is reported before an object that is not IDLE
(notes/assumptions/72.md). -/
def execBobjArm (_ : Hdr) (f : Mem) (s : State) : Result :=
  let h := s.memHandle f
  let o := s.me.obj (bobjNum f)
  .next (if !s.guard then s
    else
      s.withHandle h false s.str.cu fun s =>
        if (List.range 4).any fun d => hBcast h d then s.fault .handle 0
        else if o.st != .idle then s.fault .barrier 1
        else
          let cover := coverOf h
          let total := if f.fn.getLsbD 0 then (Map.get s.str.lk (f.rx.toNat % 16)).toNat else coverSize cover
          s.land (s.tc + 1) (.bobjSet (bobjNum f) ⟨if total = 0 then .opened else .armed, total, 0, h, cover, o.uses + 1⟩))

/-- `BOBJ.WAIT` (R209, R210): its hold has ended with the object OPEN; the acquire of R133 covers every counted byte. While the object is ARMED
the word is held and does not execute (`State.waits`); on an IDLE one it is the barrier-object fault 3. -/
def execBobjWait (_ : Hdr) (f : Mem) (s : State) : Result :=
  let n := bobjNum f
  let o := s.me.obj n
  .next (if !s.guard then s
    else if o.st = .idle then s.fault .barrier 3
    else if o.st = .armed then s
    else
      (s.modMy fun x => { x with acq := x.acq ++ [⟨s.cur.1, x.writeTc x.tc, some (n, o.uses), none, o.cover⟩] }).land (s.tc + 1)
        (.bobjSet n { o with st := .idle }))

/-- `BOBJ_BYTE_COUNT`: a landed multicast range is counted by the ARMED objects that cover it (R207). -/
def execBobjByteCount (slot obj dest : Nat) (s : State) : Result :=
  let x := s.slot slot
  match x.log.find? fun w => w.offer == some obj && w.done != 0 && w.addr.toNat ≤ dest && dest < w.addr.toNat + w.data.length with
  | some w => .next (s.offer w.core w.stream 0 0 obj (BitVec.ofNat 64 dest) 1 w.done)
  | none => .next (x.members.foldl (fun s c => s.offerTo (x.members.headD 0) 4 0 0 obj (BitVec.ofNat 64 dest) 1 0 c) s)

end Sys2Proof.Machine
end

