-- ==== Sys2Proof/Machine/Images.lean ====
section
/-! DEFINITION. Program images: the header, its tables, and the cases in which an image is rejected at launch (spec/07_encoding.md R152 to
R156; spec/16_prog_spaces.md R321; spec/17_scheduling.md R348). An image is read through a function from an offset and a size to the
little-endian number there. -/

namespace Sys2Proof.Machine

/-- Reads an image at a device address: offset, then bytes (R152). -/
def State.imageAt (s : State) (base off n : Nat) : Nat := s.devNat (base + off) n

/-! ## Header -/

/-- IMGSIZE (R152). -/
def imgSize (g : Nat → Nat → Nat) : Nat := g 0x00C 4

/-- KIND, W, H and N (R152). -/
def imgKind (g : Nat → Nat → Nat) : Nat := g 0x010 1
def imgW (g : Nat → Nat → Nat) : Nat := g 0x011 1
def imgH (g : Nat → Nat → Nat) : Nat := g 0x012 1
def imgN (g : Nat → Nat → Nat) : Nat := g 0x013 1

/-- A shape of R16. -/
def shapeOk (kind w h n : Nat) : Bool :=
  1 ≤ w && 1 ≤ h &&
    match kind with
    | 1 => w ≤ 6 && h ≤ 4 && n == 1
    | 2 => w ≤ 4 && h ≤ 2 && n == 1
    | 3 => w ≤ 4 && h ≤ 2 && 2 ≤ n && n ≤ 64
    | _ => false

/-- SPLIM and the private size of a stream, in units of 4 KiB (R84). -/
def imgSplim (g : Nat → Nat → Nat) : Nat := g 0x018 2
def imgPriv (g : Nat → Nat → Nat) (st : Nat) : Nat := g (0x01A + 2 * st) 2

/-- The declared level (R353). -/
def imgLevel (g : Nat → Nat → Nat) : Nat := g 0x024 4

/-- Latency classes (R34), queue minima and caps (R93). -/
def imgLat (g : Nat → Nat → Nat) (i : Nat) : Nat := g (0x028 + 2 * i) 2
def imgQmin (g : Nat → Nat → Nat) (q : Nat) : Nat := g (0x030 + 2 * q) 2
def imgQcap (g : Nat → Nat → Nat) (q : Nat) : Nat := g (0x040 + 2 * q) 2

/-- Offset and length of a stream's own text section, and of the text it runs: the idle entry where its own is empty (R15). -/
def imgOwn (g : Nat → Nat → Nat) (st : Nat) : Nat × Nat := (g (0x050 + 8 * st) 4, g (0x054 + 8 * st) 4)
def imgText (g : Nat → Nat → Nat) (st : Nat) : Nat × Nat :=
  if (imgOwn g st).2 = 0 then (g 0x078 4, g 0x07C 4) else imgOwn g st

/-- Offset and entry count of a table: 0 curtains, 1 segments, 2 records, 3 initial data (R152). -/
def imgTab (g : Nat → Nat → Nat) (i : Nat) : Nat × Nat := (g (0x1C0 + 8 * i) 4, g (0x1C4 + 8 * i) 4)

/-- A range lies in the signed bytes (R153). -/
def inImage (g : Nat → Nat → Nat) (off n : Nat) : Bool := off + n ≤ imgSize g

/-- The header's own rules (R34, R84, R93, R152, R153, R353). -/
def headerOk (g : Nat → Nat → Nat) : Bool :=
  let sum := fun (f : Nat → Nat) (n : Nat) => (List.range n).foldl (fun a i => a + f i) 0
  g 0 4 == 0x4E4C4150 && g 4 2 == 1 && g 6 2 == 0 && g 8 4 == 0x200 && 0x200 ≤ imgSize g && g 0x014 4 == 0 && g 0x1E8 24 == 0 &&
    shapeOk (imgKind g) (imgW g) (imgH g) (imgN g) &&
    imgSplim g + sum (imgPriv g) 5 == 1536 && imgLevel g < 16 &&
    (List.range 4).all (fun i => imgLat g i != 0) &&
    (List.range 8).all (fun q => imgQmin g q ≤ imgQcap g q && imgQcap g q ≤ 512) && sum (imgQmin g) 8 ≤ 512 &&
    (List.range 6).all (fun i => g (0x054 + 8 * i) 4 % 8 == 0 && inImage g (g (0x050 + 8 * i) 4) (g (0x054 + 8 * i) 4)) &&
    (List.range 5).all (fun st => (imgText g st).2 != 0) &&
    [(0, 64), (1, 32), (2, 16), (3, 16)].all fun (t : Nat × Nat) => inImage g (imgTab g t.1).1 ((imgTab g t.1).2 * t.2)

/-! ## Tables -/

/-- The entry offsets of a segment by stream (R154). -/
def segEntries (g : Nat → Nat → Nat) (i : Nat) : List Nat := (List.range 5).map fun st => g ((imgTab g 1).1 + 32 * i + 4 + 4 * st) 4

/-- A segment descriptor keeps R154. -/
def segOk (g : Nat → Nat → Nat) (i : Nat) : Bool :=
  let o := (imgTab g 1).1 + 32 * i
  g o 2 == i && g (o + 2) 2 == 0 && g (o + 0x18) 8 == 0 &&
    (List.range 5).all fun st =>
      let e := g (o + 4 + 4 * st) 4
      e % 8 == 0 && e < (imgText g st).2 && (i != 0 || e == 0)

/-- The items of a save or restore list (R348); `fuel` bounds it by the image. -/
def saveItems (g : Nat → Nat → Nat) : Nat → Nat → List SaveItem
  | 0, _ => []
  | fuel + 1, o =>
    if g o 2 = 0 then [] else ⟨g o 2, g (o + 2) 2, g (o + 4) 4, g (o + 8) 4, g (o + 12) 4⟩ :: saveItems g fuel (o + 16)

/-- Bytes of an item in the core block (R324, R348). -/
def SaveItem.size (e : SaveItem) : Nat :=
  match e.kind with
  | 1 => 8 * e.count | 2 => 32 * e.count | 3 => e.count | 4 => 256 * e.count | 5 => 4096 * e.count | 6 => 16384 * e.count
  | 7 => 73728 * e.count | _ => e.count

/-- An item keeps R348 for a context size, queue caps and scratchpad window. -/
def SaveItem.ok (e : SaveItem) (ctxsz : Nat) (qcap : Nat → Nat) (window : Nat) : Bool :=
  e.off % 256 == 0 && 6144 ≤ e.off && e.off + e.size ≤ ctxsz && (e.kind == 8 || e.src == 0) &&
    match e.kind with
    | 1 => e.first + e.count ≤ 64
    | 2 => e.first + e.count ≤ 16
    | 3 => e.count == 2048
    | 4 => e.first < 8 && e.count == qcap e.first
    | 5 => e.first + e.count ≤ 32
    | 6 => e.first + e.count ≤ 4
    | 7 => e.first + e.count ≤ 2
    | 8 => e.src + e.count ≤ window
    | _ => false

/-- Some item of a list holds register, queue or bank `r` of a kind. -/
def itemsHold (es : List SaveItem) (kind r : Nat) : Bool :=
  es.any fun e => e.kind == kind && e.first ≤ r && (if kind = 4 then e.first == r else r < e.first + e.count)

/-- Every item that the live bitmaps and ranges of a record name stands in a list (R155, R348). -/
def listCovers (es : List SaveItem) (lscal lmisc : Nat) (ranges : List (Nat × Nat)) : Bool :=
  let bits := fun (v lo n kind : Nat) => (List.range n).all fun r => !v.testBit (lo + r) || itemsHold es kind r
  bits lscal 0 64 1 && bits lmisc 0 16 2 && bits lmisc 16 32 5 && bits lmisc 48 4 6 && bits lmisc 52 2 7 && bits lmisc 54 8 4 &&
    ranges.all fun r => es.any fun e => e.kind == 8 && e.src ≤ r.1 && r.1 + r.2 ≤ e.src + e.count

/-- The record of curtain `i` (R155, R321). -/
def curtRec (g : Nat → Nat → Nat) (i : Nat) : CurtRec :=
  let o := (imgTab g 0).1 + 64 * i
  let cfl := g (o + 2) 2
  let fuel := imgSize g / 16 + 1
  let wind := g (o + 0x30) 4
  { yok := cfl % 2 == 1, tcoff := g (o + 4) 4, lscal := BitVec.ofNat 64 (g (o + 8) 8), lmisc := BitVec.ofNat 64 (g (o + 0x10) 8)
    ranges := (List.range (g (o + 0x1C) 2)).map fun j => (g (g (o + 0x18) 4 + 8 * j) 4, g (g (o + 0x18) 4 + 8 * j + 4) 4)
    handler := g (o + 0x1E) 2
    succ := (List.range (cfl / 2 % 8)).map fun j => g (o + 0x20 + 2 * j) 2
    save := saveItems g fuel (g (o + 0x28) 4), restore := saveItems g fuel (g (o + 0x2C) 4)
    windup := (List.range 5).map fun st => (g (wind + 8 * st) 4, g (wind + 8 * st + 4) 4)
    ctxsz := g (o + 0x34) 4, savecy := g (o + 0x38) 4 }

/-- A curtain record keeps R155, R321 and R348. -/
def curtOk (g : Nat → Nat → Nat) (i : Nat) : Bool :=
  let o := (imgTab g 0).1 + 64 * i
  let r := curtRec g i
  let nseg := (imgTab g 1).2
  let window := imgSplim g * 4096
  g o 2 == i && g (o + 2) 2 < 16 && r.succ.length ≤ 4 && !r.lscal.getLsbD 0 && r.lmisc.extractLsb' 62 2 == 0 && g (o + 0x3C) 4 == 0 &&
    inImage g (g (o + 0x18) 4) (8 * g (o + 0x1C) 2) &&
    r.ranges.all (fun e => e.1 % 256 == 0 && e.2 % 256 == 0 && e.1 + e.2 ≤ window) &&
    (r.handler == 0xFFFF || r.handler < nseg) && r.succ.all (fun e => e < nseg) &&
    (List.range (4 - r.succ.length)).all (fun j => g (o + 0x20 + 2 * (r.succ.length + j)) 2 == 0xFFFF) &&
    inImage g (g (o + 0x28) 4) (16 * (r.save.length + 1)) && inImage g (g (o + 0x2C) 4) (16 * (r.restore.length + 1)) &&
    inImage g (g (o + 0x30) 4) 40 &&
    (List.range 5).all (fun st =>
      let w := r.windup.getD st (0, 0)
      w.1 % 8 == 0 && w.2 % 8 == 0 && w.1 + w.2 ≤ (imgText g st).2) &&
    (r.save ++ r.restore).all (fun e => e.ok r.ctxsz (imgQcap g) window) && r.restore.all (fun e => r.save.contains e) &&
    listCovers r.save r.lscal.toNat r.lmisc.toNat r.ranges && listCovers r.restore r.lscal.toNat r.lmisc.toNat r.ranges

/-- Dies of a shape per package (R18). -/
def shapeDies (kind w h : Nat) : Nat := if kind = 1 then 1 else w * h

/-- A record request: index, home die index, RSTE, SMAX and OTHR (R156). -/
def recEntry (g : Nat → Nat → Nat) (i : Nat) : Nat × Nat × Bool × Nat × Nat :=
  let o := (imgTab g 2).1 + 16 * i
  (g o 2, g (o + 2) 1, g (o + 3) 1 % 2 == 1, g (o + 4) 4, g (o + 8) 4)

/-- A record request keeps R106 and R156. -/
def recOk (g : Nat → Nat → Nat) (i : Nat) : Bool :=
  let e := recEntry g i
  let o := (imgTab g 2).1 + 16 * i
  e.1 < 4096 && e.2.1 < shapeDies (imgKind g) (imgW g) (imgH g) && g (o + 3) 1 < 2 && e.2.2.2.1 ≤ 0x7F800000 && g (o + 12) 4 == 0 &&
    (List.range i).all fun j => (recEntry g j).1 != e.1

/-- An initial-data entry: kind, destination offset, length, image offset (R156). -/
def dataEntry (g : Nat → Nat → Nat) (i : Nat) : Nat × Nat × Nat × Nat :=
  let o := (imgTab g 3).1 + 16 * i
  (g o 1, g (o + 4) 4, g (o + 8) 4, g (o + 12) 4)

/-- An initial-data entry keeps R156. -/
def dataOk (g : Nat → Nat → Nat) (i : Nat) : Bool :=
  let e := dataEntry g i
  (e.1 == 1 || e.1 == 2) && g ((imgTab g 3).1 + 16 * i + 1) 3 == 0 &&
    e.2.1 + e.2.2.1 ≤ (if e.1 = 1 then imgSplim g * 4096 else 0x800000) && inImage g e.2.2.2 e.2.2.1

/-- The image is not rejected at launch (R153, R348). -/
def imageOk (g : Nat → Nat → Nat) : Bool :=
  headerOk g && 1 ≤ (imgTab g 1).2 && (List.range (imgTab g 1).2).all (segOk g) && (List.range (imgTab g 0).2).all (curtOk g) &&
    (List.range (imgTab g 2).2).all (recOk g) && (List.range (imgTab g 3).2).all (dataOk g)

/-- The bytes that reading an image and its signature takes. -/
def imgSpan (g : Nat → Nat → Nat) : Nat := max 512 (max (imgSize g) (g 0x1E0 4 + 2420))

/-- The signature of an image (R152, R153, R393): it lies outside the IMGSIZE bytes whose SHA3-256 hash it signs, and it verifies under one
of some keys (notes/assumptions/17.md). -/
def signatureOk (keys : List (List Byte)) (g : Nat → Nat → Nat) : Bool :=
  let n := imgSize g
  let at_ := g 0x1E0 4
  g 0x1E4 4 == 2420 && n ≤ at_ &&
    keys.any fun k => Config.verifies k (leBytes 32 (Config.sha3 (leBytes n (g 0 n))).toNat) (leBytes 2420 (g at_ 2420))

/-! ## Placement -/

/-- The member quads of a shape at an origin, in rank order, as package quad numbers (R8, R16, R18, R335); none where it does not fit. -/
def placeQuads (kind w h die quad : Nat) : Option (List Nat) :=
  if 8 ≤ die then none
  else if kind = 1 then
    let row := quad / 6
    let col := quad % 6
    if 24 ≤ quad || 6 < col + w || 4 < row + h then none
    else some ((List.range h).flatMap fun r => (List.range w).map fun c => die * 24 + (row + r) * 6 + col + c)
  else
    let row := die / 4
    let col := die % 4
    if quad != 0 || 4 < col + w || 2 < row + h then none
    else some ((List.range h).flatMap fun r => (List.range w).flatMap fun c =>
      (List.range 24).map fun l => ((row + r) * 4 + col + c) * 24 + l)

/-- The scope of a shape (R17). -/
def shapeScope (kind w h : Nat) : Nat :=
  if kind = 1 then (if w = 1 && h = 1 then 2 else 3) else if kind = 2 then (if w * h = 1 then 3 else 4) else 5

/-- The horizon of a scope (R17). -/
def scopeHorizon (scope : Nat) : Nat := if scope ≤ 3 then 24 else 64

/-- The text section of a stream as words by index. -/
def textMap (g : Nat → Nat → Nat) (off len : Nat) : Map 64 :=
  (List.range (len / 8)).foldl (fun m i => Map.set m i (BitVec.ofNat 64 (g (off + 8 * i) 8))) []

end Sys2Proof.Machine
end

