-- ==== Sys2Proof/Machine/SpecFn.lean ====
section
/-! DEFINITION. The special functions of the V stream: the accurate grade by enclosing the true value until it is known far enough
to round, the fast grade by the tables and series that spec/10_isa_vector.md R229 to R235 give by formula. -/

namespace Sys2Proof.Machine

/-! ## Values known by their leading bits -/

/-- A positive rational as a value that rounds as it does: its leading bits, and a last bit that says whether more follow. -/
def ratVal (neg : Bool) (num den : Nat) : Val :=
  let k : Nat := Nat.log2 den + 64 - min 63 (Nat.log2 num)
  let q := num * 2 ^ k / den
  .fin neg (2 * q + if num * 2 ^ k % den = 0 then 0 else 1) (-(k : Int) - 1)

/-- The integer square root by Newton's steps from above; `fuel` bounds them. -/
def isqrtFrom (n : Nat) : Nat → Nat → Nat
  | 0, x => x
  | fuel + 1, x =>
    let y := (x + n / x) / 2
    if y < x then isqrtFrom n fuel y else x

/-- floor of the square root. -/
def isqrt (n : Nat) : Nat := if n = 0 then 0 else isqrtFrom n 300 (2 ^ (Nat.log2 n / 2 + 1))

/-- The square root of a positive rational, in the manner of `ratVal`. -/
def sqrtVal (neg : Bool) (num den : Nat) : Val :=
  let k : Nat := Nat.log2 den + 64
  let n := num * 4 ^ k
  let q := isqrt (n / den)
  .fin neg (2 * q + if q * q * den = n then 0 else 1) (-(k : Int) - 1)

/-- A positive real from an enclosure at `p` bits: the bits on which both ends agree, and a last one for the rest, which is
never zero. -/
def known (lo hi : Int) (p : Nat) : Option (Nat × Int) :=
  let g : Nat := 64
  let a := lo / 2 ^ g
  let b := hi / 2 ^ g
  if 0 < lo && a = b && 2 ^ 32 ≤ a then some (2 * a.toNat + 1, -(p : Int) + g - 1) else none

/-- The first of four precisions at which an enclosure decides the leading bits. `f` gives value and error in units of 2^-p. -/
def decided (f : Nat → Int × Int) : Nat × Int :=
  let at_ := fun p : Nat => known ((f p).1 - (f p).2) ((f p).1 + (f p).2) p
  ((at_ 160).orElse fun _ => (at_ 320).orElse fun _ => (at_ 640).orElse fun _ => at_ 1280).getD (0, 0)

/-! ## Series in fixed point -/

/-- The exponential series of `x`, both in units of 2^-p. -/
def expFrom (p : Nat) (x : Int) : Nat → Nat → Int → Int
  | 0, _, _ => 0
  | fuel + 1, k, t => if t = 0 then 0 else t + expFrom p x fuel (k + 1) (t * x / 2 ^ p / (k + 1 : Nat))

/-- e^x for a small x. -/
def expF (p : Nat) (x : Int) : Int := expFrom p x (p + 8) 0 (2 ^ p)

/-- The series sum of z^(2k+1)/(2k+1) with alternating signs where `alt`. -/
def atanFrom (p : Nat) (z2 : Int) (alt : Bool) : Nat → Nat → Int → Int
  | 0, _, _ => 0
  | fuel + 1, k, t =>
    if t = 0 then 0
    else (if alt && k % 2 = 1 then -(t / (2 * k + 1 : Nat)) else t / (2 * k + 1 : Nat)) + atanFrom p z2 alt fuel (k + 1) (t * z2 / 2 ^ p)

/-- ln of m in [1, 2], in units of 2^-p. -/
def lnF (p : Nat) (m : Int) : Int :=
  let z := (m - 2 ^ p) * 2 ^ p / (m + 2 ^ p)
  2 * atanFrom p (z * z / 2 ^ p) false (p + 8) 0 z

/-- ln 2. -/
def ln2F (p : Nat) : Int := lnF p (2 ^ (p + 1))

/-- arctan of 1/n. -/
def atanInv (p n : Nat) : Int :=
  let z : Int := 2 ^ p / (n : Int)
  atanFrom p (z * z / 2 ^ p) true (p + 8) 0 z

/-- pi, by Machin's formula. -/
def piF (p : Nat) : Int := 16 * atanInv p 5 - 4 * atanInv p 239

/-- The sine (`k` = 1) or cosine (`k` = 0) series. -/
def sinFrom (p : Nat) (x2 : Int) : Nat → Nat → Int → Int
  | 0, _, _ => 0
  | fuel + 1, k, t => if t = 0 then 0 else t + sinFrom p x2 fuel (k + 2) (-(t * x2 / 2 ^ p) / ((k + 1) * (k + 2) : Nat))

/-- Error allowance of the series, in units of 2^-p. -/
def slack : Int := 2 ^ 44

/-- A finite value in units of 2^-p, rounded down. -/
def fixed (p : Nat) (neg : Bool) (m : Nat) (e : Int) : Int :=
  let x : Int := if 0 ≤ e + p then m * 2 ^ (e + p).toNat else (m : Int) / 2 ^ (-(e + p)).toNat
  if neg then -x else x

/-- e^(-x) for x ≥ 0 in units of 2^-p. -/
def expNeg (p : Nat) (x : Int) : Int :=
  let l := ln2F p
  let k := x / l
  (2 ^ p * 2 ^ p / expF p (x - k * l)) / 2 ^ k.toNat

/-! ## The accurate grade -/

/-- The floor of a finite value, and the rest as a numerator over 2^s. -/
def floorFin (neg : Bool) (m : Nat) (e : Int) : Int × Nat × Nat :=
  let s := (-e).toNat
  let x : Int := (if neg then -1 else 1) * (m * 2 ^ e.toNat : Nat)
  (x / 2 ^ s, (x % 2 ^ s).toNat, s)

/-- 2^x of a finite x (R231). -/
def exp2Acc (neg : Bool) (m : Nat) (e : Int) : Val :=
  if 11 ≤ log2Mag m e then .fin false 1 (if neg then -2000 else 2000)
  else
    let (n, r, s) := floorFin neg m e
    if r = 0 then .fin false 1 n
    else
      let d := decided fun p => (expF p ((fixed p false r (-(s : Int))) * ln2F p / 2 ^ p), slack)
      .fin false d.1 (d.2 + n)

/-- log2 of a positive finite x that is not one (R231). -/
def log2Acc (m : Nat) (e : Int) : Val :=
  let k := log2Mag m e
  if m = 2 ^ Nat.log2 m then valInt k
  else
    let neg := k < 0
    let d := decided fun p =>
      let v := k * 2 ^ p + lnF p (fixed p false m (-(Nat.log2 m : Int))) * 2 ^ p / ln2F p
      (if neg then -v else v, slack)
    .fin neg d.1 d.2

/-- Truncates to 28 significant bits (R231). -/
def trunc28 (v : Val) : Val :=
  match v with
  | .fin s m e =>
    let len := Nat.log2 m + 1
    if len ≤ 28 then .fin s m e else .fin s (m / 2 ^ (len - 28)) (e + ((len - 28 : Nat) : Int))
  | w => w

/-- The nearest integer n to x × 2/π and x − n × π/2, in units of 2^-p. -/
def quadrant (p : Nat) (x : Int) : Int × Int :=
  let h := piF p / 2
  let n := (2 * x + h) / (2 * h)
  (n, x - n * h)

/-- The sine of x, or its cosine, as sign and magnitude in units of 2^-p. -/
def sinReal (cos neg : Bool) (m : Nat) (e : Int) (p : Nat) : Int :=
  let (n, r) := quadrant p (fixed p neg m e)
  let x2 := r * r / 2 ^ p
  let sn := sinFrom p x2 (p + 8) 1 r
  let cs := sinFrom p x2 (p + 8) 0 (2 ^ p)
  match (n % 4).toNat, cos with
  | 0, false => sn | 1, false => cs | 2, false => -sn | _, false => -cs
  | 0, true => cs | 1, true => -sn | 2, true => -cs | _, true => sn

/-- The accurate sine or cosine of a finite x within the range reduction (R231). -/
def sinAcc (cos neg : Bool) (m : Nat) (e : Int) : Val :=
  let s := sinReal cos neg m e 160 < 0
  let s := if sinReal cos neg m e 160 = 0 then neg else s
  let d := decided fun p => ((sinReal cos neg m e p).natAbs, slack)
  trunc28 (.fin s d.1 d.2)

/-- The accurate hyperbolic tangent (R231). -/
def tanhAcc (neg : Bool) (m : Nat) (e : Int) : Val :=
  if 4 ≤ log2Mag m e then .fin neg (2 ^ 28 - 1) (-28)
  else
    let d := decided fun p =>
      let t := expNeg p (2 * fixed p false m e)
      ((2 ^ p - t) * 2 ^ p / (2 ^ p + t), slack)
    trunc28 (.fin neg d.1 d.2)

/-- The accurate logistic sigmoid (R231). -/
def sigmAcc (neg : Bool) (m : Nat) (e : Int) : Val :=
  if 7 ≤ log2Mag m e then (if neg then .fin false 1 (-2000) else .fin false (2 ^ 28 - 1) (-28))
  else
    let d := decided fun p =>
      let t := expNeg p (fixed p false m e)
      ((if neg then t else 2 ^ p) * 2 ^ p / (2 ^ p + t), slack)
    trunc28 (.fin false d.1 d.2)

/-! ## The exact arguments of R230 -/

/-- The functions in the order of their opcodes (R229). -/
inductive SpecFn where
  | rcp | rsq | sqrt | exp2 | log2 | sin | cos | tanh | sigm
  deriving DecidableEq, Repr

/-- Bits of an infinity. -/
def infBits (s : Bool) : BitVec 32 := if s then 0xFF800000 else 0x7F800000

/-- Bits of a zero. -/
def zeroBits (s : Bool) : BitVec 32 := if s then 0x80000000 else 0

/-- R230: the arguments whose results are given. -/
def specGiven (f : SpecFn) (fast : Bool) (x : Val) : Option (BitVec 32 × Flags) :=
  let bad := some (nan32, fInv)
  match x with
  | .nan sig => some (nan32, if sig then fInv else 0)
  | .inf s =>
    match f with
    | .rcp => some (zeroBits s, 0)
    | .rsq => if s then bad else some (0, 0)
    | .sqrt => if s then bad else some (infBits false, 0)
    | .exp2 => some (if s then 0 else infBits false, 0)
    | .log2 => if s then bad else some (infBits false, 0)
    | .sin | .cos => bad
    | .tanh => some (if s then 0xBF800000 else 0x3F800000, 0)
    | .sigm => some (if s then 0 else 0x3F800000, 0)
  | .fin s m e =>
    if m = 0 then
      match f with
      | .rcp | .rsq => some (infBits s, 0)
      | .sqrt | .sin | .tanh => some (zeroBits s, 0)
      | .exp2 | .cos => some (0x3F800000, 0)
      | .log2 => some (infBits true, 0)
      | .sigm => some (0x3F000000, 0)
    else
      match f with
      | .rsq | .sqrt => if s then bad else none
      | .log2 => if s then bad else if m = 2 ^ Nat.log2 m && log2Mag m e = 0 then some (0, 0) else none
      | .sin | .cos =>
        if ltVal (.fin false 1 (if fast then 10 else 24)) (.fin false m e) then some (nan32, fRng) else none
      | _ => none

/-- A truncated value rounded to FP32 (R231): it differs from the true one, so a subnormal result is tiny and inexact (R62). -/
def truncAcc (v : Val) : BitVec 32 × Flags :=
  let r := rnd32 0 v
  let tiny := r.1.extractLsb' 23 8 == 0 && r.1.extractLsb' 0 23 != 0
  (r.1, r.2 ||| fInx ||| if tiny then fUnf else 0)

/-- The accurate grade (R231). -/
def specAcc (f : SpecFn) (x : BitVec 32) : BitVec 32 × Flags :=
  let v := val32 x
  match specGiven f false v, v with
  | some r, _ => r
  | none, .fin s m e =>
    let num := m * 2 ^ e.toNat
    let den := 2 ^ (-e).toNat
    match f with
    | .rcp => rnd32 0 (ratVal s den num)
    | .rsq => rnd32 0 (sqrtVal false den num)
    | .sqrt => rnd32 0 (sqrtVal false num den)
    | .exp2 => rnd32 0 (exp2Acc s m e)
    | .log2 => rnd32 0 (log2Acc m e)
    | .sin => truncAcc (sinAcc false s m e)
    | .cos => truncAcc (sinAcc true s m e)
    | .tanh => truncAcc (tanhAcc s m e)
    | .sigm => truncAcc (sigmAcc s m e)
  | none, _ => (nan32, 0)

/-! ## The fast grade -/

/-- A value rounded to FP32, its bits alone. -/
def r32 (v : Val) : BitVec 32 := (rnd32 0 v).1

/-- Rounded sum, product and difference, bits alone. -/
def fAdd (a b : BitVec 32) : BitVec 32 := (fadd a b).1
/-- Rounded product. -/
def fMul (a b : BitVec 32) : BitVec 32 := (fmul a b).1
/-- Changes the sign bit. -/
def fNeg (a : BitVec 32) : BitVec 32 := a ^^^ 0x80000000

/-- A positive real known by an enclosure, as a value with a sign. -/
def realVal (neg : Bool) (f : Nat → Int × Int) : Val := let d := decided f; .fin neg d.1 d.2

/-- The coefficients f(a), f'(a) and f''(a)/2 of the interval table at a = A/2^k (R232), rounded. -/
def coeffs (f : SpecFn) (A k : Nat) : BitVec 32 × BitVec 32 × BitVec 32 :=
  let T := 2 ^ k
  match f with
  | .rcp => (r32 (ratVal false T A), r32 (ratVal true (T ^ 2) (A ^ 2)), r32 (ratVal false (T ^ 3) (A ^ 3)))
  | .rsq => (r32 (sqrtVal false T A), r32 (sqrtVal true (T ^ 3) (4 * A ^ 3)), r32 (sqrtVal false (9 * T ^ 5) (64 * A ^ 5)))
  | .sqrt => (r32 (sqrtVal false A T), r32 (sqrtVal false T (4 * A)), r32 (sqrtVal true (T ^ 3) (64 * A ^ 3)))
  | .exp2 =>
    let e := fun p : Nat => expF p ((A : Int) * 2 ^ p / (T : Int) * ln2F p / 2 ^ p)
    (r32 (realVal false fun p => (e p, slack)), r32 (realVal false fun p => (e p * ln2F p / 2 ^ p, slack)),
      r32 (realVal false fun p => (e p * ln2F p / 2 ^ p * ln2F p / 2 ^ (p + 1), slack)))
  | _ =>
    let q := fun (p n d : Nat) => (n : Int) * 2 ^ (2 * p) / ((d : Int) * ln2F p)
    (r32 (realVal false fun p => (lnF p ((A : Int) * 2 ^ p / (T : Int)) * 2 ^ p / ln2F p, slack)),
      r32 (realVal false fun p => (q p T A, slack)), r32 (realVal true fun p => (q p (T ^ 2) (2 * A ^ 2), slack)))

/-- The table step Q (R232) with the interval's midpoint A/2^k and the exact argument `u`. -/
def tableStep (f : SpecFn) (u : Val) (A k : Nat) : BitVec 32 :=
  let (c0, c1, c2) := coeffs f A k
  let d := r32 (addVal false u (.fin true A (-(k : Int)))).1
  fAdd c0 (fMul d (fAdd c1 (fMul d c2)))

/-- The final scaling of R232: a flush to zero sets underflow, an overflow gives the infinity, and inexact is set. -/
def fastEnd (y : BitVec 32) (neg : Bool) (k : Int) : BitVec 32 × Flags :=
  match scaleVal (val32 y) k with
  | .fin s m e =>
    let t := s != neg
    if m = 0 then (zeroBits t, fInx)
    else if log2Mag m e < -126 then (zeroBits t, fUnf ||| fInx)
    else
      let r := rnd32 0 (.fin t m e)
      (r.1, r.2 ||| fInx)
  | .inf s => (infBits (s != neg), fInx)
  | .nan _ => (nan32, fInx)

/-- The argument of the fast grade: a subnormal counts as zero (R232). -/
def fastArg (x : BitVec 32) : Val :=
  match val32 x with
  | .fin s m e => if m < 2 ^ 23 then .fin s 0 0 else .fin s m e
  | v => v

/-- The rational constant n/d rounded. -/
def cst (neg : Bool) (n d : Nat) : BitVec 32 := r32 (ratVal neg n d)

/-- n/(d ln 2) rounded (R233, R235). -/
def cstLn (neg : Bool) (n d : Nat) : BitVec 32 :=
  r32 (realVal neg fun p => ((n : Int) * 2 ^ (2 * p) / ((d : Int) * ln2F p), slack))

/-- A polynomial in nested form over rounded steps: c0 + z (c1 + z (c2 + …)). -/
def horner (z : BitVec 32) : List (BitVec 32) → BitVec 32
  | [] => 0
  | [c] => c
  | c :: cs => fAdd c (fMul z (horner z cs))

/-- The fast reciprocal, base-2 functions and roots outside R230 (R233). The significand has 24 bits. -/
def fastBase (f : SpecFn) (s : Bool) (m : Nat) (e : Int) : BitVec 32 × Flags :=
  let E := e + 23
  let i := (m - 2 ^ 23) / 2 ^ 17
  let u : Val := .fin false m (-23)
  match f with
  | .rcp => fastEnd (tableStep .rcp u (129 + 2 * i) 7) s (-E)
  | .rsq | .sqrt =>
    let k := E / 2
    let odd := E % 2 = 1
    let y := if odd then tableStep f (.fin false m (-22)) (129 + 2 * i) 6 else tableStep f u (129 + 2 * i) 7
    fastEnd y false (if f = .rsq then -k else k)
  | .exp2 =>
    let (n, r, w) := floorFin s m e
    let j := r * 64 / 2 ^ w
    fastEnd (tableStep .exp2 (.fin false r (-(w : Int))) (2 * j + 1) 7) false n
  | _ =>
    let x : Val := .fin false m e
    if ltVal (.fin false 63 (-6)) x && ltVal x (.fin false 65 (-6)) then
      let t := r32 (addVal false x (.fin true 1 0)).1
      fastEnd (fMul t (horner t [cstLn false 1 1, cstLn true 1 2, cstLn false 1 3])) false 0
    else fastEnd (r32 (addVal false (valInt E) (val32 (tableStep .log2 u (129 + 2 * i) 7))).1) false 0

/-- A fast function of R233 with its R230 rows. -/
def fastOne (f : SpecFn) (x : BitVec 32) : BitVec 32 × Flags :=
  match specGiven f true (fastArg x), fastArg x with
  | some r, _ => r
  | none, .fin s m e => fastBase f s m e
  | none, _ => (nan32, 0)

/-- The fast sine and cosine outside R230 (R234). -/
def fastSin (cos s : Bool) (m : Nat) (e : Int) : BitVec 32 × Flags :=
  let n := (quadrant 320 (fixed 320 s m e)).1
  let rho :=
    if n = 0 then r32 (.fin s m e)
    else
      let neg := (quadrant 320 (fixed 320 s m e)).2 < 0
      r32 (realVal neg fun p => (((fixed p s m e) - n * (piF p / 2)).natAbs, slack))
  let z := fMul rho rho
  let S := fMul rho (horner z [0x3F800000, cst true 1 6, cst false 1 120, cst true 1 5040])
  let C := horner z [0x3F800000, cst true 1 2, cst false 1 24, cst true 1 720]
  let y := match (n % 4).toNat, cos with
    | 0, false => S | 1, false => C | 2, false => fNeg S | _, false => fNeg C
    | 0, true => C | 1, true => fNeg S | 2, true => fNeg C | _, true => S
  fastEnd y false 0

/-- The fast hyperbolic tangent outside R230 (R235). -/
def fastTanh (x : BitVec 32) (s : Bool) (m : Nat) (e : Int) : BitVec 32 × Flags :=
  if ltVal (.fin false m e) (.fin false 1 (-2)) then
    let z := fMul x x
    fastEnd (fMul x (horner z [0x3F800000, cst true 1 3, cst false 2 15, cst true 17 315])) false 0
  else
    let a : BitVec 32 := r32 (.fin true m e)
    let g := (fastOne .exp2 (fMul a (cstLn false 2 1))).1
    fastEnd (fMul (fAdd 0x3F800000 (fNeg g)) (fastOne .rcp (fAdd 0x3F800000 g)).1) s 0

/-- The fast sigmoid outside R230 (R235): a flush of its final reciprocal sets underflow, an infinite g gives +0. -/
def fastSigm (x : BitVec 32) : BitVec 32 × Flags :=
  let g := (fastOne .exp2 (fMul (fNeg x) (cstLn false 1 1))).1
  let r := fastOne .rcp (fAdd 0x3F800000 g)
  (r.1, fInx ||| (r.2 &&& fUnf))

/-- The fast grade (R232 to R235). -/
def specFast (f : SpecFn) (x : BitVec 32) : BitVec 32 × Flags :=
  match specGiven f true (fastArg x), fastArg x with
  | some r, _ => r
  | none, .fin s m e =>
    match f with
    | .sin => fastSin false s m e
    | .cos => fastSin true s m e
    | .tanh => fastTanh x s m e
    | .sigm => fastSigm x
    | _ => fastBase f s m e
  | none, _ => (nan32, 0)

end Sys2Proof.Machine
end

