-- ==== Sys2Proof/Machine/Vector.lean ====
section
/-! DEFINITION. Vector instructions by shaped pieces: element-wise operations, conversion, quantisation, reductions, moves between
registers, queues and tiles, indices and the counter hash (spec/10_isa_vector.md R211 to R216, R221 to R227, R229, R236 to R241).
A V instruction keeps in `aux`: RD, RA, RB, RC, rows, columns, element size, whether its stage predicate is false, TY, KP, MOD
and FN. A VQ number is a vector register below 32 and queue n − 32 from 32 on. -/

namespace Sys2Proof.Machine

/-- Item `i` of what an instruction's issue read. -/
def Act.x (a : Act) (i : Nat) : Nat := a.aux.getD i 0

/-- B of R211: the bytes of a shaped operand. -/
def Act.bytesB (a : Act) : Nat := a.x 4 * a.x 5 * a.x 6

/-- N of R211. -/
def Act.elemsN (a : Act) : Nat := a.x 4 * a.x 5

/-- The instruction's stage predicate is false (R213). -/
def Act.dead (a : Act) : Bool := a.x 7 == 1

/-! ## Operands -/

/-- Piece `j` of a VQ source: register bytes, or a popped entry (R214). -/
def State.source (s : State) (j n : Nat) (k : Entry → State → State) : State :=
  if n < 32 then k (entryOf (s.getFile s.cur.1 .v (4096 * n + 256 * j) 256)) s else s.pop (n - 32) k

/-- The pieces of several sources, popped in field order (R214). -/
def State.sources (s : State) (j : Nat) : List Nat → (List Entry → State → State) → State
  | [], k => k [] s
  | n :: ns, k => s.source j n fun e s => s.sources j ns fun es s => k (e :: es) s

/-- Element `i` of an entry, of `sz` bytes. -/
def entryElem (sz : Nat) (e : Entry) (i : Nat) : Nat := (e.extractLsb' (8 * sz * i) (8 * sz)).toNat

/-- Runs of consecutive present elements, each from its index (R213). -/
def activeRuns (sz : Nat) : Nat → List (Option Nat) → List (Nat × List Byte)
  | _, [] => []
  | i, none :: xs => activeRuns sz (i + 1) xs
  | i, some v :: xs =>
    match activeRuns sz (i + 1) xs with
    | (k, bs) :: r => if k = i + 1 then (i, leBytes sz v ++ bs) :: r else (i, leBytes sz v) :: (k, bs) :: r
    | [] => [(i, leBytes sz v)]

/-- Writes results from register byte `at_` on, landing at tc `t`: inactive elements keep their value (R213). -/
def State.landElems (s : State) (r at_ sz t : Nat) (rs : List (Option Nat)) : State :=
  (activeRuns sz 0 rs).foldl
    (fun s (e : Nat × List Byte) => s.land t (.bytes .v (4096 * r + at_ + sz * e.1) e.2)) s

/-- Results as an entry: inactive elements are zero (R213). -/
def packElems (sz : Nat) (rs : List (Option Nat)) : Entry := entryOf (rs.flatMap fun r => leBytes sz (r.getD 0))

/-- The predicate that the instruction names, as it stands (R213). -/
def State.predOf (s : State) (a : Act) : BitVec 4096 := Map.get s.me.k (a.x 9)

/-- The flags of results (R213). -/
def flagsOf (rs : List (Option (Nat × Flags))) : Flags :=
  rs.foldl (fun f r => match r with
    | some v => f ||| v.2
    | none => f) 0

/-- The values of results. -/
def valsOf (rs : List (Option (Nat × Flags))) : List (Option Nat) := rs.map fun r => r.map (·.1)

/-! ## Element operations -/

/-- R of R222: one rounding for FP32, two for BF16 (R63). -/
def vecRnd (ty : Nat) (v : Val × Flags) : Nat × Flags :=
  let r := rnd32 0 v.1
  if ty = 0 then (r.1.toNat, v.2 ||| r.2)
  else
    let q := rnd16 0 (val32 r.1)
    (q.1.toNat, v.2 ||| r.2 ||| q.2)

/-- An operand of an element type, widened exactly. -/
def vecVal (ty x : Nat) : Val := widen ty (BitVec.ofNat 32 x)

/-- A value is negative, zero included. -/
def negative : Val → Bool
  | .inf s => s
  | .fin s _ _ => s
  | .nan _ => false

/-- fmax and fmin (R223) of two elements of a float type: the chosen bits, or the canonical NaN. -/
def fmaxOf (ty : Nat) (isMax : Bool) (a b : Nat) : Nat × Flags :=
  let nan := if ty = 0 then 0x7FC00000 else 0x7FC0
  match vecVal ty a, vecVal ty b with
  | .nan x, .nan y => (nan, if x || y then fInv else 0)
  | .nan x, _ => (nan, if x then fInv else 0)
  | _, .nan y => (nan, if y then fInv else 0)
  | v, w =>
    let first := if ltVal v w then !isMax else if ltVal w v then isMax else negative v != isMax
    (if first then a else b, 0)

/-- An element as an integer: signed for INT32 and INT8, unsigned for UINT8 (R212, R225). -/
def vecInt (ty x : Nat) : Int :=
  match ty with
  | 2 => (BitVec.ofNat 32 x).toInt
  | 3 => (BitVec.ofNat 8 x).toInt
  | _ => x

/-- An exact integer result at width w: wrapped, or with SAT clamped to the range of TY (R225). -/
def intResult (ty : Nat) (sat : Bool) (i : Int) : Nat × Flags :=
  let m : Int := 2 ^ (8 * fmtSize ty)
  let r := intRange ty
  if sat then
    let c := max r.1 (min r.2 i)
    ((c % m).toNat, if c = i then 0 else fSat)
  else ((i % m).toNat, 0)

/-- The truth of a relation of R224, with its flags. -/
def vecRelation (ty fn a b : Nat) : Bool × Flags :=
  if ty ≤ 1 then
    let v := vecVal ty a
    let w := vecVal ty b
    let nan := fun x : Val => match x with
      | .nan _ => true
      | _ => false
    let sig := fun x : Val => match x with
      | .nan g => g
      | _ => false
    if nan v || nan w then
      (fn == 1 || fn == 8, if sig v || sig w || (2 ≤ fn && fn ≤ 5) then fInv else 0)
    else
      let lt := ltVal v w
      let gt := ltVal w v
      (match fn with
        | 0 => !lt && !gt
        | 1 => lt || gt
        | 2 => lt
        | 3 => !gt
        | 4 => gt
        | 5 => !lt
        | _ => false, 0)
  else
    let x := vecInt ty a
    let y := vecInt ty b
    (match fn with
      | 0 => a == b
      | 1 => a != b
      | 2 => x < y
      | 3 => x ≤ y
      | 4 => y < x
      | 5 => y ≤ x
      | 6 => a < b
      | _ => b ≤ a, 0)

/-- A special function at an element type (R229): BF16 takes the FP32 function and rounds. -/
def specialOf (g : SpecFn) (acc : Bool) (ty x : Nat) : Nat × Flags :=
  let f := fun y : BitVec 32 => if acc then specAcc g y else specFast g y
  if ty = 0 then
    let r := f (BitVec.ofNat 32 x)
    (r.1.toNat, r.2)
  else
    let r := f (bfTo32 (BitVec.ofNat 16 x))
    let q := rnd16 0 (val32 r.1)
    (q.1.toNat, r.2 ||| q.2)

/-- `VRNG` of one counter (R241). -/
def counterHash (key hi a : Nat) : Nat :=
  let ctr : Word := BitVec.ofNat 64 (hi * 2 ^ 32 + a)
  let x := ctr + BitVec.ofNat 64 key * 0x5F21C8D93E6BA04D
  let x := (x ^^^ (x >>> 31)) * 0x8C3A71E52B9D46F7
  let x := (x ^^^ (x >>> 27)) * 0xE47D0B639A15C2AB
  ((x ^^^ (x >>> 33)).extractLsb' 32 32).toNat

/-- The element of `VBCAST`'s source that element `e` takes (R237). -/
def bcastFrom (fn cols e : Nat) : Nat := if fn = 0 then 0 else if fn = 1 then e % cols else e / cols * cols

/-- The special function of an instruction (R229). -/
def specOf (i : Instr) : Option SpecFn :=
  match i with
  | .vrcp _ _ => some .rcp
  | .vrsq _ _ => some .rsq
  | .vsqrt _ _ => some .sqrt
  | .vexp2 _ _ => some .exp2
  | .vlog2 _ _ => some .log2
  | .vsin _ _ => some .sin
  | .vcos _ _ => some .cos
  | .vtanh _ _ => some .tanh
  | .vsigm _ _ => some .sigm
  | _ => none

/-- Element `e` of an instruction from the bits of its sources: `ksel` is the register of RC for `VSEL`, `blk` the bytes that
the issue read (R222 to R225, R237, R240, R241). R60 does not say whether `VFMA` of 0 × ∞ with a quiet-NaN addend sets the invalid flag:
that it does is the model's choice (notes/assumptions/67.md). -/
def vecElem (a : Act) (ksel : BitVec 4096) (blk : List Byte) (e : Nat) (xs : List Nat) : Nat × Flags :=
  let ty := a.x 8
  let sz := a.x 6
  let x := xs.getD 0 0
  let y := xs.getD 1 0
  let sat := a.x 10 / 16 % 2 == 1
  let w := 8 * sz
  match a.ins with
  | .vadd _ _ => vecRnd ty (addVal false (vecVal ty x) (vecVal ty y))
  | .vsub _ _ => vecRnd ty (addVal false (vecVal ty x) (negVal (vecVal ty y)))
  | .vmul _ _ => vecRnd ty (mulVal (vecVal ty x) (vecVal ty y))
  | .vfma _ _ =>
    let p := mulVal (vecVal ty x) (vecVal ty y)
    let r := addVal false p.1 (vecVal ty (xs.getD 2 0))
    vecRnd ty (r.1, p.2 ||| r.2)
  | .vmin _ _ => fmaxOf ty false x y
  | .vmax _ _ => fmaxOf ty true x y
  | .vabs _ _ => (x % 2 ^ (w - 1), 0)
  | .vneg _ _ => (x ^^^ 2 ^ (w - 1), 0)
  | .vcmp _ _ =>
    let r := vecRelation ty (a.x 11) x y
    (if r.1 then 1 else 0, r.2)
  | .vsel _ _ => (if ksel.getLsbD e then x else y, 0)
  | .viadd _ _ => intResult ty sat (vecInt ty x + vecInt ty y)
  | .visub _ _ => intResult ty sat (vecInt ty x - vecInt ty y)
  | .vimul _ _ => intResult ty sat (vecInt ty x * vecInt ty y)
  | .vand _ _ => (x &&& y, 0)
  | .vor _ _ => (x ||| y, 0)
  | .vxor _ _ => (x ^^^ y, 0)
  | .vshl _ _ => (x <<< (y % w) % 2 ^ w, 0)
  | .vshr _ _ => (x >>> (y % w), 0)
  | .vsar _ _ => ((((BitVec.ofNat w x).sshiftRight (y % w))).toNat, 0)
  | .vimin _ _ => (if vecInt ty y < vecInt ty x then y else x, 0)
  | .vimax _ _ => (if vecInt ty x < vecInt ty y then y else x, 0)
  | .vbcast _ _ => (leNat ((blk.drop (sz * bcastFrom (a.x 11) (a.x 5) e)).take sz), 0)
  | .viota _ _ =>
    let p := fun k => leNat ((blk.drop (4 * k)).take 4)
    ((p 0 + e / a.x 5 * p 1 + e % a.x 5 * p 2) % 2 ^ 32, 0)
  | .vrng _ _ => (counterHash (leNat (blk.take 8)) (leNat ((blk.drop 8).take 4)) x, 0)
  | i =>
    match specOf i with
    | some g => specialOf g sat ty x
    | none => (x, 0)

/-- LAT of R214. -/
def vecLat (a : Act) : Nat :=
  match a.ins with
  | .vadd _ _ | .vsub _ _ | .vmul _ _ | .vfma _ _ | .vmin _ _ | .vmax _ _ | .vcmp _ _ | .vcvt _ _ | .vimul _ _
  | .tmovR _ _ | .tmovC _ _ => 4
  | .vqnt _ _ | .vrng _ _ => 6
  | i => if (specOf i).isSome then (if a.x 10 / 16 % 2 = 1 then 20 else 8) else 2

/-! ## Pieces -/

/-- The sources of piece `j` of a shaped instruction in field order; a parameter or key block is read with the first (R214, R240,
R241). -/
def pieceSources (a : Act) : List Nat :=
  match a.ins with
  | .vadd _ _ | .vsub _ _ | .vmul _ _ | .vmin _ _ | .vmax _ _ | .vcmp _ _ | .vsel _ _ | .viadd _ _ | .visub _ _
  | .vimul _ _ | .vand _ _ | .vor _ _ | .vxor _ _ | .vshl _ _ | .vshr _ _ | .vsar _ _ | .vimin _ _ | .vimax _ _ => [a.x 1, a.x 2]
  | .vfma _ _ => [a.x 1, a.x 2, a.x 3]
  | .vbcast _ _ => []
  | .viota _ _ => if a.j = 0 then [a.x 1] else []
  | .vrng _ _ => if a.j = 0 then [a.x 1, a.x 2] else [a.x 1]
  | _ => [a.x 1]

/-- Keeps bytes with the instruction in progress. -/
def State.keepBuf (s : State) (bs : List Byte) : State :=
  s.modStr fun x => { x with act := x.act.map fun a => { a with buf := bs } }

/-- Puts results of piece `j` into a queue entry, or into register bytes from `at_` on (R214). -/
def State.vecOut (s : State) (a : Act) (j at_ sz t : Nat) (rs : List (Option Nat)) : State :=
  if a.x 0 < 32 then s.landElems (a.x 0) at_ sz t rs else s.fill s.cur.1 (a.id + j) (packElems sz rs)

/-- One piece of a shaped instruction (R213, R214): results land LAT later, flags with the last piece (R216). -/
def shapedStep (a : Act) (s : State) : State :=
  s.sources a.j (pieceSources a) fun es s =>
    let blk := match a.ins with
      | .viota _ _ => if a.j = 0 then entryBytes (es.getD 0 0) else a.buf
      | .vrng _ _ => if a.j = 0 then entryBytes (es.getD 1 0) else a.buf
      | _ => a.buf
    let s := s.keepBuf blk
    if a.dead then s
    else
      let sz := a.x 6
      let e0 := 256 * a.j / sz
      let k := s.predOf a
      let ksel := match a.ins with
        | .vsel _ _ => Map.get s.me.k (a.x 3)
        | _ => 0
      let rs := (List.range (min 256 (a.bytesB - 256 * a.j) / sz)).map fun i =>
        if k.getLsbD (e0 + i) then some (vecElem a ksel blk (e0 + i) (es.map fun e => entryElem sz e i)) else none
      let s := s.setFlags (a.start + a.n - 1 + vecLat a) (flagsOf rs)
      match a.ins with
      | .vcmp _ _ =>
        let bits := fun p : Nat × Flags → Bool => (BitVec.ofNat 4096 ((rs.foldr
          (fun r n => 2 * n + match r with
            | some v => if p v then 1 else 0
            | none => 0) 0) <<< e0))
        s.land (s.tc + 4) (.k (a.x 0) (bits fun _ => true) (bits fun v => v.1 == 1))
      | _ => s.vecOut a a.j (256 * a.j) sz (s.tc + vecLat a) (valsOf rs)

/-! ## Conversion -/

/-- One element of `VCVT` (R226). -/
def cvtElem (src dst rm x : Nat) : Nat × Flags :=
  if src = dst then (x, 0)
  else
    let r := convert rm dst (vecVal src x)
    (r.1.toNat, r.2)

/-- One piece of `VCVT` (R226): `buf` holds the source entry in use and the destination bytes of the entry being filled. -/
def cvtStep (a : Act) (s : State) : State :=
  let src := a.x 8
  let dst := a.x 10 / 16
  let ssz := fmtSize src
  let dsz := fmtSize dst
  let g := 256 / max ssz dsz
  let e0 := g * a.j
  let go := fun (e : Entry) (s : State) =>
    if a.dead then s.keepBuf (entryBytes e)
    else
      let k := s.predOf a
      let rs := (List.range (min g (a.elemsN - e0))).map fun i =>
        if k.getLsbD (e0 + i) then
          some (cvtElem src dst (a.x 11 % 4) (entryElem ssz e (e0 % (256 / ssz) + i)))
        else none
      let s := s.setFlags (a.start + a.n - 1 + 4) (flagsOf rs)
      let j := e0 * dsz / 256
      if a.x 0 < 32 then (s.landElems (a.x 0) (e0 * dsz) dsz (s.tc + 4) (valsOf rs)).keepBuf (entryBytes e)
      else
        let old := if e0 * dsz % 256 = 0 then [] else a.buf.drop 256
        let out := old ++ (valsOf rs).flatMap fun r => leBytes dsz (r.getD 0)
        let last := (e0 + g) * dsz % 256 = 0 || a.j + 1 = a.n
        let s := if last then s.fill s.cur.1 (a.id + j) (entryOf out) else s
        s.keepBuf (entryBytes e ++ out)
  if a.x 1 < 32 then go (entryOf (s.getFile s.cur.1 .v (4096 * a.x 1 + e0 * ssz / 256 * 256) 256)) s
  else if e0 * ssz % 256 = 0 then s.pop (a.x 1 - 32) go
  else go (entryOf (a.buf.take 256)) s

/-! ## Quantisation -/

/-- An output entry of `VQNT` from its FP32 elements (R184, R227), with the elements that overflow and the flags. -/
def qntEntry (fmt : Nat) (t : Int) (xs : List (BitVec 32)) : Entry × List Nat × Flags :=
  let blocks := (List.range ((xs.length + 31) / 32)).map fun b => quantBlock ((xs.drop (32 * b)).take 32) t
  let code := fun i : Nat =>
    if fmt = 5 then (blocks.getD (i / 32) (0, [])).2.getD (i % 32) (0, 0)
    else
      let r := quant (xs.getD i 0) t fmt
      (r.1.toNat, r.2)
  let cs := (List.range xs.length).map fun i => (i, code i)
  let slots := cs.map fun c => (c.1, c.2.1, (blocks.getD (c.1 / 32) (0, [])).1)
  (BitVec.ofNat 2048 (packRaw fmt 0 slots), (cs.filter fun c => quantOvf c.2.2).map (·.1),
    cs.foldl (fun f c => f ||| c.2.2) 0)

/-- One input piece of `VQNT` (R227): 64 elements. An output entry is done with the last piece that it draws on; `buf` holds
the elements since the entry before, inactive ones as +0. The handle is `hnd`, the tensor scale exponent plus 1024 `cu`. -/
def vqntStep (a : Act) (s : State) : State :=
  s.source a.j (a.x 1) fun e s =>
    if a.dead then s
    else
      let fmt := hFmt a.hnd
      let cap := entryCap fmt false
      let k := s.predOf a
      let m := min 64 (a.elemsN - 64 * a.j)
      let now := (List.range m).flatMap fun i =>
        if k.getLsbD (64 * a.j + i) then leBytes 4 (entryElem 4 e i) else leBytes 4 0
      let buf := a.buf ++ now
      if (64 * (a.j + 1)) % cap = 0 || a.j + 1 = a.n then
        let out := 64 * a.j / cap
        let xs := (List.range (buf.length / 4)).map fun i => BitVec.ofNat 32 (leNat ((buf.drop (4 * i)).take 4))
        let (w, ovf, fl) := qntEntry fmt ((a.cu.getD 0 0 : Int) - 1024) xs
        let rep := a.start + a.n - 1 + 6
        let s := (s.fill s.cur.1 (a.id + out) w).setFlags rep fl
        (ovf.foldl (fun s i => s.stat a.hnd none (out * cap + i) true 0 rep) s).keepBuf []
      else s.keepBuf buf

/-! ## Reductions -/

/-- The identity of a reduction (R236). -/
def reduceId (isMax : Bool) (ty : Nat) : BitVec 32 :=
  if isMax then (if ty = 0 then 0xFF800000 else 0x80000000) else if ty = 0 then 0x80000000 else 0

/-- One combination of a reduction (R77, R236). -/
def reduceOp (isMax : Bool) (ty : Nat) (a b : BitVec 32 × Flags) : BitVec 32 × Flags :=
  if isMax then
    if ty = 0 then
      let r := fmaxOf 0 true a.1.toNat b.1.toNat
      (BitVec.ofNat 32 r.1, a.2 ||| b.2 ||| r.2)
    else (if a.1.toInt < b.1.toInt then b.1 else a.1, a.2 ||| b.2)
  else if ty = 0 then
    let r := fadd a.1 b.1
    (r.1, a.2 ||| b.2 ||| r.2)
  else (a.1 + b.1, a.2 ||| b.2)

/-- A reduction takes maxima, and it reduces rows. -/
def reduceKind (i : Instr) : Bool × Bool :=
  match i with
  | .vrsum _ _ => (false, true)
  | .vrmax _ _ => (true, true)
  | .vcsum _ _ => (false, false)
  | _ => (true, false)

/-- The results of a reduction over the elements of a shape (R236). -/
def reduceAll (isMax row : Bool) (ty rows cols : Nat) (xs : List (BitVec 32)) : List (BitVec 32 × Flags) :=
  let at_ := fun i => (xs.getD i 0, (0 : Flags))
  let groups := if row then (List.range rows).map fun r => (List.range cols).map fun c => at_ (r * cols + c)
    else (List.range cols).map fun c => (List.range rows).map fun r => at_ (r * cols + c)
  groups.map fun g => (tree (reduceOp isMax ty) 12 g).headD (0, 0)

/-- One source piece of a reduction (R236); the results follow the last one. `buf` holds the elements read. -/
def reduceStep (a : Act) (s : State) : State :=
  s.source a.j (a.x 1) fun e s =>
    if a.dead then s
    else
      let (isMax, row) := reduceKind a.ins
      let k := s.predOf a
      let m := min 64 (a.elemsN - 64 * a.j)
      let buf := a.buf ++ (List.range m).flatMap fun i =>
        leBytes 4 (if k.getLsbD (64 * a.j + i) then entryElem 4 e i else (reduceId isMax (a.x 8)).toNat)
      if a.j + 1 < a.n then s.keepBuf buf
      else
        let xs := (List.range a.elemsN).map fun i => BitVec.ofNat 32 (leNat ((buf.drop (4 * i)).take 4))
        let rs := reduceAll isMax row (a.x 8) (a.x 4) (a.x 5) xs
        let t := a.start + a.n + 24
        let s := s.setFlags t (rs.foldl (fun f r => f ||| r.2) 0)
        let out := rs.flatMap fun r => leBytes 4 r.1.toNat
        if a.x 0 < 32 then s.land t (.bytes .v (4096 * a.x 0) (out ++ List.replicate (4096 - out.length) 0))
        else
          (List.range ((out.length + 255) / 256)).foldl
            (fun s j => s.fill s.cur.1 (a.id + j) (entryOf ((out.drop (256 * j)).take 256))) s

/-! ## Tiles -/

/-- The key of a tile element (R96). -/
def tileKey (t row col : Nat) : Nat := 16384 * t + 256 * row + 4 * col

/-- One piece of `TMOV.R` (R239): active elements become 32-bit tile elements. -/
def tmovRStep (a : Act) (s : State) : State :=
  s.source a.j (a.x 1) fun e s =>
    if a.dead then s
    else
      let ty := a.x 8
      let sz := fmtSize ty
      let k := s.predOf a
      (List.range (256 / sz)).foldl
        (fun s i =>
          let n := 256 / sz * a.j + i
          if k.getLsbD n then
            let v := (widen32 ty (entryElem sz e i, 0)).1
            s.land (s.tc + 4) (.bytes .t (tileKey (a.x 0) (16 * (a.x 10 / 64) + n / 64) (n % 64)) (leBytes 4 v.toNat))
          else s) s

/-- A tile element converted for `TMOV.C` (R239). -/
def tmovElem (ty x : Nat) : Nat × Flags :=
  match ty with
  | 1 =>
    let r := rnd16 0 (val32 (BitVec.ofNat 32 x))
    (r.1.toNat, r.2)
  | 3 | 4 => intResult ty true (BitVec.ofNat 32 x).toInt
  | _ => (x, 0)

/-- One piece of `TMOV.C` (R239). -/
def tmovCStep (a : Act) (s : State) : State :=
  if a.dead then s
  else
    let ty := a.x 8
    let sz := fmtSize ty
    let k := s.predOf a
    let rs := (List.range (256 / sz)).map fun i =>
      let n := 256 / sz * a.j + i
      if k.getLsbD n then
        some (tmovElem ty (leNat (s.getFile s.cur.1 .t (tileKey (a.x 1) (n % 64) (16 * (a.x 10 / 64) + n / 64)) 4)))
      else none
    (s.setFlags (a.start + a.n - 1 + 4) (flagsOf rs)).vecOut a a.j (256 * a.j) sz (s.tc + 4) (valsOf rs)

/-! ## Predicate bits to and from queues and registers -/

/-- One of the two tc of `KMOV` between predicate bits and bytes (R228). As a source the predicate's half `j` is read on the tc of the half,
`I + j` (notes/assumptions/78.md). -/
def kmovStep (a : Act) (s : State) : State :=
  if a.x 11 = 1 then
    s.source a.j (a.x 1) fun e s =>
      let buf := a.buf ++ entryBytes e
      if a.j = 0 then s.keepBuf buf
      else s.land (a.start + 3) (.k (a.x 0) (BitVec.allOnes 4096) (BitVec.ofNat 4096 (leNat buf)))
  else
    let bs := leBytes 256 ((Map.get s.me.k (a.x 1)).extractLsb' (2048 * a.j) 2048).toNat
    if a.x 0 < 32 then s.land (a.start + 3) (.bytes .v (4096 * a.x 0 + 256 * a.j) bs)
    else s.push (a.x 0 - 32) (entryOf bs) (a.start + 3)

/-- One piece of a V instruction. -/
def vecStep (a : Act) (s : State) : State :=
  match a.ins with
  | .vcvt _ _ => cvtStep a s
  | .vqnt _ _ => vqntStep a s
  | .vrsum _ _ | .vrmax _ _ | .vcsum _ _ | .vcmax _ _ => reduceStep a s
  | .tmovR _ _ => tmovRStep a s
  | .tmovC _ _ => tmovCStep a s
  | .kmov _ _ => kmovStep a s
  | _ => shapedStep a s

/-! ## Issue -/

/-- The vector registers that an instruction names, after rotation, in field order RD, RA, RB, RC (R218). -/
def vregs (w : Issue) (i : Instr) : List Nat :=
  let pick := fun fs : List (BitVec 7) => (fs.map fun f => regNum w .VQ f).filter fun n => n < 32
  match i with
  | .vadd _ f | .vsub _ f | .vmul _ f | .vmin _ f | .vmax _ f | .vsel _ f | .viadd _ f | .visub _ f | .vimul _ f
  | .vand _ f | .vor _ f | .vxor _ f | .vshl _ f | .vshr _ f | .vsar _ f | .vimin _ f | .vimax _ f | .vrng _ f =>
    pick [f.rd, f.ra, f.rb]
  | .vfma _ f => pick [f.rd, f.ra, f.rb, f.rc]
  | .vabs _ f | .vneg _ f | .vmov _ f | .vbcast _ f | .vcvt _ f | .viota _ f | .vrcp _ f | .vrsq _ f | .vsqrt _ f
  | .vexp2 _ f | .vlog2 _ f | .vsin _ f | .vcos _ f | .vtanh _ f | .vsigm _ f | .vrsum _ f | .vrmax _ f | .vcsum _ f
  | .vcmax _ f => pick [f.rd, f.ra]
  | .vcmp _ f => pick [f.ra, f.rb]
  | .vqnt _ f | .vqpush _ f | .tmovR _ f => pick [f.ra]
  | .vqpop _ f | .tmovC _ f => pick [f.rd]
  | .kmov _ f => if f.fn = 1 then pick [f.ra] else if f.fn = 2 then pick [f.rd] else []
  | .ldV _ f | .stV _ f => pick [f.rd]
  | _ => []

/-- The first failing check 1 or 2 of R218 over the registers of a word. -/
def Core.vregsFault (x : Core) (rs : List Nat) : Option (FaultKind × Nat) := rs.findSome? x.vregFault

/-- KP of a V word that carries an element predicate; 0 for one that must not. -/
def kpOf (i : Instr) : Nat :=
  match i with
  | .vadd _ f | .vsub _ f | .vmul _ f | .vfma _ f | .vmin _ f | .vmax _ f | .vabs _ f | .vneg _ f | .vcmp _ f | .vsel _ f
  | .vcvt _ f | .vqnt _ f | .viadd _ f | .visub _ f | .vimul _ f | .vand _ f | .vor _ f | .vxor _ f | .vshl _ f | .vshr _ f
  | .vsar _ f | .vimin _ f | .vimax _ f | .vrcp _ f | .vrsq _ f | .vsqrt _ f | .vexp2 _ f | .vlog2 _ f | .vsin _ f
  | .vcos _ f | .vtanh _ f | .vsigm _ f | .vrsum _ f | .vrmax _ f | .vcsum _ f | .vcmax _ f | .vbcast _ f | .vmov _ f
  | .tmovR _ f | .tmovC _ f | .vrng _ f | .viota _ f => f.kp.toNat
  | _ => 0

/-- A V word whose KP names a stage predicate that is false for the iteration (R213). -/
def Issue.deadFor (w : Issue) (kp : Nat) : Bool := 1 ≤ kp && kp ≤ 3 && !w.stages.getLsbD (kp - 1)

/-- What the issue of a V word reads of its fields and of `VSHAPE`. -/
def State.vecAux (s : State) (f : Rrr) (rd ra rc : Space) : List Nat :=
  let (rows, cols, esz) := s.me.shape
  [s.reg rd f.rd, s.reg ra f.ra, s.reg .VQ f.rb, s.reg rc f.rc, rows, cols, esz,
    if s.str.now.deadFor f.kp.toNat then 1 else 0, f.md.toNat % 16, f.kp.toNat, f.md.toNat, f.fn.toNat]

/-- Goes on where the checks of R218 and an entry's format condition pass, or where the stage predicate is false (R213). The registers are
checked before the format (notes/assumptions/72.md). -/
def State.vecChecked (s : State) (i : Instr) (bad : Bool) (k : State → State) : State :=
  if s.str.now.deadFor (kpOf i) then k s
  else
    match s.me.vregsFault (vregs s.str.now i) with
    | some (kd, d) => s.fault kd d
    | none => if bad then s.fault .format 0 else k s

/-- Begins a V instruction of `n` pieces: its `m` queue entries are reserved now, entry `j` to be popped from tc `ready j` on
(R214). -/
def State.vecBegin (s : State) (i : Instr) (aux : List Nat) (n m : Nat) (ready : Nat → Nat) (h : Handle) (cu : List Nat)
    (buf : List Byte) : State :=
  let q := aux.getD 0 0
  let dead := aux.getD 7 0 == 1
  let (id, s) := s.newIds m
  let s := (List.range m).foldl
    (fun s j => s.pushTo s.cur.1 s.cur.2 (q - 32) ⟨0, ready j, false, if dead then none else some (id + j), s.cur⟩) s
  (s.begin i id n h cu aux buf).pieceWith vecStep

/-- P of R214. -/
def piecesOf (aux : List Nat) : Nat := (aux.getD 4 0 * aux.getD 5 0 * aux.getD 6 0 + 255) / 256

/-- A shaped instruction with element type TY of accepted codes (R212, R214); `relBad` is a further format condition. -/
def State.shaped (s : State) (i : Instr) (f : Rrr) (accepts : List Nat) (rd rc : Space) (relBad : Bool) (buf : List Byte) : State :=
  let aux := s.vecAux f rd .VQ rc
  let ty := f.md.toNat % 16
  let n := piecesOf aux
  let m := if rd == .VQ && 32 ≤ aux.getD 0 0 then n else 0
  let lat := vecLat ⟨i, 0, 0, 0, 0, 0, [], aux, []⟩
  s.vecChecked i (!accepts.contains ty || fmtSize ty != aux.getD 6 0 || relBad) fun s =>
    s.vecBegin i aux n m (fun j => s.tc + j + lat) 0 [] buf

/-- Types F, I and any of R212. -/
def tyF : List Nat := [0, 1]
/-- Integer types. -/
def tyI : List Nat := [2, 3, 4]
/-- Any type. -/
def tyAny : List Nat := [0, 1, 2, 3, 4]

/-! ## Element-wise instructions -/

/-- `VADD` (R222). -/
def execVadd (h : Hdr) (f : Rrr) (s : State) : Result := .next (s.shaped (.vadd h f) f tyF .VQ .VQ false [])
/-- `VSUB` (R222). -/
def execVsub (h : Hdr) (f : Rrr) (s : State) : Result := .next (s.shaped (.vsub h f) f tyF .VQ .VQ false [])
/-- `VMUL` (R222). -/
def execVmul (h : Hdr) (f : Rrr) (s : State) : Result := .next (s.shaped (.vmul h f) f tyF .VQ .VQ false [])
/-- `VFMA` (R222). -/
def execVfma (h : Hdr) (f : Rrr) (s : State) : Result := .next (s.shaped (.vfma h f) f tyF .VQ .VQ false [])
/-- `VMIN` (R223). -/
def execVmin (h : Hdr) (f : Rrr) (s : State) : Result := .next (s.shaped (.vmin h f) f tyF .VQ .VQ false [])
/-- `VMAX` (R223). -/
def execVmax (h : Hdr) (f : Rrr) (s : State) : Result := .next (s.shaped (.vmax h f) f tyF .VQ .VQ false [])
/-- `VABS` (R222). -/
def execVabs (h : Hdr) (f : Rrr) (s : State) : Result := .next (s.shaped (.vabs h f) f tyF .VQ .VQ false [])
/-- `VNEG` (R222). -/
def execVneg (h : Hdr) (f : Rrr) (s : State) : Result := .next (s.shaped (.vneg h f) f tyF .VQ .VQ false [])

/-- A relation that its type does not accept (R224). -/
def relBad (f : Rrr) : Bool :=
  let float := f.md.toNat % 16 ≤ 1
  (float && (f.fn = 6 || f.fn = 7)) || (!float && f.fn = 8)

/-- `VCMP` (R224). -/
def execVcmp (h : Hdr) (f : Rrr) (s : State) : Result := .next (s.shaped (.vcmp h f) f tyAny .K .VQ (relBad f) [])
/-- `VSEL` (R222). -/
def execVsel (h : Hdr) (f : Rrr) (s : State) : Result := .next (s.shaped (.vsel h f) f tyAny .VQ .K false [])
/-- `VIADD` (R225). -/
def execViadd (h : Hdr) (f : Rrr) (s : State) : Result := .next (s.shaped (.viadd h f) f tyI .VQ .VQ false [])
/-- `VISUB` (R225). -/
def execVisub (h : Hdr) (f : Rrr) (s : State) : Result := .next (s.shaped (.visub h f) f tyI .VQ .VQ false [])
/-- `VIMUL` (R225). -/
def execVimul (h : Hdr) (f : Rrr) (s : State) : Result := .next (s.shaped (.vimul h f) f tyI .VQ .VQ false [])
/-- `VAND` (R225). -/
def execVand (h : Hdr) (f : Rrr) (s : State) : Result := .next (s.shaped (.vand h f) f tyAny .VQ .VQ false [])
/-- `VOR` (R225). -/
def execVor (h : Hdr) (f : Rrr) (s : State) : Result := .next (s.shaped (.vor h f) f tyAny .VQ .VQ false [])
/-- `VXOR` (R225). -/
def execVxor (h : Hdr) (f : Rrr) (s : State) : Result := .next (s.shaped (.vxor h f) f tyAny .VQ .VQ false [])
/-- `VSHL` (R225). -/
def execVshl (h : Hdr) (f : Rrr) (s : State) : Result := .next (s.shaped (.vshl h f) f tyI .VQ .VQ false [])
/-- `VSHR` (R225). -/
def execVshr (h : Hdr) (f : Rrr) (s : State) : Result := .next (s.shaped (.vshr h f) f tyI .VQ .VQ false [])
/-- `VSAR` (R225). -/
def execVsar (h : Hdr) (f : Rrr) (s : State) : Result := .next (s.shaped (.vsar h f) f tyI .VQ .VQ false [])
/-- `VIMIN` (R225). -/
def execVimin (h : Hdr) (f : Rrr) (s : State) : Result := .next (s.shaped (.vimin h f) f tyI .VQ .VQ false [])
/-- `VIMAX` (R225). -/
def execVimax (h : Hdr) (f : Rrr) (s : State) : Result := .next (s.shaped (.vimax h f) f tyI .VQ .VQ false [])
/-- `VRCP` (R229 to R233). -/
def execVrcp (h : Hdr) (f : Rrr) (s : State) : Result := .next (s.shaped (.vrcp h f) f tyF .VQ .VQ false [])
/-- `VRSQ` (R229 to R233). -/
def execVrsq (h : Hdr) (f : Rrr) (s : State) : Result := .next (s.shaped (.vrsq h f) f tyF .VQ .VQ false [])
/-- `VSQRT` (R229 to R233). -/
def execVsqrt (h : Hdr) (f : Rrr) (s : State) : Result := .next (s.shaped (.vsqrt h f) f tyF .VQ .VQ false [])
/-- `VEXP2` (R229 to R233). -/
def execVexp2 (h : Hdr) (f : Rrr) (s : State) : Result := .next (s.shaped (.vexp2 h f) f tyF .VQ .VQ false [])
/-- `VLOG2` (R229 to R233). -/
def execVlog2 (h : Hdr) (f : Rrr) (s : State) : Result := .next (s.shaped (.vlog2 h f) f tyF .VQ .VQ false [])
/-- `VSIN` (R229 to R234). -/
def execVsin (h : Hdr) (f : Rrr) (s : State) : Result := .next (s.shaped (.vsin h f) f tyF .VQ .VQ false [])
/-- `VCOS` (R229 to R234). -/
def execVcos (h : Hdr) (f : Rrr) (s : State) : Result := .next (s.shaped (.vcos h f) f tyF .VQ .VQ false [])
/-- `VTANH` (R229 to R235). -/
def execVtanh (h : Hdr) (f : Rrr) (s : State) : Result := .next (s.shaped (.vtanh h f) f tyF .VQ .VQ false [])
/-- `VSIGM` (R229 to R235). -/
def execVsigm (h : Hdr) (f : Rrr) (s : State) : Result := .next (s.shaped (.vsigm h f) f tyF .VQ .VQ false [])
/-- `VMOV` (R237). -/
def execVmov (h : Hdr) (f : Rrr) (s : State) : Result := .next (s.shaped (.vmov h f) f tyAny .VQ .VQ false [])
/-- `VBCAST`: its source is read whole at issue (R237). -/
def execVbcast (h : Hdr) (f : Rrr) (s : State) : Result :=
  .next (s.shaped (.vbcast h f) f tyAny .VQ .VQ false (s.getFile s.cur.1 .v (4096 * s.reg .VQ f.ra) 4096))
/-- `VIOTA` (R240). -/
def execViota (h : Hdr) (f : Rrr) (s : State) : Result := .next (s.shaped (.viota h f) f [2] .VQ .VQ false [])
/-- `VRNG` (R241). -/
def execVrng (h : Hdr) (f : Rrr) (s : State) : Result := .next (s.shaped (.vrng h f) f [2] .VQ .VQ false [])

/-! ## Conversion, quantisation and reductions -/

/-- `VCVT` (R226). -/
def execVcvt (h : Hdr) (f : Rrr) (s : State) : Result :=
  let aux := s.vecAux f .VQ .VQ .VQ
  let src := f.md.toNat % 16
  let dst := f.md.toNat / 16
  let n := aux.getD 4 0 * aux.getD 5 0
  let g := 256 / max (fmtSize src) (fmtSize dst)
  let ps := (n + g - 1) / g
  let m := if 32 ≤ aux.getD 0 0 then (n * fmtSize dst + 255) / 256 else 0
  let ready := fun j : Nat => s.tc + min (ps - 1) (((j + 1) * 256 / fmtSize dst - 1) / g) + 4
  .next (s.vecChecked (.vcvt h f) (4 < src || 4 < dst || fmtSize src != aux.getD 6 0 || 4096 < n * fmtSize dst) fun s =>
    s.vecBegin (.vcvt h f) aux ps m ready 0 [] [])

/-- QEXP of `VQNT` (R227). -/
def vqntExp (f : Rrr) : Int := (BitVec.ofNat 9 (f.fn.toNat * 16 + f.md.toNat / 16)).toInt

/-- Checks 1, 2, 3 and 7 of R89 (R227), and what `VQNT` asks of format and shape. -/
def State.vqntCheck (s : State) (h : Handle) (n esz : Nat) : Option (FaultKind × Nat) :=
  if h.getLsbD 255 || h.extractLsb' 196 4 != 0 then some (.handle, 0)
  else if 7 ≤ hFmt h then some (.format, 0)
  else if hSoff h != 0 && hFmt h != 5 then some (.handle, 0)
  else if hSrv h && !(s.my.recs.any fun r => r.1 == hSrec h) then some (.record, 1)
  else if hFmt h = 6 || esz != 4 || (hFmt h = 5 && n % 32 != 0) then some (.format, 0)
  else none

/-- `VQNT` (R227). Its vector registers are checked first, then the handle and the format, then the mode and the record
(notes/assumptions/72.md). -/
def execVqnt (hd : Hdr) (f : Rrr) (s : State) : Result :=
  let aux := s.vecAux f .VQ .VQ .H
  let h := Map.get s.me.h (f.rc.toNat % 16)
  let n := aux.getD 4 0 * aux.getD 5 0
  let cap := entryCap (hFmt h) false
  let ps := (n + 63) / 64
  let m := (n + cap - 1) / cap
  let ready := fun j : Nat => s.tc + min (ps - 1) (((j + 1) * cap - 1) / 64) + 6
  let go := fun (t : Int) (s : State) => s.vecBegin (.vqnt hd f) aux ps m ready h [(t + 1024).toNat] []
  .next (if s.str.now.deadFor f.kp.toNat then go 0 s
    else
      s.vecChecked (.vqnt hd f) false fun s =>
        match s.vqntCheck h n (aux.getD 6 0) with
        | some (k, d) => s.fault k d
        | none => s.withScale h (f.md.toNat % 4) (vqntExp f) (hXseal h) (f.md.getLsbD 2) go)

/-- A reduction (R236). -/
def State.reduce (s : State) (i : Instr) (f : Rrr) : State :=
  let aux := s.vecAux f .VQ .VQ .VQ
  let ty := f.md.toNat % 16
  let count := if (reduceKind i).2 then aux.getD 4 0 else aux.getD 5 0
  let n := piecesOf aux
  let m := if 32 ≤ aux.getD 0 0 then (4 * count + 255) / 256 else 0
  s.vecChecked i ((ty != 0 && ty != 2) || aux.getD 6 0 != 4) fun s =>
    s.vecBegin i aux n m (fun _ => s.tc + n + 24) 0 [] []

/-- `VRSUM` (R236). -/
def execVrsum (h : Hdr) (f : Rrr) (s : State) : Result := .next (s.reduce (.vrsum h f) f)
/-- `VRMAX` (R236). -/
def execVrmax (h : Hdr) (f : Rrr) (s : State) : Result := .next (s.reduce (.vrmax h f) f)
/-- `VCSUM` (R236). -/
def execVcsum (h : Hdr) (f : Rrr) (s : State) : Result := .next (s.reduce (.vcsum h f) f)
/-- `VCMAX` (R236). -/
def execVcmax (h : Hdr) (f : Rrr) (s : State) : Result := .next (s.reduce (.vcmax h f) f)

/-! ## Moves -/

/-- `VQPOP` (R238). -/
def execVqpop (h : Hdr) (f : Rrr) (s : State) : Result :=
  .next (s.vecChecked (.vqpop h f) false fun s =>
    s.pop (s.reg .Q f.ra) fun e s =>
      s.land (s.tc + 1) (.bytes .v (4096 * s.reg .V f.rd + 256 * (f.md.toNat % 16)) (entryBytes e)))

/-- `VQPUSH` (R238). -/
def execVqpush (h : Hdr) (f : Rrr) (s : State) : Result :=
  .next (s.vecChecked (.vqpush h f) false fun s =>
    s.push (s.reg .Q f.rd) (entryOf (s.getFile s.cur.1 .v (4096 * s.reg .V f.ra + 256 * (f.md.toNat % 16)) 256)) (s.tc + 1))

/-- `TMOV.R` (R239). -/
def execTmovR (h : Hdr) (f : Rrr) (s : State) : Result :=
  .next (s.vecChecked (.tmovR h f) (4 < f.md.toNat % 16) fun s =>
    s.vecBegin (.tmovR h f) (s.vecAux f .T .VQ .VQ) 16 0 (fun _ => 0) 0 [] [])

/-- `TMOV.C` (R239). -/
def execTmovC (h : Hdr) (f : Rrr) (s : State) : Result :=
  let aux := s.vecAux f .VQ .T .VQ
  .next (s.vecChecked (.tmovC h f) (4 < f.md.toNat % 16) fun s =>
    s.vecBegin (.tmovC h f) aux 16 (if 32 ≤ aux.getD 0 0 then 16 else 0) (fun j => s.tc + j + 4) 0 [] [])

end Sys2Proof.Machine
end

