-- ==== Sys2Proof/Machine/Matrix.lean ====
section
/-! DEFINITION. Matrix instructions: format words, stationary weights, multiply-accumulate, zeroing, filling and draining banks,
swaps, fusion, the self-test, event bits and codebooks (spec/11_isa_matrix.md R243 to R268; spec/07_encoding.md R146, R147). -/

namespace Sys2Proof.Machine

/-! ## Format words -/

/-- AFMT, BFMT and OFMT (R146). -/
def wAfmt (w : Word) : Nat := (w.extractLsb' 60 4).toNat
def wBfmt (w : Word) : Nat := (w.extractLsb' 56 4).toNat
def wOfmt (w : Word) : Nat := (w.extractLsb' 52 4).toNat
/-- ASCL + BSCL (R146, R254). -/
def wScale (w : Word) : Int := (w.extractLsb' 42 10).toInt + (w.extractLsb' 32 10).toInt
/-- EDGE is west (R146). -/
def wWest (w : Word) : Bool := w.getLsbD 31
/-- CBID, QMODE, QEXP and XSEAL (R146). -/
def wCbid (w : Word) : Nat := (w.extractLsb' 28 3).toNat
def wQmode (w : Word) : Nat := (w.extractLsb' 25 2).toNat
def wQexp (w : Word) : Int := (w.extractLsb' 16 9).toInt
def wXseal (w : Word) : BitVec 8 := w.extractLsb' 8 8
/-- TQ and STALE (R146). -/
def wTq (w : Word) : Bool := w.getLsbD 27
def wStale (w : Word) : Bool := w.getLsbD 7

/-- Pops a format word at issue (R30, R246); an empty `fq` is an underflow. -/
def State.popFmt (s : State) (k : Word → State → State) : State :=
  match s.me.fq with
  | [] => s.fault .deviation 0x07
  | w :: ws => k w (s.modMe fun x => { x with fq := ws })

/-- Goes on where bits 6 to 0 are zero and a command's own conditions hold; otherwise a format fault (R147). -/
def State.fmtOk (s : State) (w : Word) (ok : Bool) (k : State → State) : State :=
  if w.extractLsb' 0 7 != 0 || !ok then s.fault .format 0 else k s

/-! ## The array -/

/-- The bank contents that a name has now (R262). -/
def Core.contents (x : Core) (bank : BitVec 1) : Nat := if x.arr.swap then 1 - bank.toNat else bank.toNat

/-- Changes the array of the executing core. -/
def State.modArr (s : State) (f : Array → Array) : State := s.modMe fun x => { x with arr := f x.arr }

/-- The array holds a command from now to its completion tc (R248); `set` is the weight set that it uses. -/
def State.holdCmd (s : State) (completion : Nat) (set : Option Nat) : State :=
  s.modArr fun a => { a with held := (a.held.filter fun h => s.tc < h.done) ++ [⟨s.tc, completion + 1, set⟩] }

/-- A command that core `c`'s array holds at tc `t`; those of this tc apart where `before` (R248, R249). -/
def Core.holds (x : Core) (t : Nat) (before : Bool) : Bool := x.arr.held.any fun h => t < h.done && (!before || h.start < t)

/-- The rows of an MX word, NR, and its panels, NP (R245). -/
def mxRows (f : Mx) : Nat := f.nrow.toNat + 1
def mxPanels (f : Mx) : Nat := f.npan.toNat + 1

/-! ## Weights -/

/-- The format pairs of R250. -/
def pairOk (a b : Nat) : Bool :=
  (a ≤ 1 && (b == 1 || b == 6 || b == 3 || b == 4 || b == 5)) || ((a == 3 || a == 4) && (b == 3 || b == 4)) || (a == 5 && b == 5)

/-- LNS6 pair mode, and integer mode (R250). -/
def pairMode (a b : Nat) : Bool := a == 5 && b == 5
def intMode (a : Nat) : Bool := a == 3 || a == 4

/-- nL of R251. -/
def ldwLines (a b : Nat) : Nat := if pairOk a b then (if pairMode a b then 52 else (tileLines b).getD 1) else 1

/-- The key of a weight cell: set, cell row c and column n (R243). -/
def cellKey (set c n : Nat) : Nat := set * 4096 + c * 64 + n

/-- One weight from the bytes of an image (R97, R252): an LNS6 weight is its code with its block's scale above it. -/
def imageWeight (fmt : Nat) (bs : List Byte) (r n : Nat) : Nat :=
  match fmt with
  | 1 | 6 => leNat ((bs.drop (128 * r + 2 * n)).take 2)
  | 5 =>
    let b := 2 * r + n / 32
    codeAt ((bs.drop (24 * b)).take 24) (n % 32) + 64 * (bs.getD (3072 + b) 0).toNat
  | _ => leNat ((bs.drop (64 * r + n)).take 1)

/-- A cell of the standby set (R252): one weight, or the four slots of LNS6 pair mode at 14 bits each. -/
def cellOf (pair west : Bool) (fmt : Nat) (bs : List Byte) (c n : Nat) : BitVec 56 :=
  if pair then
    BitVec.ofNat 56 ((List.range 4).foldl
      (fun a q => a + imageWeight 5 ((bs.drop (3328 * q)).take 3328) c n * 2 ^ (14 * q)) 0)
  else BitVec.ofNat 56 (if west then imageWeight fmt bs n c else imageWeight fmt bs c n)

/-- A line of indices expanded through a codebook (R74, R251). -/
def State.expandLine (s : State) (cb : Nat) (bs : List Byte) : List Byte :=
  bs.flatMap fun i => s.getFile s.cur.1 .cb (2048 * cb + 8 * i.toNat) 8

/-- One line of `MX.LDW`: `buf` gathers the image, and the last line fills the standby set, which becomes active on X (R251). The
format word is in `cu`. -/
def mxLdwStep (a : Act) (s : State) : State :=
  let w : Word := BitVec.ofNat 64 (a.cu.getD 0 0)
  let line := s.getFile s.cur.1 .wb (256 * ((a.x 0 + a.j) % 256)) 256
  let buf := a.buf ++ if wBfmt w = 6 then s.expandLine (wCbid w) line else line
  if a.j + 1 < a.n then s.modStr fun x => { x with act := x.act.map fun b => { b with buf := buf } }
  else
    let set := 1 - s.me.arr.active
    s.modArr fun r => { r with
      wset := (List.range 64).foldl (fun m c => (List.range 64).foldl (fun m n =>
        Map.set m (cellKey set c n) (cellOf (pairMode (wAfmt w) (wBfmt w)) (wWest w) (wBfmt w) buf c n)) m) r.wset }

/-! ## Products and sums -/

/-- Element `k` of an A-row with its block's scale (R253). -/
def aElem (fmt k : Nat) (e : Entry) : Nat × Nat := unpackRaw fmt k e.toNat

/-- An operand's exact value, with the flags of reading it (R70). -/
def operandVal (fmt code scale : Nat) : Val × Flags :=
  if fmt = 5 then lnsVal code scale else (widen (if fmt = 6 then 1 else fmt) (BitVec.ofNat 32 code), 0)

/-- prod of R254: one rounding of the scaled exact product (R70). -/
def prodOf (afmt bfmt : Nat) (sc : Int) (a : Nat × Nat) (w : BitVec 56) : BitVec 32 × Flags :=
  let x := operandVal afmt a.1 a.2
  let y := if bfmt = 5 then operandVal 5 (w.toNat % 64) (w.toNat / 64 % 256) else operandVal bfmt w.toNat 0
  let p := mulVal x.1 y.1
  let r := rnd32 0 (scaleVal p.1 sc)
  (r.1, x.2 ||| y.2 ||| p.2 ||| r.2)

/-- p[c] of LNS6 pair mode (R69, R254). -/
def pairProd (sc : Int) (e : Entry) (c : Nat) (w : BitVec 56) : BitVec 32 × Flags :=
  let q := fun m =>
    let a := aElem 5 (4 * c + m) e
    let b := w.toNat / 2 ^ (14 * m) % 2 ^ 14
    let p := lnsProd a.1 a.2 (b % 64) (b / 64) sc
    let r := rnd32 0 p.1
    (r.1, p.2 ||| r.2)
  let l := fadd (q 0).1 (q 1).1
  let h := fadd (q 2).1 (q 3).1
  let t := fadd l.1 h.1
  (t.1, (q 0).2 ||| (q 1).2 ||| (q 2).2 ||| (q 3).2 ||| l.2 ||| h.2 ||| t.2)

/-- The sum of array column `n` for an A-row, with its bank events (R254, R256). -/
def Core.column (x : Core) (set k afmt bfmt : Nat) (sc : Int) (e : Entry) (n : Nat) : BitVec 32 × BitVec 3 :=
  let ps := (List.range k).map fun c =>
    let w := Map.get x.arr.wset (cellKey set c n)
    if pairMode afmt bfmt then pairProd sc e c w else prodOf afmt bfmt sc (aElem afmt c e) w
  let r := colChain (ps.map (·.1))
  (r.1, bankEvt false (ps.foldl (fun f p => f ||| p.2) 0) ||| bankEvt (intMode afmt) r.2)

/-- A core is the east one of a fused pair (R264). -/
def Core.eastFused (x : Core) (c : Nat) : Bool := x.arr.fused && c % 2 == 1

/-- One A-row of `MX.MAC` (R253 to R255, R264). `aux` holds queue, bank contents, row, first column, K, weight set, overwriting and
whether the core is a fused east core; the format word is in `cu`. -/
def mxMacStep (a : Act) (s : State) : State :=
  let go := fun (e : Entry) (s : State) =>
    let s := s.modArr fun r => { r with fwd := e }
    if !s.guard then s
    else
      let w : Word := BitVec.ofNat 64 (a.cu.getD 0 0)
      let x := s.me
      let sums := (List.range 64).map (x.column (a.x 5) (a.x 4) (wAfmt w) (wBfmt w) (wScale w) e)
      s.land (s.tc + 66 + 2 * a.x 7) (.mac (a.x 1) (a.x 2 + a.j) (a.x 3) (a.x 6 == 1) (intMode (wAfmt w)) (32 < a.x 4) sums)
  if a.x 7 = 1 then go (s.core (s.cur.1 - 1)).arr.fwd s else s.pop (a.x 0) go

/-! ## Filling and codebooks -/

/-- One entry of `MX.FILL` (R257). -/
def mxFillStep (a : Act) (s : State) : State :=
  s.pop (a.x 0) fun e s =>
    if !s.guard then s
    else
      let vals := (List.range 64).map fun i => e.extractLsb' (32 * i) 32
      s.land (s.tc + 2) (.acc (a.x 1) (a.x 2 + a.j / a.x 4) (a.x 3 + a.j % a.x 4) (a.x 5 == 1) vals)

/-- One entry of `MX.CB` (R267). -/
def mxCbStep (a : Act) (s : State) : State :=
  s.pop (a.x 0) fun e s =>
    if s.guard then s.land (s.tc + 1) (.bytes .cb (a.x 1 + 256 * a.j) (entryBytes e)) else s

/-! ## Draining -/

/-- The FP32 values of a row of a panel of bank contents, as they stand (R259). -/
def Core.panelRow (x : Core) (bank row p : Nat) : List (BitVec 32) :=
  (List.range 64).map fun n => Map.get x.arr.acc (accKey bank row (64 * p + n))

/-- The sub-arrays whose results a row of a panel holds (R265). -/
def Core.panelTaint (x : Core) (bank row p : Nat) : BitVec 4 :=
  (List.range 64).foldl (fun b n => b ||| Map.get x.arr.taint (accKey bank row (64 * p + n))) 0

/-- Remembers what a piece of a drain has put out from results of some sub-arrays (R265); `from_` is the first number that its accesses
could have. -/
def State.noteDrain (s : State) (bits : BitVec 4) (from_ : Nat) (h : Handle) (slots : List (Nat × List Nat)) (entry : Option (Nat × Nat)) : State :=
  if bits = 0 then s
  else
    let timed := if !timedSrc h then [] else match s.resolve h (fun _ => true) false slots with
      | .ok els => (els.flatMap (·.parts)).map fun p =>
        let (c, f, k) := s.timedAt p.1
        (c, f, fileBase c f + k, p.2)
      | .error _ => []
    s.modArr fun r => { r with drained := r.drained ++ [⟨bits, timed, s.tc + timedLat (ptrTag (hBase h)), s.str.landSeq, (from_, s.uid), entry⟩] }

/-- Words of bytes. -/
def wordsOf (bs : List Byte) : List (BitVec 32) :=
  (List.range (bs.length / 4)).map fun i => BitVec.ofNat 32 (leNat ((bs.drop (4 * i)).take 4))

/-- The row of a panel that a piece of a drain puts out, as it stands on the piece's tc (R259). -/
def drainRow (a : Act) (s : State) : List (BitVec 32) := s.me.panelRow (a.x 0) (a.x 1 + a.j / a.x 3) (a.x 2 + a.j % a.x 3)

/-- The sub-arrays whose results that row holds (R265). -/
def drainTaint (a : Act) (s : State) : BitVec 4 := s.me.panelTaint (a.x 0) (a.x 1 + a.j / a.x 3) (a.x 2 + a.j % a.x 3)

/-- A drained row as an output entry (R259). Whether a drain with QMODE 0 quantises is left between R110 and R259: that its clamps and overflows
always count in OCNT and EVT.OVF, and never set EVT.SAT, is the model's choice (notes/assumptions/70.md). -/
def drainQueue (a : Act) (s : State) : State :=
  let (e, ovf, fl) := qntEntry (hFmt a.hnd) ((a.x 7 : Int) - 1024) (drainRow a s)
  let t := (s.push (a.x 9 - 1) e (s.tc + 2)).setFlags (a.x 5) fl
  (ovf.foldl (fun s n => s.stat a.hnd none (a.j / a.x 3 * 64 * a.x 3 + 64 * (a.j % a.x 3) + n) true 0 (a.x 5)) t).noteDrain
    (drainTaint a s) s.uid a.hnd [] (some (a.x 9 - 1, s.tc + 2))

/-- The events that join the first element of a drain's piece (R259): those of the bank, where `first` holds. -/
def drainEvt (a : Act) (first : Bool) : BitVec 8 := if first then BitVec.ofNat 8 (8 * a.x 6) else 0

/-- A drained row `xs` through handle `h`, 32 elements a block (R259, R260). -/
def drainElems (a : Act) (h : Handle) (k : Nat) (cu : List Nat) (t : Int) (xs : List (BitVec 32)) (used : BitVec 4) (ev : BitVec 8)
    (copy : Bool) (s : State) : State :=
  let sl := drainSlots h (a.j / a.x 3) (64 * (a.j % a.x 3)) copy
  (s.writePieceEv a.ins h k cu (quantPiece 2 (hFmt h) t sl fun n => xs.getD n 0) ev (a.x 5)).noteDrain used s.uid h sl none

/-- The 64 blocks of an LNS6 copy that end with this row, from the rows gathered (R260). -/
def drainBlocks (a : Act) (h : Handle) (t : Int) (rows : List Byte) (used : BitVec 4) (s : State) : State :=
  let i := a.j / a.x 3
  let p := a.j % a.x 3
  let sl := copySlots h i (64 * p)
  let x := fun k : Nat => BitVec.ofNat 32 (leNat ((rows.drop (4 * (64 * (k % 32 * a.x 3 + p) + k / 32))).take 4))
  (s.writePieceEv a.ins h (2 * a.j + 1) [i, 64 * p, 0, 0] (quantPiece 64 5 t sl x) (drainEvt a (i = 31 && p = 0)) (a.x 5)).noteDrain
    (s.me.arr.drained.foldl (fun b d => b ||| d.bits) used) s.uid h sl none

/-- The transposed copy of a drain (R260): a row of elements, or for LNS6 a row gathered until 32 make blocks. -/
def drainCopy (a : Act) (xs : List (BitVec 32)) (used : BitVec 4) (s : State) : State :=
  let h : Handle := BitVec.ofNat 256 (leNat (a.buf.take 32))
  let t : Int := (a.x 8 : Int) - 1024
  let i := a.j / a.x 3
  if hFmt h = 5 then
    let rows := a.buf.drop 32 ++ xs.flatMap fun v => leBytes 4 v.toNat
    let s := if i % 32 = 31 then drainBlocks a h t rows used s else s
    s.keepBuf (a.buf.take 32 ++ if i % 32 = 31 && a.j % a.x 3 = a.x 3 - 1 then [] else rows)
  else drainElems a h (2 * a.j + 1) [i, 64 * (a.j % a.x 3), 0, 0] t xs used (drainEvt a (a.j = 0)) true s

/-- With ZAFT a piece of a drain zeroes its row of the panel at the next tc (R261). -/
def drainZero (a : Act) (s : State) : State :=
  if a.x 4 = 1 && s.alive then s.land (s.tc + 1) (.accZero (a.x 0) (a.x 1 + a.j / a.x 3) 1 (a.x 2 + a.j % a.x 3) 1) else s

/-- One piece of `MX.DRAIN` (R259 to R261). `aux` holds bank contents, row, first panel, NP, ZAFT, the tc of flags, the events, the
two tensor scale exponents plus 1024, output queue plus 1 or 0, and whether there is a copy; `buf` the handle of the copy and the
rows of its blocks so far. -/
def mxDrainStep (a : Act) (s : State) : State :=
  if !s.guard then (if a.x 9 = 0 then s else s.push (a.x 9 - 1) 0 (s.tc + 2))
  else
    let xs := drainRow a s
    let used := drainTaint a s
    let t := if a.x 9 != 0 then drainQueue a s
      else drainElems a a.hnd (2 * a.j) [64 * (a.j % a.x 3), a.j / a.x 3, 0, 0] ((a.x 7 : Int) - 1024) xs used (drainEvt a (a.j = 0)) false s
    drainZero a (if a.x 10 = 0 || !t.alive then t else drainCopy a xs used t)

/-- One piece of an M instruction. -/
def matStep (a : Act) (s : State) : State :=
  match a.ins with
  | .mxLdw _ _ => mxLdwStep a s
  | .mxMac _ _ => mxMacStep a s
  | .mxFill _ _ => mxFillStep a s
  | .mxCb _ _ => mxCbStep a s
  | .mxDrain _ _ => mxDrainStep a s
  | _ => s

/-! ## Instructions -/

/-- `MX.LDW` (R249 to R252). -/
def execMxLdw (h : Hdr) (f : Mx) (s : State) : Result :=
  .next (s.popFmt fun w s =>
    let a := wAfmt w
    let b := wBfmt w
    let n := ldwLines a b
    let arr := s.me.arr
    if !s.guard then s.occupy n
    else
      s.fmtOk w (pairOk a b && !(pairMode a b && wWest w)) fun s =>
        if arr.switch.isSome || arr.held.any fun c => s.tc < c.done && c.set == some (1 - arr.active) then s.fault .matrix 1
        else
          let x := s.tc + n + 64
          let s := (s.holdCmd x none).modArr fun r => { r with switch := some x }
          let s := s.land x (.switchSet a b)
          (s.begin (.mxLdw h f) 0 n 0 [w.toNat] [f.wline.toNat] []).pieceWith matStep)

/-- `MX.MAC` (R253 to R255, R264). -/
def execMxMac (h : Hdr) (f : Mx) (s : State) : Result :=
  .next (s.popFmt fun w s =>
    let x := s.me
    let set := x.arr.active
    let east := x.eastFused s.cur.1
    let aux := [f.qsrc.toNat, x.contents f.bank, f.row.toNat, 64 * f.pan.toNat, (f.fn.extractLsb' 0 6).toNat + 1, set,
      if f.fn.getLsbD 6 then 1 else 0, if east then 1 else 0]
    let go := fun s : State => (s.begin (.mxMac h f) 0 (mxRows f) 0 [w.toNat] aux []).pieceWith matStep
    if !s.guard then go s
    else
      s.fmtOk w (wAfmt w == x.arr.wfmt.getD (2 * set) 1 && wBfmt w == x.arr.wfmt.getD (2 * set + 1) 1) fun s =>
        let s := (s.holdCmd (s.tc + f.nrow.toNat + 129 + if east then 2 else 0) (some set)).modArr fun r =>
          { r with last := [s.tc, 0, f.nrow.toNat, (f.fn.extractLsb' 0 6).toNat, wAfmt w, wBfmt w, f.qsrc.toNat] }
        go s)

/-- `MX.ZERO` (R257). -/
def execMxZero (_ : Hdr) (f : Mx) (s : State) : Result :=
  .next (s.popFmt fun w s =>
    if !s.guard then s
    else
      s.fmtOk w true fun s =>
        (s.holdCmd (s.tc + 1) none).land (s.tc + 1)
          (.accZero (s.me.contents f.bank) f.row.toNat (mxRows f) f.pan.toNat (mxPanels f)))

/-- `MX.FILL` (R246, R257). -/
def execMxFill (h : Hdr) (f : Mx) (s : State) : Result :=
  let n := mxRows f * mxPanels f
  .next (s.popFmt fun w s =>
    let aux := [f.qsrc.toNat, s.me.contents f.bank, f.row.toNat, f.pan.toNat, mxPanels f, if f.fn.getLsbD 0 then 1 else 0]
    let go := fun s : State => (s.begin (.mxFill h f) 0 n 0 [] aux []).pieceWith matStep
    if !s.guard then go s else s.fmtOk w (wAfmt w == 0) fun s => go (s.holdCmd (s.tc + n + 1) none))

/-- The checks of R258 and R260 on a drain's handles, and what is left of R147. -/
def State.drainCheck (s : State) (w : Word) (f : Mx) : Option (FaultKind × Nat) :=
  let n := (f.fn.extractLsb' 0 4).toNat
  let h := Map.get s.me.h n
  let h2 := Map.get s.me.h (n + 1)
  let q := f.fn.getLsbD 4
  let two := wTq w && n != 15
  match s.handleCheck h (!q) [] with
  | some e => some e
  | none =>
    match if two then s.handleCheck h2 (!q) [] else none with
    | some e => some e
    | none =>
      if wOfmt w != hFmt h || wOfmt w = 6 || (two && hFmt h2 == 6) || (wTq w && q) then some (.format, 0)
      else if wTq w && n = 15 then some (.handle, 0)
      else if wQmode w = 1 && (!hSrv h || (two && !hSrv h2)) then some (.record, 2)
      else if two && hFmt h2 == 5 && mxRows f % 32 != 0 then some (.format, 0)
      else none

/-- The tc after which a drain's last timed write through a handle lands; 0 where it has none (R261). -/
def drainLand (h : Handle) (rows np start : Nat) (transposed : Bool) : Nat :=
  if !timedSrc h then 0
  else
    let js := (List.range (rows * np)).filter fun j =>
      if transposed && hFmt h == 5 then j / np % 32 == 31 && !(copySlots h (j / np) (64 * (j % np))).isEmpty
      else !(drainSlots h (j / np) (64 * (j % np)) transposed).isEmpty
    match js.getLast? with
    | some j => start + j + handleLat h
    | none => 0

/-- Starts the pieces of a drain whose checks have passed (R259 to R261): with CLR and a true guard the bank's event bits are cleared at
once, and each piece reads the rows as they stand on its tc. -/
def State.startDrain (s : State) (hd : Hdr) (f : Mx) (h h2 : Handle) (b last : Nat) (q two : Bool) (t t2 : Int) : State :=
  let aux := [b, f.row.toNat, f.pan.toNat, mxPanels f, if f.fn.getLsbD 6 then 1 else 0, last, (s.me.arr.evt.getD b 0).toNat,
    (t + 1024).toNat, (t2 + 1024).toNat, if q then f.qsrc.toNat + 1 else 0, if two then 1 else 0]
  let s := if f.fn.getLsbD 5 && s.guard then s.modArr fun r => { r with evt := setAt r.evt b 0, evtTaint := setAt r.evtTaint b 0 } else s
  (s.begin (.mxDrain hd f) 0 (mxRows f * mxPanels f) h [] aux (leBytes 32 h2.toNat)).pieceWith matStep

/-- `MX.DRAIN` (R258 to R261). -/
def execMxDrain (hd : Hdr) (f : Mx) (s : State) : Result :=
  let n := mxRows f * mxPanels f
  .next (s.popFmt fun w s =>
    let k := (f.fn.extractLsb' 0 4).toNat
    let h := Map.get s.me.h k
    let h2 := Map.get s.me.h (k + 1)
    let q := f.fn.getLsbD 4
    let b := s.me.contents f.bank
    let two := wTq w && !q
    let last := max (s.tc + n) (max (if q then s.tc + n + 1 else drainLand h (mxRows f) (mxPanels f) s.tc false)
      (if two then drainLand h2 (mxRows f) (mxPanels f) s.tc true else 0))
    let go := fun (t t2 : Int) (s : State) => s.startDrain hd f h h2 b last q two t t2
    if !s.guard then go 0 0 s
    else
      s.fmtOk w (wOfmt w < 6 && wQmode w != 3) fun s =>
        match s.drainCheck w f with
        | some (kd, d) => s.fault kd d
        | none =>
          s.withScale h (wQmode w) (wQexp w) (wXseal w) (wStale w) fun t s =>
            if two then
              s.withScale h2 (wQmode w) (wQexp w) (hXseal h2) (wStale w) fun t2 s => go t t2 (s.holdCmd last none)
            else go t 0 (s.holdCmd last none))

/-- `MX.SWAP` (R262). -/
def execMxSwap (_ : Hdr) (_ : Mx) (s : State) : Result :=
  .next (if s.guard then (s.holdCmd (s.tc + 1) none).land (s.tc + 1) .swapBanks else s)

/-- A fusion change: no command of the quad may be held; whether all four cores take part is judged at the end of the tc (R249,
R263). -/
def State.setFuse (s : State) (on : Bool) : State :=
  let q := quadOf s.cur.1
  if !s.guard then s
  else if (List.range 4).any fun i => (s.core (4 * q + i)).holds s.tc true then s.fault .matrix 3
  else
    let s := (s.holdCmd (s.tc + 1) none).modArr fun r => { r with last := [s.tc, 1, if on then 1 else 0] }
    s.land (s.tc + 1) (.fuse on)

/-- `MX.FUSE.on` (R263). -/
def execMxFuseOn (_ : Hdr) (_ : Mx) (s : State) : Result := .next (s.setFuse true)
/-- `MX.FUSE.off` (R263). -/
def execMxFuseOff (_ : Hdr) (_ : Mx) (s : State) : Result := .next (s.setFuse false)

/-- `MX.TEST.run`: which sub-arrays fail is a free value (R265; notes/assumptions/9.md). -/
def execMxTestRun (_ : Hdr) (f : Mx) (s : State) : Result :=
  .next (if !s.guard then (s.push f.qsrc.toNat 0 (s.tc + 72)).occupy 72
    else if s.me.holds s.tc false then s.fault .matrix 3
    else
      let (w, s) := s.freeWord
      ((s.holdCmd (s.tc + 72) none).push f.qsrc.toNat (wordEntry (w &&& 0xF)) (s.tc + 72)).occupy 72)

/-- The rattle policy, from the next tc on (R265). -/
def State.setPolicy (s : State) (report : Bool) : State :=
  if s.guard then (s.holdCmd s.tc none).land (s.tc + 1) (.policy report) else s

/-- `MX.TEST.fatal` (R265). -/
def execMxTestFatal (_ : Hdr) (_ : Mx) (s : State) : Result := .next (s.setPolicy false)
/-- `MX.TEST.report` (R265). -/
def execMxTestReport (_ : Hdr) (_ : Mx) (s : State) : Result := .next (s.setPolicy true)

/-- `MX.EVT` (R266). -/
def execMxEvt (_ : Hdr) (f : Mx) (s : State) : Result :=
  let b := s.me.contents f.bank
  let v := s.me.arr.evt.getD b 0
  .next (if !s.guard then s.push f.qsrc.toNat 0 (s.tc + 1)
    else
      let s := (s.holdCmd (s.tc + 1) none).push f.qsrc.toNat (wordEntry (v.zeroExtend 64)) (s.tc + 1)
      if f.fn.getLsbD 0 then s.modArr fun r => { r with evt := setAt r.evt b 0, evtTaint := setAt r.evtTaint b 0 } else s)

/-- `MX.CB` (R267). -/
def execMxCb (h : Hdr) (f : Mx) (s : State) : Result :=
  let n := (f.fn.extractLsb' 6 3).toNat + 1
  let at_ := 2048 * (f.fn.extractLsb' 0 3).toNat + 256 * (f.fn.extractLsb' 3 3).toNat
  .next (((if s.guard then s.holdCmd (s.tc + n) none else s).begin (.mxCb h f) 0 n 0 [] [f.qsrc.toNat, at_] []).pieceWith matStep)

/-! ## Commands of a quad -/

/-- The `MX.FUSE` or `MX.MAC` that a core issued on tc `t`, as what its partners must match; empty for none. -/
def Core.lastAt (x : Core) (t kind : Nat) : List Nat :=
  match x.arr.last with
  | u :: k :: r => if u = t && k = kind then r ++ [0] else []
  | _ => []

/-- The cores of a cohort whose fused commands of its tc do not match (R263, R264). -/
def State.fuseMismatch (s : State) (n : Nat) : List Nat :=
  let x := s.slot n
  let t := x.tc
  x.members.filter fun c =>
    let y := s.core c
    let q := quadOf c * 4
    let mine := y.lastAt t 1
    let fuseBad := !mine.isEmpty && (List.range 4).any fun i => (s.core (q + i)).lastAt t 1 != mine
    let west := s.core (c - c % 2)
    let east := s.core (c - c % 2 + 1)
    let we := (west.lastAt t 0).take 4
    let ea := east.lastAt t 0
    let macBad := y.arr.fused && !(y.lastAt t 0).isEmpty && (we != ea.take 4 || ea.getD 4 0 != 0)
    fuseBad || macBad

/-- Matrix fault 0x02 of a tc: the mismatched M stream of the lowest rank (R249). -/
def State.fuseCheck (s : State) (n : Nat) : State :=
  match s.fuseMismatch n with
  | c :: _ => s.faultAt c 2 .matrix 2 0 0
  | [] => s

end Sys2Proof.Machine
end

