-- ==== Sys2Proof/Machine/Homes.lean ====
section
/-! DEFINITION. What happens to phased accesses away from the timetable: replies, stores and atomics at their homes, table walks, the
fault log and its answers, and the lines of a migrating page (spec/06_consistency.md R127 to R135; spec/18_translation.md R362 to
R368). -/

namespace Sys2Proof.Machine

/-! ## Order -/

/-- An earlier access of the stream that a `FENCE` puts before access `a` is still under way (R131). R131 does not say what a narrow scope does
for an access whose home lies beyond that scope's memory point: that the fence orders all phased accesses of the stream, whatever its scope, is
the model's choice (notes/assumptions/71.md). -/
def State.fenced (s : State) (a : Access) : Bool :=
  s.outs.any fun b => b.slot == a.slot && b.core == a.core && b.stream == a.stream && b.fences < a.fences &&
    b.coll.isNone && a.coll.isNone && !(a.kind == .read && b.kind == .read)

/-- An earlier store or atomic of the stream is not performed (R129, R205). A collective's accesses belong to its engine. -/
def State.storeAhead (s : State) (a : Access) : Bool :=
  s.outs.any fun b => b.slot == a.slot && b.core == a.core && b.stream == a.stream && b.kind != .read && b.id < a.id &&
    b.coll.isNone && a.coll.isNone

/-- Two accesses share a byte. -/
def sharesByte (a b : Access) : Bool :=
  a.parts.any fun p => b.parts.any fun q => overlap p.1.toNat p.2.length q.1.toNat q.2.length

/-- A read waits for an atomic of its bytes that a boundary of the cohort's scope separates from it (R132). -/
def State.atomAhead (s : State) (a : Access) : Bool :=
  let x := s.slot a.slot
  s.outs.any fun b => b.slot == a.slot && b.kind == .atomic && sharesByte a b &&
    x.bounds.any fun p => x.scope ≤ p.scope && b.keyTc.tc < p.tc && p.tc < a.issueTc.tc

/-- A read of the stream whose fatal fault would retract access `a` (R366) has not returned: it was to arrive by the tc of `a`. -/
def State.doubtful (s : State) (a : Access) : Bool :=
  s.outs.any fun b => b.slot == a.slot && b.core == a.core && b.stream == a.stream && b.kind == .read && b.coll.isNone && a.coll.isNone && b.stub == a.stub &&
    b.arr ≤ a.tc && b.id < a.id

/-! ## Errors -/

/-- The physical address of a pointer of an access (R358). -/
def State.physOf (s : State) (pages : List TlbEntry) (c n : Nat) (p : Word) : Nat :=
  match s.keyFor pages c n p with
  | some (_, k) => k % 2 ^ 54
  | none => 0

/-- The first address of an access. -/
def Access.first (a : Access) : Word := (a.parts.headD (0, [])).1

/-- An address where a finding about the access names one of its own, its first otherwise (R370). -/
def Access.near (a : Access) (p : Word) : Word := if a.parts.any fun q => inRange p (q.1, q.2.length) then p else a.first

/-- A compressed page's entry breaks its format where a reply reads it: an uncorrectable error with DETAIL 0x03 (R370, R386). -/
def State.badEntry (s : State) (a : Access) : State :=
  s.failAccess a (a.faultRec .uncorrectable 3 a.first) (s.physOf a.pages a.core a.slot a.first)

/-- The collective engine's number among the masters of the caps. -/
def collMaster : Nat := 25

/-- The collective engine reaches the home bytes of an access of its own (R293, R389, R390). -/
def State.collReach (s : State) (a : Access) (write : Bool) : Except State State :=
  if a.coll.isNone then .ok s
  else
    (a.parts.flatMap fun p => pageRuns p.1 p.2).foldlM
      (fun (s : State) (p : Word × List Byte) =>
        match s.keyFor a.pages a.core a.slot p.1 with
        | some (_, k) => s.capAccess collMaster (dieOf a.core) k p.2.length write
        | none => .ok s) s

/-! ## Replies -/

/-- The state in which the stream of an access writes. -/
def State.asAccess (s : State) (a : Access) : State := { s with cur := (a.core, a.stream) }

/-- The view of a collective's engine (R134): every member's write issued before the `COLL` stands in it. -/
def State.withSource (s : State) (a : Access) : State :=
  s.modSlot a.slot fun x => { x with acq := x.acq ++ [⟨a.core, ⟨0, 0⟩, none, some a.issueTc, [(a.first, (a.parts.headD (0, [])).2.length)]⟩] }

/-- A collective has read its source; alone in its group it completes by itself (R293, R295). -/
def State.collSource (s : State) (n id : Nat) (bs : List Byte) : State :=
  let s := s.modColl n id fun k => { k with src := some bs }
  match (s.slot n).colls.find? fun k => k.id == id with
  | some k => if (Tbl.get [1, 0] (s.slot n).collOf k.grp).getD 0 1 ≤ 1 then s.later (.collComplete n id []) else s
  | none => s

/-- The flags of a conversion whose value has come late: they are set for their own tc, but for those that a `CSRW` has cleared since (R80,
R189). -/
def State.lateFlags (s : State) (a : Access) (t : Nat) (cleared : BitVec 6) (xs : List (Elem × List Byte)) : State :=
  let k := (s.slot a.slot).lands.length
  (s.loadFlags a.ins a.hnd t xs).modSlot a.slot fun x =>
    { x with lands := x.lands.take k ++ (x.lands.drop k).map fun l => match l.eff with
        | .flags st set => { l with eff := .flags st (set &&& ~~~cleared) }
        | _ => l }

/-- What a reply brings: it lands in its entry, register, tile or lines at the tc that its instruction gives (R29, R175, R187 to R196,
R291). A byte of a collective's source that members have written since their `COLL` is one of those values (R134). -/
def State.bringReply (s : State) (a : Access) : State :=
  let s := s.asAccess a
  let t := a.arr + (s.slot a.slot).horizon
  let image := (a.parts.headD (0, [])).2
  match a.ins with
  | .statRd _ f =>
    if a.stream = 0 then
      let d := (f.imm.extractLsb' 12 5).toNat
      s.land t (.s (a.aux.getD 0 0) (BitVec.allOnes 64) (BitVec.ofNat 64 (leNat ((image.drop (8 * d)).take 8))))
    else s.fill a.core a.id (entryOf image)
  | .coll _ _ =>
    match (s.withSource a).phasedRead a.pages a.core a.issueTc a.first image.length with
    | none => s.badEntry a
    | some bs =>
      let x := s.slot a.slot
      let (bs, s) := s.pickBytes (((List.range bs.length).zip bs).map fun e =>
        e.2 :: x.writtenSince (a.first + BitVec.ofNat 64 e.1) a.issueTc none)
      s.collSource a.slot (a.aux.getD 0 0) bs
  | .lds _ f =>
    match s.phasedRead a.pages a.core a.issueTc a.first image.length with
    | none => s.badEntry a
    | some bs => s.land t (.s (a.aux.getD 0 0) (BitVec.allOnes 64) (loadVal (memSize f) (f.fn.getLsbD 2) bs))
  | _ =>
    match s.readPhased a.pages a.core a.issueTc a.els with
    | none => s.badEntry a
    | some xs =>
      let s := s.place a.ins a.hnd a.aux a.id a.piece (s.deliverTc a.ins a.issue.tc a.arr (lclOf a.ins)) xs
      match a.flags with
      | some (t, d) => s.lateFlags a t d xs
      | none => s

/-- Delivers a reply; what lands by it stands among the writes of its stream by the issue of its instruction (R125, R158). -/
def State.deliverReply (s : State) (a : Access) : State :=
  let k := (s.slot a.slot).lands.length
  (s.bringReply a).modSlot a.slot fun x =>
    { x with lands := x.lands.take k ++ (x.lands.drop k).map fun l => { l with seq := landSeq a.issue.tc a.piece } }

/-- `PHASED_REPLY_ARRIVAL` (R35, R127, R131, R132): a read that must wait for earlier accesses is performed after them. -/
def execPhasedReplyArrival (id : Nat) (s : State) : Host.Outcome State Fault Refusal :=
  .next (match s.access id with
    | none => s
    | some a =>
      if a.kind != .read || a.st != .sent then s
      else if s.fenced a || s.atomAhead a then s.later (.phasedReplyArrival id)
      else
        let me := s.cur
        match s.collReach a false with
        | .error s => s.later (.phasedReplyArrival id)
        | .ok s => { (s.deliverReply a).endAccess a with cur := me })

/-! ## Homes -/

/-- Replaces the first element that meets a test. -/
def changeFirst {α : Type} (p : α → Bool) (y : α) : List α → List α
  | [] => []
  | x :: xs => if p x then y :: xs else x :: changeFirst p y xs

/-- One range of a store is performed (R128, R129): the first of its access that is pending takes its place at the home, and with a barrier
object its bytes are offered (R207). Each is performed under a number of its own (R133). -/
def State.storePart (s : State) (a : Access) (p : Word × List Byte) : State :=
  let n := a.slot
  let mine := fun w : PWrite => w.acc == a.id && w.done == 0 && !w.atom
  match (s.slot n).log.find? mine with
  | none => s
  | some w =>
    let w' := { w with done := s.done + 1 }
    let r := { a.faultRec .round 7 p.1 with tc := (s.slot n).faultTc a a.tc }
    let s := { (s.modSlot n fun x => { x with log := changeFirst mine w' x.log }) with done := s.done + 1 }.homeWrite a.pages n w' r
    match w.offer with
    | some o =>
      if (s.slot n).log.any fun v => v.done == w'.done then s.offer a.core a.stream a.issue.pc a.issue.word o p.1 p.2.length w'.done else s
    | none => s

/-- The bytes of a store that lie in one page leave for a home in another package (R358): as a cross-package store with its stamp and the
components of its coherence key where that package is one of the set (R313, R315), whose home judges whether it is late (R314); as a plain
write of an outside agent elsewhere (R130). -/
def State.crossRun (s : State) (a : Access) (p : Word × List Byte) : State :=
  match s.keyFor a.pages a.core a.slot p.1 with
  | none => s
  | some (l, k) =>
    let peer := (l.extractLsb' 54 6).toNat
    let x := s.slot a.slot
    if ptrTag p.1 != 0 || (l.extractLsb' 60 4).toNat != 2 then s
    else if 1 < x.npkg && x.pkgs.contains peer then
      s.send (.store peer ⟨a.slot, k % 2 ^ 54, p.2, a.npod, x.prank, a.keyTc.tc, a.rank, a.stream, a.issue.pc, a.issue.word, p.1, a.issue.stamp⟩)
    else s.send (.remote peer (k % 2 ^ 54) p.2)

/-- A range of a store leaves for its homes in other packages. -/
def State.crossPart (s : State) (a : Access) (p : Word × List Byte) : State := (pageRuns p.1 p.2).foldl (fun s r => s.crossRun a r) s

/-- Performs a store at its home. -/
def State.performStore (s : State) (a : Access) : State :=
  (a.parts.foldl (fun s p => (s.storePart a p).crossPart a p) s).endAccess a

/-- A store whose bytes are offered to barrier objects waits while the cohort holds no quads (R207, R349). -/
def State.awayOffer (s : State) (a : Access) : Bool :=
  let x := s.slot a.slot
  !x.live && x.log.any fun w => w.acc == a.id && w.offer.isSome && w.done == 0

/-- A collective's destination has been translated, or the engine's write is performed there and the collective is complete (R134, R293,
R295). -/
def State.performColl (s : State) (a : Access) : State :=
  let id := a.aux.getD 0 0
  match (s.slot a.slot).colls.find? fun k => k.id == id && k.result.isNone && k.fault.isNone with
  | none => s.endAccess a
  | some k =>
    if a.coll != some 2 then s.endAccess a
    else
      let bs := (a.parts.headD (0, [])).2
      let x := s.slot a.slot
      let w : PWrite := ⟨x.npod, x.prank, k.tc, a.rank, 0, a.core, a.first, bs, false, none, [], some k.tc, s.done + 1, 0, none⟩
      let s := { (s.modSlot a.slot fun y => { y with log := y.log ++ [w] }) with done := s.done + 1 }.homeWrite a.pages a.slot w { a.faultRec .round 7 a.first with tc := x.faultTc a a.tc }
      (s.modColl a.slot id fun k => { k with result := some bs }).endAccess a

/-- A member write covers a home byte: that of its peer's store, or one that its pointers lead to. -/
def State.wroteAt (s : State) (n : Nat) (v : PWrite) (key : Nat) : Bool :=
  match v.peer with
  | some (k, _, _) => k ≤ key && key < k + v.data.length
  | none => (List.range v.data.length).any fun i => (s.keyOf v.core n (v.addr + BitVec.ofNat 64 i)).any fun e => e.2 == key

/-- The standing marks of slot `n` that hold the sectors of some home bytes, by the pages that the marked addresses lead to (R284, R376). -/
def State.markedHomes (s : State) (n key len : Nat) (tc : Moment) : List MarkedSector :=
  let x := s.slot n
  let units := x.marks.flatMap fun m => if !m.countsAt tc then []
    else (List.range (m.len / 65536)).filterMap fun i =>
      let va : Word := BitVec.ofNat 64 (m.base + 65536 * i)
      (s.keyOf (x.members.headD 0) n va).map fun k => (m, va, k.2)
  (List.range ((key + len - 1) / 64 - key / 64 + 1)).filterMap fun i =>
    let k := (key / 64 + i) * 64
    (units.find? fun u => u.2.2 ≤ k && k < u.2.2 + 65536).map fun u => ⟨k, u.2.1 + BitVec.ofNat 64 (k - u.2.2), u.1⟩

/-- A store of another package of the set is performed at its home here (R314, R315): a member write with the key of its own issue, shown by
the boundaries of `.pkg` or wider that execute on a later clock, and without a stamp by those of `.pod` (R275). Marked sectors pass through the
engine of this home (R376). The home reports a late one to every package of the set. -/
def State.peerStore (s : State) (w : PeerStore) : State :=
  let n := w.slot
  let x := s.slot n
  let key := homeKey 0 0 w.addr
  let now := x.opened || (x.held.isSome && x.releaseAt.any fun k => k ≤ x.clk)
  let v : PWrite := ⟨w.npod, w.prank, ⟨w.tc, 0⟩, w.rank, w.stream, 0, 0, w.data, false, none, [], none, s.done + 1, 0,
    some (key, if now then x.tc + 1 else x.tc, if w.stamp.isSome then 4 else 5)⟩
  let newer := x.log.filter fun u => u.done != 0 && !u.le v
  let bytes := ((List.range w.data.length).zip w.data).filterMap fun (e : Nat × Byte) =>
    if newer.any fun u => s.wroteAt n u (key + e.1) then none else some (key + e.1, e.2)
  let r : FaultRec := ⟨.round, 7, 0x10000 + w.rank, w.stream, w.tc, w.pc, w.word, w.ptr, 0x80 + ptrTag w.ptr, [], none, none⟩
  let s := match s.engineWrite n (some (agentOf n 0x1000 w.stream)) (s.markedHomes n key w.data.length ⟨w.tc, 0⟩) (runsOf bytes) r with
    | some t => { t.modSlot n fun y => { y with log := y.log ++ [v] } with done := t.done + 1 }
    | none => s.dueFault n r
  match w.stamp with
  | some g =>
    if g.toNat + 2000 < s.ns then
      let l : LateStore := ⟨w.rank, w.stream, w.pc, w.word, w.tc, w.ptr, g.toNat⟩
      (((List.range x.npkg).filter fun p => p != x.prank).foldl (fun s p => s.send (.late n p l)) s).later (.exchangeDeadlineReport n l)
    else s
  | none => s

/-- The marked sectors that an access of this package writes, as its access translates them (R376). -/
def State.accessSectors (s : State) (a : Access) : List MarkedSector :=
  a.parts.flatMap fun p => s.markedSectors a.pages a.slot a.core p.1 p.2.length a.keyTc

/-- The engines that a write passes reach what it writes (R376, R389, R390). -/
def State.enginesReach (s : State) (a : Access) : Except State State :=
  match s.collReach a true with
  | .error s => .error s
  | .ok s => s.engineReach a.slot (s.accessSectors a)

/-- A store of this package is performed once nothing stands before it (R129, R131) and the engines that it passes are not frozen (R390). -/
def State.ownStore (s : State) (id : Nat) : State :=
  match s.access id with
    | none => s
    | some a =>
      let again : Instr := .storePerformed (.own id)
      if a.kind != .store || a.st != .sent then s
      else if s.storeAhead a || s.fenced a || s.doubtful a || s.awayOffer a then s.later again
      else
        match s.enginesReach a with
        | .error s => s.later again
        | .ok s => if a.coll.isSome then s.performColl a else s.performStore a

/-- `STORE_PERFORMED` (R129, R131, R315); one of another package passes the wall (R388). -/
def execStorePerformed (w : HomeStore) (s : State) : Host.Outcome State Fault Refusal :=
  .next (match w with
    | .own id => s.ownStore id
    | .peer v =>
      let n := v.slot
      let go := fun s : State => match s.engineReach n (s.markedHomes n (homeKey 0 0 v.addr) v.data.length ⟨v.tc, 0⟩) with
        | .error s => s.later (.storePerformed w)
        | .ok s => s.peerStore v
      match (s.slot n).pkgs[v.prank]? with
      | some p => s.fromPackage (s.slot n).die p go
      | none => go s)

/-- Performs an atomic at its home (R132, R205): the old value fills its entry and the new one is written at once, through the
protection engine where it is marked (R376, R377). The cores of another cohort see it as they see every outside write, from a boundary of
their own on (R130; notes/assumptions/73.md). -/
def State.performAtomic (s : State) (a : Access) : State :=
  match a.ins, a.parts with
  | .atom _ f, (p, z) :: _ =>
    let w := z.length
    match s.keyFor a.pages a.core a.slot p with
    | none => s.endAccess a
    | some (_, key) =>
      let n := a.slot
      let old := leNat (s.devBytes key w)
      let new_ := leBytes w (atomNew (f.fn.toNat % 16) (8 * w) old (a.cu.getD 0 0) (a.cu.getD 1 0))
      let x := s.slot n
      let pw : PWrite := ⟨a.npod, x.prank, a.keyTc, a.rank, a.stream, a.core, p, new_, true, none, [], none, s.done + 1, a.id, none⟩
      let secs := s.markedSectors a.pages n a.core p w a.keyTc
      let r := { a.faultRec .round 7 p with tc := a.tc }
      match s.engineWrite n (some (agentOf n a.rank a.stream)) secs [(key, new_)] { r with tc := x.faultTc a r.tc } with
      | none => s.failWith a r
      | some t =>
        ((t.modSlot n fun y => { y with log := y.log ++ [pw] }).fill a.core a.id (entryOf (leBytes w old))).endAccess a
  | _, _ => s.endAccess a

/-- `ATOM_PERFORMED` (R131, R132, R205). -/
def execAtomPerformed (id : Nat) (s : State) : Host.Outcome State Fault Refusal :=
  .next (match s.access id with
    | none => s
    | some a =>
      if a.kind != .atomic || a.st != .sent then s
      else if s.storeAhead a || s.fenced a || s.doubtful a then s.later (.atomPerformed id)
      else
        match s.enginesReach a with
        | .error s => s.later (.atomPerformed id)
        | .ok s => s.performAtomic a)

/-! ## Records -/

/-- `UPDATE_PACKET`: combining and the packet's way change the traffic and never the result (R112), so a record that already counts
each update by its issue is unchanged. -/
def execUpdatePacket (_ : Nat) (_ : Nat) (_ : Nat) (s : State) : Host.Outcome State Fault Refusal := .next s

/-- `SEALED_VIEW_ARRIVAL`: the first cause of a seal point that stands clears (R135). -/
def execSealedViewArrival (n : Nat) (s : State) : Host.Outcome State Fault Refusal :=
  .next (match (s.slot n).reqs.findSome? fun r => match r.cause, r.cleared with
      | .seal c, none => some c
      | _, _ => none with
    | some c => s.clearCause n (.seal c)
    | none => s)

/-! ## Walks and the fault log -/

/-- Translates again every access of a slot that waits for a walk, a line or room in the log. -/
def State.rewalk (s : State) (n : Nat) (p : Access → Bool) : State :=
  (s.outs.filter fun a => a.slot == n && a.st == .walk && p a).foldl (fun s a => s.translate a) s

/-- `TRANSLATION_WALK` (R360, R362): the walk of an address for a core fills the TLBs from a good leaf, and the accesses that wait
for it go on or take their fault. -/
def execTranslationWalk (c : Nat) (p : Word) (store : Bool) (s : State) : Host.Outcome State Fault Refusal :=
  let n := (s.core c).slot
  let mine := fun a : Access => a.core == c && (a.kind != .read) == store && a.parts.any fun q => inRange p (q.1, q.2.length)
  .next ((s.lookup c n p).2.rewalk n mine)

/-- `FAULT_LOG_APPEND` (R363): the access whose record waits for room is looked at again. -/
def execFaultLogAppend (n tag : Nat) (s : State) : Host.Outcome State Fault Refusal :=
  .next (s.rewalk n fun a => a.id == tag)

/-- The fault record of a slot that an answer names, where the slot is RUNNING or SAVING (R364). -/
def Slot.answered (x : Slot) (seq : Nat) : Option LogFault :=
  if x.st = 2 || x.st = 3 then x.faults.find? fun f => f.seq == seq else none

/-- Takes the record out of its slot, and hands on the accesses joined to it. -/
def State.takeRecord (s : State) (n seq : Nat) : List Access × State :=
  (s.outs.filter fun a => a.slot == n && a.st == .faulted seq,
    s.modSlot n fun x => { x with faults := x.faults.filter fun f => f.seq != seq })

/-- `XLRESP_RETRY` (R364): every joined access is translated again. -/
def execXlrespRetry (n seq : Nat) (s : State) : Host.Outcome State Fault Refusal :=
  .next (match (s.slot n).answered seq with
    | none => s
    | some _ =>
      let (as, s) := s.takeRecord n seq
      as.foldl (fun s a => s.translate a) s)

/-- `XLRESP_FAIL` (R364, R365): the fault becomes page fault 0x01 of every joined access; the first of them stops the cohort. -/
def execXlrespFail (n seq : Nat) (s : State) : Host.Outcome State Fault Refusal :=
  .next (match (s.slot n).answered seq with
    | none => s
    | some f =>
      let (as, s) := s.takeRecord n seq
      as.foldl
        (fun s a =>
          let p := match (a.parts.flatMap fun q => lineStarts q.1 q.2.length).find? fun q => faultPage q f.size == f.page with
            | some q => q
            | none => f.page
          s.failWith a (a.faultRec .page 1 p)) s)

/-! ## Migration -/

/-- The slot that a migration slot serves (R367). -/
def State.migOwner (s : State) (v m : Nat) : Nat := ((Map.get (s.core v).sup.migctl m).extractLsb' 8 8).toNat

/-- `MIGRATION_LINE_PULL` (R368): a first touch pulls its line, and the accesses that wait for it go on. -/
def execMigrationLinePull (sv m line : Nat) (s : State) : Host.Outcome State Fault Refusal :=
  let v := 768 + sv
  .next (if !(Map.get (s.core v).sup.migctl m).getLsbD 1 then s
    else (s.pullLine v m line).1.rewalk (s.migOwner v m) fun _ => true)

/-- The next line of a migration that has not moved (R368). -/
def Sup.nextLine (x : Sup) (m : Nat) : Option Nat :=
  (List.range (migLines (Map.get x.migctl m))).find? fun l => !x.moved.contains (m, l)

/-- The copy engine moves a line (R368); one that cannot be read is written as zero and reported. -/
def State.engineLine (s : State) (v m line : Nat) : State :=
  if (s.core v).sup.bad.contains (m, line) then
    (s.loseLine v m line).logOrWait v [s.migOwner v m, 0, 0x20, 0, (s.migKeys v m line).1 % 2 ^ 54, 0, 0, 0]
  else s.moveLine v m line

/-- `MIGRATION_LINE_MOVE` (R368): the copy engine of the die moves the next line, within the caps (R389, R390). -/
def execMigrationLineMove (sv m : Nat) (s : State) : Host.Outcome State Fault Refusal :=
  let v := 768 + sv
  let x := (s.core v).sup
  .next (if !(Map.get x.migctl m).getLsbD 1 || Map.get x.migtlbi m != migMay then s
    else
      match x.nextLine m with
      | none => s
      | some l =>
        match s.migReach v m l with
        | .error s => s.later (.migrationLineMove sv m)
        | .ok s => ((s.engineLine v m l).rewalk (s.migOwner v m) fun _ => true).later (.migrationLineMove sv m))

end Sys2Proof.Machine
end

