-- ==== Sys2Proof/Machine/Collect.lean ====
section
/-! DEFINITION. Collectives between packages (spec/12_isa_common.md R293 to R296; spec/06_consistency.md R134). A collective group slot
holds the participant count and the package's own rank (notes/assumptions/21.md). -/

namespace Sys2Proof.Machine

/-! ## Descriptors -/

/-- The number in `n` bytes at an offset of a descriptor. -/
def descNat (d : List Byte) (off n : Nat) : Nat := leNat ((d.drop off).take n)

/-- OP, RED, FMT and ROOT (R293). -/
def collOp (d : List Byte) : Nat := descNat d 0 1
def collRed (d : List Byte) : Nat := descNat d 1 1
def collFmt (d : List Byte) : Nat := descNat d 2 1
def collRoot (d : List Byte) : Nat := descNat d 3 1
/-- COUNT (R293). -/
def collCount (d : List Byte) : Nat := descNat d 8 8
/-- SRC and DST (R293). -/
def collSrc (d : List Byte) : Word := BitVec.ofNat 64 (descNat d 0x10 8)
def collDst (d : List Byte) : Word := BitVec.ofNat 64 (descNat d 0x18 8)
/-- REC: the record index where it is valid (R293). -/
def collRec (d : List Byte) : Option Nat :=
  if descNat d 0x20 2 / 2 ^ 15 = 1 then some (descNat d 0x20 2 % 4096) else none

/-- Bytes of an element. -/
def collSize (d : List Byte) : Nat := fmtSize (collFmt d)

/-- A reserved value or a non-zero zero field (R293, R296) for `p` participants. -/
def descBad (d : List Byte) (p : Nat) : Bool :=
  3 < collOp d || 2 < collRed d || 2 < collFmt d || ((collOp d == 1 || collOp d == 3) && collRed d != 0) ||
    (if collOp d = 3 then p ≤ collRoot d else collRoot d != 0) || descNat d 4 4 != 0 || collCount d == 0 ||
    descNat d 0x20 2 / 4096 % 8 != 0 || descNat d 0x22 30 != 0

/-- Elements of the source and of the destination (R293); a broadcast uses its source at the root only. -/
def collSrcN (d : List Byte) (p rank : Nat) : Nat :=
  if collOp d = 2 then p * collCount d else if collOp d = 3 && rank != collRoot d then 0 else collCount d
def collDstN (d : List Byte) (p : Nat) : Nat := if collOp d = 1 then p * collCount d else collCount d

/-! ## Results -/

/-- Element `i` of a contribution. -/
def contribElem (d bs : List Byte) (i : Nat) : Nat := leNat ((bs.drop (collSize d * i)).take (collSize d))

/-- An element widened to 32 bits (R294). -/
def contribWide (d bs : List Byte) (i : Nat) : BitVec 32 :=
  if collFmt d = 1 then bfTo32 (BitVec.ofNat 16 (contribElem d bs i)) else BitVec.ofNat 32 (contribElem d bs i)

/-- One combination (R294). -/
def collCombine (d : List Byte) (a b : BitVec 32) : BitVec 32 :=
  if collFmt d = 2 then
    match collRed d with
    | 0 => a + b
    | 1 => if a.toInt < b.toInt then b else a
    | _ => if b.toInt < a.toInt then b else a
  else
    match collRed d with
    | 0 => (fadd a b).1
    | 1 => BitVec.ofNat 32 (fmaxOf 0 true a.toNat b.toNat).1
    | _ => BitVec.ofNat 32 (fmaxOf 0 false a.toNat b.toNat).1

/-- Element `i` of the reduced vector, in rank order (R294). -/
def collReduce (d : List Byte) (parts : List (List Byte)) (i : Nat) : List Byte :=
  match parts with
  | [] => []
  | x :: xs =>
    let acc := xs.foldl (fun a y => collCombine d a (contribWide d y i)) (contribWide d x i)
    if collFmt d = 1 then leBytes 2 (rnd16 0 (val32 acc)).1.toNat else leBytes 4 acc.toNat

/-- The bytes that the engine writes at rank `j` (R294). -/
def collResult (d : List Byte) (parts : List (List Byte)) (j : Nat) : List Byte :=
  match collOp d with
  | 0 => (List.range (collCount d)).flatMap (collReduce d parts)
  | 1 => parts.flatMap fun x => x.take (collCount d * collSize d)
  | 2 => (List.range (collCount d)).flatMap fun i => collReduce d parts (j * collCount d + i)
  | _ => parts.getD (collRoot d) []

/-! ## Instructions -/

/-- A phased access of a collective of the executing package, translated as any other (R83 check 6, R293, R362): its source, the check of
its destination, or the engine's write. Its scheduled arrival is its own tc. -/
def State.collAccess (s : State) (hd : Hdr) (f : Sys) (k : AccKind) (role id : Nat) (p : Word) (bs : List Byte) : State :=
  let (i, s) := s.newId
  let a : Access := ⟨i, s.me.slot, s.cur.1, s.me.rank, 0, k, .coll hd f, s.str.now, s.tc, s.tc, role, 0, s.str.cu, [id], [(p, bs)], [],
    s.my.npod, s.str.fences, .walk, none, [], s.my.stubOf⟩
  { s with outs := s.outs ++ [a] }.translate a

/-- `COLL` (R293, R296). -/
def execColl (hd : Hdr) (f : Sys) (s : State) : Result :=
  let p := s.rs f.ra
  let id := f.imm.toNat % 4
  let gs := f.imm.toNat / 16 % 16
  .next (s.withPtr p 64 (fun t => t == 8 || t == 9) 1 fun s =>
    let d := s.timedRead p 64
    match s.my.collOf.find? fun e => e.1 == gs with
    | none => s.fault .collective 5
    | some (_, g) =>
      let np := g.getD 0 1
      let rank := g.getD 1 0
      if s.my.colls.any fun k => k.id == id then s.fault .collective 1
      else if descBad d np then s.fault .collective 3
      else
        match collRec d with
        | some i => if (s.record i).isNone then s.fault .record 1 else go hd f d gs np rank id s
        | none => go hd f d gs np rank id s)
where
  /-- Checks the buffers, the pages of phased ones included, and starts the collective. -/
  go (hd : Hdr) (f : Sys) (d : List Byte) (gs np rank id : Nat) (s : State) : State :=
    let sz := collSize d
    let n := collSrcN d np rank * sz
    let start := fun s : State =>
      s.withPtr (collDst d) (collDstN d np * sz) (fun _ => true) sz fun s => s.withMarks (collDst d) (collDstN d np * sz) fun s =>
        let k : Coll := ⟨id, gs, s.cur.1, s.my.writeTc s.tc, d, none, none, none⟩
        let s := s.modMy fun x => { x with colls := x.colls ++ [k] }
        let s := if timedTag (ptrTag (collDst d)) then s
          else s.collAccess hd f .store 1 id (collDst d) (List.replicate (collDstN d np * sz) 0)
        if n = 0 then s.collSource s.me.slot id []
        else if timedTag (ptrTag (collSrc d)) then s.collSource s.me.slot id (s.timedRead (collSrc d) n)
        else s.collAccess hd f .read 0 id (collSrc d) (List.replicate n 0)
    if n = 0 then start s else s.withPtr (collSrc d) n (fun _ => true) sz start

/-- The bytes that a phased buffer of a collective may end with, by their place in it (R134): what the engine has written there, and what
members have written between `COLL` and now. -/
def State.endings (s : State) (k : Coll) (p : Word) (own : List (List Byte)) : List (List Byte) :=
  let x := s.slot (s.core k.core).slot
  ((List.range own.length).zip own).map fun e => e.2 ++ x.writtenSince (p + BitVec.ofNat 64 e.1) k.tc (some (x.writeTc x.tc))

/-- A phased buffer at its `COLL.WAIT` (R134): each byte with several values that it may end with ends with one of them, as a last write of
the engine. -/
def State.endBuffer (s : State) (k : Coll) (p : Word) (own : List (List Byte)) : State :=
  let n := (s.core k.core).slot
  let cs := s.endings k p own
  if timedTag (ptrTag p) || cs.all fun c => c.length ≤ 1 then s
  else
    let (bs, s) := s.pickBytes cs
    let put := fun (s : State) (e : Nat × List Byte × Byte) =>
      if e.2.1.length ≤ 1 then s
      else
        let x := s.slot n
        let q := p + BitVec.ofNat 64 e.1
        let w : PWrite := ⟨x.npod, x.prank, x.writeTc x.tc, (s.core k.core).rank, 0, k.core, q, [e.2.2], false, none, [], some k.tc, s.done + 1, 0, none⟩
        { (s.modSlot n fun y => { y with log := y.log ++ [w] }) with done := s.done + 1 }.homeWrite [] n w
          (s.faultRec k.core 0 .round 7 x.tc q (0x80 + ptrTag q))
    ((List.range cs.length).zip (cs.zip bs)).foldl put s

/-- The two buffers of a complete collective (R134). -/
def State.endBuffers (s : State) (k : Coll) (bs : List Byte) : State :=
  (s.endBuffer k (collDst k.desc) (bs.map fun b => [b])).endBuffer k (collSrc k.desc) (List.replicate (k.src.getD []).length [])

/-- The handle by which a collective's elements update its record (R111, R294). -/
def collHandle (i : Nat) : Handle := BitVec.ofNat 256 (i * 2 ^ 200 + 2 ^ 212)

/-- `COLL.WAIT`: its hold has ended with the collective complete or in fault (R134, R294 to R296). The bytes of its phased buffers that members
have written since `COLL` end with one of their values. A timed destination lands on the
next tc, over the program's writes of that tc. The updates of its record are those of the word `COLL.WAIT`: its tc, rank and stream
(R109, R294; notes/assumptions/75.md). -/
def execCollWait (_ : Hdr) (f : Sys) (s : State) : Result :=
  let id := f.imm.toNat % 4
  .next (match s.my.colls.find? fun k => k.id == id with
    | none => s.fault .collective 2
    | some k =>
      match k.fault, k.result with
      | some (kd, d, p), _ => if p = 0 then s.fault kd d else s.faultPtr kd d p
      | none, none => s
      | none, some bs =>
        let dst := collDst k.desc
        let sz := collSize k.desc
        let s := s.modMy fun x =>
          { x with
            colls := x.colls.filter fun j => j.id != id
            acq := x.acq ++ x.members.map fun c =>
              ⟨c, x.writeTc x.tc, none, some k.tc, [(collSrc k.desc, (k.src.getD []).length), (dst, bs.length)]⟩ }
        let s := s.endBuffers k bs
        let s := if timedTag (ptrTag dst) then
            let (c, fl, key) := State.timedAt { s with cur := (k.core, 0) } dst
            s.modMy fun x => { x with lands := x.lands ++ [⟨x.tc + 1, 0xFFFF, 7, 0, c, .bytes fl key bs⟩] }
          else s
        match collRec k.desc with
        | none => s
        | some r =>
          (List.range (bs.length / sz)).foldl
            (fun s i =>
              let v := widen (collFmt k.desc) (BitVec.ofNat 32 (contribElem k.desc bs i))
              s.stat (collHandle r) (some v) i false 0 s.tc) s)

/-- `COLL_COMPLETE` (R295): every participant has contributed. `parts` holds, by rank, the first 16 bytes of each participant's descriptor
and its contribution; the package's own stands in its place, and its completion waits for it. The engine's write to a phased destination
is an access of its own (R293, R362). -/
def execCollComplete (n id : Nat) (parts : List (List Byte)) (s : State) : Host.Outcome State Fault Refusal :=
  let x := s.slot n
  .next (match x.colls.find? fun k => k.id == id && k.result.isNone && k.fault.isNone with
    | none => s
    | some k => match k.src with
    | none => s.later (.collComplete n id parts)
    | some src =>
      let g := Tbl.get [1, 0] x.collOf k.grp
      let np := g.getD 0 1
      let rank := g.getD 1 0
      let all := (List.range np).map fun j =>
        if j = rank then k.desc.take 16 ++ src else parts.getD j []
      if all.any fun q => q.take 16 != k.desc.take 16 then s.modColl n id fun k => { k with fault := some (.collective, 4, 0) }
      else
        let bs := collResult k.desc (all.map fun q => q.drop 16) rank
        let dst := collDst k.desc
        let settled := fun s : State => s.modColl n id fun k => { k with result := some bs }
        if timedTag (ptrTag dst) then settled s
        else
          let (i, s) := s.newId
          let a : Access := ⟨i, n, k.core, (s.core k.core).rank, 0, .store, .coll ⟨0, 0⟩ ⟨0, 0, 0, 0, BitVec.ofNat 32 id⟩, ((s.core k.core).stream 0).now, x.tc, x.tc, 2, 0, [],
              [id], [(dst, bs)], [], x.npod, 0, .walk, none, [], x.stubOf⟩
          { s with outs := s.outs ++ [a] }.translate a)

end Sys2Proof.Machine
end

