-- ==== Sys2Proof/Machine/VecCtl.lean ====
section
/-! DEFINITION. Predicate instructions, the vector shape, and the allotment and power states of the vector banks
(spec/10_isa_vector.md R217 to R220, R228, R242). -/

namespace Sys2Proof.Machine

/-! ## Predicates -/

/-- `KOP`: all 4096 bits, whatever the shape (R228). -/
def execKop (_ : Hdr) (f : Rrr) (s : State) : Result :=
  let a := Map.get s.me.k (s.reg .K f.ra)
  let b := Map.get s.me.k (s.reg .K f.rb)
  let v := match f.fn.toNat with
    | 0 => a &&& b
    | 1 => a ||| b
    | 2 => a ^^^ b
    | 3 => a &&& ~~~b
    | _ => ~~~a
  .next (s.land (s.tc + 2) (.k (s.reg .K f.rd) (BitVec.allOnes 4096) v))

/-- `KSET` (R228). -/
def execKset (_ : Hdr) (f : Rrr) (s : State) : Result :=
  let (rows, cols, _) := s.me.shape
  let v := match f.fn.toNat with
    | 0 => 0#4096
    | 1 => BitVec.allOnes 4096
    | _ => BitVec.ofNat 4096 (2 ^ (rows * cols) - 1)
  .next (s.land (s.tc + 2) (.k (s.reg .K f.rd) (BitVec.allOnes 4096) v))

/-- `KMOV` between predicate registers, or to and from 512 bytes (R228). -/
def execKmov (h : Hdr) (f : Rrr) (s : State) : Result :=
  .next (if f.fn = 0 then
      s.land (s.tc + 2) (.k (s.reg .K f.rd) (BitVec.allOnes 4096) (Map.get s.me.k (s.reg .K f.ra)))
    else
      s.vecChecked (.kmov h f) false fun s =>
        s.vecBegin (.kmov h f) (s.vecAux f (if f.fn = 2 then .VQ else .K) (if f.fn = 1 then .VQ else .K) .VQ) 2 0 (fun _ => 0)
          0 [] [])

/-! ## Shape and allotment -/

/-- `VSHAPE` (R242). -/
def execVshape (_ : Hdr) (f : Rri) (s : State) : Result :=
  .next (s.land (s.tc + 1) (.vshape ((f.imm.extractLsb' 0 20).zeroExtend 32)))

/-- The first vector register that a byte range of the V store reaches, and the one past the last. -/
def regSpan (key n : Nat) : Nat × Nat := (key / 4096, (key + n + 4095) / 4096)

/-- Some write of core `c`, by any stream, is still to land after tc `t` on a vector register from `lo` up to `hi` (R219,
R220): timed writes, and those of an `LD.V` in progress or in flight. -/
def State.landsOn (s : State) (c t lo hi : Nat) : Bool :=
  let x := s.core c
  let hit := fun a b : Nat => a < hi && lo < b
  (s.slot x.slot).lands.any (fun l => l.core == c && t < l.tc && match l.eff with
    | .bytes .v key d => hit (regSpan key d.length).1 (regSpan key d.length).2
    | _ => false) ||
  (match (x.stream 1).act with
    | some a => (match a.ins with
      | .ldV _ _ => hit (a.x 0) (a.x 0 + 1)
      | _ => false)
    | none => false) ||
  s.outs.any fun a => a.core == c && a.slot == x.slot && match a.ins with
    | .ldV _ _ => hit (a.aux.getD 0 0) (a.aux.getD 0 0 + 1)
    | _ => false

/-- `VALLOC`: the allotment does not shrink; registers newly allotted read zero (R219). -/
def execValloc (_ : Hdr) (f : Rri) (s : State) : Result :=
  let n := f.imm.toNat % 64
  .next (if n < s.me.allot then s.fault .allotment 2 else s.land (s.tc + 1) (.allot n))

/-- `VSHRINK`: released registers lose their contents, and nothing may still land on them (R219). -/
def execVshrink (_ : Hdr) (f : Rri) (s : State) : Result :=
  let n := f.imm.toNat % 64
  .next (if s.me.allot < n then s.fault .allotment 2
    else if s.landsOn s.cur.1 s.tc n s.me.allot then s.fault .allotment 3
    else s.land (s.tc + 1) (.allot n))

/-! ## Bank gating -/

/-- The state of bank `b` (R217). -/
def Core.bank (x : Core) (b : Nat) : BankPwr := x.banks.getD b .on

/-- `VGATE` (R220). A wake has ended its hold before the word issues. -/
def execVgate (_ : Hdr) (f : Rri) (s : State) : Result :=
  let b := f.imm.toNat % 4
  let want := (f.imm.extractLsb' 2 2).toNat
  let quiet := fun s : State => !s.landsOn s.cur.1 s.tc (8 * b) (8 * b + 8)
  .next (match s.me.bank b, want with
    | .on, 0 => s
    | .retention, 1 => s
    | .off, 2 => s
    | .off, 1 => s.land (s.tc + 1) (.bank b false true)
    | .on, 1 => if quiet s then s.land (s.tc + 1) (.bank b false true) else s.fault .gatedBank 2
    | .on, 2 | .retention, 2 | .waking, 2 => if quiet s then s.land (s.tc + 1) (.bank b true false) else s.fault .gatedBank 2
    | _, _ => s)

/-- The banks that a word needs awake and that are not (R218, R220): the banks of its vector registers up to
the first that faults, or the bank that `VGATE` turns on. -/
def Core.asleep (x : Core) (w : Issue) (i : Instr) : List Nat :=
  match i with
  | .vgate _ f =>
    let b := f.imm.toNat % 4
    if (f.imm.extractLsb' 2 2).toNat = 0 && x.bank b != .on then [b] else []
  | _ =>
    if w.deadFor (kpOf i) then []
    else
      let rs := (vregs w i).takeWhile fun r => (x.vregFault r).isNone
      ((rs.map (· / 8)).filter fun b => x.bank b != .on).eraseDups

/-- The vector banks that a word of core `c` needs keep it from issuing (R218). -/
def State.bankWait (s : State) (c : Nat) (w : Issue) (i : Instr) : Bool := !((s.core c).asleep w i).isEmpty

/-- Requests the wake of the banks that a word of core `c` needs, through the in-rush arbiter (R218, R220, R398): of banks in retention at
once, and of a bank that is off, which only `VGATE` turns on, when its tc is reached (notes/assumptions/7.md). -/
def State.wakeBanks (s : State) (c : Nat) (w : Issue) (i : Instr) (reached : Bool) : State :=
  let x := s.core c
  ((x.asleep w i).filter fun b => x.bank b == .retention || reached && x.bank b == .off).foldl
    (fun s b => (s.modCore c fun x => { x with banks := setAt x.banks b .waking }).inClocks 0
      (.inrushRequest ⟨0, dieOf c, quadOf c, c, b⟩)) s

end Sys2Proof.Machine
end

