-- ==== Sys2Proof/Machine/Ahead.lean ====
section
/-! DEFINITION. Decode ahead of issue: the words that will issue within the horizon, the outcome of a curtain on their way, and the hold
requests that they send (spec/02_timetable.md R26, R35, R50, R51, R53; spec/10_isa_vector.md R218; spec/12_isa_common.md R272, R292). -/

namespace Sys2Proof.Machine

/-! ## Occupancy -/

/-- Tc that a V word takes, from `VSHAPE` (R214, R226, R227, R236, R239). -/
def vecOcc (rows cols esz : Nat) (i : Instr) : Nat :=
  let all := (rows * cols * esz + 255) / 256
  match i with
  | .vcvt _ f =>
    let g := 256 / max (fmtSize (f.md.toNat % 16)) (fmtSize (f.md.toNat / 16))
    (rows * cols + g - 1) / g
  | .vqnt _ _ => (rows * cols + 63) / 64
  | .tmovR _ _ | .tmovC _ _ => 16
  | .kmov _ f => if f.fn = 0 then 1 else 2
  | .vadd _ _ | .vsub _ _ | .vmul _ _ | .vfma _ _ | .vmin _ _ | .vmax _ _ | .vabs _ _ | .vneg _ _ | .vcmp _ _ | .vsel _ _
  | .viadd _ _ | .visub _ _ | .vimul _ _ | .vand _ _ | .vor _ _ | .vxor _ _ | .vshl _ _ | .vshr _ _ | .vsar _ _ | .vimin _ _
  | .vimax _ _ | .vrcp _ _ | .vrsq _ _ | .vsqrt _ _ | .vexp2 _ _ | .vlog2 _ _ | .vsin _ _ | .vcos _ _ | .vtanh _ _ | .vsigm _ _
  | .vmov _ _ | .vbcast _ _ | .viota _ _ | .vrng _ _ | .vrsum _ _ | .vrmax _ _ | .vcsum _ _ | .vcmax _ _ => all
  | _ => 1

/-- Occupancy of a word of a stream of core `c` (R24, R182, R214), from the handles, the shape and the format words as they stand. -/
def State.occOf (s : State) (c : Nat) (y : Stream) (i : Instr) : Nat :=
  let x := s.core c
  let fmt := fun f : Mem => hFmt (Map.get x.h f.hnd.toNat)
  let (rows, cols, esz) := x.shape
  match i with
  | .waitCy _ f => waitCount y f
  | .ldQ _ f | .ldBc _ f | .stQ _ f | .stX _ f | .stUpd _ f => f.imm.toNat % 128 + 1
  | .ldT _ f | .ldTr _ f | .stT _ f => (f.imm.extractLsb' 6 6).toNat + 1
  | .stMc _ f => (f.imm.extractLsb' 5 7).toNat + 1
  | .ldCb _ f => (f.imm.extractLsb' 6 3).toNat + 1
  | .stQnt _ f => (f.imm.extractLsb' 9 4).toNat + 1
  | .ldV _ _ | .stV _ _ => 16
  | .ldG _ f => gatherPieces (f.imm.toNat % 256 + 1) (entryCap (fmt f) (f.fn.getLsbD 0)) (f.fn.getLsbD 1)
  | .stS _ f => gatherPieces (f.imm.toNat % 256 + 1) (storeCap (convOf f) (fmt f)) (f.fn.getLsbD 2)
  | .ldW _ f => (tileLines (fmt f)).getD 1
  | .mxLdw _ _ => let w := x.fq.headD 0; ldwLines (wAfmt w) (wBfmt w)
  | .mxMac _ f => mxRows f
  | .mxFill _ f | .mxDrain _ f => mxRows f * mxPanels f
  | .mxTestRun _ _ => 72
  | .mxCb _ f => (f.fn.extractLsb' 6 3).toNat + 1
  | i => vecOcc rows cols esz i

/-! ## The outcome of a curtain -/

/-- The decision point of a curtain at tc `t` (R50). -/
def Slot.decisionAt (x : Slot) (t : Nat) : Nat := if t < x.prevPt + 2 * x.horizon then x.prevPt else t - 2 * x.horizon

/-- The order in which pending traps are taken (R53). -/
def Trap.le (a b : Trap) : Bool :=
  a.tc < b.tc || (a.tc == b.tc && (a.rank < b.rank || (a.rank == b.rank && a.stream ≤ b.stream)))

/-- The trap that a curtain takes among those recorded by its decision point (R51, R53, R120). -/
def firstTrap (ts : List Trap) (d : Nat) : Option Trap :=
  (ts.filter fun t => t.tc ≤ d && t.from_ ≤ d).foldl (fun (m : Option Trap) t => match m with
    | none => some t
    | some v => if v.le t then some v else some t) none

/-- Where a curtain that is passed leads (R51): on, to a segment with its parameter and the trap that it takes, or to a fault. -/
inductive Turn where
  | on
  | segment (k : Nat) (segp : BitVec 32) (trap : Option Trap)
  | bad (detail : Nat)
  deriving DecidableEq, Repr

/-- Rows 2 to 4 of R51 with record `r`, decided at point `d` from the deciding core's `sel`. -/
def State.turn (s : State) (n : Nat) (r : CurtRec) (d : Nat) (sel : Word) : Turn :=
  match firstTrap (s.slot n).traps d with
  | some t => if r.handler = 0xFFFF then .bad 2 else .segment r.handler (BitVec.ofNat 32 t.code) (some t)
  | none =>
    let k := sel.toNat % 8
    if k = 0 then .on
    else if r.succ.length < k then .bad 1
    else .segment (r.succ.getD (k - 1) 0) (sel.extractLsb' 32 32) none

/-- The `sel` that decides a curtain (R50): that of the lowest-ranked member core at the decision point. -/
def State.selAt (s : State) (n d : Nat) : Word := (s.core ((s.slot n).members.headD 0)).sAt 64 d

/-! ## Words to come -/

/-- A word that a stream of a core will issue at a tc, with what its issue records. -/
structure Coming where
  core : Nat
  stream : Nat
  tc : Nat
  issue : Issue
  ins : Instr
  deriving DecidableEq, Repr

/-- A stream after a curtain at tc `t` whose outcome is known at decode; none where it goes nowhere, or where another curtain stands before it
(R26, R51, R52). -/
def State.pastCurtain (s : State) (n st t idx : Nat) (first : Bool) (y : Stream) : Option Stream :=
  let x := s.slot n
  let d := x.decisionAt t
  match x.curts[idx]? with
  | none => none
  | some r =>
    if !first || x.resume = .stubs then none
    else
      match (s.rescaleTraps n d).turn n r d (s.selAt n d) with
      | .on => some y
      | .segment k p _ => some { y with pc := (x.segs.getD k []).getD st 0, base := t + 1, loops := [], lring := none, segp := p }
      | .bad _ => none

/-- The words that a stream issues by tc `limit`, as decode sees them (R26); `fuel` bounds their number. -/
def State.scout (s : State) (n c st limit : Nat) : Nat → Bool → Stream → List Coming
  | 0, _, _ => []
  | fuel + 1, first, y =>
    let t := y.due
    if limit < t then []
    else
      match decodeWord y.next with
      | .error _ => []
      | .ok i =>
        let w := y.issueOf (st == 3) t
        let (pc, ls) := advanceLoops y.pc y.loops
        let z := { y with now := w, before := y.loops, pc := pc, loops := ls, base := t + 1 }
        let z := ({ z with base := t + max 1 (s.occOf c z i) }).flow i
        let rest := match i with
          | .rdvEnd _ _ => []
          | .curtain _ f =>
            match s.pastCurtain n st t f.imm.toNat first z with
            | some z => s.scout n c st limit fuel false z
            | none => []
          | _ => s.scout n c st limit fuel first z
        ⟨c, st, t, w, i⟩ :: rest

/-- The words of a cohort that have been decoded and not issued: those of tc up to H past its own (R26), guarded-off ones apart (R35, R47). -/
def State.ahead (s : State) (n : Nat) : List Coming :=
  let x := s.slot n
  (x.members.flatMap fun c => (List.range 5).flatMap fun st =>
    let y := (s.core c).stream st
    if y.stopped || y.ended then [] else s.scout n c st (x.tc + x.horizon) (x.horizon + 1) true y).filter fun v => v.issue.guard

/-! ## Requests of decoded words -/

/-- What a decoded word asks for at once: the grant of a `PWR.ACQ` (R292), and the wake of the banks in retention that it names (R218). -/
def State.early (s : State) (n : Nat) (v : Coming) : State :=
  let s := match v.ins with
    | .pwrAcq _ f =>
      if (s.slot n).acqs.any fun e => e.1 == v.tc then s
      else (s.modSlot n fun x => { x with acqs := x.acqs ++ [(v.tc, f.imm.toNat % 16, false)] }).later (.leaseGrant n)
    | _ => s
  s.wakeBanks v.core v.issue v.ins (v.tc == (s.slot n).tc)

/-- The sequence number with which a word to come would join the packages of the set (R275). -/
def Slot.seqOf (x : Slot) (vs : List Coming) (v : Coming) : Nat :=
  x.joinSeq + (vs.filter fun u => u.core == v.core && u.stream == v.stream && u.tc < v.tc && joinKind u.ins != 0).length

/-- The hold requests of a slot once the causes of its words to come are judged on a clock (R35, R37): those that are present, with their
targets, and those that are not and whose targets may execute from a clock on. -/
def Slot.judge (x : Slot) (present : List (Nat × Cause)) (free : Nat → Cause → Nat) : List Req :=
  (x.reqs.map fun r => match r.cause with
    | .word _ _ =>
      if present.contains (r.target, r.cause) then { r with cleared := none }
      else if r.cleared.isNone then { r with cleared := some (free r.target r.cause) } else r
    | _ => r) ++
  (present.filter fun p => !x.reqs.any fun r => r.target == p.1 && r.cause == p.2).map fun p => ⟨p.1, p.2, none⟩

/-- Judges the causes of the words to come as the state stands on this clock (R26, R35, R218). The cause of `WAIT.TIME` has cleared H clocks
before its time comes (R272). -/
def State.look (s : State) (n : Nat) : State :=
  let vs := s.ahead n
  let s := vs.foldl (fun s v => s.early n v) s
  let x := s.slot n
  let here := fun v : Coming => s.waits (s.bankWait v.core v.issue v.ins) v.core v.tc (x.seqOf vs v) v.issue v.ins
  let present := (vs.filter here).map fun v => (v.tc, Cause.word v.core v.stream)
  let timed := fun t k => vs.any fun v => v.tc == t && Cause.word v.core v.stream == k && (match v.ins with
    | .waitTime _ _ => true
    | _ => false)
  s.modSlot n fun y => { y with reqs := y.judge present fun t k => y.clk + if timed t k then 0 else y.horizon }

end Sys2Proof.Machine
end

