-- ==== Sys2Proof/Machine/Destinations.lean ====
section
/-! DEFINITION. What a fatal fault inside a load or a store leaves undefined: the destinations of its faulting piece and of the later ones
(spec/09_isa_load_store.md R188, R192; spec/11_isa_matrix.md R261). -/

namespace Sys2Proof.Machine

/-- The bytes of the core's stores that a load leaves undefined when piece `j` faults (R188, R192); `aux` is what its issue
read: register, then first row and count for a tile. Lines of the weight buffer wrap at 256 (R193). -/
def destOf (i : Instr) (aux : List Nat) (j : Nat) : List (File × Nat × Nat) :=
  let r := aux.getD 0 0
  match i with
  | .ldV _ _ => [(.v, 4096 * r, 4096)]
  | .ldT _ _ | .ldTr _ _ => [(.t, 16384 * r + 256 * (aux.getD 1 0 + j), 256 * (aux.getD 2 0 - j))]
  | .ldW _ _ => (List.range (aux.getD 1 0)).map fun k => (.wb, 256 * ((r + k) % 256), 256)
  | .ldCb _ _ => [(.cb, r, 256 * aux.getD 1 0)]
  | _ => []

/-- The slots of each of `n` pieces of a walk (R185). -/
def walkPieces (h : Handle) (cap : Nat) : List Nat → Nat → List (List (Nat × List Nat))
  | _, 0 => []
  | cu, n + 1 => (pieceWalk h cap cu).1 :: walkPieces h cap (pieceWalk h cap cu).2 n

/-- The byte ranges of some slots that a store could write. -/
def State.slotRanges (s : State) (h : Handle) (exchange : Bool) (slots : List (Nat × List Nat)) : List (Word × Nat) :=
  slots.flatMap fun e => (elemBytes h e.2).filterMap fun r => (s.rangeCheck h (fun _ => true) exchange r.1 r.2).toOption

/-- The ranges that piece `k` of a scatter could write (R196). -/
def State.scatterRanges (s : State) (a : Act) (f : Mem) (k : Nat) : List (Word × Nat) :=
  let h := a.hnd
  let cap := storeCap (convOf f) (hFmt h)
  let idx := indexAt f (entryOf a.buf)
  if f.fn.getLsbD 2 then
    if idx k < 0 || (hExt h 1 : Int) ≤ idx k then []
    else s.slotRanges h false ((List.range (min cap (hExt h 0))).map fun i => (i, i :: (idx k).toNat :: a.cu.drop 2))
  else
    let sz := fmtSize (hFmt h)
    (List.range (min cap (f.imm.toNat % 256 + 1 - k * cap))).filterMap fun m =>
      (s.rangeCheck h (fun _ => true) false ((ptrOff (hBase h) : Int) + idx (k * cap + m) * sz) sz).toOption

/-- The ranges that a store's pieces from `j` on could write, as the state stands. -/
def State.restRanges (s : State) (a : Act) : List (Word × Nat) :=
  let ks := (List.range (a.n - a.j)).map (a.j + ·)
  let walk := fun (h : Handle) (cap : Nat) (x : Bool) => s.slotRanges h x ((walkPieces h cap a.cu a.n).drop a.j).flatten
  match a.ins with
  | .stQ _ f => walk a.hnd (storeCap (convOf f) (hFmt a.hnd)) false
  | .stX _ f => walk a.hnd (storeCap (convOf f) (hFmt a.hnd)) true
  | .stMc _ f => (s.mcNums (setOf f) (ptrTag (hBase a.hnd)) (ptrNum (hBase a.hnd))).flatMap fun m =>
    walk ((a.hnd &&& ~~~(0xFFFFFFFFFFFFFFFF : Handle)) ||| (withNum (hBase a.hnd) m).zeroExtend 256)
      (storeCap (convOf f) (hFmt a.hnd)) true
  | .stQnt _ _ => walk a.hnd 64 false
  | .stUpd _ f => walk a.hnd 64 false ++ if f.fn.getLsbD 0 then [] else walk (BitVec.ofNat 256 (leNat a.buf)) 64 false
  | .stV _ _ =>
    let w := a.aux.getD 2 0 * a.aux.getD 3 0
    let rows := walkPieces a.hnd (a.aux.getD 2 0) a.cu (a.aux.getD 1 0)
    s.slotRanges a.hnd false ((((List.range rows.length).zip rows).filter fun r => a.j ≤ r.1 * w / 256).flatMap fun r => r.2)
  | .stT _ _ => s.slotRanges a.hnd false (ks.flatMap (tileRow a.hnd a.cu false))
  | .stS _ f => ks.flatMap (s.scatterRanges a f)
  | .mxDrain _ _ =>
    let h2 : Handle := BitVec.ofNat 256 (leNat (a.buf.take 32))
    let np := a.aux.getD 3 1
    ks.flatMap fun k =>
      (if a.aux.getD 9 0 != 0 then [] else s.slotRanges a.hnd false (drainSlots a.hnd (k / np) (64 * (k % np)) false)) ++
        if a.aux.getD 10 0 = 0 then []
        else if hFmt h2 != 5 then s.slotRanges h2 false (drainSlots h2 (k / np) (64 * (k % np)) true)
        else if k / np % 32 = 31 then s.slotRanges h2 false (copySlots h2 (k / np) (64 * (k % np)))
        else []
  | _ => []

/-- A load or store whose fault was taken at its issue, as its pieces would have stood; the index entry of a scatter is gone, and names no
element (R188; notes/assumptions/58.md). -/
def State.issueAct (s : State) (f : FaultRec) : Option Act :=
  let s := { s with cur := (f.core, f.stream) }
  let x := s.str
  let act := fun (i : Instr) (m : Mem) (n : Nat) (aux : List Nat) (buf : List Byte) =>
    some (⟨i, 0, f.tc, 0, n, s.memHandle m, x.cu, aux, buf⟩ : Act)
  if x.now.pc != f.pc || x.now.tc != f.tc || !([.handle, .format, .record, .allotment, .gatedBank] : List FaultKind).contains f.kind then none
  else
    match decodeWord f.word with
    | .error _ => none
    | .ok i =>
      let walk := fun m : Mem => m.imm.toNat % 128 + 1
      let rows := fun m : Mem => (m.imm.extractLsb' 6 6).toNat + 1
      let row0 := fun m : Mem => (m.imm.extractLsb' 0 6).toNat
      let (r, c, e) := s.me.shape
      match i with
      | .ldV _ m => act i m 0 [s.reg .V m.rd] []
      | .ldT _ m | .ldTr _ m => act i m 0 [s.reg .T m.rd, row0 m, rows m] []
      | .ldW _ m => act i m 0 [m.imm.toNat % 256, (tileLines (hFmt (s.memHandle m))).getD 1] []
      | .ldCb _ m => act i m 0 [2048 * (m.imm.toNat % 8) + 256 * (m.imm.extractLsb' 3 3).toNat, (m.imm.extractLsb' 6 3).toNat + 1] []
      | .stQ _ m | .stX _ m => act i m (walk m) [] []
      | .stMc _ m => act i m ((m.imm.extractLsb' 5 7).toNat + 1) [] []
      | .stQnt _ m => act i m ((m.imm.extractLsb' 9 4).toNat + 1) [] []
      | .stUpd _ m => act i m (walk m) [] (leBytes 32 (Map.get s.me.h (m.hnd.toNat + 1)).toNat)
      | .stV _ m => act i m 16 [s.reg .V m.rd, r, c, e] []
      | .stT _ m => act i m (rows m) [s.reg .T m.rd, row0 m] []
      | _ => none

/-- Free values in a range of memory, timed or phased. -/
def State.blurRange (s : State) (r : Word × Nat) : State :=
  let (bs, s) := s.freeBytes r.2
  if timedTag (ptrTag r.1) then
    let (c, f, k) := s.timedAt r.1
    s.setFile c f k bs
  else (pageRuns r.1 bs).foldl (fun (s : State) p => match s.keyOf s.cur.1 s.me.slot p.1 with
    | some (_, key) => s.devWrites none key p.2
    | none => s) s

/-- What a fatal fault leaves undefined at the stop (R188, R192, R261): bytes of the core's own stores, and of memory that later pieces would
have written. `gone` are the ranges of pieces whose accesses the stop takes back. -/
def State.blur (s : State) (f : FaultRec) (gone : List (Word × Nat)) : State :=
  let me := s.cur
  let s := { s with cur := (f.core, f.stream) }
  let s := match f.rest <|> s.issueAct f with
    | none => s
    | some a =>
      let s := (destOf a.ins a.aux a.j).foldl
        (fun (s : State) (d : File × Nat × Nat) =>
          let (bs, s) := s.freeBytes d.2.2
          s.setFile f.core d.1 d.2.1 bs) s
      (s.restRanges a ++ gone).foldl State.blurRange s
  { s with cur := me }

end Sys2Proof.Machine
end

