-- ==== Sys2Proof/Machine/Placement.lean ====
section
/-! DEFINITION. Quads and priorities: which quads cohorts occupy, what a saved cohort needs to be placed again, and effective priorities
(spec/17_scheduling.md R333, R339, R343 to R346). -/

namespace Sys2Proof.Machine

/-- The quads that cohorts occupy (R333). -/
def State.busyQuads (s : State) : List Nat :=
  s.slots.flatMap fun e => if e.2.holdsQuads then e.2.quads else []

/-- A quad can be given to a cohort of the partition of a die: it is not among some others, its die is of the partition and not powered
off (R401), and it is not fenced for a cohort with M text (R344, R388). -/
def State.quadOpen (s : State) (busy : List Nat) (die : Nat) (mtext : Bool) (q : Nat) : Bool :=
  !busy.contains q && s.plat.samePart (q / 24) die && (Tbl.get Thermal.reset s.plat.temps (q / 24)).zone != 3 &&
    (!mtext || Map.get s.plat.afence q = 0)

/-- Some origin gives a cohort's shape quads that are open where `busy` are not (R16, R344). -/
def State.fits (s : State) (x : Slot) (die : Nat) (busy : List Nat) : Bool :=
  (List.range 8).any fun d => (List.range 24).any fun q =>
    match placeQuads x.kind x.w x.ht d q with
    | none => false
    | some qs => qs.all (s.quadOpen busy die x.mtext)

/-- The quads of cohort `n` would make a cohort placeable (R345, R346): it cannot be placed now, and it could be once they are free. -/
def State.freedBy (s : State) (x : Slot) (n : Nat) : Bool :=
  let own := (s.slot n).members.map quadOf
  let busy := s.busyQuads
  !s.fits x (s.slot n).die busy && s.fits x (s.slot n).die (busy.filter fun q => !own.contains q)

/-- EFF: the base priority, raised by one level for each AGE ms of the launching supervisor core's `ADMIT` that a SAVED cohort waits
(R339, R343; notes/assumptions/24.md). -/
def State.effPrio (s : State) (x : Slot) : Nat :=
  if x.st = 4 then x.prio - (s.ns - x.savedNs) / (((s.core x.sup).sup.admission.extractLsb' 32 16).toNat * 1000000) else x.prio

end Sys2Proof.Machine
end

