-- ==== Sys2Proof/Machine/Timetable.lean ====
section
/-! DEFINITION. The timetable of a cohort: holds and their release, the end of a tc with its deviation checks and joining points,
phase boundaries, curtains and the closing `RDV` (spec/02_timetable.md R24 to R56; spec/06_consistency.md R126;
spec/12_isa_common.md R273 to R279). -/

namespace Sys2Proof.Machine

/-! ## Reaching a tc -/

/-- The cohort rank that a fault names; a fault of another package's stream names its rank above 0x10000 (R314). -/
def State.faultRank (s : State) (f : FaultRec) : Nat := if 0x10000 ≤ f.core then f.core - 0x10000 else (s.core f.core).rank

/-- The order in which faults are charged: by F, cohort rank and stream code (R33, R365). -/
def State.faultLe (s : State) (a b : FaultRec) : Bool :=
  let ra := s.faultRank a
  let rb := s.faultRank b
  a.tc < b.tc || (a.tc == b.tc && (ra < rb || (ra == rb && a.stream ≤ b.stream)))

/-- The faults found since the last tc ended: the first stops the cohort at its F + H, and every other is a later fault (R33). One whose F an
answer has given only now may come before the fault that was to stop the cohort (R365). -/
def State.resolveFaults (s : State) (n : Nat) : State :=
  let x := s.slot n
  let fs := x.faultsNow
  let first := fs.foldl (fun (m : Option FaultRec) f => match m with
    | none => some f
    | some g => if s.faultLe g f then some g else some f) none
  match first, x.fatal with
  | none, _ => s
  | some f, none => s.modSlot n fun y =>
    { y with fatal := some f, stopTc := f.tc + y.horizon, later := y.later ++ fs.erase f, faultsNow := [] }
  | some f, some g =>
    if s.faultLe g f then s.modSlot n fun y => { y with later := y.later ++ fs, faultsNow := [] }
    else s.modSlot n fun y =>
      { y with fatal := some f, stopTc := f.tc + y.horizon, later := y.later ++ g :: fs.erase f, faultsNow := [] }

/-- The piece of its instruction that an access of a number serves: a drain numbers those of its two outputs in turn (R261). -/
def pieceOf (i : Instr) (k : Nat) : Nat :=
  match i with
  | .mxDrain _ _ => k / 2
  | _ => k

/-- What an access of a store kept of its instruction, with the piece from which its destinations are undefined (R188, R261). -/
def storeAct (r : Act) : Act :=
  match r.aux with
  | n :: k :: xs => { r with j := pieceOf r.ins r.j, n := n, aux := xs.take k, buf := (xs.drop k).map (BitVec.ofNat 8) }
  | _ => r

/-- A fault of an access with what its instruction leaves undefined, from the piece that has faulted on (R188, R261). -/
def State.restOf (s : State) (f : FaultRec) : FaultRec :=
  match f.rest with
  | none => f
  | some r =>
    if (destOf r.ins r.aux 0).isEmpty then { f with rest := some (storeAct r) }
    else match ((s.core f.core).stream f.stream).act with
      | some a => if r.start = a.start && r.ins = a.ins then { f with rest := some { a with j := r.j } } else f
      | none => f

/-- Faults that count from a tc before `t`: page faults at A, and those found while a write was performed (R362). -/
def State.takeDue (s : State) (n t : Nat) : State :=
  let x := s.slot n
  let due := (x.dueFaults.filter fun f => f.tc < t).map s.restOf
  due.foldl (fun s f => if 0x10000 ≤ f.core || f.kind == .kill then s
      else s.modStreamAt f.core f.stream fun y => { y with stopped := true, act := none })
    (s.modSlot n fun y =>
      { y with faultsNow := y.faultsNow ++ due, dueFaults := y.dueFaults.filter fun f => t ≤ f.tc })

/-- A fault belongs to stream `st` of core `c`. -/
def FaultRec.of (f : FaultRec) (c st : Nat) : Bool := f.core == c && f.stream == st

/-- A stream's work issued at or after its fatal F (R366). -/
def Slot.retracts (x : Slot) (core stream tc : Nat) : Bool :=
  (x.fatal.toList ++ x.later ++ x.dueFaults).any fun f => f.of core stream && f.kind != .kill && f.tc ≤ tc

/-- A store or atomic of the stream of access `a` that did not come after it has taken a fatal fault, at its own tc or before, or is lost with
its path (R129, R362, R371). -/
def State.afterFailed (s : State) (a : Access) : Bool :=
  s.outs.any fun b => b.slot == a.slot && b.core == a.core && b.stream == a.stream && b.kind != .read && b.coll.isNone &&
    (b.st == .failed || b.st == .lost) && b.id ≤ a.id

/-- An access that the stop of its slot takes back (R366): its stream issued it at or after the stream's F, as both count (R322). -/
def State.takesBack (s : State) (n : Nat) (a : Access) : Bool :=
  let x := s.slot n
  a.slot == n && a.coll.isNone && ((a.stub == x.stubOf && x.retracts a.core a.stream a.tc) || s.afterFailed a)

/-- The cohort is to stop at its tc (R33). -/
def Slot.stopsHere (x : Slot) : Bool :=
  match x.fatal with
  | some _ => x.stopTc ≤ x.tc
  | none => x.dueFaults.any fun f => f.tc + x.horizon ≤ x.tc

/-- A stop waits for stores and atomics of the members that it does not take back and that cannot be performed yet: their walk, their line or
an answer has still to come (R366; notes/assumptions/64.md). -/
def State.stopWaits (s : State) (n : Nat) : Bool :=
  (s.slot n).stopsHere && s.outs.any fun a => a.slot == n && a.kind != .read && a.coll.isNone && !s.takesBack n a && match a.st with
    | .walk => true
    | .faulted _ => true
    | .sent | .failed | .lost => false

/-- At its stop a cohort waits for no reply that is lost; before that, an entry whose reply never lands keeps it held (R102, R371). -/
def State.endLost (s : State) (n : Nat) : State :=
  if (s.slot n).stopsHere then (s.outs.filter fun a => a.slot == n && a.st == .lost).foldl (fun s a => s.clearCause n (.reply a.id)) s else s

/-- Opens the slot's tc: it executes on this clock, with what landed at it while it was held (R38), and a fault of an earlier tc that
an answer made fatal meanwhile counts from its own tc (R33, R365). -/
def State.openTc (s : State) (n : Nat) : State :=
  (((s.landDue n).takeDue n (s.slot n).tc).resolveFaults n).modSlot n fun x =>
    { x with opened := true, held := none, wdog := 0, landed := [], reqs := x.reqs.filter fun r => x.tc < r.target }

/-- Join messages of a package whose members all join at the slot's tc (R275): one when the point is reached, and at `PHASE.pod` another
once the stores that it publishes are performed (notes/assumptions/61.md). -/
def State.sendJoins (s : State) (n : Nat) : State :=
  let x := s.slot n
  let ws := s.dueWords n x.tc
  let tell := fun (kind : Nat) (s : State) => ((List.range x.npkg).filter fun p => p != x.prank).foldl
    (fun s p => s.send (.join n p x.joinSeq kind)) (s.modSlot n fun y => { y with joinSent := y.joinSent + 1 })
  match ws with
  | (_, _, i) :: _ =>
    let k := joinKind i
    if x.npkg ≤ 1 || k = 0 || ws.length != 5 * x.members.length || !(ws.all fun w => joinKind w.2.2 == k) then s
    else
      let s := if x.joinSent = 0 then tell k s else s
      if k = 3 && (s.slot n).joinSent = 1 && !s.storesOut n x.tc then tell storesKind s else s
  | [] => s

/-- What the words of the slot's tc set going. -/
def State.stirAll (s : State) (n : Nat) : State := (s.dueWords n (s.slot n).tc).foldl (fun s w => s.stir n w.1 w.2.2) s

/-- A slot reaches its tc on this clock (R35 to R37): writes land, late replies send their requests, waiting words are judged, and the tc
opens unless some cause holds it. -/
def State.reach (s : State) (n : Nat) : State :=
  let s := s.landDue n
  let t := (s.slot n).tc
  let late := s.outs.filter fun a => a.slot == n && a.kind != .store && a.coll.isNone && a.arr == t && a.st != .failed
  let s := late.foldl (fun s a => s.request n (t + (s.slot n).horizon) (.reply a.id)) s
  let s := (((s.stirAll n).sendJoins n).look n).endLost n
  match (s.slot n).releaseAt with
  | some k => if k ≤ (s.slot n).clk && !s.stopWaits n then s.openTc n else s.modSlot n fun x => { x with held := some x.clk }
  | none => s.modSlot n fun x => { x with held := some x.clk }

/-- On each clock of a hold the hold counters advance; a supervisor `HOLD` is not counted by the watchdog (R37 to R39, R337). -/
def State.holdClock (s : State) (n : Nat) : State :=
  ((s.stirAll n).sendJoins n).modSlot n fun x =>
    { x with
      heldClks := x.heldClks + 1
      wdog := if x.binding.any fun r => r.cause == .platform 0 && r.cleared.isNone then x.wdog else x.wdog + 1 }

/-- The hold at a slot's tc may end on this clock (R37). -/
def State.releasable (s : State) (n : Nat) : Bool :=
  let x := s.slot n
  x.live && x.held.isSome && (match x.releaseAt with
    | some k => k ≤ x.clk
    | none => false) && !s.stopWaits n

/-! ## Faults of a tc -/

/-- No member stream issues any more (R403). -/
def State.stopAll (s : State) (n : Nat) : State :=
  (s.slot n).members.foldl
    (fun s c => (List.range 5).foldl (fun s st => s.modStreamAt c st fun y => { y with stopped := true, act := none }) s) s

/-- A fault of the whole cohort, charged to the C stream of its lowest-ranked member core (R403). -/
def State.cohortFault (s : State) (n : Nat) (k : FaultKind) (d : Nat) : State :=
  (s.faultAt ((s.slot n).members.headD 0) 0 k d 0 0).stopAll n

/-- The member core of a cohort rank. -/
def State.coreOfRank (s : State) (n rank : Nat) : Nat :=
  ((s.slot n).members.find? fun c => (s.core c).rank == rank).getD ((s.slot n).members.headD 0)

/-- Two transfers on one link in one tc (R31): the fault of the one that issued later, then of the higher rank and stream. -/
def State.meshCheck (s : State) (n : Nat) : State :=
  let x := s.slot n
  let now := x.links.filter fun l => l.1 == x.tc
  let s := s.modSlot n fun y => { y with links := y.links.filter fun l => x.tc < l.1 }
  let key := fun (l : Nat × Nat × Nat × Nat × Nat) => l.2.2.2.2 * 2 ^ 32 + l.2.2.1 * 8 + l.2.2.2.1
  now.foldl
    (fun s l =>
      if now.any fun m => m.2.1 == l.2.1 && key m < key l then
        s.faultAt (s.coreOfRank n l.2.2.1) l.2.2.2.1 .deviation 0x09 0 0
      else s) s

/-! ## Joining points -/

/-- The scope that a boundary or barrier acts at for a cohort (R126, R274). -/
def Slot.actScope (x : Slot) (scope : Nat) : Nat := min scope x.scope

/-- Two cores lie in one unit of a joining point (R32, R126). -/
def Slot.joined (x : Slot) (j : Join) (a b : Nat) : Bool :=
  if j.op = 0xE4 || j.op = 0xE6 then unitOf (x.actScope j.arg) a == unitOf (x.actScope j.arg) b else true

/-- The member streams in rank and stream order with what they joined on this tc. -/
def State.joins (s : State) (n : Nat) : List (Nat × Nat × Option Join) :=
  (s.slot n).members.flatMap fun c => (List.range 5).map fun st => (c, st, ((s.core c).stream st).join)

/-- The unit that a point of core `c` joins, by scope and number; a point that is no `PHASE` and no `BAR` joins the whole cohort (R32,
R126). -/
def Slot.unitKey (x : Slot) (j : Join) (c : Nat) : Nat × Nat :=
  if j.op = 0xE4 || j.op = 0xE6 then (x.actScope j.arg, unitOf (x.actScope j.arg) c) else (6, 0)

/-- The first member stream, in rank and stream order, of the unit of a point of core `c` that has not issued that point (R32). -/
def State.misses (s : State) (n c : Nat) (p : Join) : Option (Nat × Nat) :=
  ((s.joins n).find? fun k => (s.slot n).joined p c k.1 && k.2.2 != some p).map fun k => (k.1, k.2.1)

/-- The streams charged with an arrival deviation, one for each unit with a mismatch (R32): the first of it, in rank and stream order, that
lacks a point which another of its members issued. Where members name different points on one tc, that is the first whose point
differs from any other's (notes/assumptions/63.md). -/
def State.absent (s : State) (n : Nat) : List (Nat × Nat) :=
  let x := s.slot n
  let js := s.joins n
  let bad := js.filterMap fun j => j.2.2.bind fun p => (s.misses n j.1 p).map fun e => (x.unitKey p j.1, e)
  let keys := if bad.any fun b => b.1 == (6, 0) then [(6, 0)] else (bad.map (·.1)).eraseDups
  let first := fun k : Nat × Nat => js.find? fun j => bad.any fun b => (b.1 == k || k == (6, 0)) && b.2 == (j.1, j.2.1)
  (keys.filterMap fun k => (first k).map fun j => (j.1, j.2.1)).eraseDups

/-- How much of what is under way breaks a joining point (R32, R159, R248, R273, R403): at `RDV.end` a held matrix command, at `RDV` timed
writes too, and at `CURTAIN` also register writes and transfers that are to land. -/
inductive Reach where
  | held | writes | all
  deriving DecidableEq, Repr

/-- A pending effect is a write to a timed store; one on registers and modes is not, and sticky flags and bank events stand for what has been
done (R80, R98, R123). -/
def Eff.reach (e : Eff) : Option Reach :=
  match e with
  | .flags _ _ | .flagsClear _ _ | .accEvt _ _ => none
  | .bytes _ _ _ | .mac _ _ _ _ _ _ _ | .acc _ _ _ _ _ | .accZero _ _ _ _ _ | .bobj _ _ _ _ _ => some .writes
  | _ => some .all

/-- What a phased read writes when it lands, if it fills no queue entry: a register, or a store of its core (R175, R187, R291). -/
def Access.reach (a : Access) : Option Reach :=
  match a.ins with
  | .lds _ _ => some .all
  | .statRd _ _ => if a.stream = 0 then some .all else none
  | .ldV _ _ | .ldT _ _ | .ldTr _ _ | .ldW _ _ | .ldCb _ _ => some .writes
  | _ => none

/-- The stream with work in flight past tc `t` (R32, R159, R273, R403). -/
def State.inFlight (s : State) (n t : Nat) (r : Reach) : Option (Nat × Nat) :=
  let x := s.slot n
  let counts := fun e : Option Reach => r != .held && (e == some .writes || (e == some .all && r == .all))
  let held := x.members.flatMap fun c => if (s.core c).arr.held.any fun h => t < h.done then [((s.core c).rank, 2)] else []
  let lands := (x.lands.filter fun l => t < l.tc && counts l.eff.reach).map fun l => (l.rank, l.stream)
  let reads := (s.outs.filter fun a => a.slot == n && a.kind == .read && t < a.arr + x.horizon && counts a.reach).map fun a => (a.rank, a.stream)
  let entries := if r != .all then []
    else x.members.flatMap fun c => (s.core c).queues.flatMap fun q => (q.2.filter fun e => !e.phased && t < e.ready).map fun e =>
      ((s.core e.src.1).rank, e.src.2)
  let best := (held ++ lands ++ reads ++ entries).foldl (fun (m : Option (Nat × Nat)) e => match m with
    | none => some e
    | some b => if b.1 < e.1 || (b.1 == e.1 && b.2 ≤ e.2) then some b else some e) none
  best.map fun e => (s.coreOfRank n e.1, e.2)

/-- The deviations of a joining point of the whole cohort at the slot's tc: token residue at a curtain and the close (R28), and work in
flight (R32, R273). -/
def State.pointFaults (s : State) (n : Nat) (p : Join) : List (Nat × Nat × Nat) :=
  let x := s.slot n
  let r : Reach := if p.op = 0xE7 then .all else if p.arg = 0 then .writes else .held
  let residue := if p.op = 0xE3 && p.arg = 0 then none
    else x.members.findSome? fun c => (s.core c).residue.map fun st => (c, st, 0x03)
  residue.toList ++ ((s.inFlight n x.tc r).map fun e => (e.1, e.2, 0x0B)).toList

/-! ## Phase boundaries -/

/-- The boundary that a unit of some cores takes (R126): it publishes, and a scope wider than the cohort's also acts as a fence. -/
def State.boundary (s : State) (n scope : Nat) (cores : List Nat) : State :=
  let x := s.slot n
  let s := s.modSlot n fun y => { y with bounds := y.bounds ++ [⟨x.tc, x.actScope scope, unitOf (x.actScope scope) (cores.headD 0)⟩] }
  if x.scope < scope then
    cores.foldl (fun s c => (List.range 5).foldl (fun s st => s.modStreamAt c st fun y => { y with fences := y.fences + 1 }) s) s
  else s

/-- The boundaries of a tc are the points of what waits for them (R113, R114): a unit with seals or clears holds the cohort at the next tc
until they have been applied (R135). -/
def State.seals (s : State) (n : Nat) (units : List (Nat × List Nat)) : State :=
  let x := s.slot n
  let busy := units.filter fun u => !(s.sealsDue n u.1 u.2).isEmpty
  busy.foldl (fun s u => (s.request n (x.tc + 1) (.seal (u.2.headD 0))).later (.sealedViewArrival n)) (s.sealPoint n units)

/-- The boundaries of the `PHASE` instructions of this tc, one for each unit that all its members' streams have reached (R126, R276). -/
def State.boundaries (s : State) (n : Nat) : State :=
  let x := s.slot n
  let ps := x.members.filterMap fun c => match ((s.core c).stream 0).join with
    | some j => if j.op = 0xE4 && (s.misses n c j).isNone then some (c, j.arg) else none
    | none => none
  let units := (ps.map fun p => (p.2, unitOf (x.actScope p.2) p.1)).eraseDups
  let units := units.map fun u => (u.1, (ps.filter fun p => p.2 == u.1 && unitOf (x.actScope u.1) p.1 == u.2).map (·.1))
  let s := (units.foldl (fun s u => s.boundary n u.1 u.2) s).seals n units
  if ps.any fun p => p.2 == 5 && 1 < x.npkg then s.modSlot n fun y => { y with npod := y.npod + 1 } else s

/-! ## The closing RDV -/

/-- Drops the places and plans of a slot that ends or stops. -/
def State.vacate (s : State) (n : Nat) : State :=
  { s with
    outs := s.outs.filter fun a => a.slot != n
    timers := s.timers.filter fun t => match t.2 with
      | .leaseExpiry m _ => m != n
      | .leaseGrant m => m != n
      | .frequencyChangeDone m _ => m != n
      | .sealedViewArrival m => m != n
      | .yieldDeadlineExpiry m => m != n
      | .faultLogAppend m _ => m != n
      | _ => true }

/-- Aborts every open round of a slot through its log (R22, R351, R372); the answer says whether there was one. A round that has already
been committed stays so, and the ranges of a FAILED group keep their bytes (R380). -/
def State.abortRounds (s : State) (n : Nat) : Bool × State :=
  (s.slot n).grpOf.foldl
    (fun (r : Bool × State) e =>
      let rd := (r.2.slot n).round e.1
      if rd.st = .idle then r
      else
        let s := if rd.settled == some true then r.2
          else if (r.2.group e.2).st = 4 then (r.2.modPlat fun p => { p with rlog := p.rlog.filter fun f => f.grp != e.2 }).closeRound e.2
          else
            let s := if rd.settled.isNone then r.2.abandon e.2 else r.2
            let idle := (s.group e.2).rst == 0
            let s := s.restore n e.1 e.2 ((s.slot n).members.headD 0)
            if idle then s else s.closeRound e.2
        (true, s.modRound n e.1 fun _ => Round.idle)) (false, s)

/-- The scratchpads, registers, arrays and quad SRAM of a cohort do not outlive its kernel (R22): they read zero from its end on
(notes/assumptions/23.md). The cores keep their slot and rank until they are placed again. -/
def State.clearCores (s : State) (cs : List Nat) : State :=
  let s := cs.foldl (fun (s : State) c =>
    s.modCore c fun x => { Core.reset with slot := x.slot, rank := x.rank, sup := x.sup }) s
  { s with qs := ((cs.map quadOf).eraseDups).foldl (fun m q => Map.clearRun m (q * 0x800000) 0x800000) s.qs }

/-- The release of `RDV.end` (R22, R273, R332, R333): the last boundary, leases and quads returned, ENDED, event cause 3. -/
def State.finish (s : State) (n : Nat) : State :=
  let x := s.slot n
  let s := (s.boundary n x.scope x.members).sealPoint n [(x.scope, x.members)]
  let (opened, s) := s.abortRounds n
  let s := s.modSlot n fun y =>
    { y with st := 6, stop := 0, lease := none, reqs := [], lands := [], failed := opened, opened := false, held := none }
  (((s.dropQuads x).vacate n).clearCores x.members).event x.sup 3 (BitVec.ofNat 64 n)

/-! ## Curtains -/

/-- A request that took effect at or before a tc. -/
def byTc (r : Option Nat) (d : Nat) : Bool :=
  match r with
  | some u => u ≤ d
  | none => false

/-- The five words of a trap's record (R281). -/
def Trap.words (t : Trap) : List Word :=
  [BitVec.ofNat 64 (t.rank * 2 ^ 48 + (if t.drop then 2 ^ 43 else 0) + t.stream * 2 ^ 40 + t.code),
   BitVec.ofNat 64 ((if t.code = 3 || t.code = 5 then 0 else t.pc) * 2 ^ 32 + t.arg), BitVec.ofNat 64 t.tc,
   (if t.code = 3 || t.code = 5 then 0 else t.word), t.elem]

/-- Starts every member stream at its entry of a segment on tc T + 1 (R52): loops close, stage predicates are true. -/
def State.dispatch (s : State) (n seg : Nat) (segp : BitVec 32) (trap : List Word) : State :=
  let x := s.slot n
  let es := x.segs.getD seg []
  x.members.foldl
    (fun s c =>
      let s := s.modCore c fun y => y.setStages 7
      (List.range 5).foldl
        (fun s st => s.modStreamAt c st fun y =>
          { y with pc := es.getD st 0, base := x.tc + 1, loops := [], lring := none, segp := segp, dtrap := trap,
                   now := { y.now with idx := 0 } }) s) s

/-- After every curtain `sel` reads 0 from tc T + 1 on every member core (R51). -/
def State.clearSel (s : State) (n : Nat) : State :=
  (s.slot n).members.foldl (fun s c => s.modCore c fun y => y.selSet ((s.slot n).tc + 1) 0) s

/-- Rows 2 to 4 of R51, decided at point `d` from the deciding core's `sel`. -/
def State.curtainRows (s : State) (n : Nat) (r : CurtRec) (d : Nat) (sel : Word) : State :=
  let x := s.slot n
  let go := fun s : State => (s.clearSel n).modSlot n fun y => { y with prevPt := x.tc, curDistNow := y.curDist }
  match s.turn n r d sel with
  | .on => go s
  | .bad k => s.cohortFault n .curtainSelection k
  | .segment k p (some t) => go ((s.modSlot n fun y => { y with traps := y.traps.erase t }).dispatch n k p t.words)
  | .segment k p none => go (s.dispatch n k p [0, 0, 0, 0, 0])

/-- The time left of a lease in µs (R353, R354). -/
def State.leaseLeft (s : State) (x : Slot) : Nat × Nat :=
  match x.lease with
  | some l => (l.level, (l.expiry - s.ns) / 1000)
  | none => (0, 0)

/-- POLITE stood at tc `d` (R346): it is set since then, or it was withdrawn later. -/
def Slot.politeAt (x : Slot) (d : Nat) : Bool := byTc x.polite d || x.withdrawn.any fun w => w.1 ≤ d && d < w.2.1

/-- DUE stood at tc `d` (R346). -/
def Slot.dueAt (x : Slot) (d : Nat) : Bool := byTc x.due d || x.withdrawn.any fun w => byTc w.2.2 d && d < w.2.1

/-- A pre-empting curtain (R346, R347, R352, R354): the request is cleared and counted, the lease returned, the pending traps
kept, and the save begins. -/
def State.preempt (s : State) (n idx d : Nat) (sel : Word) (coop : Bool) (savecy : Nat) : State :=
  let x := s.slot n
  let past := x.members.map fun c => ((s.core c).rank, (s.core c).sel, (s.core c).hist)
  let s := s.modSlot n fun y =>
    { y with
      st := 3, past := past, opened := false, held := none, polite := none, ymark := none, due := none, withdrawn := []
      ncoop := if coop then min (y.ncoop + 1) 0xFFFF else y.ncoop
      nforce := if coop then y.nforce else min (y.nforce + 1) 0xFFFF
      lrem := s.leaseLeft y, lease := none, curtain := idx, dpoint := d, seldp := sel, kept := y.traps, traps := [] }
  let s := s.unplan fun i => match i with
    | .leaseExpiry m _ => m == n
    | .yieldDeadlineExpiry m => m == n
    | _ => false
  (s.event x.sup 4 (BitVec.ofNat 64 n)).inClocks savecy (.saveComplete n)

/-- A SAVED cohort waits at equal or higher effective priority than cohort `n` whose quads would make it placeable (R343, R346). -/
def State.savedWaits (s : State) (n : Nat) : Bool :=
  s.slots.any fun e => e.2.st == 4 && e.2.resume == .none && s.effPrio e.2 ≤ s.effPrio (s.slot n) && s.freedBy e.2 n

/-- Whether a cohort waits at equal or higher priority that this cohort's quads would make placeable (R346): a head for which POLITE
stands, or a SAVED cohort. The other waiting requests lie in the supervisor's own lists, so without those two the answer is free
(notes/assumptions/9.md). -/
def State.someoneWaits (s : State) (n : Nat) (polite : Bool) : Bool × State :=
  if polite || s.savedWaits n then (true, s) else (Config.freeNat s.free % 2 == 1, { s with free := s.free + 1 })

/-- The curtain of the slot's tc with record `idx` (R49 to R51, R346). -/
def State.curtainAct (s : State) (n idx : Nat) : State :=
  let x := s.slot n
  let d := x.decisionAt x.tc
  let s := s.rescaleTraps n d
  match x.curts[idx]? with
  | none => s
  | some r =>
    let sel := s.selAt n d
    let pset := 1 < x.npkg
    let y := !pset && byTc x.ymark d
    let p := !pset && x.politeAt d
    let (w, s) := if y then s.someoneWaits n p else (false, s)
    let s := s.modSlot n fun z =>
      { z with ymark := if byTc z.ymark d then none else z.ymark, withdrawn := z.withdrawn.filter fun w => d < w.2.1 }
    if x.kill.isSome then s.curtainRows n r d sel
    else if y && w then s.preempt n idx d sel true r.savecy
    else if p && r.yok then s.preempt n idx d sel true r.savecy
    else if !pset && x.dueAt d then s.preempt n idx d sel false r.savecy
    else s.curtainRows n r d sel

/-- The closing `CURTAIN` of the stubs (R322): the cohort waits for the curtain's decision. -/
def State.closeStubs (s : State) (n : Nat) : State :=
  (s.modSlot n fun y => { y with resume := .deciding, opened := false, held := none }).inClocks 0 (.restoreComplete n)

/-! ## The end of a tc -/

/-- The packages of a set have passed a join together (R275). -/
def State.crossed (s : State) (n : Nat) : State :=
  s.modSlot n fun y =>
    { y with joinSeq := y.joinSeq + 1, joinSent := 0, joinMsgs := y.joinMsgs.filter fun m => y.joinSeq < m.2.1 }

/-- A joining point of the whole cohort at which every stream has arrived takes effect (R273, R278). -/
def State.meet (s : State) (n : Nat) (p : Join) : State :=
  let x := s.slot n
  let pod := 1 < x.npkg && p.op = 0xE3
  let s := if pod then s.crossed n else s
  if p.op = 0xE3 then (if p.arg = 1 then s.finish n else s)
  else if x.resume = .stubs then s.closeStubs n
  else s.curtainAct n p.arg

/-- The joining points of the slot's tc (R32, R33, R126, R273 to R278): every deviation of that tc is recorded; a point of the cohort takes
effect where there is none, and a phase boundary where its unit has arrived. -/
def State.endJoins (s : State) (n : Nat) : State :=
  let x := s.slot n
  let ps := ((s.joins n).filterMap (·.2.2)).eraseDups
  let all := ps.filter fun p => p.op = 0xE3 || p.op = 0xE7
  let kind := fun p : Join => if p.op = 0xE3 then 1 + p.arg else if p.op = 0xE4 then 3 else 4
  let pods := if 1 < x.npkg then ps.filter fun p => p.op = 0xE3 || (p.op != 0xE7 && p.arg = 5) else []
  let away := (s.absent n).map fun e => (e.1, e.2, 0x0A)
  let wrong := if away.isEmpty && pods.any fun p => x.joinsWrong x.joinSeq (kind p) then [(x.members.headD 0, 0, 0x0A)] else []
  let bad := away ++ wrong ++ (all.flatMap fun p => s.pointFaults n p).eraseDups
  let s := bad.foldl (fun s f => s.faultAt f.1 f.2.1 .deviation f.2.2 0 0) s
  match all with
  | p :: _ => if bad.isEmpty then s.meet n p else s
  | [] =>
    let s := s.boundaries n
    if pods.isEmpty || !away.isEmpty || !wrong.isEmpty then s else s.crossed n

/-- The end of the slot's tc: tokens, queues and `fq` (R27, R30, R94), the mesh (R31), joining points and faults; then the next
tc is to be reached. -/
def State.endTc (s : State) (n : Nat) : State :=
  let x := s.slot n
  let s := x.members.foldl (fun s c => ((s.endTokens c).endFpushes c).endPushes c) s
  let s := ((s.meshCheck n).fuseCheck n).takeDue n (x.tc + 1)
  let s := if (s.slot n).fatal.isSome && (s.slot n).faultsNow.isEmpty && (s.joins n).all fun j => j.2.2.isNone then s
    else s.endJoins n
  let s := s.resolveFaults n
  let s := (x.members.foldl
    (fun s c => (List.range 5).foldl (fun s st => s.modStreamAt c st fun y => { y with join := none }) s) s).modSlot n fun y =>
      { y with roundOps := [] }
  if (s.slot n).live then s.modSlot n fun y => { y with tc := y.tc + 1, opened := false } else s

end Sys2Proof.Machine
end

