-- ==== Sys2Proof/Machine/Stops.lean ====
section
/-! DEFINITION. Fatal stops and their report frames, the watchdog, kills, uncorrectable errors, link loss, late exchange stores, and
power leases (spec/02_timetable.md R33, R39; spec/18_translation.md R366 to R372; spec/17_scheduling.md R346, R351, R353, R354). -/

namespace Sys2Proof.Machine

/-! ## Report frames -/

/-- The size of a member's block in the save area: the largest CTXSZ (R326), and the room of one report frame where no curtain record
asks for more (R369; DEDUCED, notes/assumptions/33.md). -/
def Slot.blockSize (x : Slot) : Nat := x.curts.foldl (fun m r => max m r.ctxsz) 256

/-- A tc of a report: T inside a stub (R322). -/
def Slot.frameTc (x : Slot) (t : Nat) : Nat := x.outTc t

/-- The part of a frame for one stream (R369). -/
def State.frameEntry (s : State) (x : Slot) (f : FaultRec) (c st : Nat) : List Byte :=
  let y := (s.core c).stream st
  let mine := f.of c st
  let after := x.later.find? fun g => g.of c st
  let busy := y.act.isSome || x.tc < y.base
  let pc := if mine then f.pc else if busy then y.now.pc else y.pc
  let word := if mine then f.word else if busy then y.now.word else y.next
  let tc := if mine then (match f.late with
      | some l => l.1
      | none => x.frameTc f.tc)
    else if 0x10000 ≤ f.core then x.frameTc f.tc else x.frameTc x.tc
  let cu := if mine then f.cursors else y.cu
  let sdet := match after with
    | some g => g.kind.code * 256 + g.detail % 256
    | none => 0
  let stamp := if mine then (match f.late with
      | some l => l.2
      | none => 0) else 0
  leBytes 4 pc ++ leBytes 1 (if mine then f.space else 0) ++
    leBytes 1 ((if mine then 1 else 0) + if after.isSome then 2 else 0) ++ leBytes 2 sdet ++ leBytes 8 word.toNat ++
    leBytes 8 tc ++ leBytes 8 (if mine then f.addr.toNat else 0) ++
    leBytes 8 (if st = 1 || st = 4 then cu.getD 0 0 + cu.getD 1 0 * 2 ^ 16 + cu.getD 2 0 * 2 ^ 32 + cu.getD 3 0 * 2 ^ 48 else 0) ++
    leBytes 8 stamp

/-- The 256-byte frame of a member core (R369). -/
def State.frame (s : State) (x : Slot) (f : FaultRec) (c : Nat) : List Byte :=
  leBytes 8 (x.frameTc f.tc) ++ leBytes 2 (s.faultRank f) ++ leBytes 1 f.stream ++ leBytes 1 f.kind.code ++ leBytes 2 f.detail ++
    leBytes 2 (min x.later.length 0xFFFF) ++ (List.range 5).flatMap fun st => s.frameEntry x f c st

/-- The address of a member's block in the save area, by cohort rank (R326). -/
def Slot.blockAt (x : Slot) (rank : Nat) : Nat := x.save + rank * x.blockSize

/-- Writes the frames of all members (R369). -/
def State.frames (s : State) (n : Nat) (f : FaultRec) : State :=
  let x := s.slot n
  x.members.foldl (fun t c => t.devWrites none (x.blockAt (s.core c).rank) (s.frame x f c)) s

/-! ## Stops -/

/-- A round without the `RND.OPEN` or `RND.PREP` that a faulting stream issued at or after its F (R366). -/
def Slot.retractRound (x : Slot) (r : Round) : Round :=
  if r.st != .idle && x.retracts r.opener 0 r.start.tc then Round.idle
  else if r.st == .prepared && r.settled.isNone && x.retracts r.preparer 0 r.prepTc.tc then { r with st := .opened } else r

/-- The groups' states follow the rounds that a stop has taken back (R366, R373). -/
def State.retractGroups (s : State) (n : Nat) (x : Slot) : State :=
  x.grpOf.foldl
    (fun s e =>
      let old := (x.round e.1).st
      let r := (x.retractRound (x.round e.1)).st
      if r = old then s
      else if r = .idle then s.closeRound e.2
      else s.modGroup e.2 fun y => { y with rst := 1, notices := y.notices.filter (· != y.self) }) (s.modSlot n fun y =>
        { y with rounds := y.rounds.map fun (e : Nat × Round) => (e.1, x.retractRound e.2) })

/-- Takes back what faulting streams issued at or after their F (R366). Inside a wind-up stub only accesses are taken back: what else the
stub has done is of no effect before its curtain (notes/assumptions/22.md). -/
def State.retract (s : State) (n : Nat) : State :=
  let gone := s.outs.filter (s.takesBack n)
  let s := ({ s with outs := s.outs.filter fun a => !s.takesBack n a }).modSlot n fun y =>
    { y with log := y.log.filter fun w => w.done != 0 || !gone.any fun a => a.id == w.acc }
  let x := s.slot n
  if x.stubOf.isSome then s
  else (s.retractGroups n x).modSlot n fun y =>
    { y with
      marks := y.marks.filter fun m => !x.retracts m.core 0 m.tc.tc
      colls := y.colls.filter fun k => !x.retracts k.core 0 k.tc.tc
      recs := y.recs.map fun (e : Nat × Record) =>
        (e.1, { e.2 with upd := e.2.upd.filter fun u => !x.retracts u.core u.stream u.wr.tc }) }

/-- Performs what the members issued before the stop (R366). -/
def State.drain (s : State) (n : Nat) : State :=
  (s.outs.filter fun a => a.slot == n && a.kind != .read && a.st == .sent && a.coll.isNone).foldl
    (fun s a => if a.kind = .store then s.performStore a else s.performAtomic a) s

/-- The ranges of a faulting store's accesses that its stop takes back (R188, R366). -/
def State.goneRanges (s : State) (n : Nat) (f : FaultRec) : List (Word × Nat) :=
  match f.rest with
  | none => []
  | some r => (s.outs.filter fun a => s.takesBack n a && a.core == f.core && a.stream == f.stream && a.kind == .store && a.issue.tc == r.start).flatMap
    fun a => a.parts.map fun p => (p.1, p.2.length)

/-- Kinds after which the supervisor restores open rounds (R351, R372). -/
def FaultKind.rollsBack (k : FaultKind) : Bool :=
  k == .watchdog || k == .uncorrectable || k == .linkLoss || k == .restore || k == .kill

/-- The slot enters STOPPED (R333, R354, R369): a lease that it still has is returned with its LREM, nothing of it is under way, and event cause 2 is raised. -/
def State.enterStopped (s : State) (n stop : Nat) : State :=
  let x := s.slot n
  let s := s.modSlot n fun y =>
    { y with st := 5, stop := stop, lrem := if y.lease.isSome then s.leaseLeft y else y.lrem, lease := none, opened := false, held := none, reqs := [], lands := [],
             resume := .none, faults := [], polite := none, due := none, withdrawn := [] }
  let s := if (s.core x.sup).sup.blocked && x.resume != .none then s.unblock x.sup else s
  let s := ((s.dropQuads x).vacate n).unplan fun i => i == .saveComplete n || i == .restoreComplete n || i == .launchComplete n
  s.event x.sup 2 (BitVec.ofNat 64 n)

/-- The fatal stop of a slot for its fault (R33, R366, R369, R372). -/
def State.stopNow (s : State) (n : Nat) (f : FaultRec) : State :=
  let me := s.cur
  let s := (s.takeDue n ((s.slot n).tc + 1)).modSlot n fun x => { x with later := x.later ++ x.faultsNow.filter (· != f), faultsNow := [] }
  let undef := (f :: (s.slot n).later).map fun g => (g, s.goneRanges n g)
  let s := ((s.retract n).drain n).frames n f
  let s := undef.foldl (fun s e => s.blur e.1 e.2) s
  let s := if f.kind.rollsBack then (s.abortRounds n).2 else s
  { s.enterStopped n (if f.kind = .kill then 2 else 1) with cur := me }

/-- The slot's stop tc is reached and the cohort is not held (R33). -/
def Slot.stopDue (x : Slot) : Bool := x.live && x.opened && x.fatal.isSome && x.stopTc ≤ x.tc

/-- `FATAL_STOP` (R33): the cohort stops at F + H, or at the release where it is held there. -/
def execFatalStop (n : Nat) (s : State) : Host.Outcome State Fault Refusal :=
  let x := s.slot n
  .next (match x.fatal with
    | some f => if x.stopDue then s.stopNow n f else s
    | none => s)

/-! ## The watchdog -/

/-- The streams with an uncleared cause of their own at a held tc (R39). -/
def State.waiters (s : State) (n : Nat) : List (Nat × Nat) :=
  let x := s.slot n
  (x.binding.filter fun r => r.cleared.isNone).flatMap fun r =>
    match r.cause with
    | .reply id | .fault id => (s.outs.filter fun a => a.id == id).map fun a => (a.core, a.stream)
    | .seal c => [(c, 0)]
    | .word c st => [(c, st)]
    | .platform _ => []

/-- The watchdog's fault at the held tc (R39). -/
def State.watchdogRec (s : State) (n : Nat) : FaultRec :=
  let x := s.slot n
  let key := fun (e : Nat × Nat) => (s.core e.1).rank * 8 + e.2
  let first := (s.waiters n).foldl (fun (m : Option (Nat × Nat)) e => match m with
    | none => some e
    | some b => if key e < key b then some e else some b) none
  let pick := fun (c st d : Nat) =>
    let y := (s.core c).stream st
    let w := if y.due = x.tc && y.act.isNone then (y.pc, y.next) else (y.now.pc, y.now.word)
    FaultRec.mk .watchdog d c st x.tc w.1 w.2 0 0 y.cu none none
  match first with
  | some (c, st) => pick c st 0
  | none => pick (x.members.headD 0) 0 1

/-- `HOLD_WATCHDOG_EXPIRY` (R39): the hold has lasted HOLDWD counted clocks, and the cohort stops at the held tc. -/
def execHoldWatchdogExpiry (n : Nat) (s : State) : Host.Outcome State Fault Refusal :=
  let x := s.slot n
  .next (if x.live && x.held.isSome && max x.holdwd 1024 ≤ x.wdog && !s.releasable n then
      let w := s.watchdogRec n
      match x.fatal with
      | some f => (s.modSlot n fun y => { y with later := y.later ++ [w] }).stopNow n f
      | none => (s.modSlot n fun y => { y with fatal := some w, stopTc := x.tc }).stopNow n w
    else s)

/-! ## Kills and release -/

/-- What a kill does (R340, R351): a running cohort stops at u + H, its streams issuing on, and its lease is returned at u; a saved
one, or one being saved, is discarded at once. -/
def State.killSlot (s : State) (n : Nat) : State :=
  let x := s.slot n
  let c := x.members.headD 0
  if x.st = 2 then
    if x.kill.isSome then s
    else
      let u := x.effectTc
      let y := (s.core c).stream 0
      let f : FaultRec := ⟨.kill, 0, c, 0, u, y.now.pc, y.now.word, 0, 0, y.cu, none, none⟩
      let s := s.unplan fun i => match i with
        | .leaseExpiry m _ => m == n
        | _ => false
      (s.dueFault n f).modSlot n fun z => { z with kill := some u, lrem := s.leaseLeft z, lease := none }
  else if x.st = 3 || x.st = 4 then ((s.abortRounds n).2).enterStopped n 2
  else s

/-- `KILL` (R340, R351). -/
def execKill (n : Nat) (s : State) : Host.Outcome State Fault Refusal := .next (s.killSlot n)

/-- The rounds that a stop has left open end with their slot (R283, R333): IDLE, without a restoration (notes/assumptions/60.md). -/
def State.dropRounds (s : State) (n : Nat) : State :=
  (s.slot n).grpOf.foldl
    (fun s e => if ((s.slot n).round e.1).st = .idle then s
      else (s.modPlat fun p => { p with rlog := p.rlog.filter fun f => f.grp != e.2 }).closeRound e.2) s

/-- `SLOT_RELEASE` (R333): a STOPPED or ENDED slot becomes FREE with its grants and records freed; the registers that a launch does
not set keep their values (notes/assumptions/23.md). -/
def execSlotRelease (n : Nat) (s : State) : Host.Outcome State Fault Refusal :=
  let x := s.slot n
  .next (if x.st = 5 || x.st = 6 then
      (s.dropRounds n).modSlot n fun _ => { Slot.reset with curDist := x.curDist, holdwd := x.holdwd, ydead := x.ydead, energy := x.energy }
    else s)

/-! ## Uncorrectable errors -/

/-- The uncorrectable error of an access at an address of its own (R370, R376, R382). A read of a PROTECTED line waits for its rebuilding. -/
def State.accessError (s : State) (a : Access) (p : Word) : State :=
  if a.kind = .read && ((s.slot a.slot).markAt p a.keyTc).any (·.prot) then s.unplan fun i => i == a.ending
  else s.failAccess a { a.faultRec .uncorrectable 1 p with tc := if a.kind = .atomic then a.tc else a.arr } (s.physOf a.pages a.core a.slot p)

/-- A line of an old frame cannot be read (R368): what its move comes to follows when the line is pulled or its turn comes. -/
def State.oldLineError (s : State) (v m line : Nat) : State :=
  s.modCore v fun y => { y with sup := { y.sup with bad := y.sup.bad ++ [(m, line)] } }

/-- A failed restore load, at an offset of the save area, stops the cohort as a fatal fault at T (R349, R370). -/
def State.restoreError (s : State) (n off : Nat) : State :=
  let x := s.slot n
  let c := x.members.headD 0
  let y := (s.core c).stream 0
  let f : FaultRec := ⟨.restore, 0, c, 0, x.tc, y.now.pc, y.now.word, 0, 0, y.cu, none, none⟩
  (s.reportError n 0 (x.save + off) x.tc 0 0).stopNow n f

/-- `UNCORRECTABLE_ERROR` (R370). -/
def execUncorrectableError (site : UeSite) (s : State) : Host.Outcome State Fault Refusal :=
  let with_ := fun (id : Nat) (p : Word) (k : Access → Word → State) => match s.access id with
    | some a => k a (a.near p)
    | none => s
  .next (match site with
    | .load id p => with_ id p s.accessError
    | .timed c st p =>
      let n := (s.core c).slot
      if (s.slot n).live then
        (s.faultAt c st .uncorrectable 1 p (0x80 + ptrTag p)).reportError n 0 (ptrOff p) (s.slot n).tc (s.core c).rank st
      else s
    | .pageTable id p => with_ id p fun a p => s.failAccess a (a.faultRec .page 5 p) (s.walkEntry (s.slot a.slot) p)
    | .protectedOld _ => s
    | .loggedOld id p => with_ id p fun a p =>
      s.failAccess a { a.faultRec .uncorrectable 2 p with tc := a.tc } (s.physOf a.pages a.core a.slot p)
    | .save n off =>
      if (s.slot n).st = 3 then
        (((s.reportError n 1 ((s.slot n).save + off) (s.slot n).tc 0 0).abortRounds n).2).enterStopped n 3
      else s
    | .restore n off => if (s.slot n).resume = .restoring then s.restoreError n off else s
    | .oldLine sv m line =>
      let v := 768 + sv
      if (Map.get (s.core v).sup.migctl m).getLsbD 1 && !(s.core v).sup.moved.contains (m, line) then s.oldLineError v m line else s
    | .coll n id =>
      match (s.slot n).colls.find? fun k => k.id == id && k.result.isNone && k.fault.isNone with
      | some k =>
        (s.modColl n id fun k => { k with fault := some (.uncorrectable, 1, collSrc k.desc) }).reportError n 0
          (s.physOf [] k.core n (collSrc k.desc)) k.tc.tc (s.core k.core).rank 0
      | none => s)

/-! ## Link loss -/

/-- The home of an address lies over a lost path (R371): in the host tier for details 1 and 2, on the peer for 3 and 4. -/
def State.overPath (s : State) (detail peer : Nat) (pages : List TlbEntry) (c n : Nat) (p : Word) : Bool :=
  ptrTag p == 0 && match s.keyFor pages c n p with
    | some (l, _) =>
      if detail < 3 then (l.extractLsb' 60 4).toNat == 1 else (l.extractLsb' 60 4).toNat == 2 && (l.extractLsb' 54 6).toNat == peer
    | none => false

/-- An access whose route needs a lost path (R371). -/
def State.onPath (s : State) (detail peer : Nat) (a : Access) : Bool :=
  a.parts.any fun p => (lineStarts p.1 p.2.length).any fun q => s.overPath detail peer a.pages a.core a.slot q

/-- The order of affected accesses: issue tc, cohort rank, stream code (R371). -/
def Access.before (a b : Access) : Bool :=
  a.issueTc.before b.issueTc || (a.issueTc == b.issueTc && (a.rank < b.rank || (a.rank == b.rank && (a.stream < b.stream ||
    (a.stream == b.stream && a.id ≤ b.id)))))

/-- A path is lost for a collective that is not complete: a buffer of its own lies over it, or, between packages, its exchange needs it. The
spec does not say which links and packages that exchange uses, so the answer is free (R102, R295, R371; notes/assumptions/9.md). -/
def State.collLost (s : State) (detail peer n : Nat) (k : Coll) : Bool × State :=
  let lies := fun (p : Word) (len : Nat) => len != 0 && (lineStarts p len).any fun q => s.overPath detail peer [] k.core n q
  let np := (Tbl.get [1, 0] (s.slot n).collOf k.grp).getD 0 1
  let rank := (Tbl.get [1, 0] (s.slot n).collOf k.grp).getD 1 0
  if k.result.isSome || k.fault.isSome then (false, s)
  else if (k.src.isNone && lies (collSrc k.desc) (collSrcN k.desc np rank * collSize k.desc)) || lies (collDst k.desc) (collDstN k.desc np * collSize k.desc) then
    (true, s)
  else if detail < 3 || np ≤ 1 then (false, s)
  else (Config.freeNat s.free % 2 == 1, { s with free := s.free + 1 })

/-- A lost collective is charged to its `COLL.WAIT`, and its engine does nothing more (R371). -/
def State.loseColl (s : State) (detail peer n : Nat) (k : Coll) : State :=
  match s.collLost detail peer n k with
  | (false, s) => s
  | (true, s) =>
    { s with outs := s.outs.filter fun a => !(a.slot == n && a.coll.isSome && a.aux.getD 0 0 == k.id) }.modColl n k.id fun k =>
      { k with fault := some (.linkLoss, detail, 0) }

/-- An affected access is never delivered or performed (R102, R371): its entry stays outstanding, and no later write of its stream overtakes
it. -/
def State.loseAccess (s : State) (a : Access) : State :=
  ((s.unplan fun i => i == a.ending).clearCause a.slot (.fault a.id)).modAccess a.id fun b => { b with st := .lost }

/-- Link loss as one cohort feels it (R371): the fault is charged to the first affected access, and a load's counts from A. -/
def State.lose (s : State) (detail peer n : Nat) : State :=
  let x := s.slot n
  let hit := s.outs.filter fun a => a.slot == n && a.coll.isNone && a.st != .failed && a.st != .lost && s.onPath detail peer a
  let first := hit.foldl (fun (m : Option Access) a => match m with
    | none => some a
    | some b => if a.before b then some a else some b) none
  let s := hit.foldl (fun (s : State) a => s.loseAccess a) s
  let s := match first with
    | none => s
    | some a =>
      let r := { a.faultRec .linkLoss detail a.first with tc := if a.kind == AccKind.read then x.faultTc a a.arr else x.tc }
      ((s.dueFault n r).clearCause n (.reply a.id)).modAccess a.id fun b => { b with st := .failed }
  x.colls.foldl (fun s k => s.loseColl detail peer n k) (s.endLost n)

/-! ## Package sets -/

/-- `EXCHANGE_DEADLINE_REPORT` (R314): F_b is the tc that the package executes, or at which it is held. -/
def execExchangeDeadlineReport (n : Nat) (l : LateStore) (s : State) : Host.Outcome State Fault Refusal :=
  let x := s.slot n
  let own := x.members.find? fun c => (s.core c).rank == l.rank
  let r : FaultRec := ⟨.exchange, 1, own.getD (0x10000 + l.rank), l.stream, x.tc, l.pc, l.word, l.addr, 0x80 + ptrTag l.addr,
    (match own with
      | some c => ((s.core c).stream l.stream).cu
      | none => []), some (l.tc, l.stamp), none⟩
  .next (if !x.live then s
    else if own.isSome then s.addFault n r
    else s.modSlot n fun y => { y with faultsNow := y.faultsNow ++ [r] })

/-- `PACKAGE_JOIN_MESSAGE` (R275); the wall of the partition lets it through or not (R388). -/
def execPackageJoinMessage (n peer seq kind : Nat) (s : State) : Host.Outcome State Fault Refusal :=
  let join := fun s : State => s.modSlot n fun x => { x with joinMsgs := x.joinMsgs ++ [(peer, seq, kind)] }
  .next (match (s.slot n).pkgs[peer]? with
    | some p => s.fromPackage (s.slot n).die p join
    | none => join s)

/-! ## Deadlines and leases -/

/-- `YIELD_DEADLINE_EXPIRY` (R340, R346). -/
def execYieldDeadlineExpiry (n : Nat) (s : State) : Host.Outcome State Fault Refusal :=
  .next (s.modSlot n fun x => if x.polite.isSome && x.due.isNone then { x with due := some x.effectTc } else x)

/-- `POLITE` (R340, R346): setting it starts the yield deadline; clearing it cancels the request and
DUE from its tc u on, and a decision point before u still finds them. -/
def execPolite (n : Nat) (on : Bool) (s : State) : Host.Outcome State Fault Refusal :=
  let x := s.slot n
  .next (if on then
      if x.polite.isSome then s
      else (s.modSlot n fun x => { x with polite := some x.effectTc }).inClocks x.ydead (.yieldDeadlineExpiry n)
    else (s.modSlot n fun x =>
      { x with
        polite := none, due := none
        withdrawn := x.withdrawn ++ (x.polite.map fun p => (p, x.effectTc, x.due)).toList }).unplan fun i => i == .yieldDeadlineExpiry n)

/-- Tag of the frequency change that belongs to a grant (R292). -/
def tagGrant : Nat := 2

/-- The decoded `PWR.ACQ` that is granted next: its tc and level (R292). -/
def Slot.nextAcq (x : Slot) : Option (Nat × Nat) := (x.acqs.find? fun e => !e.2.2).map fun e => (e.1, e.2.1)

/-- The frequency that the grant of a level brings (R292, R353). -/
def State.freqGranted (s : State) (n v : Nat) : Nat :=
  (s.modSlot n fun y => { y with lease := some ⟨min v y.ceil, 0⟩ }).freqWanted n

/-- The grant of the next `PWR.ACQ` is made (R292). -/
def State.grant (s : State) (n : Nat) : State :=
  match (s.slot n).nextAcq with
  | some (t, _) => s.modSlot n fun x => { x with acqs := x.acqs.map fun e => if e.1 = t then (e.1, e.2.1, true) else e }
  | none => s

/-- `LEASE_GRANT` (R292, R353, R354): a decoded `PWR.ACQ` is granted, after the change of frequency where its level asks for one; a restore
takes its lease and goes on. -/
def execLeaseGrant (n : Nat) (s : State) : Host.Outcome State Fault Refusal :=
  let x := s.slot n
  .next (if x.resume = .restoring then
      let lv := min x.lrem.1 x.ceil
      let ex := s.ns + 1000 * x.lrem.2
      let t := (s.modSlot n fun y => { y with lease := some ⟨lv, ex⟩, lrem := (0, 0) }).inClocks (1750 * x.lrem.2) (.leaseExpiry n ex)
      if t.freqWanted n = x.freq then t.later (.restoreComplete n) else t.inClocks freqClocks (.restoreComplete n)
    else
      match x.nextAcq with
      | none => s
      | some (_, v) => if s.freqGranted n v = x.freq then s.grant n else s.inClocks 0 (.frequencyChangeDone n tagGrant))

/-- `LEASE_EXPIRY` (R292): the lease of that expiry ends, and the frequency follows. -/
def execLeaseExpiry (n tag : Nat) (s : State) : Host.Outcome State Fault Refusal :=
  .next (match (s.slot n).lease with
    | some l => if l.expiry = tag then (s.modSlot n fun x => { x with lease := none }).retune n else s
    | none => s)

/-- A cohort is held so that the frequency change of a tag may take place (R396): under its platform hold, which one that has not started is
from the request on, or at the `PWR.ACQ` that waits for its grant. -/
def Slot.stillFor (x : Slot) (tag : Nat) : Bool :=
  (x.held.isSome || x.st == 1) && if tag = tagGrant then x.nextAcq.any fun e => e.1 == x.tc
    else x.reqs.any fun r => r.cause == .platform tag && r.cleared.isNone && r.target ≤ x.tc

/-- What a frequency change leads to: the level in force, or that of the grant (R292, R353). -/
def State.freqNext (s : State) (n tag : Nat) : Nat :=
  match if tag = tagGrant then (s.slot n).nextAcq else none with
  | some (_, v) => s.freqGranted n v
  | none => s.freqWanted n

/-- A change of frequency is over: its hold cause clears, or its grant is made. -/
def State.tuned (s : State) (n tag : Nat) : State :=
  if tag = tagGrant then s.grant n else s.clearCause n (.platform tag)

/-- `FREQUENCY_CHANGE_DONE` (R353, R396): once the cohort is held, its quads stand still for the time of the change; then they run at the new
frequency. The event is planned again until each of these has come. -/
def execFrequencyChangeDone (n tag : Nat) (s : State) : Host.Outcome State Fault Refusal :=
  let x := s.slot n
  let f := s.freqNext n tag
  .next (if !x.live && x.st != 1 then s
    else if x.tuning = some tag then (s.modSlot n fun y => { y with freq := f, tuning := none }).tuned n tag
    else if x.tuning.isSome || !x.stillFor tag then s.inClocks 1 (.frequencyChangeDone n tag)
    else if x.freq = f then s.tuned n tag
    else (s.modSlot n fun y => { y with tuning := some tag }).inClocks freqClocks (.frequencyChangeDone n tag))

end Sys2Proof.Machine
end

