-- ==== Sys2Proof/Machine/Contexts.lean ====
section
/-! DEFINITION. Saved contexts: the core block of a pre-empted cohort, its restore on a new placement, wind-up stubs, and the curtain's
decision on resume (spec/16_prog_spaces.md R322 to R326; spec/17_scheduling.md R348 to R350, R352; R54, R268). -/

namespace Sys2Proof.Machine

/-! ## Writing a block -/

/-- `VBANK` (R217). -/
def Core.vbank (x : Core) : Nat :=
  let code := fun b => match x.banks.getD b .on with
    | .retention | .waking => 1
    | .off => 2
    | _ => 0
  x.allot + code 0 * 2 ^ 6 + code 1 * 2 ^ 8 + code 2 * 2 ^ 10 + code 3 * 2 ^ 12

/-- The bank contents that a bank name stands for (R262). -/
def Array.named (x : Array) (name : Nat) : Nat := if x.swap then 1 - name else name

/-- A pending seal or clear in a SEALS word (R325). -/
def Seal.word (e : Seal) : Nat := e.idx + e.scope * 2 ^ 12 + (if e.isClear then 2 ^ 15 else 0) + (if e.all then 2 ^ 16 else 0)

/-- The n-th of some numbers in `w` bytes each, zero beyond them. -/
def padded (w n : Nat) (xs : List Nat) : List Byte := (List.range n).flatMap fun i => leBytes w (xs.getD i 0)

/-- Four cursors as one number (R325). -/
def cursorNat (cu : List Nat) : Nat := cu.getD 0 0 + cu.getD 1 0 * 2 ^ 16 + cu.getD 2 0 * 2 ^ 32 + cu.getD 3 0 * 2 ^ 48

/-- The part of the fixed part for one stream (R325). -/
def Core.streamPart (x : Core) (st : Nat) : List Byte :=
  let y := x.stream st
  let ls := y.before.reverse
  padded 8 3 (ls.map (·.idx)) ++ leBytes 8 (if st = 1 || st = 4 then cursorNat y.cu else 0) ++ leBytes 8 y.flags.toNat ++
    leBytes 8 y.segp.toNat ++ padded 8 6 (ls.flatMap fun l => [l.first - 8, l.total]) ++
    leBytes 8 (ls.length + y.seals.length * 4) ++ padded 4 4 (y.seals.map Seal.word) ++ leBytes 8 0 ++
    padded 8 5 (y.dtrap.map (·.toNat)) ++ leBytes 8 (if st = 4 then x.upda.toNat else 0) ++
    leBytes 8 (if st = 4 then x.updb.toNat else 0) ++ leBytes 72 0

/-- A barrier object in the fixed part (R325). -/
def BObj.bytes (o : BObj) : List Byte :=
  leBytes 8 (match o.st with
    | .idle => 0
    | .armed => 1
    | .opened => 2) ++ leBytes 8 o.total ++ leBytes 8 o.count ++ leBytes 8 0 ++ leBytes 32 o.hnd.toNat

/-- The fixed part of a core block (R325). -/
def State.fixedPart (s : State) (n c : Nat) : List Byte :=
  let sl := s.slot n
  let x := s.core c
  let cohid := State.cohid { s with cur := (c, 0) }
  leBytes 4 sl.curtain ++ leBytes 4 ((sl.curts[sl.curtain]?.map (·.ctxsz)).getD 0) ++ leBytes 8 sl.tc ++ leBytes 8 cohid.toNat ++
    leBytes 8 x.vshape.toNat ++ leBytes 8 x.vbank ++ leBytes 8 (x.arr.evt.getD (x.arr.named 0) 0).toNat ++
    leBytes 8 (x.arr.evt.getD (x.arr.named 1) 0).toNat ++
    leBytes 8 ((if x.arr.swap then 1 else 0) + (if x.arr.fused then 2 else 0) + if x.arr.report then 4 else 0) ++
    padded 2 8 ((List.range 8).map fun q => (x.queue q).length) ++ leBytes 8 x.fq.length ++ leBytes 8 sl.seldp.toNat ++
    leBytes 32 0 ++ padded 8 16 (x.fq.map (·.toNat)) ++ (List.range 5).flatMap x.streamPart ++
    ((List.range 16).flatMap fun o => (x.obj o).bytes) ++
    [4, 5, 6, 7, 1, 2, 3].flatMap fun j => leBytes 512 (Map.get x.k j).toNat

/-- A vector register is saved: allotted, and not in an off bank (R217). -/
def Core.keepsV (x : Core) (r : Nat) : Bool := r < x.allot && x.banks.getD (r / 8) .on != .off

/-- The bytes that an item writes, in runs by offset in the core block (R324, R348). -/
def Core.itemRuns (x : Core) (e : SaveItem) (t : Nat) : List (Nat × List Byte) :=
  let regs := List.range e.count
  match e.kind with
  | 1 => [(e.off, regs.flatMap fun i => leBytes 8 (x.sGet (e.first + i)).toNat)]
  | 2 => [(e.off, regs.flatMap fun i => leBytes 32 (Map.get x.h (e.first + i)).toNat)]
  | 3 => [(e.off, padded 4 512 ((List.range 8).flatMap fun q => (x.queue q).map fun y => y.ready - t))]
  | 4 => [(e.off, ((x.queue e.first).flatMap fun y => entryBytes y.data) ++
      leBytes (256 * (e.count - (x.queue e.first).length)) 0)]
  | 5 => (regs.filter fun i => x.keepsV (e.first + i)).map fun i =>
      (e.off + 4096 * i, Map.getRun x.v (4096 * (e.first + i)) 4096)
  | 6 => [(e.off, Map.getRun x.t (16384 * e.first) (16384 * e.count))]
  | 7 => regs.map fun i =>
      (e.off + 73728 * i, (Map.getRun x.arr.acc (accKey (x.arr.named (e.first + i)) 0 0) 18432).flatMap fun v => leBytes 4 v.toNat)
  | _ => [(e.off, Map.getRun x.sp e.src e.count)]

/-- Writes the block of a member core (R326, R348). -/
def State.saveCore (s : State) (n c : Nat) (r : CurtRec) : State :=
  let sl := s.slot n
  let x := s.core c
  let at_ := sl.blockAt x.rank
  let s := s.devWrites none at_ (s.fixedPart n c)
  r.save.foldl (fun s e => (x.itemRuns e sl.tc).foldl (fun s (w : Nat × List Byte) => s.devWrites none (at_ + w.1) w.2) s) s

/-- The open levels of a stream that an `LRING` heads, a bit each from the outermost (R45). -/
def Stream.ringBits (y : Stream) : Nat :=
  let ls := y.before.reverse
  (List.range ls.length).foldl (fun a i => a + if (ls[i]?).any (·.ringed) then 2 ^ i else 0) 0

/-- What the slot keeps of a member beside its block: the curtain's offset on each stream, the arms of its objects, the fences that each
stream has issued (R131), and which of its loop levels have rings (R54). -/
def Core.reentry (x : Core) : List Nat :=
  ((List.range 5).map fun st => (x.stream st).now.pc) ++ ((List.range 16).map fun o => (x.obj o).uses) ++
    ((List.range 5).map fun st => (x.stream st).fences) ++ (List.range 5).map fun st => (x.stream st).ringBits

/-- The platform requests that still stand past the curtain of a saved cohort: a request is never withdrawn (R35). A change of frequency
is over with the clock of the quads that the cohort leaves (R396). -/
def Slot.standing (x : Slot) : List Req :=
  x.reqs.filter fun r => r.cleared.isNone && match r.cause with
    | .platform t => t != tagFreq
    | _ => false

/-- `SAVE_COMPLETE` (R347, R349), which a droop puts off (R399): the blocks stand, the cohort leaves its quads, and event cause 5 is raised. Flags whose result tc (R80) lies
after the curtain join the FLAGS that the block saves: the spec names no field for them, and this is the model's choice
(notes/assumptions/68.md). -/
def execSaveComplete (n : Nat) (s : State) : Host.Outcome State Fault Refusal :=
  let x := s.slot n
  .next (if x.st = 3 && s.drooping n then s.later (.saveComplete n)
    else if x.st = 3 then
      let s := (sortLands x.lands).foldl (fun s l => s.apply l.tc l.core l.eff) (s.modSlot n fun y => { y with lands := [] })
      let s := match x.curts[x.curtain]? with
        | some r => x.members.foldl (fun (s : State) c => s.saveCore n c r) s
        | none => s
      let re := x.members.map fun c => ((s.core c).rank, (s.core c).reentry)
      ((s.dropQuads x).modSlot n fun y => { y with st := 4, reqs := y.standing, reentry := re, savedNs := s.ns }).event x.sup 5 (BitVec.ofNat 64 n)
    else s)

/-! ## Reading a block -/

/-- The ranges and stage count of the `LRING` word before a `LOOP`, if one stands there (R325). -/
def ringBefore (y : Stream) (pc : Nat) : Option (Nat × List (Nat × Nat)) :=
  match decodeWord (if pc < 8 then 0 else y.wordAt (pc - 8)) with
  | .ok (.lring _ f) => some (f.d.toNat, ringRange f.rng0 ++ ringRange f.rng1 ++ ringRange f.rng2 ++ ringRange f.rng3)
  | _ => none

/-- A saved loop level: offset of its `LOOP` word, iterations in all, index (R325). A `LOOP` that was reached past its `LRING` has no ring
(notes/assumptions/62.md). -/
def savedLevel (y : Stream) (ringed : Bool) (pc total idx : Nat) : Level :=
  let ring := if ringed then ringBefore y pc else none
  let d := (ring.map (·.1)).getD 0
  let blen := match decodeWord (y.wordAt pc) with
    | .ok (.loop _ f) => f.blen.toNat
    | _ => 0
  { first := pc + 8, last := pc + 8 * (blen + 1), n := total + 1 - max d 1, d := d, total := total, idx := idx,
    ringed := ring.isSome, ranges := (ring.map (·.2)).getD [] }

/-- A seal or clear from its SEALS word (R325). -/
def sealOf (w : Nat) : Seal := ⟨w.testBit 15, w.testBit 16, w / 2 ^ 12 % 8, w % 4096⟩

/-- A stream from its part of the fixed part, at stub count 0 of its stub (R322, R323, R325); `b` reads the block. -/
def Stream.restore (y : Stream) (b : Nat → Nat → Nat) (st stub pc fences rings : Nat) : Stream :=
  let o := 0x100 + 0x100 * st
  let st' := b (o + 0x60) 8
  let lv := (List.range (st' % 4)).map fun i => savedLevel y (rings.testBit i) (b (o + 0x30 + 16 * i) 8) (b (o + 0x38 + 16 * i) 8) (b (o + 8 * i) 8)
  { y with
    pc := stub, base := 0, loops := [], lring := none, ret := []
    flags := BitVec.ofNat 6 (b (o + 0x20) 8), segp := BitVec.ofNat 32 (b (o + 0x28) 8)
    cu := (List.range 4).map fun d => b (o + 0x18 + 2 * d) 2
    seals := (List.range (st' / 4 % 8)).map fun i => sealOf (b (o + 0x68 + 4 * i) 4)
    dtrap := (List.range 5).map fun i => BitVec.ofNat 64 (b (o + 0x80 + 8 * i) 8)
    act := none, join := none, fences := fences, stopped := false, ended := false, main := some (pc, lv.reverse) }

/-- A barrier object from the fixed part (R325). -/
def objOf (b : Nat → Nat → Nat) (i uses : Nat) : BObj :=
  let o := 0x600 + 0x40 * i
  let h : Handle := BitVec.ofNat 256 (b (o + 0x20) 32)
  ⟨match b o 1 % 4 with
    | 1 => .armed
    | 2 => .opened
    | _ => .idle, b (o + 8) 8, b (o + 0x10) 8, h, coverOf h, uses⟩

/-- A ready tc inside a stub: a restored entry may be popped there only where its ready-table value is 0 (R322). -/
def stubReady (r : Nat) : Nat := if r = 0 then 0 else 2 ^ 60 + r

/-- The queues of a block: occupancies of the fixed part, ready values of the ready table, contents of live queues (R322, R323). An entry
that is not ready at the curtain is one of phased memory: no timed transfer lands after it (R29, R32). -/
def restoredQueues (b : Nat → Nat → Nat) (items : List SaveItem) : Tbl (List QEntry) :=
  let occ := fun q => b (0x40 + 2 * q) 2
  let ready := fun i => match items.find? fun e => e.kind == 3 with
    | some e => b (e.off + 4 * i) 4
    | none => 0
  (List.range 8).map fun q =>
    let before := (List.range q).foldl (fun a i => a + occ i) 0
    (q, (List.range (occ q)).map fun i =>
      let d : Entry := match items.find? fun e => e.kind == 4 && e.first == q with
        | some e => BitVec.ofNat 2048 (b (e.off + 256 * i) 256)
        | none => 0
      ⟨d, stubReady (ready (before + i)), ready (before + i) != 0, none, (0, 0)⟩)

/-- One item of the restore list on a core whose fixed part stands (R323, R348). -/
def Core.loadItem (x : Core) (b : Nat → Nat → Nat) (e : SaveItem) : Core :=
  let bytes := fun (o n : Nat) => (List.range n).map fun i => BitVec.ofNat 8 (b (o + i) 1)
  let regs := List.range e.count
  match e.kind with
  | 1 =>
    let put := fun (m : Map 64) i => if e.first + i = 0 then m else Map.set m (e.first + i) (BitVec.ofNat 64 (b (e.off + 8 * i) 8))
    { x with s := regs.foldl put x.s }
  | 2 =>
    let put := fun (m : Map 256) i => Map.set m (e.first + i) (BitVec.ofNat 256 (b (e.off + 32 * i) 32))
    { x with h := regs.foldl put x.h }
  | 5 =>
    let live := regs.filter fun i => x.keepsV (e.first + i)
    { x with v := live.foldl (fun m i => Map.setRun m (4096 * (e.first + i)) (bytes (e.off + 4096 * i) 4096)) x.v }
  | 6 => { x with t := Map.setRun x.t (16384 * e.first) (bytes e.off (16384 * e.count)) }
  | 7 =>
    let vals := fun i => (List.range 18432).map fun j => BitVec.ofNat 32 (b (e.off + 73728 * i + 4 * j) 4)
    let acc := regs.foldl (fun m i => Map.setRun m (accKey (x.arr.named (e.first + i)) 0 0) (vals i)) x.arr.acc
    { x with arr := { x.arr with acc := acc } }
  | 8 => { x with sp := Map.setRun x.sp e.src (bytes e.off e.count) }
  | _ => x

/-- A member core at stub count 0 (R268, R323). `x` holds text and launch constants only; `re` is what the slot kept. -/
def Core.restore (x : Core) (b : Nat → Nat → Nat) (r : CurtRec) (re : List Nat) : Core :=
  let vb := b 0x20 8
  let bank := fun i => match vb / 2 ^ (6 + 2 * i) % 4 with
    | 1 => BankPwr.retention
    | 2 => .off
    | _ => .on
  let mx := b 0x38 8
  let swap := mx.testBit 0
  let arr : Array := { Array.reset with swap := swap, fused := mx.testBit 1, report := mx.testBit 2 }
  let ev := fun name => BitVec.ofNat 3 (b (0x28 + 8 * name) 8)
  let ks := [4, 5, 6, 7].map (fun j => (j, 0xA00 + 0x200 * (j - 4))) ++ [1, 2, 3].map fun j => (j, 0x1200 + 0x200 * (j - 1))
  let y : Core := { x with
    vshape := BitVec.ofNat 32 (b 0x18 8), allot := vb % 64, banks := (List.range 4).map bank
    arr := { arr with evt := [ev (arr.named 0), ev (arr.named 1)] }
    queues := restoredQueues b r.restore
    fq := (List.range (b 0x50 8)).map fun i => BitVec.ofNat 64 (b (0x80 + 8 * i) 8)
    upda := BitVec.ofNat 64 (b 0x5A8 8), updb := BitVec.ofNat 64 (b 0x5B0 8), sel := 0
    k := ks.foldl (fun (m : Map 4096) (e : Nat × Nat) => Map.set m e.1 (BitVec.ofNat 4096 (b e.2 512))) x.k
    bobj := (List.range 16).map fun i => (i, objOf b i (re.getD (5 + i) 0))
    streams := (List.range 5).map fun st =>
      (st, (x.stream st).restore b st (r.windup.getD st (0, 0)).1 (re.getD st 0) (re.getD (21 + st) 0) (re.getD (26 + st) 0)) }
  r.restore.foldl (fun y e => y.loadItem b e) y

/-- Asks the arbiter to power the quads of a placement (R398). -/
def State.wakeQuads (s : State) (qs : List Nat) : State :=
  qs.foldl (fun s q => s.inClocks 0 (.inrushRequest ⟨1, q / 24, q, 0, 0⟩)) s

/-- Some of a slot's quads have no power yet, or pause for a droop (R395, R398, R399). -/
def State.quadsWaking (s : State) (n : Nat) : Bool :=
  s.drooping n || (s.slot n).quads.any fun q => !s.plat.onQuads.contains q

/-- Gives some quads to a slot: they are powered up (R398), they change to the frequency of its level where they run at another (R396), and
then an event follows. -/
def State.giveQuads (s : State) (n : Nat) (qs : List Nat) (done : Instr) : State :=
  let f := s.freqWanted n
  let t := (s.modSlot n fun y => { y with freq := f }).wakeQuads qs
  if qs.all fun q => Tbl.get lowFreq s.plat.freqs q == f then t.later done else t.inClocks freqClocks done

/-! ## Resuming -/

/-- The core that takes the place of a member when its cohort moves (R18, R23). -/
def Slot.heir (x : Slot) (new_ : List Nat) (c : Nat) : Nat :=
  match x.members.idxOf? c with
  | some i => new_.getD i c
  | none => c

/-- A fault of a cohort that has moved (R23). -/
def FaultRec.renamed (f : FaultRec) (x : Slot) (new_ : List Nat) : FaultRec := { f with core := x.heir new_ f.core }

/-- Renames the cores of what a slot keeps when its cohort moves (R18, R20, R23): a core by its place among the members, a unit by a core
that lies in it. -/
def Slot.moveTo (x : Slot) (new_ : List Nat) : Slot :=
  let ren := x.heir new_
  let unit := fun (scope u : Nat) => match x.members.find? fun c => unitOf scope c == u with
    | some c => unitOf scope (ren c)
    | none => u
  { x with
    members := new_
    log := x.log.map fun w => { w with core := ren w.core, counted := w.counted.map fun (t : Nat × Nat × Nat) => (ren t.1, t.2) }
    bounds := x.bounds.map fun b => { b with unit := unit b.scope b.unit }
    acq := x.acq.map fun a => { a with core := ren a.core }
    marks := x.marks.map fun m => { m with core := ren m.core }
    kept := x.kept.map fun t => { t with core := ren t.core }
    recs := x.recs.map fun (e : Nat × Record) => (e.1, { e.2 with upd := e.2.upd.map fun u => { u with core := ren u.core } })
    colls := x.colls.map fun k => { k with core := ren k.core }
    faultsNow := x.faultsNow.map fun f => f.renamed x new_
    dueFaults := x.dueFaults.map fun f => f.renamed x new_
    fatal := x.fatal.map fun f => f.renamed x new_
    later := x.later.map fun f => f.renamed x new_
    rounds := x.rounds.map fun (e : Nat × Round) =>
      (e.1, { e.2 with opener := ren e.2.opener, preparer := ren e.2.preparer, committer := ren e.2.committer }) }

/-- Restores the blocks of the members and starts the stubs (R322, R350 steps 2 to 4), with SELDP from the block of the deciding core (R50,
R323, R325). The supervisor core that resumed the cohort goes
on. -/
def State.restoreCores (s : State) (n : Nat) : State :=
  let x := s.slot n
  match x.curts[x.curtain]? with
  | none => s
  | some r =>
    let s := s.retune n
    let s := x.members.foldl
      (fun s c =>
        let y := s.core c
        let at_ := x.blockAt y.rank
        s.setCore c (y.restore (fun o k => s.devNat (at_ + o) k) r (Tbl.get [] x.reentry y.rank))) s
    let seldp := s.devNat (x.blockAt (s.core (x.members.headD 0)).rank + 0x58) 8
    (s.modSlot n fun y =>
      { y with seldp := BitVec.ofNat 64 seldp, traps := y.kept, kept := [], stubs := y.tc, tc := 0, resume := .stubs, opened := false, held := none
               reqs := y.reqs.map fun r => { r with target := r.target + 2 ^ 60 }
               wdog := 0, links := [] }).unblock x.sup

/-- A queue entry when the stubs end: a restored one keeps its ready value, counted from T, and one of the stub may be popped from
T + 1 (R322). -/
def QEntry.afterStub (e : QEntry) (t : Nat) : QEntry :=
  { e with ready := if 2 ^ 60 ≤ e.ready then t + (e.ready - 2 ^ 60) else if e.ready = 0 then 0 else t + 1 }

/-- A stream back at its curtain, inside the loop levels that stood open there (R54, R322). -/
def Stream.reenter (y : Stream) (t : Nat) : Stream :=
  match y.main with
  | none => y
  | some (pc, ls) =>
    let nx := advanceLoops pc ls
    { y with
      pc := nx.1, loops := nx.2, before := ls, base := t + 1, main := none, act := none, join := none
      now := { y.now with pc := pc, word := y.wordAt pc, tc := t, idx := ((ringOf ls).map fun l => l.idx + 1).getD 0 } }

/-- The stage predicates of V as they stood at its curtain, where a loop that declares stages was open there (R46, R54). -/
def Core.restage (x : Core) : Core :=
  let ls := ((x.stream 3).main.map (·.2)).getD []
  if (ringOf ls).any fun l => 1 ≤ l.d then x.setStages (stagesOf (ringOf ls)) else x

/-- The cohort is back at its curtain's tc T: stub counts become tc after it (R322), and what decisions and waits read of earlier tc is what
it was (R23, R26, R50). Requests that were put aside for the stubs name tc again (R35). -/
def State.leaveStubs (s : State) (n : Nat) : State :=
  let x := s.slot n
  let t := x.stubs
  let on := fun u => t + (u - x.tc)
  let s := x.members.foldl
    (fun s c => s.modCore c fun y =>
      let y := y.restage
      { y with
        queues := y.queues.map fun (q : Nat × List QEntry) => (q.1, q.2.map fun e => e.afterStub t)
        arr := { y.arr with held := [], last := [] }
        sel := (Tbl.get (0, []) x.past y.rank).1
        hist := (Tbl.get (0, []) x.past y.rank).2
        streams := y.streams.map fun (e : Nat × Stream) => (e.1, e.2.reenter t) }) s
  s.modSlot n fun y =>
    { y with
      tc := t, stubs := 0, resume := .none, st := 2, opened := false, held := none
      reqs := y.standing.map fun r => { r with target := if 2 ^ 60 ≤ r.target then r.target - 2 ^ 60 else on r.target }
      lands := y.lands.map fun l => { l with tc := on l.tc } }

/-- The curtain of a resumed cohort, decided from row 2 of R51 with what held at its decision point (R350 step 5). -/
def State.redecide (s : State) (n : Nat) : State :=
  let s := s.leaveStubs n
  let x := s.slot n
  let s := match x.curts[x.curtain]? with
    | some r => s.curtainRows n r x.dpoint x.seldp
    | none => s
  ((s.resolveFaults n).modSlot n fun y => { y with tc := y.tc + 1 }).event x.sup 6 (BitVec.ofNat 64 n)

/-- `RESTORE_COMPLETE` (R350): the restored cohort runs its stubs, or, with the stubs done, its curtain is decided again and it is
RUNNING. -/
def execRestoreComplete (n : Nat) (s : State) : Host.Outcome State Fault Refusal :=
  .next (match (s.slot n).resume with
    | .restoring => if s.quadsWaking n then s.later (.restoreComplete n) else s.restoreCores n
    | .deciding => if s.drooping n then s.later (.restoreComplete n) else s.redecide n
    | _ => s)

end Sys2Proof.Machine
end

