-- ==== Sys2Proof/Machine/Run.lean ====
section
/-! DEFINITION. The in-rush arbiter (spec/20_platform.md R398), and the clock of the package: `TC_ADVANCE`, the release of holds, and the fatal faults that the timetable itself takes
(spec/00_scope.md R3; spec/02_timetable.md R37, R39, R55). -/

namespace Sys2Proof.Machine

/-- One more clock of the package, at the nominal 1.75 GHz: the timebase gains 4 ns in seven clocks (R1; notes/assumptions/6.md). -/
def State.clockOn (s : State) : State :=
  if s.frac + 4 < 7 then { s with clock := s.clock + 1, frac := s.frac + 4 }
  else { s with clock := s.clock + 1, ns := s.ns + 1, frac := s.frac + 4 - 7 }

/-- A cohort occupies its quads and is charged for them: it is LOADED, RUNNING, SAVING or being restored (R355). -/
def Slot.occupies (x : Slot) : Bool :=
  x.st == 1 || x.st == 2 || x.st == 3 || x.resume == .restoring || x.resume == .stubs || x.resume == .deciding

/-- The slots whose cohorts occupy quads, in rising number (R355). -/
def State.occupying (s : State) : List Nat := (s.slots.filter fun p => p.2.occupies).map (·.1)

/-- Adds the energy of a clock to a cohort that occupies its quads (R355). -/
def State.burn (s : State) (n : Nat) : State :=
  { s.modSlot n fun x => { x with energy := x.energy + Config.energy s.free } with free := s.free + 1 }

/-! ## The in-rush arbiter -/

/-- Units and clocks of a request (R398). -/
def inrushCost (r : Inrush) : Nat := if r.kind = 0 then 1 else if r.kind = 1 then 8 else 4
def inrushClocks (r : Inrush) : Nat := if r.kind = 0 then 64 else if r.kind = 1 then 512 else 800

/-- Grants from the head while it fits in the 16 units (R398). -/
def State.grantPower : Nat → State → State
  | 0, s => s
  | n + 1, s =>
    match s.plat.fifo with
    | [] => s
    | r :: rs =>
      if s.plat.units + inrushCost r ≤ 16 then
        State.grantPower n ((s.modPlat fun p => { p with fifo := rs, units := p.units + inrushCost r, waking := p.waking ++ [r] }).inClocks (inrushClocks r)
          (.inrushComplete r))
      else s

/-- The place of a power-up request among those of one clock: by die, quad, core, kind and bank (R398). -/
def inrushKey (r : Inrush) : Nat := (((r.die * 256 + r.quad) * 1024 + r.core) * 4 + r.kind) * 8 + r.bank

/-- Inserts a request by its place. -/
def insertInrush : List Inrush → Inrush → List Inrush
  | [], r => [r]
  | x :: xs, r => if inrushKey r < inrushKey x then r :: x :: xs else x :: insertInrush xs r

/-- The requests of a clock enter the FIFO in their order, or retry on the next clock where it is full; then what fits is granted (R398). -/
def State.admitPower (s : State) : State :=
  let new_ := s.plat.arrivals.foldl insertInrush []
  let s := new_.foldl
    (fun (s : State) r => if 64 ≤ s.plat.fifo.length then s.inClocks 1 (.inrushRequest r) else s.modPlat fun p => { p with fifo := p.fifo ++ [r] })
    (s.modPlat fun p => { p with arrivals := [] })
  State.grantPower 65 s

/-! ## Clocks of quads -/

/-- What a package clock adds to the clock of a cohort's quads, in 1/70 of it: nothing while they stand still for a change (R396). -/
def Slot.rate (x : Slot) : Nat := if x.tuning.isSome then 0 else x.freq

/-- A clock of the cohort's quads is over: what waits is judged, a tc that was executed ends, and a held cohort counts the clock. -/
def State.endClock (s : State) (n : Nat) : State :=
  let s := s.look n
  if (s.slot n).opened then s.endTc n else if (s.slot n).held.isSome then s.holdClock n else s

/-- The next clock of the cohort's quads begins: a cohort that is not held reaches its tc, and for a held one what waits is judged. -/
def State.beginClock (s : State) (n : Nat) : State :=
  let s := s.modSlot n fun x => { x with phase := x.phase - 70, clk := x.clk + 1 }
  let x := s.slot n
  if !x.live then s else if x.opened || x.held.isSome || x.startAt.isSome then s.look n else s.reach n

/-- `TC_ADVANCE` (R3): one tc is one clock of the cohort's quads, which their frequency sets (R1, R353). Where quads that run faster than
the package clock have a clock left, that comes first; otherwise the package clock advances, and with it the clocks of the quads that are
due. At its end the power-up requests of the clock are taken (R398). -/
def execTcAdvance (s : State) : Host.Outcome State Fault Refusal :=
  let run := s.running
  let begin_ := fun (ns : List Nat) (s : State) => ns.foldl (fun s n => s.beginClock n) s
  let left := run.filter fun n => 70 ≤ (s.slot n).phase
  .next (if !left.isEmpty then begin_ left (left.foldl (fun s n => s.endClock n) s)
    else
      let due := run.filter fun n => 70 ≤ (s.slot n).phase + (s.slot n).rate
      let s := due.foldl (fun s n => s.endClock n) s
      let s := (s.occupying.foldl State.burn s.admitPower).clockOn
      begin_ due (run.foldl (fun s n => s.modSlot n fun x => { x with phase := x.phase + x.rate }) s))

/-- `HOLD_RELEASE` (R37): the held tc executes on this clock. -/
def execHoldRelease (n : Nat) (s : State) : Host.Outcome State Fault Refusal :=
  .next (if s.releasable n then s.openTc n else s)

/-- `CURTAIN_DISTANCE_FAULT` (R55, R403). -/
def execCurtainDistanceFault (n : Nat) (s : State) : Host.Outcome State Fault Refusal :=
  let x := s.slot n
  .next (if x.st = 2 && x.tc = x.prevPt + x.curDistNow + 1 then s.cohortFault n .curtainDistance 0 else s)

end Sys2Proof.Machine
end

