-- ==== Sys2Proof/Machine/Launch.lean ====
section
/-! DEFINITION. The privileged instructions that load, start, hold and resume cohorts, `TLBI`, events of supervisor cores, and writes of
the host (spec/17_scheduling.md R329 to R337, R341; spec/18_translation.md R356, R361, R367, R368; spec/20_platform.md R387). -/

namespace Sys2Proof.Machine

/-! ## Privileged instructions -/

/-- A privileged word on a supervisor core whose fields are as R334 gives; on a cohort stream it is illegal instruction detail 0x11
(R144, R334), and with other values a misuse event. -/
def State.privileged (s : State) (f : Sys) (ok : Bool) (k : State → State) : State :=
  if !isSup s.cur.1 then s.fault .illegal 0x11
  else if f.stg != 0 || f.scope != 0 || !ok then s.misuse
  else k s

/-- The slot that a privileged word names in IMM[7:0]. -/
def slotOf (f : Sys) : Nat := f.imm.toNat % 256

/-- IMM holds the slot and nothing else (R334). -/
def onlySlot (f : Sys) : Bool := f.imm.toNat < 256

/-- The partition of the executing supervisor core: a mask of dies and a range of slots (R388); before a configuration is loaded every
die and slot (notes/assumptions/15.md). -/
def State.partDies (s : State) : Nat :=
  if s.plat.caps then ((Tbl.get (0 : Word) s.plat.partcfg (dieOf s.cur.1)).extractLsb' 56 8).toNat else 0xFF

/-- The slot belongs to the partition (R388). -/
def State.partSlot (s : State) (n : Nat) : Bool :=
  let p := Tbl.get 0 s.plat.partcfg (dieOf s.cur.1)
  !s.plat.caps || ((p.extractLsb' 48 8).toNat ≤ n && n ≤ (p.extractLsb' 48 8).toNat + (p.extractLsb' 40 8).toNat)

/-- A placement that LAUNCH accepts: the shape fits, and every quad is free, of the partition, on a die that is not powered off
(R401), and not fenced for a cohort with M text (R16, R335, R344, R388). -/
def State.placement (s : State) (kind w h die quad : Nat) (mtext : Bool) : Option (List Nat) :=
  match placeQuads kind w h die quad with
  | none => none
  | some qs =>
    let busy := s.busyQuads
    if qs.all fun q => !busy.contains q && s.partDies.testBit (q / 24) &&
        (Tbl.get Thermal.reset s.plat.temps (q / 24)).zone != 3 && (!mtext || Map.get s.plat.afence q = 0) then some qs else none

/-- The cores of some quads, in rank order (R18). -/
def quadCores (qs : List Nat) : List Nat := qs.flatMap fun q => (List.range 4).map fun c => 4 * q + c

/-! ## Loading -/

/-- The launch constants of a stream from the 320 bytes of LKIMG (R335). -/
def State.lkOf (s : State) (lkimg st : Nat) : Map 32 :=
  (List.range 16).foldl (fun m i => Map.set m i (BitVec.ofNat 32 (s.devNat (lkimg + 64 * st + 4 * i) 4))) []

/-- A stream with its text and launch constants, and every other part as at tc 0 (R15, R21). -/
def State.freshStream (s : State) (g : Nat → Nat → Nat) (lkimg st : Nat) : Stream :=
  { Stream.reset with text := textMap g (imgText g st).1 (imgText g st).2, textLen := (imgText g st).2, lk := s.lkOf lkimg st }

/-- A member core at tc 0 (R21, R93). -/
def State.freshCore (s : State) (g : Nat → Nat → Nat) (lkimg n rank : Nat) : Core :=
  { Core.reset with
    slot := n, rank := rank
    streams := (List.range 5).map fun st => (st, s.freshStream g lkimg st)
    qmin := (List.range 8).map (imgQmin g), qcap := (List.range 8).map (imgQcap g) }

/-- Puts fresh cores on some cores, in rank order from a first rank, and zeroes their quads' shared SRAM (R21, R323). -/
def State.loadCores (s : State) (g : Nat → Nat → Nat) (lkimg n rank0 : Nat) (cs : List Nat) : State :=
  let s := ((List.range cs.length).zip cs).foldl (fun t (e : Nat × Nat) => t.setCore e.2 (s.freshCore g lkimg n (rank0 + e.1))) s
  { s with qs := ((cs.map quadOf).eraseDups).foldl (fun m q => Map.clearRun m (q * 0x800000) 0x800000) s.qs }

/-- The records of an image, granted on their home dies (R106, R107). -/
def grantRecords (g : Nat → Nat → Nat) (n : Nat) (dies : List Nat) : Tbl Record :=
  (List.range (imgTab g 2).2).foldl
    (fun t i =>
      let e := recEntry g i
      Tbl.set t e.1 ⟨dies.getD e.2.1 0, n, BitVec.ofNat 32 e.2.2.2.1, 0, BitVec.ofNat 32 e.2.2.2.2, e.2.2.1, false, 0, []⟩) []

/-- The records fit on their home dies, 4096 on each (R106). -/
def State.recordsFit (s : State) (rs : Tbl Record) : Bool :=
  (List.range 8).all fun d =>
    let held := s.slots.foldl (fun a e => a + (e.2.recs.filter fun r => r.2.home == d).length) 0
    held + (rs.filter fun r => r.2.home == d).length ≤ 4096

/-- The group slots of a grant table (R373). -/
def State.grantGroups (s : State) (a : Nat) : Tbl Nat :=
  if a = 0 then []
  else (List.range 16).filterMap fun i =>
    let b := s.devNat (a + 0x4000 + i) 1
    if b.testBit 7 then some (i, b % 16) else none

/-- A supervisor core reaches a group: it is off, or its partition holds it (R373, R388; notes/assumptions/15.md). -/
def State.groupOpen (s : State) (c g : Nat) : Bool :=
  !(s.group g).gcfg.getLsbD 0 || s.plat.samePart (dieOf c) (s.group g).die

/-- The groups of a grant are of the launching supervisor core's partition (R388), and none is granted to another slot (R373). -/
def State.groupsFree (s : State) (n : Nat) (gs : Tbl Nat) : Bool :=
  (gs.all fun u => s.groupOpen s.cur.1 u.2) && s.slots.all fun e => e.1 == n || e.2.st == 0 && e.2.resume == .none || !e.2.grpOf.any fun t => gs.any fun u => u.2 == t.2

/-- The collective slots of a grant table: two bytes each after the group slots, participants and own rank (notes/assumptions/21.md). -/
def State.grantColls (s : State) (a : Nat) : Tbl (List Nat) :=
  if a = 0 then []
  else (List.range 16).filterMap fun i =>
    let p := s.devNat (a + 0x4010 + 2 * i) 1
    if p = 0 then none else some (i, [p, s.devNat (a + 0x4011 + 2 * i) 1])

/-- A field of a control block by offset and size (R335). -/
def blockField (cb : List Byte) (off k : Nat) : Nat := leNat ((cb.drop off).take k)

/-- The slot as LAUNCH sets it for an image and a control block (R17, R19, R21, R335). The packages of a set are free values, since no field of
the control block carries the list that the request gave (R330; notes/assumptions/74.md). -/
def State.launchSlot (s : State) (x : Slot) (cb : List Byte) (g : Nat → Nat → Nat) (qs : List Nat) (rs : Tbl Record) : Slot :=
  let kind := imgKind g
  let scope := shapeScope kind (imgW g) (imgH g)
  let f := blockField cb
  let root := f 0x18 8
  let grant := f 0x20 8
  { Slot.reset with
    sup := s.cur.1, kind := kind, w := imgW g, ht := imgH g, npkg := imgN g, prank := f 0x32 1, die := f 0x30 1, quad := f 0x31 1
    members := quadCores qs, horizon := scopeHorizon scope, scope := scope
    splim := imgSplim g, privSz := (List.range 5).map (imgPriv g), latcls := (List.range 4).map (imgLat g)
    segs := (List.range (imgTab g 1).2).map (segEntries g), curts := (List.range (imgTab g 0).2).map (curtRec g)
    mtext := (imgOwn g 2).2 != 0, image := f 0x00 8, save := f 0x08 8, savesz := f 0x10 8
    root := root, groot := s.devNat root 8, dsrt := s.devNat (root + 8) 8
    prio := f 0x33 1, ceil := f 0x34 1, decl := imgLevel g
    curDist := x.curDist, curDistNow := x.curDist, holdwd := x.holdwd, ydead := x.ydead
    pkgs := if 1 < imgN g then (List.range (imgN g)).map fun i => Config.freeNat (s.free + i) % 64 else []
    recs := rs, grpOf := s.grantGroups grant, collOf := s.grantColls grant, resume := .loading }

/-- The control block keeps R335 for an image of `npkg` packages; its reserved bytes have no effect (R5). -/
def blockOk (cb : List Byte) (npkg : Nat) : Bool :=
  let f := blockField cb
  f 0x33 1 ≤ 3 && f 0x34 1 ≤ 15 && f 0x32 1 < npkg && f 0x18 8 % 64 == 0

/-- Goes on with the 128 bytes of the control block at an address that the executing supervisor core reaches (R329, R335). -/
def State.withBlock (s : State) (p : Word) (k : List Byte → State → State) : State :=
  s.withPtr p 128 (fun _ => true) 1 fun s => s.withCap p 128 fun s => k (s.supRead p 128) s

/-- What `LAUNCH` reads beside its control block, by address and size (R335, R356): an image's header and then all of it, the launch
constants, the grant table and the translation root. -/
def blockReads (cb : List Byte) (span : Nat) : List (Nat × Nat) :=
  let f := blockField cb
  [(f 0x28 8, 320), (f 0x18 8, 64), (f 0x00 8, span)] ++ if f 0x20 8 = 0 then [] else [(f 0x20 8, 0x4030)]

/-- The supervisor core waits for its instruction to complete. -/
def State.block (s : State) : State := s.modMe fun x => { x with sup := { x.sup with blocked := true } }

/-- `LAUNCH` of a new cohort (R153, R333 to R335, R343): the slot is set and its cores are loaded; the instruction completes with
`LAUNCH_COMPLETE`. A slot, image or placement that the rules do not accept is a misuse event, and so are records that do not fit on their
home dies and a grant of a group of another partition (notes/assumptions/45.md). -/
def execLaunch (_ : Hdr) (f : Sys) (s : State) : Result :=
  let n := slotOf f
  .next (s.privileged f (f.fn = 0 && onlySlot f) fun s =>
    s.withBlock (s.rs f.ra) fun cb s =>
      s.withReach [(blockField cb 0 8, 512)] fun s => s.withReach (blockReads cb (imgSpan (s.imageAt (blockField cb 0 8)))) fun s =>
      let x := s.slot n
      let g := s.imageAt (blockField cb 0 8)
      let dies := fun qs : List Nat => (qs.map (· / 24)).eraseDups
      if x.st != 0 || x.resume != .none || !s.partSlot n || !imageOk g || !signatureOk s.plat.boot.keys g || !blockOk cb (imgN g) ||
          !s.groupsFree n (s.grantGroups (blockField cb 0x20 8)) then s.misuse
      else
        match s.placement (imgKind g) (imgW g) (imgH g) (blockField cb 0x30 1) (blockField cb 0x31 1) ((imgOwn g 2).2 != 0) with
        | none => s.misuse
        | some qs =>
          let rs := grantRecords g n (dies qs)
          if !s.recordsFit rs then s.misuse
          else
            let y := s.launchSlot x cb g qs rs
            let s := s.loadCores g (blockField cb 0x28 8) n (y.prank * y.members.length) y.members
            { ((s.modSlot n fun _ => y).block).giveQuads n qs (.launchComplete n) with free := s.free + y.pkgs.length + 1 })

/-- Copies an initial-data entry (R156). -/
def State.copyData (s : State) (n : Nat) (g : Nat → Nat → Nat) (e : Nat × Nat × Nat × Nat) : State :=
  let bs := (List.range e.2.2.1).map fun i => BitVec.ofNat 8 (g (e.2.2.2 + i) 1)
  let cs := (s.slot n).members
  if e.1 = 1 then cs.foldl (fun s c => s.setFile c .sp e.2.1 bs) s
  else (cs.filter fun c => c % 4 == 0).foldl (fun s c => s.setFile c .qs e.2.1 bs) s

/-- Drops TLB entries (R360, R361). -/
def State.dropTlb (s : State) (p : TlbEntry → Bool) : State :=
  let cut := fun (t : Tbl (List TlbEntry)) => t.map fun (e : Nat × List TlbEntry) => (e.1, e.2.filter fun x => !p x)
  { s with tlb1 := cut s.tlb1, tlb2 := cut s.tlb2 }

/-- `LAUNCH_COMPLETE` (R156, R335, R360, R398): the quads have power, the initial data stands, no old translation is left, and the slot is LOADED. -/
def execLaunchComplete (n : Nat) (s : State) : Host.Outcome State Fault Refusal :=
  let x := s.slot n
  .next (if x.st != 0 || x.resume != .loading then s
    else if s.quadsWaking n then s.later (.launchComplete n)
    else
      let g := s.imageAt x.image
      let s := (List.range (imgTab g 3).2).foldl (fun s i => s.copyData n g (dataEntry g i)) s
      let s := (s.dropTlb fun e => e.asid == n).modSlot n fun y => { y with st := 1, resume := .none, energy := 0 }
      (s.retune n).unblock x.sup)

/-- `LAUNCH.resume` (R335, R344, R350, R354): a SAVED cohort takes its new quads, and its restore begins with the lease where one is
due. -/
def execLaunchResume (_ : Hdr) (f : Sys) (s : State) : Result :=
  let n := slotOf f
  .next (s.privileged f (onlySlot f) fun s =>
    s.withBlock (s.rs f.ra) fun cb s =>
      s.withReach (blockReads cb 512) fun s =>
      let x := s.slot n
      let g := s.imageAt (blockField cb 0 8)
      if x.st != 4 || x.resume != .none || !s.partSlot n || !blockOk cb x.npkg then s.misuse
      else
        match s.placement x.kind x.w x.ht (blockField cb 0x30 1) (blockField cb 0x31 1) x.mtext with
        | none => s.misuse
        | some qs =>
          let root := blockField cb 0x18 8
          let y := { x.moveTo (quadCores qs) with
            sup := s.cur.1, die := blockField cb 0x30 1, quad := blockField cb 0x31 1, resume := .restoring, root := root
            groot := s.devNat root 8, dsrt := s.devNat (root + 8) 8, prio := blockField cb 0x33 1
            ceil := blockField cb 0x34 1 }
          let s := s.loadCores g (blockField cb 0x28 8) n (x.prank * y.members.length) y.members
          let ren := fun a : Access => if a.slot == n then { a with core := y.members.getD (x.members.idxOf a.core) a.core } else a
          let s := { (s.modSlot n fun _ => y).block with outs := s.outs.map ren }
          let s := y.grpOf.foldl (fun s e => s.modGroup e.2 fun z => { z with deltas := z.deltas.map fun d => { d with fault := d.fault.renamed x y.members } }) s
          s.giveQuads n qs (if x.lrem.2 = 0 then .restoreComplete n else .leaseGrant n))

/-! ## Starting and holding -/

/-- `TT.START` (R336): a LOADED slot runs; tc 0 executes on the next clock. R16 allows a package set under time-triggered launch only and
gives no misuse for FN 0 on one: that such a slot starts at once is the model's choice (notes/assumptions/66.md). -/
def execTtStart (_ : Hdr) (f : Sys) (s : State) : Result :=
  let n := slotOf f
  .next (s.privileged f (f.fn = 0 && onlySlot f) fun s =>
    if (s.slot n).st != 1 then s.misuse
    else s.modSlot n fun x => { x with st := 2, tc := 0, opened := false, held := none, curDistNow := x.curDist })

/-- `TT.START.at` (R336): tc 0 waits for the timebase. -/
def execTtStartAt (_ : Hdr) (f : Sys) (s : State) : Result :=
  let n := slotOf f
  .next (s.privileged f (onlySlot f) fun s =>
    if (s.slot n).st != 1 then s.misuse
    else s.modSlot n fun x => { x with st := 2, tc := 0, opened := false, held := none, curDistNow := x.curDist, startAt := some (s.rs f.ra) })

/-- `TT_START_AT_TIME` (R336): the timebase has reached the target, and tc 0 is reached on this clock. -/
def execTtStartAtTime (n : Nat) (s : State) : Host.Outcome State Fault Refusal :=
  .next (match (s.slot n).startAt with
    | some t => if t.toNat ≤ s.ns then (s.modSlot n fun x => { x with startAt := none }).reach n else s
    | none => s)

/-- Tag of the platform cause of a supervisor `HOLD`, which the watchdog does not count (R337). -/
def tagHold : Nat := 0

/-- `HOLD` (R337). -/
def execHoldRequest (_ : Hdr) (f : Sys) (s : State) : Result :=
  let n := slotOf f
  .next (s.privileged f (f.fn = 0 && onlySlot f && f.ra = 0) fun s =>
    if (s.slot n).st != 2 then s.misuse
    else if (s.slot n).reqs.any fun r => r.cause == .platform tagHold && r.cleared.isNone then s
    else s.platformHold n tagHold)

/-- `HOLD.rel` (R337). -/
def execHoldRel (_ : Hdr) (f : Sys) (s : State) : Result :=
  let n := slotOf f
  .next (s.privileged f (onlySlot f && f.ra = 0) fun s =>
    if (s.slot n).st != 2 then s.misuse else s.clearCause n (.platform tagHold))

/-- Tag of the platform cause of an adaptive-clock hold tick. -/
def tagTick : Nat := 3

/-- `ADAPTIVE_CLOCK_HOLD_TICK` (R35): a platform request whose cause is over with its clock. -/
def execAdaptiveClockHoldTick (n : Nat) (s : State) : Host.Outcome State Fault Refusal :=
  .next (if (s.slot n).live then (s.platformHold n tagTick).clearCause n (.platform tagTick) else s)

/-! ## TLBI -/

/-- An entry that a `TLBI` drops for a slot (R361). -/
def TlbEntry.dropped (e : TlbEntry) (n : Nat) (sc : TlbScope) : Bool :=
  match sc with
  | .page p =>
    let a := if ptrTag p = 11 then ptrNum p * 2 ^ 28 + ptrOff p else ptrOff p
    e.asid == n && e.dsr == (ptrTag p == 11) && e.page ≤ a && a < e.page + e.size
  | .slot => e.asid == n
  | .all => true

/-- An access that a `TLBI` waits for: on its way, by a translation that the `TLBI` drops (R361). -/
def Access.usesDropped (a : Access) (n : Nat) (sc : TlbScope) : Bool := a.st == .sent && a.pages.any fun e => e.dropped n sc

/-- The migration slots that a `TLBI` covers (R367, R368): those of the slot, for one page where its leaf names the new frame. -/
def State.covered (s : State) (n : Nat) (sc : TlbScope) : List (Nat × Nat) :=
  let cands := (List.range 16).flatMap fun v => (List.range 8).map fun m => (768 + v, m)
  cands.filter fun vm =>
    let ctl := Map.get (s.core vm.1).sup.migctl vm.2
    ctl.getLsbD 1 &&
      match sc with
      | .all => true
      | .slot => (ctl.extractLsb' 8 8).toNat == n
      | .page p => (ctl.extractLsb' 8 8).toNat == n && match s.walk (s.slot n) p with
        | .leaf l _ _ => pteAddr l == (ctl.extractLsb' 16 38).toNat * 65536
        | _ => false

/-- Changes a migration slot's `TLBI` stage. -/
def State.setMig (s : State) (v m : Nat) (b : BitVec 8) : State :=
  s.modCore v fun x => { x with sup := { x.sup with migtlbi := Map.set x.sup.migtlbi m b } }

/-- A `TLBI` of the executing supervisor core: entries go, the migrations that it covers note it, and the core waits (R361, R367). -/
def State.beginTlbi (s : State) (n : Nat) (sc : TlbScope) : State :=
  let me := 4 * BitVec.ofNat 8 (s.cur.1 - 768)
  let s := (s.covered n sc).foldl
    (fun s vm =>
      let st := Map.get (s.core vm.1).sup.migtlbi vm.2
      if st = 0 then s.setMig vm.1 vm.2 (migIssued + me)
      else if st = migMay && (Map.get (s.core vm.1).sup.migctl vm.2).getLsbD 3 then s.setMig vm.1 vm.2 (migLast + me) else s) s
  let done : Instr := .tlbiComplete (s.cur.1 - 768) n sc
  ({ s.dropTlb fun e => e.dropped n sc with tlbi := s.tlbi ++ [(s.cur.1, done)] }).block.later done

/-- `TLBI` of a page (R361). -/
def execTlbi (_ : Hdr) (f : Sys) (s : State) : Result :=
  let p := s.rs f.ra
  .next (s.privileged f (f.fn = 0 && f.imm.toNat < 512 && ptrTag p = (if f.imm.getLsbD 8 then 11 else 0)) fun s =>
    s.beginTlbi (slotOf f) (.page p))

/-- `TLBI.asid` (R361). -/
def execTlbiAsid (_ : Hdr) (f : Sys) (s : State) : Result :=
  .next (s.privileged f (onlySlot f && f.ra = 0) fun s => s.beginTlbi (slotOf f) .slot)

/-- `TLBI.all` (R361). -/
def execTlbiAll (_ : Hdr) (f : Sys) (s : State) : Result :=
  .next (s.privileged f (f.imm = 0 && f.ra = 0) fun s => s.beginTlbi 0 .all)

/-- A slot's descriptor is read again (R356). -/
def State.rereadRoot (s : State) (n : Nat) : State :=
  s.modSlot n fun x => if x.st = 0 then x else { x with groot := s.devNat x.root 8, dsrt := s.devNat (x.root + 8) 8 }

/-- What a completed `TLBI` of supervisor core `sv` lets a migration do that awaits it (R368): lines may move, or the slot is released. -/
def State.migGo (s : State) (v m n sv : Nat) : State :=
  let me := 4 * BitVec.ofNat 8 sv
  let st := Map.get (s.core v).sup.migtlbi m
  let ctl := Map.get (s.core v).sup.migctl m
  if st = migIssued + me then ((s.setMig v m migMay).rewalk n fun _ => true).later (.migrationLineMove (v - 768) m)
  else if st = migLast + me then
    (s.setMig v m 0).modCore v fun x =>
      { x with sup := { x.sup with migctl := Map.set x.sup.migctl m (ctl &&& ~~~(2 : Word)), moved := x.sup.moved.filter fun e => e.1 != m } }
  else s

/-- `TLBI_COMPLETE` (R356, R361, R368): every access that used a dropped entry is done, and entries filled meanwhile go too. -/
def execTlbiComplete (sv n : Nat) (sc : TlbScope) (s : State) : Host.Outcome State Fault Refusal :=
  let me : Instr := .tlbiComplete sv n sc
  let v := 768 + sv
  .next (if !(s.tlbi.contains (v, me)) then s
    else if s.outs.any fun a => a.usesDropped n sc then s.later me
    else
      let mig := s.covered n sc
      let s := { s.dropTlb fun e => e.dropped n sc with tlbi := s.tlbi.erase (v, me) }
      let s := match sc with
        | .page _ => s
        | .slot => s.rereadRoot n
        | .all => (s.slots.map (·.1)).foldl (fun (s : State) i => s.rereadRoot i) s
      let s := mig.foldl
        (fun (s : State) (vm : Nat × Nat) => s.migGo vm.1 vm.2 ((Map.get (s.core vm.1).sup.migctl vm.2).extractLsb' 8 8).toNat sv) s
      s.unblock v)

/-! ## Events of supervisor cores -/

/-- `SUPERVISOR_EVENT` (R341, R342): the head of the queue is taken. The jump leaves open loops as they are, so that they go on after
`SVRET`. -/
def execSupervisorEvent (sv : Nat) (s : State) : Host.Outcome State Fault Refusal :=
  let c := 768 + sv
  let x := (s.core c).sup
  .next (match x.events with
    | [] => s
    | (cause, info) :: es =>
      if x.handling || x.frozen || !x.running || x.blocked then s
      else
        s.modCore c fun y =>
          let y := { y with
            sup := { y.sup with
              epc := BitVec.ofNat 64 (y.stream 0).pc
              cause := info <<< 32 ||| BitVec.ofNat 64 (cause + if x.lost then 256 else 0)
              events := es, lost := false, handling := true } }
          y.modStream 0 fun z => { z with pc := x.evec.toNat })

/-- `SVRET` (R341). -/
def execSvret (_ : Hdr) (f : Sys) (s : State) : Result :=
  .next (s.privileged f (f.fn = 0 && f.ra = 0 && f.imm = 0) fun s =>
    s.modMe fun x =>
      let y := { x with sup := { x.sup with handling := false } }
      y.modStream 0 fun z => { z with pc := x.sup.epc.toNat })

/-! ## Writes of the host -/

/-- A host write to device memory: cohorts see it as an outside write (R130, R387), and a watched line raises its event (R331, R341). -/
def State.hostWrite (s : State) (addr : Nat) (data : List Byte) : State :=
  let s := s.devWrites none addr data
  ((List.range ((addr + data.length + 63) / 64 - addr / 64)).map fun i => (addr / 64 + i) * 64).foldl (fun s a => s.watchHit a) s

/-- `HOST_REQUEST_SUBMIT` (R331, R341, R387): the request line, inside a function's range, is written, and its watch raises event cause 1. -/
def execHostRequestSubmit (addr : Nat) (data : List Byte) (s : State) : Host.Outcome State Fault Refusal :=
  .next (if (List.range 8).any fun fn => s.plat.hdmHolds fn addr data.length then s.hostWrite addr data else s)

end Sys2Proof.Machine
end

