-- ==== Sys2Proof/Machine/Registers.lean ====
section
/-! DEFINITION. `PCSR` and the privileged registers (spec/17_scheduling.md R338 to R340, R353; spec/18_translation.md R363, R364, R367;
spec/19_protected_hbm.md R373, R374, R377, R384; spec/20_platform.md R388, R389, R400, R402). A register with a rule of its own is
written by the event of that rule, on the clock after the instruction. -/

namespace Sys2Proof.Machine

/-! ## Reading -/

/-- `CSTATE` (R339). -/
def Slot.cstate (x : Slot) : Nat := x.stop * 256 + x.st

/-- `SCHED` (R339). -/
def State.sched (s : State) (x : Slot) : Nat := (if 1 < x.npkg then 16 else 0) + x.prio * 4 + s.effPrio x

/-- A bit for a request that stands. -/
def bitOf (b : Bool) (n : Nat) : Nat := if b then 2 ^ n else 0

/-- `PREEMPT` (R339). -/
def Slot.preemptWord (x : Slot) : Nat :=
  x.ncoop * 2 ^ 32 + x.nforce * 2 ^ 16 + bitOf x.due.isSome 2 + bitOf x.ymark.isSome 1 + bitOf x.polite.isSome 0

/-- `PWR` (R353). -/
def State.pwrWord (s : State) (n : Nat) : Nat :=
  let x := s.slot n
  (match x.lease with
    | some l => (l.expiry - s.ns) / 1000 * 2 ^ 32 + 2 ^ 12
    | none => 0) + s.levelInForce n * 2 ^ 8 + x.decl * 2 ^ 4 + x.ceil

/-- `GCFG` with its read-only fields (R373). -/
def Group.gcfgWord (x : Group) : Nat :=
  x.gcfg.toNat + x.st * 2 ^ 36 + ((List.range 16).filter fun j => x.lostmap.getLsbD j).length * 2 ^ 32

/-- A group register by its offset (R373). -/
def State.groupReg (s : State) (g i : Nat) : Nat :=
  let x := s.group g
  match i with
  | 0 => x.gcfgWord
  | 1 => x.gmem0.toNat
  | 2 => x.gmem1.toNat
  | 3 => x.gdom.toNat
  | 4 => x.lostmap.toNat * 2 ^ 48 + x.rst * 2 ^ 40 + x.lastc.toNat
  | 5 => x.gwin.toNat
  | 6 => x.gpar.toNat
  | _ => 0

/-- The monitor of a lane of a die (R384). -/
def State.eye (s : State) (d lane : Nat) : Eye := Tbl.get Eye.reset s.plat.eyes (d * 2 ^ 24 + lane)

/-- `EYEDAT` of the selected lane (R384). -/
def State.eyedat (s : State) (d : Nat) : Nat :=
  let sel := (Tbl.get 0 s.plat.eyesel d).toNat
  let e := s.eye d sel
  if 2 < sel / 2 ^ 20 then 0 else e.lst * 2 ^ 32 + e.vmin.toNat * 2 ^ 24 + e.hmin.toNat * 2 ^ 16 + e.vm.toNat * 2 ^ 8 + e.hm.toNat

/-- The thermal state of a die (R400). -/
def State.thermal (s : State) (d : Nat) : Thermal := Tbl.get Thermal.reset s.plat.temps d

/-- `THRM` with the reading of the module's inlet sensor (R400). -/
def Thermal.word (t : Thermal) (inlet : Int) : Nat :=
  t.tcl * 2 ^ 48 + (BitVec.ofInt 8 inlet).toNat * 2 ^ 40 + t.tdie.toNat * 2 ^ 32 + t.zone * 2 ^ 30 + t.thc * 2 ^ 16 + t.tht * 2 ^ 8 + t.thw

/-- A register of a slot (R339, R364); none where no register has the number. -/
def State.slotReg (s : State) (reg n : Nat) : Option Nat :=
  let x := s.slot n
  match reg with
  | 0 => some x.cstate
  | 1 => some x.curDist
  | 2 => some x.holdwd
  | 3 => some (s.sched x)
  | 4 => some x.preemptWord
  | 5 => some x.ydead
  | 6 => some (s.pwrWord n)
  | 7 => some x.energy.toNat
  | 8 => some 0
  | _ => none

/-- A register of supervisor core `c`, its die or the package; none where no register has the number. -/
def State.coreReg (s : State) (c reg : Nat) : Option Nat :=
  let x := (s.core c).sup
  let d := dieOf c
  if reg = 0x100 then some x.epc.toNat
  else if reg = 0x101 then some x.cause.toNat
  else if reg = 0x102 then some x.evec.toNat
  else if 0x110 ≤ reg && reg ≤ 0x11F then some (Map.get x.watch (reg - 0x110)).toNat
  else if reg = 0x120 then some x.flogb.toNat
  else if reg = 0x121 then some x.flogp.toNat
  else if 0x130 ≤ reg && reg ≤ 0x13F then
    some (if reg % 2 = 0 then (Map.get x.migsrc ((reg - 0x130) / 2)).toNat else (Map.get x.migctl ((reg - 0x130) / 2)).toNat)
  else if 0x140 ≤ reg && reg ≤ 0x1BF then some (s.groupReg ((reg - 0x140) / 8) (reg % 8))
  else if reg = 0x1C0 then some s.plat.plog.toNat
  else if reg = 0x1C1 then some s.plat.ppend.toNat
  else if reg = 0x1D0 then some (Tbl.get 0 s.plat.eyesel d).toNat
  else if reg = 0x1D1 then some (s.eyedat d)
  else if reg = 0x1D2 then some (Tbl.get eyethrReset s.plat.eyethr d).toNat
  else if reg = 0x1D3 then some 0
  else if reg = 0x1E0 then some (Tbl.get 0 s.plat.partcfg d).toNat
  else if reg = 0x1E1 then some s.plat.capegr.toNat
  else if reg = 0x1E2 then some s.plat.caplim.toNat
  else if 0x1E8 ≤ reg && reg ≤ 0x1EF then some (Map.get s.plat.capwin (8 * d + (reg - 0x1E8))).toNat
  else if reg = 0x1F0 then some ((s.thermal d).word s.plat.inlet)
  else if reg = 0x200 then some x.admission.toNat
  else if 0x210 ≤ reg && reg ≤ 0x227 then some (Map.get s.plat.afence (d * 24 + (reg - 0x210))).toNat
  else none

/-- Register number and slot of a `PCSR` word (R334). -/
def pcsrReg (f : Sys) : Nat := f.imm.toNat % 4096
def pcsrSlot (f : Sys) : Nat := f.imm.toNat / 4096 % 256

/-- IMM as R334 and R338 give it. -/
def pcsrImm (f : Sys) : Bool := f.imm.toNat < 2 ^ 20 && (pcsrReg f < 0x100 || pcsrSlot f == 0)

/-- The register that a `PCSR` word reads; none also where the partition wall stands before a group. -/
def State.pcsrValue (s : State) (f : Sys) : Option Nat :=
  if 0x140 ≤ pcsrReg f && pcsrReg f ≤ 0x1BF && !s.groupOpen s.cur.1 ((pcsrReg f - 0x140) / 8) then none
  else if pcsrReg f < 0x100 then s.slotReg (pcsrReg f) (pcsrSlot f) else s.coreReg s.cur.1 (pcsrReg f)

/-- `PCSR`, reading (R338). A number that names no register is a misuse event. -/
def execPcsrRead (_ : Hdr) (f : Sys) (s : State) : Result :=
  .next (s.privileged f (f.fn = 0 && pcsrImm f) fun s =>
    match s.pcsrValue f with
    | none => s.misuse
    | some v => s.landS f.ra 0 (BitVec.ofNat 64 v))

/-! ## Writing -/

/-- Misuse by a write of supervisor core `v`: event cause 7 with the address of its word (R341, R342). -/
def State.misuseOf (s : State) (v : Nat) : State :=
  s.event v 7 (BitVec.ofNat 64 (((s.core v).stream 0).now.pc % 2 ^ 32))

/-- The events by which a write takes effect (R338). -/
def State.writeEvents (s : State) (f : Sys) (v : Word) : List Instr :=
  let c := s.cur.1
  let sv := c - 768
  let n := pcsrSlot f
  let reg := pcsrReg f
  let d := dieOf c
  if reg = 1 then [.curDistWrite n v]
  else if reg = 4 then
    let p := (s.slot n).polite.isSome
    (if v.getLsbD 0 != p then [.polite n (v.getLsbD 0)] else []) ++ (if v.getLsbD 3 then [.kill n] else [])
  else if reg = 6 then [.ceilWrite sv n v]
  else if reg = 8 then [if v.getLsbD 16 then .xlrespFail n (v.toNat % 65536) else .xlrespRetry n (v.toNat % 65536)]
  else if 0x130 ≤ reg && reg ≤ 0x13F && reg % 2 = 1 && v.getLsbD 0 then [.migctlStart sv ((reg - 0x130) / 2) v]
  else if 0x140 ≤ reg && reg ≤ 0x1BF && reg % 8 = 0 && (v.getLsbD 0 || (s.group ((reg - 0x140) / 8)).gcfg.getLsbD 0) then
    [if v.getLsbD 0 then .gcfgEnable sv ((reg - 0x140) / 8) v else .gcfgDisable sv ((reg - 0x140) / 8) v]
  else if reg = 0x1D3 then
    match v.toNat % 4 with
    | 1 => [.eyecmdRetrain d]
    | 2 => [.eyecmdRepair d]
    | 3 => [.eyecmdClear d]
    | _ => []
  else if reg = 0x1F0 then [.thrmWrite sv v]
  else if 0x210 ≤ reg && reg ≤ 0x227 then [.afenceClear sv (d * 24 + (reg - 0x210)) v]
  else [.privRegisterWrite sv reg n v]

/-- `PCSR.w` (R338): the write acts on the clock after the instruction. -/
def execPcsrWrite (_ : Hdr) (f : Sys) (s : State) : Result :=
  .next (s.privileged f (pcsrImm f) fun s =>
    match s.pcsrValue f with
    | none => s.misuse
    | some _ => (s.writeEvents f (s.rs f.ra)).foldl (fun s e => s.inClocks 1 e) s)

/-- Every group of the package is off (R377). -/
def State.groupsOff (s : State) : Bool := s.plat.groups.all fun e => !e.2.gcfg.getLsbD 0

/-- A write of a migration register without START (R367). -/
def State.migWrite (s : State) (c reg : Nat) (v : Word) : State :=
  let m := (reg - 0x130) / 2
  let x := (s.core c).sup
  let ctl := Map.get x.migctl m
  if ctl.getLsbD 1 then s.misuseOf c
  else if reg % 2 = 0 then
    s.modCore c fun y => { y with sup := { y.sup with migsrc := Map.set x.migsrc m (v &&& 0xFFFFFFFFFFFF0000) } }
  else
    s.modCore c fun y =>
      { y with sup := { y.sup with migctl := Map.set x.migctl m (v &&& 0x003FFFFFFFFFFF10 ||| ctl &&& 0xC) } }

/-- A write of a group register that does not change EN (R373). -/
def State.groupWrite (s : State) (c g i : Nat) (v : Word) : State :=
  let x := s.group g
  if 7 ≤ i then s.misuseOf c
  else if x.gcfg.getLsbD 0 then (if i = 4 then s else s.misuseOf c)
  else
    s.modGroup g fun x =>
      match i with
      | 0 => { x with gcfg := v &&& 0xFFFF0000F0FC0000 }
      | 1 => { x with gmem0 := v &&& 0x0FFFFFFFFFFFFFFF }
      | 2 => { x with gmem1 := v &&& 0x00007FFFFFFFFFFF }
      | 3 => { x with gdom := v }
      | 4 => { x with lastc := v.truncate 32 }
      | 5 => { x with gwin := v &&& 0x01FFFFFFFFFFFFFF }
      | _ => { x with gpar := v &&& 0x003FFFFFFFFF0000 }

/-- `PRIV_REGISTER_WRITE` (R338, R339, R363, R367, R373, R377, R384): registers without an event of their own. Read-only fields
keep their values. -/
def execPrivRegisterWrite (sv reg n : Nat) (v : Word) (s : State) : Host.Outcome State Fault Refusal :=
  let c := 768 + sv
  let d := dieOf c
  let sup := fun (k : Sup → Sup) => s.modCore c fun y => { y with sup := k y.sup }
  .next (
    if reg = 2 then s.modSlot n fun x => { x with holdwd := max (v.toNat % 2 ^ 48) 1024 }
    else if reg = 3 then s.modSlot n fun x => { x with prio := v.toNat / 4 % 4 }
    else if reg = 5 then s.modSlot n fun x => { x with ydead := v.toNat % 2 ^ 48 }
    else if reg = 0x100 then sup fun y => { y with epc := v }
    else if reg = 0x102 then sup fun y => { y with evec := v }
    else if 0x110 ≤ reg && reg ≤ 0x11F then sup fun y => { y with watch := Map.set y.watch (reg - 0x110) (v &&& 0xFFFFFFFFFFFFFFC1) }
    else if reg = 0x120 then sup fun y => { y with flogb := v &&& 0x003FFFFFFFFFF001 }
    else if reg = 0x121 then (sup fun y => { y with flogp := y.flogp &&& 0xFF00 ||| v &&& 0xFF }).flushLog c 128
    else if 0x130 ≤ reg && reg ≤ 0x13F then s.migWrite c reg v
    else if 0x140 ≤ reg && reg ≤ 0x1BF then s.groupWrite c ((reg - 0x140) / 8) (reg % 8) v
    else if reg = 0x1C0 then (if s.groupsOff then s.modPlat fun p => { p with plog := v &&& 0x003FFFFFFFFFFFFF } else s)
    else if reg = 0x1C1 then (if s.groupsOff then s.modPlat fun p => { p with ppend := v &&& 0x003FFFFFFFFFFFFF } else s)
    else if reg = 0x1D0 then s.modPlat fun p => { p with eyesel := Tbl.set p.eyesel d (v &&& 0xFF0FFF) }
    else if reg = 0x1D2 then s.modPlat fun p => { p with eyethr := Tbl.set p.eyethr d (v &&& 0x3FFFFFFFF) }
    else if reg = 0x200 then sup fun y => { y with admission := v &&& 0x0000FFFFFFFFFFFF }
    else s)

/-- `CUR_DIST_WRITE` (R339): it bounds the interval that starts at the cohort's next curtain. -/
def execCurDistWrite (n : Nat) (v : Word) (s : State) : Host.Outcome State Fault Refusal :=
  .next (s.modSlot n fun x => { x with curDist := max (v.toNat % 2 ^ 32) 1024 })

/-- `CEIL_WRITE` (R353, R389, R390): a ceiling above LVLMAX freezes the writer; before a configuration is loaded there is no LVLMAX
(notes/assumptions/15.md). -/
def execCeilWrite (sv n : Nat) (v : Word) (s : State) : Host.Outcome State Fault Refusal :=
  let c := v.toNat % 16
  .next (if s.plat.caps && (s.plat.caplim.extractLsb' 16 4).toNat < c then s.freeze sv 5 n
    else (s.modSlot n fun x => { x with ceil := c }).retune n)

/-- `MIGCTL_START` (R367). -/
def execMigctlStart (sv m : Nat) (v : Word) (s : State) : Host.Outcome State Fault Refusal :=
  let c := 768 + sv
  .next (if (Map.get (s.core c).sup.migctl m).getLsbD 1 then s.misuseOf c
    else s.modCore c fun y =>
      { y with
        sup := { y.sup with
          migctl := Map.set y.sup.migctl m (v &&& 0x003FFFFFFFFFFF10 ||| 2)
          migtlbi := Map.set y.sup.migtlbi m 0
          moved := y.sup.moved.filter fun e => e.1 != m
          bad := y.sup.bad.filter fun e => e.1 != m } })

/-! ## Groups -/

/-- The fault domain of member `j` (R373). -/
def Group.domain (x : Group) (j : Nat) : Nat := x.gdom.toNat / 2 ^ (4 * j) % 16

/-- No number occurs twice. -/
def allDiffer (xs : List Nat) : Bool := xs.eraseDups.length == xs.length

/-- The configuration may be enabled (R373, R374). -/
def Group.enableOk (x : Group) : Bool :=
  let ms := List.range (x.k + x.m)
  x.gid != 0 && 1 ≤ x.k && 1 ≤ x.m && x.m ≤ 2 && x.k + x.m ≤ 16 && x.self < x.k + x.m && allDiffer (ms.map x.package) &&
    allDiffer (ms.map x.domain ++ if x.gmem1.getLsbD 42 then [(x.gmem1.extractLsb' 43 4).toNat] else []) &&
    (if x.k ≤ x.self then x.gpar != 0 else x.gpar == 0)

/-- The configuration that members compare (R374). -/
def Group.config (x : Group) : GroupCfg := ⟨x.k, x.m, x.gmem0, x.gmem1 &&& 0xFFFF800FFFFFFFFF, x.gdom, x.gwin, x.lastc⟩

/-- Compares a member's configuration with the package's (R374): the group is NORMAL once every member has enabled with an equal one, and one
that differs raises event cause 10 and leaves it OFF. -/
def State.compare (s : State) (g member : Nat) (c : GroupCfg) : State :=
  let x := s.group g
  if !x.gcfg.getLsbD 0 || x.st != 0 || x.k + x.m ≤ member then s
  else if c != x.config then s.groupEvent g 1 member
  else
    let ag := if x.agreed.contains member then x.agreed else x.agreed ++ [member]
    s.modGroup g fun y => { y with agreed := ag, st := if x.k + x.m ≤ ag.length then 1 else 0 }

/-- `GCFG_ENABLE` (R374): a configuration that passes its checks is sent to every member, and compared with those that have come. -/
def execGcfgEnable (sv g : Nat) (v : Word) (s : State) : Host.Outcome State Fault Refusal :=
  let c := 768 + sv
  let x := s.group g
  let y := { x with gcfg := v &&& 0xFFFF0000F0FC0001 }
  .next (if x.gcfg.getLsbD 0 then (if y.gcfg = x.gcfg then s else s.misuseOf c)
    else if !y.enableOk then s.misuseOf c
    else
      let s := s.modGroup g fun _ =>
        { Group.reset with
          die := dieOf c, gcfg := y.gcfg, gmem0 := y.gmem0, gmem1 := y.gmem1, gdom := y.gdom, gwin := y.gwin, gpar := y.gpar
          lastc := y.lastc, agreed := [y.self] }
      let s := s.tellAll g 0 (.config y.config) ((List.range (y.k + y.m)).filter (· != y.self))
      (s.plat.configs.filter fun e => e.1 == y.gid).foldl (fun s e => s.compare g e.2.1 e.2.2) s)

/-- `GCFG_DISABLE` (R374, R380): refused while a round is in progress; the other members count this one as lost. What they have sent stays,
to be compared when the group is enabled again. -/
def execGcfgDisable (sv g : Nat) (v : Word) (s : State) : Host.Outcome State Fault Refusal :=
  let x := s.group g
  .next (if x.rst != 0 || (v &&& 0xFFFF0000F0FC0000 != x.gcfg &&& 0xFFFF0000F0FC0000) then s.misuseOf (768 + sv)
    else
      (s.tellAll g x.round .lost x.others).modGroup g fun x =>
        { x with gcfg := x.gcfg &&& ~~~(1 : Word), st := 0, lostmap := 0, agreed := [] })

end Sys2Proof.Machine
end

