-- ==== Sys2Proof/Machine/Power.lean ====
section
/-! DEFINITION. Rattles and the fencing of arrays, link monitors and retraining, the in-rush arbiter, droops and power windows, and cap
violations (spec/11_isa_matrix.md R265; spec/19_protected_hbm.md R383 to R385; spec/20_platform.md R390, R397 to R399, R402). -/

namespace Sys2Proof.Machine

/-! ## Caps -/

/-- `CAP_VIOLATION` (R390). -/
def execCapViolation (master cap addr : Nat) (s : State) : Host.Outcome State Fault Refusal := .next (s.freeze master cap addr)

/-! ## Rattles and fences -/

/-- FENCED of a package quad (R402). -/
def State.fencedBits (s : State) (q : Nat) : BitVec 16 := Map.get s.plat.afence q

/-- Fences sub-arrays of a quad, each with its event (R342, R402). -/
def State.fence (s : State) (q : Nat) (bits : BitVec 16) : State :=
  (List.range 16).foldl
    (fun s i =>
      if bits.getLsbD i && !(s.fencedBits q).getLsbD i then
        let s := s.modPlat fun p => { p with afence := Map.set p.afence q (Map.get p.afence q ||| BitVec.ofNat 16 (2 ^ i)) }
        s.event (768 + 2 * (q / 24)) 12 (BitVec.ofNat 64 (q + (s.fencedBits q).toNat * 256))
      else s) s

/-- Drops some sub-arrays from what is remembered of a core's results: they have passed a rattle (R265). -/
def Array.passed (x : Array) (ok : BitVec 4) : Array :=
  { x with
    taint := x.taint.filterMap fun e => if e.2 &&& ~~~ok = 0 then none else some (e.1, e.2 &&& ~~~ok)
    evtTaint := x.evtTaint.map (· &&& ~~~ok)
    drained := (x.drained.map fun d => { d with bits := d.bits &&& ~~~ok }).filter fun d => d.bits != 0
    unsound := x.unsound &&& ~~~ok }

/-- Free values in the accumulator elements and event bits that hold results of some sub-arrays. -/
def State.blurCells (s : State) (c : Nat) (bad : BitVec 4) : State :=
  let x := (s.core c).arr
  let keys := (x.taint.filter fun e => e.2 &&& bad != 0).map (·.1)
  let acc := ((List.range keys.length).zip keys).foldl (fun m e => Map.set m e.2 (BitVec.ofNat 32 (Config.freeNat (s.free + e.1)))) x.acc
  let evt := (List.range x.evt.length).map fun b =>
    if x.evtTaint.getD b 0 &&& bad = 0 then x.evt.getD b 0 else BitVec.ofNat 3 (Config.freeNat (s.free + keys.length + b))
  { (s.modCore c fun y => { y with arr := { y.arr with acc := acc, evt := evt } }) with free := s.free + keys.length + x.evt.length }

/-- Free bytes in a phased store, still under way or performed: at its home where no later write stands (R128, R265). -/
def State.blurStore (s : State) (n : Nat) (w : PWrite) : State :=
  let (bs, s) := s.freeBytes w.data.length
  let x := s.slot n
  let newer := x.log.filter fun v => v.done != 0 && !v.le w
  let bytes := if w.done = 0 then [] else ((List.range w.data.length).zip bs).filterMap fun (e : Nat × Byte) =>
    (s.keyOf w.core n (w.addr + BitVec.ofNat 64 e.1)).bind fun k => if newer.any fun v => (v.byteAt (w.addr + BitVec.ofNat 64 e.1) k.2).isSome then none else some (k.2, e.2)
  let s := s.modSlot n fun y => { y with log := y.log.map fun v => if v = w then { v with data := bs } else v }
  let s := s.modAccess w.acc fun a => { a with parts := a.parts.map fun p => if w.done = 0 && p.1 = w.addr then (p.1, bs) else p }
  (runsOf bytes).foldl (fun (s : State) r => s.devWrites (some (agentOf n w.rank w.stream)) r.1 r.2) s

/-- Free values in what a piece of a drain has put out (R265). -/
def State.blurDrained (s : State) (c : Nat) (d : Drained) : State :=
  let n := (s.core c).slot
  let mine := fun (l : Land) (r : Nat × File × Nat × Nat) => match l.eff with
    | .bytes f k bs => l.rank == (s.core c).rank && l.stream == 2 && l.seq == d.seq && l.core == r.1 && f == r.2.1 && fileBase l.core f + k == r.2.2.1 && bs.length == r.2.2.2
    | _ => false
  let s := d.timed.foldl (fun (s : State) r =>
    let (bs, s) := s.freeBytes r.2.2.2
    let due := fun ls : List Land => ls.map fun l => if mine l r then { l with eff := .bytes r.2.1 (r.2.2.1 - fileBase r.1 r.2.1) bs } else l
    let waits := (s.slot n).lands.any fun l => mine l r
    let s := s.modSlot n fun x => { x with lands := due x.lands, landed := due x.landed }
    if waits then s else s.setFile r.1 r.2.1 (r.2.2.1 - fileBase r.1 r.2.1) bs) s
  let s := ((s.slot n).log.filter fun w => w.core == c && w.stream == 2 && d.accs.1 ≤ w.acc && w.acc < d.accs.2).foldl (fun s w => s.blurStore n w) s
  match d.entry with
  | none => s
  | some (q, t) =>
    let (bs, s) := s.freeBytes 256
    s.modCore c fun x => x.setQueue q ((x.queue q).map fun e => if e.src = (c, 2) && e.ready = t then { e with data := entryOf bs } else e)

/-- Under the report policy the results that used some sub-arrays since their last passed rattle are undefined (R265): elements, event bits,
and what has been drained of them (notes/assumptions/9.md). -/
def State.blurArray (s : State) (c : Nat) (bad : BitVec 4) : State :=
  let ds := (s.core c).arr.drained.filter fun d => d.bits &&& bad != 0
  ds.foldl (fun s d => s.blurDrained c d) (s.blurCells c bad)

/-- The trap of a failed rattle under the report policy (R53, R265, R281). -/
def State.rattleTrap (s : State) (c : Nat) (failed : BitVec 4) : Trap :=
  let x := s.slot (s.core c).slot
  ⟨5, (s.core c).rank, 2, c, false, 0, failed.toNat, x.outTc x.tc, 0, BitVec.allOnes 64, x.outTc x.tc⟩

/-- A die is in reset: the part is in minimal mode, and it is not die 0 (R392). -/
def State.inReset (s : State) (d : Nat) : Bool := s.plat.boot.minimal && d != 0

/-- `RATTLE` (R265, R402): on an idle array that is not paused by a droop (R399) or in reset (R392), sub-arrays that are not fenced and fail are fenced; a cohort that holds the core takes the
fault or the trap of its policy. The others pass. -/
def execRattle (c : Nat) (failed : BitVec 4) (s : State) : Host.Outcome State Fault Refusal :=
  let q := quadOf c
  let lc := c % 4
  let tested := ~~~((s.fencedBits q).extractLsb' (4 * lc) 4)
  let bad := failed &&& tested
  let n := (s.core c).slot
  let mine := (s.slot n).live && (s.slot n).members.contains c
  let busy := mine && (s.core c).holds (s.slot n).tc false || s.plat.droops.contains q || s.inReset (dieOf c)
  let s := if busy then s else s.modCore c fun x => { x with arr := x.arr.passed (tested &&& ~~~failed) }
  .next (if bad = 0 || busy then s
    else
      let s := s.fence q (bad.zeroExtend 16 <<< (4 * lc))
      if !mine then s
      else if (s.core c).arr.report then
        ((s.blurArray c bad).modCore c fun y => { y with arr := { y.arr with unsound := y.arr.unsound ||| bad } }).modSlot n fun x => { x with traps := x.traps ++ [s.rattleTrap c bad] }
      else s.faultAt c 2 .matrix 4 0 0)

/-- `AFENCE_RETEST_DONE` (R402); it waits while a droop pauses the quad (R399). -/
def execAfenceRetestDone (q bit : Nat) (failed : Bool) (s : State) : Host.Outcome State Fault Refusal :=
  .next (if s.plat.droops.contains q then s.later (.afenceRetestDone q bit failed)
    else if failed then s.fence q (BitVec.ofNat 16 (2 ^ (bit % 16))) else s)

/-- `AFENCE_CLEAR` (R402): each bit cleared on a quad of no cohort has its sub-array tested again for 72 clocks. -/
def execAfenceClear (sv q : Nat) (v : Word) (s : State) : Host.Outcome State Fault Refusal :=
  let clr := v.truncate 16 &&& s.fencedBits q
  .next (if clr != 0 && s.busyQuads.contains q then s.misuseOf (768 + sv)
    else
      let s := s.modPlat fun p => { p with afence := Map.set p.afence q (Map.get p.afence q &&& ~~~clr) }
      ((List.range 16).filter fun i => clr.getLsbD i).foldl
        (fun (s : State) i =>
          { (s.inClocks 72 (.afenceRetestDone q i (Config.freeNat s.free % 2 == 1))) with free := s.free + 1 }) s)

/-! ## Lanes -/

/-- Fields of an `EYESEL` value (R384). -/
def laneKind (l : BitVec 24) : Nat := (l.extractLsb' 20 4).toNat
def laneLink (l : BitVec 24) : Nat := (l.extractLsb' 16 4).toNat
def laneNum (l : BitVec 24) : Nat := (l.extractLsb' 0 12).toNat

/-- The one name of a lane of a bridge edge: its die and edge E or S, in which every bridge of the grid has an end (R9). -/
def bridgeLane (d : Nat) (l : BitVec 24) : Nat × BitVec 24 :=
  let at_ := fun (e edge : Nat) => (e, BitVec.ofNat 24 (2 ^ 20 + edge * 2 ^ 16 + laneNum l))
  if laneKind l != 1 then (d, l)
  else if laneLink l = 0 then at_ (d - 4) 2
  else if laneLink l = 3 then at_ (d - 1) 1
  else (d, l)

/-- What shares spares, and for HBM4E what is retrained: a channel of 66 lanes, a group of 66 bridge lanes, a fabric port (R383). -/
def laneGroup (l : BitVec 24) : Nat × Nat × Nat :=
  (laneKind l, laneLink l, if laneKind l = 2 then 0 else laneNum l / 66)

/-- The channel or link that one retraining slice takes out of service (R385). -/
def sliceLink (l : BitVec 24) : Nat × Nat × Nat :=
  (laneKind l, laneLink l, if laneKind l = 0 then laneNum l / 66 else 0)

/-- Spares of a lane group (R383). -/
def spares (l : BitVec 24) : Nat := if laneKind l = 2 then 1 else 2

/-- Changes a lane's monitor. -/
def State.modEye (s : State) (d : Nat) (l : BitVec 24) (f : Eye → Eye) : State :=
  s.modPlat fun p => { p with eyes := Tbl.set p.eyes (d * 2 ^ 24 + l.toNat) (f (s.eye d l.toNat)) }

/-- Raises the event of a lane that enters a state (R342, R384). -/
def State.laneEvent (s : State) (d : Nat) (l : BitVec 24) (lst : Nat) : State :=
  s.event (768 + 2 * d) 9 (BitVec.ofNat 64 (l.toNat + lst * 2 ^ 24))

/-- A slice entry of the link of a lane of a die; the two dies of a bridge name one link (R9). -/
def Slice.onLink (e : Slice) (d : Nat) (l : BitVec 24) : Bool :=
  let a := bridgeLane e.die e.lane
  let b := bridgeLane d l
  a.1 == b.1 && sliceLink a.2 == sliceLink b.2

/-- The slice of a link, waiting. -/
def State.sliceWaits (s : State) (d : Nat) (l : BitVec 24) : Bool :=
  s.plat.slices.any fun e => e.onLink d l && !e.active && e.last.isNone

/-- Clocks of 100 µs (R385). -/
def sliceGap : Nat := 175000

/-- The clock before which a link takes no slice (R385). -/
def State.sliceFrom (s : State) (d : Nat) (l : BitVec 24) : Nat :=
  s.plat.slices.foldl
    (fun m e => match e.last with
      | some k => if e.onLink d l then max m (k + sliceGap) else m
      | none => m) 0

/-- Requests a slice of a lane's link; `repair` moves the lane to a spare in it (R384, R385). A request joins the one that waits. -/
def State.requestSlice (s : State) (d : Nat) (l : BitVec 24) (repair : Bool) : State :=
  if 2 < laneKind l || s.inReset d then s
  else
    let first := !s.sliceWaits d l
    let s := s.modPlat fun p =>
      { p with slices := if p.slices.any fun e => e.die == d && e.lane == l && !e.active && e.last.isNone && e.asked == repair then p.slices
                         else p.slices ++ [⟨d, l, false, none, repair⟩] }
    if first then s.inClocks (max 1 (s.sliceFrom d l - s.clock)) (.retrainSliceStart d l) else s

/-- LST after a measurement (R384): warn and critical are left at 4 units above their thresholds. -/
def Eye.nextLst (e : Eye) (thr : Word) (hm vm : BitVec 8) : Nat :=
  let th := fun i => (thr.extractLsb' (8 * i) 8).toNat
  let under := fun wh wv k => hm.toNat < th wh + k || vm.toNat < th wv + k
  if 3 ≤ e.lst then e.lst
  else if under 2 3 (if e.lst = 2 then 4 else 0) then 2
  else if under 0 1 (if e.lst = 0 then 0 else 4) then 1
  else 0

/-- `EYE_MONITOR_MEASURE` (R384). -/
def execEyeMonitorMeasure (d : Nat) (l : BitVec 24) (hm vm : BitVec 8) (s : State) : Host.Outcome State Fault Refusal :=
  let e := s.eye d l.toNat
  let thr := Tbl.get eyethrReset s.plat.eyethr d
  let off := 2 < laneKind l || s.inReset d
  let lst := e.nextLst thr hm vm
  let s1 := s.modEye d l fun e =>
    { e with lst := lst, hm := hm, vm := vm, hmin := if hm < e.hmin then hm else e.hmin, vmin := if vm < e.vmin then vm else e.vmin }
  let s2 := if lst != e.lst && lst != 0 then s1.laneEvent d l lst else s1
  .next (if off then s
    else if lst = 2 && thr.getLsbD 33 then s2.requestSlice d l true
    else if lst = 1 && thr.getLsbD 32 then s2.requestSlice d l false
    else s2)

/-- The lane that `EYESEL` of a die selects. -/
def State.selLane (s : State) (d : Nat) : BitVec 24 := (Tbl.get 0 s.plat.eyesel d).truncate 24

/-- `EYECMD` OP 1 (R384). -/
def execEyecmdRetrain (d : Nat) (s : State) : Host.Outcome State Fault Refusal := .next (s.requestSlice d (s.selLane d) false)

/-- `EYECMD` OP 2 (R384). -/
def execEyecmdRepair (d : Nat) (s : State) : Host.Outcome State Fault Refusal := .next (s.requestSlice d (s.selLane d) true)

/-- `EYECMD` OP 3 (R384). -/
def execEyecmdClear (d : Nat) (s : State) : Host.Outcome State Fault Refusal :=
  .next (s.modEye d (s.selLane d) fun e => { e with hmin := 0xFF, vmin := 0xFF })

/-! ## Retraining slices -/

/-- The die on the other side of a bridge edge, N, E, S, W, of the grid of four columns (R6). -/
def bridgeDie (d edge : Nat) : Nat :=
  if edge = 0 then (if 4 ≤ d then d - 4 else d) else if edge = 1 then (if d % 4 < 3 then d + 1 else d)
  else if edge = 2 then (if d < 4 then d + 4 else d) else (if 0 < d % 4 then d - 1 else d)

/-- The cohorts that a slice holds (R385). -/
def State.sliceCohorts (s : State) (d : Nat) (l : BitVec 24) : List Nat :=
  if laneKind l = 0 then s.onDie d
  else if laneKind l = 1 then (s.onDie d ++ s.onDie (bridgeDie d (laneLink l))).eraseDups
  else []

/-- The tag of a slice's platform cause. -/
def tagSlice (d : Nat) (l : BitVec 24) : Nat := 10000 + d * 2 ^ 24 + l.toNat

/-- A cohort is held at the tc that a request of a tag names (R385). -/
def Slot.heldFor (x : Slot) (tag : Nat) : Bool :=
  x.held.isSome && x.reqs.any fun r => r.cause == Cause.platform tag && r.cleared.isNone && r.target ≤ x.tc

/-- A lane is moved onto a spare of its group, or has failed where none is left (R384). -/
def State.repairLane (s : State) (d : Nat) (l : BitVec 24) : State :=
  let used := (s.plat.eyes.filter fun e =>
    e.1 / 2 ^ 24 == d && laneGroup (BitVec.ofNat 24 e.1) == laneGroup l && e.2.lst == 3).length
  s.modEye d l fun e => if 3 ≤ e.lst then e else { e with lst := if used < spares l then 3 else 4 }

/-- The lane of an index on a link, in the form of `EYESEL` (R384). -/
def laneAt (kind idx n : Nat) : BitVec 24 := BitVec.ofNat 24 (kind * 2 ^ 20 + idx * 2 ^ 16 + n)

/-- The groups of lanes that share spares on a link (R383). -/
def laneGroups (kind : Nat) : Nat := if kind = 0 then 32 else if kind = 1 then Config.bridgeGroups else 1

/-- The data lanes of a group: 64, or the 8 of a fabric port (R383). -/
def groupLanes (kind idx g : Nat) : List (BitVec 24) :=
  if kind = 2 then (List.range 8).map (laneAt kind idx) else (List.range 64).map fun c => laneAt kind idx (66 * g + c)

/-- The spares of a group (R383). -/
def groupSpares (kind idx g : Nat) : List (BitVec 24) :=
  if kind = 2 then [laneAt kind idx 8] else [laneAt kind idx (66 * g + 64), laneAt kind idx (66 * g + 65)]

/-- The lanes of a group that carry its data: each that is not replaced, and a spare for each that is (R383, R384). -/
def State.carrying (s : State) (d kind idx g : Nat) : List (BitVec 24) :=
  let replaced := fun l : BitVec 24 => (s.eye d l.toNat).lst == 3
  let data := groupLanes kind idx g
  let sp := groupSpares kind idx g
  let used := ((data ++ sp).filter replaced).length
  (data ++ sp.take used).filter fun l => !replaced l

/-- Read and write centring of a lane (R383 steps 3 and 4): what each reaches is free, and the lower is the lane's margin, of which HMIN keeps
the lowest (R384). -/
def State.centreLane (s : State) (d : Nat) (l : BitVec 24) : State :=
  let hm : BitVec 8 := BitVec.ofNat 8 (min (Config.freeNat s.free % 256) (Config.freeNat (s.free + 1) % 256))
  { s.modEye d l fun e => { e with hm := hm, hmin := if hm < e.hmin then hm else e.hmin } with free := s.free + 2 }

/-- Steps 3 to 5 on a group (R383): every lane that carries data is centred, lanes below CRITH move onto spares, and the lanes that carry data
then are centred again, until none has to move; `fuel` bounds the rounds. -/
def State.trainGroup (d kind idx g : Nat) : Nat → State → State
  | 0, s => s
  | fuel + 1, s =>
    let s := (s.carrying d kind idx g).foldl (fun s l => s.centreLane d l) s
    let crith := ((Tbl.get eyethrReset s.plat.eyethr d).extractLsb' 16 8).toNat
    let low := (s.carrying d kind idx g).filter fun l => (s.eye d l.toNat).lst < 3 && (s.eye d l.toNat).hm.toNat < crith
    if low.isEmpty then s else State.trainGroup d kind idx g fuel (low.foldl (fun s l => s.repairLane d l) s)

/-- Trains some groups of a link of a die; the answer says whether the link has failed: a lane below CRITH found no spare (R383). -/
def State.trainGroups (s : State) (d kind idx : Nat) (gs : List Nat) : Bool × State :=
  let s := gs.foldl (fun s g => State.trainGroup d kind idx g 4 s) s
  if gs.any fun g => (groupLanes kind idx g ++ groupSpares kind idx g).any fun l => (s.eye d l.toNat).lst == 4 then
    (true, s.modPlat fun p => { p with failedLinks := (d, kind, idx) :: p.failedLinks.filter (· != (d, kind, idx)) })
  else (false, s)

/-- Trains a whole link of a die (R383). -/
def State.trainLink (s : State) (d kind idx : Nat) : Bool × State := s.trainGroups d kind idx (List.range (laneGroups kind))

/-- After a lane repair its channel or link is trained again (R383, R385). -/
def State.trainSlice (s : State) (d : Nat) (l : BitVec 24) : State :=
  (s.trainGroups d (laneKind l) (laneLink l) (if laneKind l = 0 then [laneNum l / 66] else List.range (laneGroups (laneKind l)))).2

/-- The lane repairs that the waiting requests of a link ask for, and the training after them (R383, R385). -/
def State.repairAsked (s : State) (d : Nat) (l : BitVec 24) : State :=
  let fix := s.plat.slices.filter fun e => e.onLink d l && e.asked && e.last.isNone
  let t := fix.foldl (fun s e => s.repairLane d e.lane) s
  if fix.isEmpty then t else t.trainSlice d l

/-- `RETRAIN_SLICE_START` (R385): holds are asked for, and the slice starts once every cohort that it concerns is held; it takes up what
waits for its link. -/
def execRetrainSliceStart (d : Nat) (l : BitVec 24) (s : State) : Host.Outcome State Fault Refusal :=
  let tag := tagSlice d l
  let ns := s.sliceCohorts d l
  let again := fun (s : State) (k : Nat) => s.inClocks k (.retrainSliceStart d l)
  let s1 := ns.foldl (fun s n =>
    if (s.slot n).asked tag then s else s.platformHold n tag) s
  .next (if !s.sliceWaits d l || (s.plat.slices.any fun e => e.onLink d l && e.active) then s
    else if s.clock < s.sliceFrom d l then again s (s.sliceFrom d l - s.clock)
    else if !(ns.all fun n => (s1.slot n).heldFor tag) then again s1 1
    else
      let s2 := s1.repairAsked d l
      let s3 := s2.modPlat fun p => { p with slices := (p.slices.filter fun e => !e.onLink d l) ++ [⟨d, l, true, none, false⟩] }
      { (s3.inClocks (1 + Config.delay s3.free % 2800) (.retrainSliceEnd d l)) with free := s3.free + 1 })

/-- The first slice that waits for a link. -/
def State.nextSlice (s : State) (d : Nat) (l : BitVec 24) : Option (BitVec 24) :=
  (s.plat.slices.find? fun e => e.onLink d l && !e.active && e.last.isNone).map (·.lane)

/-- `RETRAIN_SLICE_END` (R385): the holds are released, and what was asked for meanwhile waits for the next slice of the link. -/
def execRetrainSliceEnd (d : Nat) (l : BitVec 24) (s : State) : Host.Outcome State Fault Refusal :=
  let act := fun e : Slice => e.die == d && e.lane == l && e.active
  .next (if !s.plat.slices.any act then s
    else
      let s1 := s.modPlat fun p => { p with slices := p.slices.map fun e => if act e then ⟨d, l, false, some s.clock, false⟩ else e }
      let s2 := match s1.nextSlice d l with
        | some m => s1.inClocks (max 1 (s1.sliceFrom d l - s.clock)) (.retrainSliceStart d m)
        | none => s1
      s2.clearPlatform (tagSlice d l))

/-! ## Power-up -/

/-- `INRUSH_REQUEST` (R398): the request arrives on this clock, at whose end those of all requesters enter the FIFO. A die in reset asks for
nothing (R392). -/
def execInrushRequest (r : Inrush) (s : State) : Host.Outcome State Fault Refusal :=
  .next (if s.inReset r.die then s else s.modPlat fun p => { p with arrivals := p.arrivals ++ [r] })

/-- A completed request turns on what it asked for (R217, R395, R398): a vector bank, a quad, or a stack that its die's training still waits
for. -/
def State.turnOn (s : State) (r : Inrush) : State :=
  match r.kind with
  | 0 => s.modCore r.core fun x => if x.bank r.bank = .waking then { x with banks := setAt x.banks r.bank .on } else x
  | 1 => s.modPlat fun p => { p with onQuads := r.quad :: p.onQuads.filter (· != r.quad) }
  | _ =>
    let k := 2 * r.die + r.bank
    if (Tbl.get Cold.reset s.plat.cold r.die).step < 4 then s
    else s.modPlat fun p => { p with onStacks := k :: p.onStacks.filter (· != k) }

/-- `INRUSH_COMPLETE` (R218, R398): the units come back, and the head of the FIFO has them where it fits. -/
def execInrushComplete (r : Inrush) (s : State) : Host.Outcome State Fault Refusal :=
  .next (if !s.plat.waking.contains r then s
    else
      State.grantPower 65 ((s.modPlat fun p => { p with units := p.units - inrushCost r, waking := p.waking.erase r }).turnOn r))

/-! ## Droops and power windows -/

/-- The tag of a quad's droop. -/
def tagDroop (q : Nat) : Nat := 2000 + q

/-- `DROOP_DETECT` (R399): the cohort that holds the quad is held until the supply has kept its margin for 256 clocks; a save or a restore on
the quad, and a quad of no cohort, pause for them. -/
def execDroopDetect (q : Nat) (s : State) : Host.Outcome State Fault Refusal :=
  let s1 := (s.unplan fun i => i == .droopClear q).modPlat fun p => { p with droops := q :: p.droops.filter (· != q) }
  let s2 := match s.quadHolder q with
    | some n =>
      let x := s.slot n
      if x.asked (tagDroop q) || !(x.live || x.st == 1) then s1 else s1.platformHold n (tagDroop q)
    | none => s1
  .next (s2.inClocks 256 (.droopClear q))

/-- `DROOP_CLEAR` (R399). -/
def execDroopClear (q : Nat) (s : State) : Host.Outcome State Fault Refusal :=
  .next ((s.modPlat fun p => { p with droops := p.droops.filter (· != q) }).clearPlatform (tagDroop q))

/-- A quad's average draw in milliwatts over the window exceeds 1.05 times the budget of a level (R397). -/
def overBudget (draw level : Nat) : Bool := 105 * (4000 + 800 * level) < 100 * draw

/-- The trap of a power window (R53, R281, R397). -/
def State.powerTrap (s : State) (n q : Nat) : Trap :=
  let x := s.slot n
  ⟨3, (s.core (4 * q)).rank, 0, 4 * q, false, 0, s.levelInForce n, x.outTc x.tc, 0, BitVec.allOnes 64, x.outTc x.tc⟩

/-- One cohort at the end of a window; the draws are free values (R397; notes/assumptions/9.md). -/
def State.powerCheck (s : State) (n : Nat) : State :=
  let x := s.slot n
  let qs := (x.members.map quadOf).eraseDups
  let hot := qs.filter fun q => overBudget (Config.freeNat (s.free + q)) (s.levelInForce n)
  match hot with
  | [] => s
  | q :: rest =>
    let low := rest.foldl min q
    if x.traps.any fun t => t.code == 3 then s else s.modSlot n fun y => { y with traps := y.traps ++ [s.powerTrap n low] }

/-- Clocks of a 1 ms window. -/
def windowClocks : Nat := 1750000

/-- `POWER_WINDOW` (R397): each running cohort is judged, and the next window begins. -/
def execPowerWindow (s : State) : Host.Outcome State Fault Refusal :=
  let s1 := s.running.foldl State.powerCheck s
  let s2 := s1.unplan fun i => i == .powerWindow
  .next ({ s2 with free := s2.free + 192 }.inClocks windowClocks .powerWindow)

end Sys2Proof.Machine
end

