-- ==== Sys2Proof/Machine/Boot.lean ====
section
/-! DEFINITION. The boot chain, the mailbox, the cold start, the thermal zones, and the reset of a partition (spec/20_platform.md R388 to
R395, R400, R401). -/

namespace Sys2Proof.Machine

/-- Changes the boot chain. -/
def State.modBoot (s : State) (f : Boot → Boot) : State := s.modPlat fun p => { p with boot := f p.boot }

/-- Clocks of ten seconds and of twenty minutes. -/
def tenSeconds : Nat := 17500000000
def twentyMinutes : Nat := 2100000000000

/-! ## Starts -/

/-- A failed start (R391): its reason is written to the mailbox, and the module resets. -/
def State.failStart (s : State) (reason : Nat) : State :=
  (s.modBoot fun b => { b with reasons := (reason :: b.reasons).take 3, step := 0 }).inClocks 1 .reset

/-- What a reset leaves: the non-volatile parts of the boot chain, what the mailboxes hold and have staged, and the outside. -/
def State.cleared (s : State) : State :=
  let b := s.plat.boot
  { State.reset with
    inputs := s.inputs, free := s.free
    plat := { Plat.reset with
      pkg := s.plat.pkg
      boot := { Boot.reset with
        starts := b.starts, reasons := b.reasons, staged := b.staged, config := b.config, stagedCfg := b.stagedCfg
        boxes := b.boxes, caller := b.caller } } }

/-- The firmware that step 2 reads (R391, R394): the mailbox's, or that of the on-module flash. -/
def Boot.firmware (b : Boot) : List Byte := if b.staged.isEmpty then Config.flash else b.staged

/-- The platform configuration that step 3 reads (R391, R394). -/
def Boot.nextConfig (b : Boot) : List Byte := if b.stagedCfg.isEmpty then b.config else b.stagedCfg

/-- The unrevoked one of the four fused key slots that holds the digest of a signed package's public key (R391). -/
def keySlot (m : List Byte) : Option Nat :=
  (List.range 4).find? fun k => !Config.revoked k && Config.fused k == Config.sha3 (Config.publicKey m)

/-- A package's signature over the SHA3-256 hash of a message verifies under its public key (R391, R392). -/
def signedFor (m msg : List Byte) : Bool :=
  Config.verifies (Config.publicKey m) (leBytes 32 (Config.sha3 msg).toNat) (Config.signature m)

/-- The reason for which a firmware is not started; 0 where it is (R391, R392). -/
def firmwareReason (fw : List Byte) : Nat :=
  if fw.isEmpty then 1 else if (keySlot fw).isNone then 2 else if !signedFor fw fw then 1 else 0

/-- `PARTCFG` of a die in a configuration; its reserved bits read zero (R5, R388). -/
def partWord (c : List Byte) (d : Nat) : Word := Config.partcfg c d &&& 0xFFFFFF0FFFFFFFFF

/-- The partitions of a configuration keep R388: each die is in the mask of its own and of no other, partition 0 holds die 0, and the slot
ranges of two partitions have no slot in common. -/
def partitionsOk (c : List Byte) : Bool :=
  let p := partWord c
  let num := fun d => ((p d).extractLsb' 32 4).toNat
  let lo := fun d => ((p d).extractLsb' 48 8).toNat
  let hi := fun d => lo d + ((p d).extractLsb' 40 8).toNat
  num 0 == 0 && (List.range 8).all fun d =>
    num d < 8 && hi d < 256 && ((p d).extractLsb' 56 8).getLsbD d && (List.range 8).all fun e =>
      if ((p d).extractLsb' 56 8).getLsbD e then p e == p d else num e != num d && (hi d < lo e || hi e < lo d)

/-- A platform configuration is accepted (R388, R391). -/
def configOk (c : List Byte) : Bool := !c.isEmpty && (keySlot c).isSome && signedFor c c && partitionsOk c

/-- Loads partitions, caps and thresholds, whose reserved bits read zero whatever the configuration holds (R5, R388, R389, R391 step 3,
R400), and the ranges of the functions (R387); the cold start begins at C1, with COOLREQ (R395). -/
def State.loadConfig (s : State) (c : List Byte) : State :=
  s.modPlat fun p =>
    { p with
      caps := true
      partcfg := (List.range 8).map fun d => (d, partWord c d)
      hdm := (List.range 8).map fun fn => (fn, Config.hdm c fn)
      capegr := Config.capegr c &&& 0xFFFFFFFF, caplim := Config.caplim c &&& 0xFFFFF
      capwin := (List.range 64).foldl (fun m i => Map.set m i (Config.capwin c i &&& 0xFFFFFFFFFFFF0000)) []
      temps := (List.range 8).map fun d => (d, { Thermal.reset with thc := Config.thc c % 256 })
      cold := (List.range 8).map fun d => (d, { Cold.reset with step := 1, coolReq := true })
      boot := { p.boot with config := c, stagedCfg := [], step := 4 } }

/-- Steps 1 to 3 of the boot ROM, and the cold start begins (R391, R392). In minimal mode nothing more is started: the boot ROM on die 0 serves
the mailboxes, and every other die stays in reset (notes/assumptions/2.md). -/
def State.bootRom (s : State) : State :=
  let s := s.cleared
  let b := s.plat.boot
  if 3 ≤ b.starts then s.modBoot fun b => { b with minimal := true, step := 1 }
  else
    let s := s.modBoot fun b => { b with starts := b.starts + 1, image := b.firmware }
    let why := firmwareReason b.firmware
    if why != 0 then s.failStart why
    else if !configOk b.nextConfig then s.failStart 3
    else s.loadConfig b.nextConfig

/-- `RESET` (R391). -/
def execReset (s : State) : Host.Outcome State Fault Refusal := .next s.bootRom

/-- MR extended by a digest (R393): 32 bytes each. -/
def extendMr (mr digest : BitVec 256) : BitVec 256 := Config.sha3 (leBytes 32 mr.toNat ++ leBytes 32 digest.toNat)

/-- Step 5 (R391, R393): the measurements are extended, and every supervisor core starts the firmware that step 2 verified, whose image lies at device
address 0 (notes/assumptions/2.md). Ten seconds run for BOOTOK, and the power windows begin. -/
def State.startFirmware (s : State) : State :=
  let b := s.plat.boot
  let fw := b.image
  let digests := [Config.sha3 (Config.romVersion ++ leBytes 1 ((keySlot fw).getD 0)), Config.sha3 fw, Config.sha3 b.config]
  let s := s.modBoot fun b =>
    { b with step := 6, deadline := s.clock + tenSeconds
             mr := ((List.range 8).zip b.mr).map fun (e : Nat × BitVec 256) => match digests[e.1]? with
               | some d => extendMr e.2 d
               | none => e.2 }
  let s := { s with dev := Map.setRun s.dev 0 fw }
  let s := (List.range 16).foldl (fun s v => s.modCore (768 + v) fun x => { x with sup := { x.sup with running := true } }) s
  (s.inClocks tenSeconds .bootokTimeout).inClocks windowClocks .powerWindow

/-- `BOOTOK_TIMEOUT` (R391 step 6). -/
def execBootokTimeout (s : State) : Host.Outcome State Fault Refusal :=
  .next (if s.plat.boot.step = 6 then s.failStart 7 else s)

/-- `BOOTOK` (R391 step 6). -/
def execBootok (s : State) : Host.Outcome State Fault Refusal :=
  .next (if s.plat.boot.step = 6 then
      (s.modBoot fun b => { b with starts := 0, bootok := true, step := 7 }).unplan fun i => i == .bootokTimeout
    else s)

/-! ## The mailboxes -/

/-- The mailbox of a function (R387). -/
def State.mailbox (s : State) (fn : Nat) : Mailbox := Tbl.get Mailbox.reset s.plat.boot.boxes fn

/-- Changes the mailbox of a function. -/
def State.modBox (s : State) (fn : Nat) (f : Mailbox → Mailbox) : State :=
  s.modBoot fun b => { b with boxes := Tbl.set b.boxes fn (f (s.mailbox fn)) }

/-- The function whose command the part takes: the one whose doorbell rang (R387, R394; notes/assumptions/25.md). -/
def State.caller (s : State) : Nat := s.plat.boot.caller

/-- The firmware runs (R391 steps 5 and 6). -/
def Boot.firmwareUp (b : Boot) : Bool := b.step == 6 || b.step == 7

/-- A measurement register is extended (R393). -/
def State.measure (s : State) (i : Nat) (digest : BitVec 256) : State :=
  s.modBoot fun b => { b with mr := ((List.range 8).zip b.mr).map fun (e : Nat × BitVec 256) => if e.1 = i then extendMr e.2 digest else e.2 }

/-- `CXL_MEM_HOST_WRITE` (R130, R387): a write to device memory inside the function's range, which nothing answers outside it; what the host
puts into a function's mailbox before it rings its doorbell, or the key of its link encryption; and from the firmware, which reaches the boot
ROM through the mailbox, the list of program-image keys, each of 1312 bytes, and digests for MR4 to MR7 (R393; notes/assumptions/25.md). -/
def execCxlMemHostWrite (target : HostTarget) (data : List Byte) (s : State) : Host.Outcome State Fault Refusal :=
  .next (match target with
    | .mem fn addr => if s.plat.hdmHolds fn addr data.length then s.hostWrite addr data else s
    | .mailbox fn opcode => (s.modBox fn fun b => { b with opcode := BitVec.ofNat 16 opcode, payload := data }).modBoot fun b =>
      { b with caller := fn }
    | .ideKey fn => s.modBox fn fun b => { b with ide := some (BitVec.ofNat 256 (leNat data)) }
    | .keyList =>
      if s.plat.boot.firmwareUp then
        (s.modBoot fun b => { b with keys := (List.range (data.length / 1312)).map fun i => (data.drop (1312 * i)).take 1312 }).measure 3
          (Config.sha3 data)
      else s
    | .measure i => if s.plat.boot.firmwareUp && 4 ≤ i then s.measure i (BitVec.ofNat 256 (leNat data)) else s)

/-- Performs a mailbox command where the function whose doorbell rang holds its opcode (R394). -/
def State.command (s : State) (opcode : Nat) (k : Nat → State) : State :=
  if (s.mailbox s.caller).opcode.toNat = opcode then k s.caller else s

/-- A reply of a function's mailbox with its return code: 0 success, 2 invalid input, 3 unsupported (R394; notes/assumptions/25.md). -/
def State.answer (s : State) (fn status : Nat) (reply : List Byte) : State :=
  s.modBox fn fun b => { b with status := status, reply := reply }

/-- `IMAGE` (R394). -/
def execImage (s : State) : Host.Outcome State Fault Refusal :=
  .next (s.command 1 fun fn => (s.modBoot fun b => { b with staged := (s.mailbox fn).payload }).answer fn 0 [])

/-- `CONFIG` (R394). -/
def execConfig (s : State) : Host.Outcome State Fault Refusal :=
  .next (s.command 6 fun fn => (s.modBoot fun b => { b with stagedCfg := (s.mailbox fn).payload }).answer fn 0 [])

/-- The input of RESTART is signed under a fused key over the nonce that this mailbox's STATUS returned (R392). -/
def Mailbox.restartOk (b : Mailbox) : Bool :=
  match b.nonce with
  | some n => (keySlot b.payload).isSome && signedFor b.payload (leBytes 32 n.toNat)
  | none => false

/-- `RESTART` (R392): with a signature over the nonce, which is used up by it, STARTS clears and the module resets. -/
def execRestart (s : State) : Host.Outcome State Fault Refusal :=
  .next (s.command 2 fun fn =>
    if (s.mailbox fn).restartOk then
      (((s.modBoot fun b => { b with starts := 0 }).modBox fn fun b => { b with nonce := none }).answer fn 0 []).inClocks 1 .reset
    else s.answer fn 2 [])

/-- The `PARTCFG` of the partition of a function (R388): that of its lowest die. -/
def Plat.partcfgOf (p : Plat) (fn : Nat) : Word :=
  Tbl.get 0 p.partcfg (((List.range 8).find? fun d => p.fnOfDie d == fn).getD 0)

/-- The attestation report before its signature: the host's nonce, the measurements, the part number and `PARTCFG` (R393). -/
def State.report (s : State) (fn : Nat) : List Byte :=
  (s.mailbox fn).payload.take 32 ++ s.plat.boot.mr.flatMap (fun m => leBytes 32 m.toNat) ++ Config.partNumber ++
    leBytes 8 (s.plat.partcfgOf fn).toNat

/-- `ATTEST` (R393). -/
def execAttest (s : State) : Host.Outcome State Fault Refusal :=
  .next (s.command 3 fun fn =>
    if (s.mailbox fn).payload.length = 32 then s.answer fn 0 (s.report fn ++ Config.sign (s.report fn)) else s.answer fn 2 [])

/-- What STATUS returns (R394): reasons, STARTS, a fresh nonce, the freeze log and the zones (notes/assumptions/25.md). -/
def State.statusReply (s : State) (fn : Nat) (nonce : List Byte) : List Byte :=
  let b := s.plat.boot
  let log := s.plat.freezeLog fn
  (List.range 3).flatMap (fun i => leBytes 1 (b.reasons.getD i 0)) ++ leBytes 1 b.starts ++ nonce ++ leBytes 4 log.length ++
    log.flatMap (fun e => leBytes 2 e.master ++ leBytes 1 e.cap ++ leBytes 1 (if e.live then 1 else 0) ++ leBytes 8 e.addr) ++
    (List.range 8).flatMap fun d => leBytes 1 (s.thermal d).zone

/-- `STATUS` (R392, R394). -/
def execStatus (s : State) : Host.Outcome State Fault Refusal :=
  .next (s.command 4 fun fn =>
    let (nonce, s) := s.freeBytes 32
    (s.modBox fn fun b => { b with nonce := some (BitVec.ofNat 256 (leNat nonce)) }).answer fn 0 (s.statusReply fn nonce))

/-- A master goes on (R390). -/
def State.thaw (s : State) (master : Nat) : State :=
  let s := s.modPlat fun p =>
    { p with frozen := p.frozen.filter (· != master)
             flog := p.flog.map fun e => if e.master = master then { e with live := false } else e }
  if master < 16 then s.modCore (768 + master) fun x => { x with sup := { x.sup with frozen := false } } else s

/-- `UNFREEZE` (R390, R394): the payload names an entry of the mailbox's freeze log. -/
def execUnfreeze (s : State) : Host.Outcome State Fault Refusal :=
  .next (s.command 5 fun fn => match (s.plat.freezeLog fn)[leNat (s.mailbox fn).payload]? with
    | some e => if e.live then (s.thaw e.master).answer fn 0 [] else s.answer fn 2 []
    | none => s.answer fn 2 [])

/-- `MAILBOX_UNSUPPORTED` (R394): the opcode is none of the six commands. -/
def execMailboxUnsupported (s : State) : Host.Outcome State Fault Refusal :=
  let op := (s.mailbox s.caller).opcode.toNat
  .next (if 1 ≤ op && op ≤ 6 then s else s.answer s.caller 3 [])

/-! ## The reset of a partition -/

/-- The dies and the slots of a partition (R388). -/
def State.partition (s : State) (part : Nat) : List Nat × List Nat :=
  let cfg := fun d => Tbl.get (0 : Word) s.plat.partcfg d
  let mine := fun d => ((cfg d).extractLsb' 32 4).toNat == part
  let ds := (List.range 8).filter mine
  match ds with
  | [] => ([], [])
  | d :: _ =>
    if !s.plat.caps then (ds, List.range 256)
    else (ds, (List.range 256).filter fun n =>
      ((cfg d).extractLsb' 48 8).toNat ≤ n && n ≤ ((cfg d).extractLsb' 48 8).toNat + ((cfg d).extractLsb' 40 8).toNat)

/-- `PARTITION_RESET` (R388, R390; notes/assumptions/26.md): the partition's slots, cores, records and monitors return to reset, its
frozen masters go on, and its supervisor cores start the firmware again. -/
def execPartitionReset (part : Nat) (s : State) : Host.Outcome State Fault Refusal :=
  let (ds, ns) := s.partition part
  let onDies := fun c => ds.contains (dieOf c)
  let run := s.plat.boot.firmwareUp
  let s1 := (s.plat.frozen.filter fun m => if m < 16 then ds.contains (m / 2) else if m < 24 then ds.contains (m - 16) else ds.contains 0).foldl
    State.thaw s
  let quad := fun q => ds.contains (q / 24)
  let s2 : State := { s1 with
    cores := s1.cores.filter fun e => !onDies e.1
    slots := s1.slots.filter fun e => !ns.contains e.1
    qs := s1.qs.filter fun e => !quad (e.1 / 0x800000)
    outs := s1.outs.filter fun a => !ns.contains a.slot
    tlbi := s1.tlbi.filter fun e => !onDies e.1
    tlb1 := s1.tlb1.filter fun e => !onDies e.1
    tlb2 := s1.tlb2.filter fun e => !quad e.1 }
  let s3 := ((List.range 16).filter fun v => ds.contains (v / 2)).foldl
    (fun s v => s.modCore (768 + v) fun x => { x with sup := { x.sup with running := run } }) s2
  .next (s3.modPlat fun p =>
    { p with onQuads := p.onQuads.filter fun q => !quad q
             eyes := p.eyes.filter fun e => !ds.contains (e.1 / 2 ^ 24)
             slices := p.slices.filter fun e => !ds.contains e.die })

/-! ## Cold start -/

/-- The cold start of a die. -/
def State.coldOf (s : State) (d : Nat) : Cold := Tbl.get Cold.reset s.plat.cold d

/-- Changes the cold start of a die. -/
def State.setCold (s : State) (d : Nat) (x : Cold) : State := s.modPlat fun p => { p with cold := Tbl.set p.cold d x }

/-- Asks for power for every quad of a die, to run at 800 MHz, or for one of its stacks (R395, R398). -/
def State.powerQuads (s : State) (d : Nat) : State :=
  let qs := (List.range 24).map fun q => 24 * d + q
  (s.modPlat fun p => { p with freqs := qs.foldl (fun t q => Tbl.set t q lowFreq) p.freqs }).wakeQuads qs
def State.powerStack (s : State) (d k : Nat) : State := s.inClocks 0 (.inrushRequest ⟨2, d, 0, 0, k⟩)

/-- A die's quads, or its stacks and the links that it shares, lose their power (R395, R401). -/
def State.quadsOff (s : State) (d : Nat) : State := s.modPlat fun p => { p with onQuads := p.onQuads.filter fun q => q / 24 != d }
def State.stacksOff (s : State) (d : Nat) : State :=
  let ends := fun l : Nat × Nat × Nat => l.1 == d || l.2.1 == 1 && bridgeDie l.1 l.2.2 == d
  s.modPlat fun p => { p with onStacks := p.onStacks.filter fun k => k / 2 != d, links := p.links.filter fun l => !ends l }

/-- The test of every sub-array of a die that each reset makes (R402): what it finds is free, and what fails is fenced. -/
def State.bootTest (s : State) (d : Nat) : State :=
  (List.range 24).foldl
    (fun (s : State) q => { s.fence (24 * d + q) (BitVec.ofNat 16 (Config.freeNat s.free)) with free := s.free + 1 }) s

/-- Step C3 (R395): the die heats itself, its stacks and links off, and twenty minutes run from the first time. -/
def State.selfHeat (s : State) (d : Nat) : State :=
  let x := s.coldOf d
  let go := fun (k : Nat) => (s.stacksOff d).setCold d { x with step := 3, heat := some k }
  match x.heat with
  | some k => (go k).inClocks (max 1 (k + twentyMinutes - s.clock)) .selfHeatTimeout
  | none => (go s.clock).inClocks twentyMinutes .selfHeatTimeout

/-- Every die has finished its cold start: step 5 follows (R391, R395). -/
def State.coldDone (s : State) : State :=
  if (List.range 8).all fun d => (s.coldOf d).step == 7 then s.startFirmware else s

/-- Steps 1 and 2 of training at a sensor reading (R383): whether calibration codes are in range and lock has held is free. -/
def State.calibrate (s : State) : Bool × State :=
  (Config.freeNat s.free % 2 == 0 && Config.freeNat (s.free + 1) % 2 == 0, { s with free := s.free + 2 })

/-- A link that has been trained is on; its failure ends the start where it is a stack's or a bridge's (R395). -/
def State.linkUp (s : State) (l : Nat × Nat × Nat) : State := s.modPlat fun p => { p with links := l :: p.links.filter (· != l) }

/-- C4: the die's stacks are trained one at a time, the second powered when the first is done (R395). -/
def State.trainStacks (s : State) (d : Nat) : State :=
  let k := if s.plat.links.contains (d, 0, 0) then 1 else 0
  if !s.plat.onStacks.contains (2 * d + k) then s
  else
    match s.trainLink d 0 k with
    | (true, s) => s.failStart 5
    | (false, s) =>
      let s := s.linkUp (d, 0, k)
      if k = 0 then s.powerStack d 1 else s.setCold d { s.coldOf d with step := 5 }

/-- The bridge on an edge of a die by its one name (R9). -/
def bridgeName (d edge : Nat) : Nat × Nat × Nat :=
  let l := bridgeLane d (laneAt 1 edge 0)
  (l.1, 1, laneLink l.2)

/-- C5 for one bridge: both its dies train it together once both have come to it (R395). -/
def State.trainBridge (s : State) (d edge : Nat) : State :=
  let e := bridgeDie d edge
  if s.plat.links.contains (bridgeName d edge) || (s.coldOf e).step < 5 || s.plat.boot.step != 4 then s
  else
    match s.trainLink d 1 edge with
    | (true, s) => s.failStart 5
    | (false, s) => match s.trainLink e 1 ((edge + 2) % 4) with
      | (true, s) => s.failStart 5
      | (false, s) => s.linkUp (bridgeName d edge)

/-- C5 for a fabric port: one that fails is left failed (R395). -/
def State.trainPort (s : State) (d port : Nat) : State :=
  match s.trainLink d 2 port with
  | (true, s) => s
  | (false, s) => s.linkUp (d, 2, port)

/-- C6: the quads go off and COOLREQ is released (R395). -/
def State.coldEnd (s : State) (d : Nat) : State :=
  ((s.quadsOff d).setCold d { s.coldOf d with step := 7, coolReq := false }).coldDone

/-- C5: the die's bridge edges, then its fabric ports (R395). -/
def State.trainEdges (s : State) (d : Nat) : State :=
  let edges := (List.range 4).filter fun e => bridgeDie d e != d
  let s := edges.foldl (fun (s : State) e => s.trainBridge d e) s
  if edges.all fun e => s.plat.links.contains (bridgeName d e) then ((s.trainPort d 0).trainPort d 1).coldEnd d else s

/-- Training at C4 or C5 when the sensors are read (R383, R395; notes/assumptions/8.md). -/
def State.train (s : State) (d : Nat) : State :=
  match s.calibrate with
  | (false, s) => s
  | (true, s) => if (s.coldOf d).step = 4 then s.trainStacks d else s.trainEdges d

/-- A reading moves the cold start of its die (R395). Temperatures are in tenths of a degree. -/
def State.coldStep (s : State) (d : Nat) (coldest : Int) : State :=
  let x := s.coldOf d
  let heats := fun s : State => (s.setCold d { x with step := 4 }).powerStack d 0
  if s.plat.boot.step != 4 then s
  else
    match x.step with
    | 1 =>
      let s := (s.powerQuads d).bootTest d
      if -100 ≤ coldest then heats s else s.selfHeat d
    | 3 => if -100 ≤ coldest then heats s else s
    | 4 | 5 => if coldest < -150 then s.selfHeat d else s.train d
    | _ => s

/-- `SELF_HEAT_TIMEOUT` (R395): a die still heats itself twenty minutes after it began. -/
def execSelfHeatTimeout (s : State) : Host.Outcome State Fault Refusal :=
  .next (if s.plat.boot.step = 4 && (List.range 8).any fun d =>
      (s.coldOf d).step == 3 && (match (s.coldOf d).heat with
        | some k => k + twentyMinutes ≤ s.clock
        | none => false)
    then s.failStart 4 else s)

/-! ## Thermal zones -/

/-- Changes the thermal state of a die. -/
def State.modThermal (s : State) (d : Nat) (f : Thermal → Thermal) : State :=
  s.modPlat fun p => { p with temps := Tbl.set p.temps d (f (s.thermal d)) }

/-- The threshold of a zone in tenths of a degree (R400, R401). -/
def Thermal.threshold (t : Thermal) (z : Nat) : Int := 10 * ((if z = 1 then t.thw else if z = 2 then t.tht else t.thc : Nat) : Int)

/-- The zone that the latest reading calls for (R401): the highest whose threshold it reaches, or the one below at 3 °C under the
threshold of the zone. The critical zone is left only by reset. -/
def Thermal.wanted (t : Thermal) : Nat :=
  if t.zone = 3 || t.threshold 3 ≤ t.reading then 3
  else if t.zone < 2 && t.threshold 2 ≤ t.reading then 2
  else if t.zone < 1 && t.threshold 1 ≤ t.reading then 1
  else if t.zone != 0 && t.reading < t.threshold t.zone - 30 then t.zone - 1
  else t.zone

/-- Nanoseconds of the dwell (R401). -/
def dwellNs : Nat := 1000000

/-- A reading that calls for another zone once the dwell is over moves the die on its clock; one before that moves nothing, and the
readings that follow decide (R401 and its example). -/
def State.planZone (s : State) (d : Nat) : State :=
  let t := s.thermal d
  if t.wanted = t.zone || s.ns < t.since + dwellNs || s.timers.any fun e => e.2 == .zoneChange d then s
  else s.inClocks 0 (.zoneChange d)

/-- Cohorts on a die follow a change of its clamp (R353, R401). -/
def State.relevelDie (s : State) (d : Nat) (f : State → State) : State :=
  let s := f s
  ((s.slots.filter fun e => e.2.members.any fun c => dieOf c == d).map (·.1)).foldl State.retune s

/-- The inlet reads above 45 °C (R401). -/
def Plat.hotInlet (p : Plat) : Bool := 45 < p.inlet

/-- Event cause 11 (R342, R401). -/
def State.warnEvent (s : State) (d : Nat) (enter : Bool) : State :=
  s.event (768 + 2 * d) 11 (BitVec.ofNat 64 (d + bitOf enter 8 + bitOf s.plat.hotInlet 9))

/-- A critical die stops every cohort that has a member on it (R401): as a kill where it runs, and at once where it is LOADED, or its save, its
launch or its restore is under way (notes/assumptions/7.md). -/
def State.stopDie (s : State) (d : Nat) : State :=
  ((s.slots.filter fun e => e.2.holdsQuads && e.2.members.any fun c => dieOf c == d).map (·.1)).foldl
    (fun s n => if (s.slot n).st = 0 || (s.slot n).st = 1 then s.enterStopped n 2 else s.killSlot n) s

/-- A die enters a zone (R401). -/
def State.enterZone (s : State) (d w : Nat) : State :=
  let z := (s.thermal d).zone
  let s := s.relevelDie d fun s => s.modThermal d fun t => { t with zone := w, since := s.ns }
  let s := if w = 1 then s.warnEvent d true else if z = 1 then s.warnEvent d false else s
  if w = 3 then
    let s := ((s.stopDie d).quadsOff d).stacksOff d
    if s.plat.boot.step = 4 || s.plat.boot.step = 6 then s.failStart 6 else s
  else s

/-- `ZONE_CHANGE` (R401): the dwell is over, and the latest reading still calls for the move. -/
def execZoneChange (d : Nat) (s : State) : Host.Outcome State Fault Refusal :=
  let t := s.thermal d
  .next (if t.wanted = t.zone || s.ns < t.since + dwellNs then s else s.enterZone d t.wanted)

/-- A temperature in tenths of a degree as a signed byte of whole degrees. -/
def degrees (x : Int) : BitVec 8 := BitVec.ofInt 8 (x / 10)

/-- The 12 junction sensors of a die after a reading: those that it does not name keep their value, the first one's where they have none
(R400; notes/assumptions/27.md). -/
def Thermal.readAs (t : Thermal) (temps : List Int) : List Int :=
  (List.range 12).map fun i => temps.getD i (t.sensors.getD i (temps.headD 0))

/-- `THERMAL_SENSOR_READ` (R395, R400, R401): the die temperature is the highest of its junction sensors. Those are in tenths of a
degree, the module's inlet in whole degrees; an inlet above 45 °C is told to every die (notes/assumptions/27.md). -/
def execThermalSensorRead (d : Nat) (temps : List Int) (inlet : Int) (s : State) : Host.Outcome State Fault Refusal :=
  let xs := (s.thermal d).readAs temps
  let hi := xs.foldl max (xs.headD 0)
  let lo := xs.foldl min (xs.headD 0)
  let s1 := (s.modPlat fun p => { p with inlet := inlet }).modThermal d fun t => { t with sensors := xs, reading := hi, coldest := lo, tdie := degrees hi }
  let s2 := if 45 < inlet && !s.plat.hotInlet then (List.range 8).foldl (fun (s : State) e => s.warnEvent e ((s.thermal e).zone == 1)) s1 else s1
  .next ((s2.planZone d).coldStep d lo)

/-- `THRM_WRITE` (R400): an order of thresholds that is not kept is a misuse event; the clamp follows (R353, R401). -/
def execThrmWrite (sv : Nat) (v : Word) (s : State) : Host.Outcome State Fault Refusal :=
  let c := 768 + sv
  let d := dieOf c
  let tht := (v.extractLsb' 8 8).toNat
  let thw := (v.extractLsb' 0 8).toNat
  .next (if tht + 3 < (s.thermal d).thc && thw + 3 < tht then
      s.relevelDie d fun s => s.modThermal d fun t => { t with tcl := (v.extractLsb' 48 4).toNat, tht := tht, thw := thw }
    else s.misuseOf c)

end Sys2Proof.Machine
end

