-- ==== Sys2Proof/Machine/Protection.lean ====
section
/-! DEFINITION. Group messages, losses, rebuilds and the repair of protected lines (spec/19_protected_hbm.md R374 to R382;
spec/15_prog_groups.md R310, R311). -/

namespace Sys2Proof.Machine

/-- Goes on with the enabled group that a message `i` names, where the sender is one of its other members (R378) and the wall lets it through
(R388). A frozen parity engine takes it up when it goes on (R390). -/
def State.onGroup (s : State) (i : Instr) (h : GroupHdr) (k : State → Nat → Group → State) : State :=
  match s.byGid h.gid with
  | none => s
  | some g =>
    let x := s.group g
    if x.k + x.m ≤ h.sender || h.sender = x.self then s
    else s.fromPackage x.die (x.package h.sender) fun s =>
      if s.plat.frozen.contains parityMaster then s.later i else k s g (s.group g)

/-- `GROUP_CONFIG` (R374): the configuration is kept, and compared once the package has enabled its own. -/
def execGroupConfig (gid sender : Nat) (c : GroupCfg) (s : State) : Host.Outcome State Fault Refusal :=
  let s := s.modPlat fun p =>
    { p with configs := (p.configs.filter fun e => e.1 != gid || e.2.1 != sender) ++ [(gid, sender, c)] }
  .next (s.onGroup (.groupConfig gid sender c) ⟨gid, sender, 0⟩ fun s g _ => s.compare g sender c)

/-! ## Parity members -/

/-- `DELTA` (R377 to R379): a parity member appends the delta and acknowledges it; a full log refuses it. -/
def execDelta (gid sender round off : Nat) (data : BitVec 512) (s : State) : Host.Outcome State Fault Refusal :=
  .next (s.onGroup (.delta gid sender round off data) ⟨gid, sender, round⟩ fun s g x =>
    if !x.isParity then s
    else
      match s.logReach x.die s.plat.ppend (s.plat.pend.map (·.at_)) with
      | .error s => s.later (.delta gid sender round off data)
      | .ok s => match s.appendPend ⟨off, round, g, false, sender, data, 0⟩ with
      | none => s.tell g sender round (.deltaAck off false)
      | some s => (s.modGroup g fun x => { x with collecting := true, decided := false }).tell g sender round (.deltaAck off true))

/-- The home byte of the parity sector at an offset of the group's parity region (R375). -/
def Group.parityKey (x : Group) (off : Nat) : Nat := homeKey 0 0 (x.gpar.toNat + off)

/-- Releases the pending entries of a round (R377, R379). -/
def State.releasePend (s : State) (g round : Nat) : State :=
  s.modPlat fun p => { p with pend := p.pend.filter fun e => !(e.grp == g && e.round == round) }

/-- Folds the pending deltas of a round into the parity region, in log order, and releases them (R378, R379). -/
def State.foldRound (s : State) (g round : Nat) : State :=
  let x := s.group g
  let es := s.plat.pend.filter fun e => e.grp == g && e.round == round && !e.decision
  let s := es.foldl
    (fun s e =>
      let key := x.parityKey e.off
      let old : BitVec 512 := BitVec.ofNat 512 (leNat (s.devBytes key 64))
      s.devWrites none key (leBytes 64 (old ^^^ e.delta).toNat)) s
  s.releasePend g round

/-- The parity engine reaches what folding a round writes (R389, R390). -/
def State.foldReach (s : State) (g round : Nat) : Except State State :=
  let x := s.group g
  (s.plat.pend.filter fun e => e.grp == g && e.round == round && !e.decision).foldlM
    (fun (s : State) e => s.capAccess parityMaster x.die (x.parityKey e.off) 64 true) s

/-- `DEC` (R378, R379): a decision entry is written; a parity member folds the round and acknowledges. -/
def execDec (p : GroupPeer) (round : Nat) (s : State) : Host.Outcome State Fault Refusal :=
  let h := p.hdr round
  .next (s.onGroup (.dec p round) h fun s g x =>
    if !x.isParity then
      ((s.appendRound ⟨0, 0, h.round, g, 0xFE, 0, 0⟩).getD s).modGroup g fun y => { y with decided := true }
    else if x.lastc.toNat = h.round then s.tell g h.sender h.round .decAck
    else
      match s.foldReach g h.round with
      | .error s => s.later (.dec p round)
      | .ok s =>
      let s := (s.appendPend ⟨0, h.round, g, true, h.sender, 0, 0⟩).getD s
      let s := (s.foldRound g h.round).modGroup g fun y => { y with collecting := false, lastc := BitVec.ofNat 32 h.round }
      (s.tell g h.sender h.round .decAck).startRebuild g)

/-! ## Data members -/

/-- `DELTA_ACK` (R286, R377, R378): the first delta of an offset on its way to the sender is durable, or it was refused and its write takes its
fault. -/
def execDeltaAck (h : GroupHdr) (a : DeltaAck) (s : State) : Host.Outcome State Fault Refusal :=
  .next (s.onGroup (.deltaAck h a) h fun s g x =>
    match x.deltas.find? fun d => d.member == h.sender && d.off == a.off with
    | none => s
    | some d =>
      let s := s.modGroup g fun y => { y with deltas := y.deltas.erase d }
      if a.durable then s
      else
        match s.holder g with
        | some (n, _) => s.dueFault n d.fault
        | none => s)

/-- `PREP` (R310, R378): the coordinator enters a notice of the round in progress, also one that comes before its own `RND.OPEN`. A notice that
comes after the round was doomed stands only for a member that has aborted it and opened it again (notes/assumptions/60.md). One that comes
after a loss dooms its round, since no round opens while a member is lost (R285, R310). -/
def execPrep (gid sender round : Nat) (s : State) : Host.Outcome State Fault Refusal :=
  .next (s.onGroup (.prep gid sender round) ⟨gid, sender, round⟩ fun s g x =>
    if round != x.round || x.notices.contains sender || (x.doomed && !x.aborts.contains sender) then s
    else
      let s := s.modGroup g fun y => { y with notices := y.notices ++ [sender] }
      if x.st != 1 && !x.decided then s.abandon g else s.coordinate g)

/-- `DEC_ACK` (R288, R378): a parity member has folded or discarded the round. -/
def execDecAck (p : GroupPeer) (round : Nat) (s : State) : Host.Outcome State Fault Refusal :=
  let h := p.hdr round
  .next (s.onGroup (.decAck p round) h fun s g x =>
    (s.modGroup g fun y => { y with acks := if x.acks.contains h.sender then x.acks else x.acks ++ [h.sender] }).coordinate g)

/-- `OUT` (R287, R378, R379): the outcome reaches a data member whose round it names. -/
def execOut (h : GroupHdr) (outcome : Nat) (s : State) : Host.Outcome State Fault Refusal :=
  .next (s.onGroup (.out h outcome) h fun s g x =>
    if x.isParity || x.rst = 0 || h.round != x.round then s
    else if outcome != 0 then s.abandon g
    else if x.rst = 1 then s
    else s.commitRound g h.round)

/-- `ABT` (R288, R379): a parity member discards the round and acknowledges; at a data member the round is doomed and restored, also where its
coordinator has decided and not yet given the outcome (notes/assumptions/60.md). -/
def execAbt (p : GroupPeer) (round : Nat) (s : State) : Host.Outcome State Fault Refusal :=
  let h := p.hdr round
  .next (s.onGroup (.abt p round) h fun s g x =>
    if x.isParity then
      (((s.releasePend g h.round).modGroup g fun y => { y with collecting := false }).tell g h.sender h.round .decAck).startRebuild g
    else if h.round != x.round then s
    else
      let s := s.modGroup g fun y => { y with aborts := y.aborts ++ [h.sender] }
      if x.rst = 0 then s.modGroup g fun y => { y with notices := [] } else s.abandon g)

/-! ## Losses -/

/-- `QRY` (R380): COMMIT is answered where a decision for the round is held. -/
def execQry (gid sender round : Nat) (s : State) : Host.Outcome State Fault Refusal :=
  .next (s.onGroup (.qry gid sender round) ⟨gid, sender, round⟩ fun s g x =>
    s.tell g sender round (.ans (x.lastc.toNat == round || (x.decided && x.round == round))))

/-- The new coordinator settles the round once every live member has answered (R287, R380). -/
def State.settleByAnswers (s : State) (g : Nat) : State :=
  let x := s.group g
  let live := (List.range (x.k + x.m)).filter fun j => !x.lostmap.getLsbD j
  if !(live.all fun j => x.answers.any fun a => a.1 == j) then s
  else
    let held := x.answers.any fun a => a.2
    let s := s.modGroup g fun y =>
      { y with answers := [], acks := if held then (x.answers.filter fun a => a.2).map (·.1) else y.acks }
    if held then (s.decide g).giveOutcome g else s.abandon g

/-- `ANS` (R380). -/
def execAns (p : GroupPeer) (round : Nat) (committed : Bool) (s : State) : Host.Outcome State Fault Refusal :=
  let h := p.hdr round
  .next (s.onGroup (.ans p round committed) h fun s g x =>
    if x.answers.isEmpty || h.round != x.round || x.answers.any fun a => a.1 == h.sender then s
    else (s.modGroup g fun y => { y with answers := y.answers ++ [(h.sender, committed)] }).settleByAnswers g)

/-- A member that takes the place of a lost coordinator (R310, R380): with its own round prepared it asks every live member; otherwise a
round in flight cannot have been committed, and members that still wait for the round before are told its outcome. -/
def State.takeOver (s : State) (g : Nat) : State :=
  let x := s.group g
  if 2 ≤ x.rst then
    let s := s.modGroup g fun y => { y with answers := [(y.self, y.decided)] }
    (s.tellAll g x.round .qry x.others).settleByAnswers g
  else
    let s := if x.rst = 0 && x.lastc != 0 then s.tellAll g x.lastc.toNat (.out 0) (x.others.filter (· < x.k)) else s
    if x.rst = 0 && x.notices.isEmpty then s else s.abandon g

/-- The settlement of the round in flight as a data member sees a loss (R310, R380). `before` is the group before the loss. A member that has
not sent its notice knows the round to be doomed (R286), and a loss while no round is in flight settles nothing (R380). -/
def State.settleLoss (s : State) (g member : Nat) (before : Group) : State :=
  let x := s.group g
  if x.isParity || x.st = 4 then s
  else if !x.answers.isEmpty then s.settleByAnswers g
  else if before.coord = member then
    if x.coordinates then s.takeOver g else if x.rst = 1 then s.abandon g else s
  else if !x.coordinates then (if x.rst = 1 then s.abandon g else s)
  else if x.decided then s.coordinate g
  else if (before.liveData.all fun j => before.notices.contains j) || (x.rst = 0 && before.notices.isEmpty) then s
  else s.abandon g

/-- A member counts as lost (R380): LOSTMAP, the group's state, its events, and the settlement of the round in flight. Deltas on their way to
it are no longer awaited. Before the group is NORMAL the member has to enable again (R374). -/
def State.lostMember (s : State) (g member : Nat) : State :=
  let x := s.group g
  if !x.gcfg.getLsbD 0 || x.lostmap.getLsbD member || member = x.self || x.k + x.m ≤ member then s
  else if x.st = 0 then
    (s.modPlat fun p => { p with configs := p.configs.filter fun e => e.1 != x.gid || e.2.1 != member }).modGroup g fun y =>
      { y with agreed := y.agreed.filter (· != member) }
  else
    let lm := x.lostmap ||| BitVec.ofNat 16 (2 ^ member)
    let lost := ((List.range 16).filter fun j => lm.getLsbD j).length
    let s := s.modPlat fun p => { p with configs := p.configs.filter fun e => e.1 != x.gid || e.2.1 != member }
    let s := (s.modGroup g fun y =>
      { y with
        lostmap := lm, st := if x.m < lost then 4 else 2, deltas := y.deltas.filter fun d => d.member != member
        answers := y.answers.filter fun a => a.1 != member }).groupEvent g 2 member
    let s := if x.m < lost then s.groupEvent g 4 0x1F else s
    ((s.settleLoss g member x).startRebuild g)

/-- `MEMBER_LOST` (R380). -/
def execMemberLost (g member : Nat) (s : State) : Host.Outcome State Fault Refusal := .next (s.lostMember g member)

/-- `MEMBER_LINK_TIMEOUT` (R380): links down for 10 ms count as a loss. -/
def execMemberLinkTimeout (g member : Nat) (s : State) : Host.Outcome State Fault Refusal := .next (s.lostMember g member)

/-- The members of enabled groups that a package is (R380). -/
def State.membersOf (s : State) (pkg : Nat) : List (Nat × Nat) :=
  (List.range 16).flatMap fun g =>
    let x := s.group g
    ((List.range (x.k + x.m)).filter fun j => x.gcfg.getLsbD 0 && x.package j == pkg).map fun j => (g, j)

/-- `LINK_LOSS` (R371): every cohort loses the accesses that need the path, a saved one those that it left under way; with the loss of a peer package its groups lose a member
(R380). -/
def execLinkLoss (detail peer : Nat) (s : State) : Host.Outcome State Fault Refusal :=
  let s := s.viewers.foldl (fun s n => s.lose detail peer n) s
  .next (if detail = 4 then (s.membersOf peer).foldl (fun s e => s.lostMember e.1 e.2) s else s)

/-! ## Reconstruction -/

/-- Multiplication in GF(2^8) (R375). -/
def gmul (a b : Byte) : Byte :=
  (List.range 8).foldl (fun acc i => if a.getLsbD i then acc ^^^ gpow i b else acc) 0

/-- The inverse of a non-zero element, its 254th power (R381). -/
def ginv (a : Byte) : Byte := (List.range 254).foldl (fun acc _ => gmul acc a) 1

/-- The sector of member `x` from the sums over the live members (R381): `a` of the data sectors and P, `b` of the weighted data sectors and Q.
`lost` holds the missing members, `x` among them. -/
def recover (k : Nat) (lost : List Nat) (x : Nat) (a b : BitVec 512) : BitVec 512 :=
  let pLost := lost.contains k
  let data := lost.filter (· < k)
  let single := fun y : Nat => if pLost then mapSector (gpow (255 - y)) b else a
  let pair := fun y z : Nat => mapSector (gmul (ginv (gpow y 1 ^^^ gpow z 1))) (mapSector (gpow z) a ^^^ b)
  let value := fun y : Nat => match data with
    | [u, v] => if y = min u v then pair (min u v) (max u v) else a ^^^ pair (min u v) (max u v)
    | _ => single y
  if x < k then value x
  else if x = k then data.foldl (fun p y => p ^^^ value y) a
  else data.foldl (fun q y => q ^^^ mapSector (gpow y) (value y)) b

/-- The missing members of a group, in rising index. -/
def Group.lost (x : Group) : List Nat := (List.range (x.k + x.m)).filter fun j => x.lostmap.getLsbD j

/-- The package's own sector of a stripe (R375, R381): its parity sector, or its data sector where it is marked PROTECTED, zero elsewhere. -/
def State.ownSector (s : State) (g off : Nat) : BitVec 512 :=
  let x := s.group g
  if x.isParity then BitVec.ofNat 512 (leNat (s.devBytes (x.parityKey off) 64))
  else
    match s.holder g with
    | none => 0
    | some (n, gs) =>
      let y := s.slot n
      let va : Word := BitVec.ofNat 64 (x.window.1 + off)
      match y.marks.find? fun m => m.grp == gs && m.gone.isNone && m.prot && m.base ≤ ptrOff va && ptrOff va < m.base + m.len with
      | some _ => s.sector [] (y.members.headD 0) n va
      | none => 0

/-- Adds the package's term to the sums of a stripe (R381). -/
def State.addTerm (s : State) (g : Nat) (p : Stripe) : Stripe :=
  let x := s.group g
  let d := s.ownSector g p.off
  if x.self < x.k then { p with a := p.a ^^^ d, b := p.b ^^^ mapSector (gpow x.self) d }
  else if x.self = x.k then { p with a := p.a ^^^ d } else { p with b := p.b ^^^ d }

/-- This package is the spare of a rebuild: it has enabled the group as the lost member, whose place it takes (R311, R373, R381;
notes/assumptions/60.md). -/
def State.isSpare (s : State) (g : Nat) (r : Rebuild) : Bool :=
  let x := s.group g
  x.gcfg.getLsbD 0 && x.self == r.member && x.spare == some s.plat.pkg && x.package x.self != s.plat.pkg

/-- The members that are missing while a member is rebuilt (R381). -/
def missingOf (r : Rebuild) : List Nat := (List.range 16).filter fun j => r.lost.getLsbD j || j == r.member

/-- One stripe of the rebuild of a member (R381): a live member adds its term and forwards the sums to the next live one, the last of them to
the spare under the lost member's index; the spare writes the sector. -/
def State.rebuildStripe (s : State) (g : Nat) (r : Rebuild) (p : Stripe) : State :=
  let x := s.group g
  let member := r.member
  if s.isSpare g r then
    let key := if x.k ≤ member then x.parityKey p.off else homeKey 0 0 p.addr
    match s.capAccess parityMaster x.die key 64 true with
    | .ok s => s.devWrites none key (leBytes 64 (recover x.k (missingOf r) member p.a p.b).toNat)
    | .error s => s
  else s.tell g ((x.others.find? fun j => x.self < j).getD member) x.round (.chain (s.addTerm g p))

/-- Puts a package number into a member's field (R373). -/
def Group.setPackage (x : Group) (j pkg : Nat) : Group :=
  let put := fun (w : Word) (lo : Nat) => (w &&& ~~~(BitVec.ofNat 64 (63 * 2 ^ lo))) ||| BitVec.ofNat 64 (pkg * 2 ^ lo)
  if j < 10 then { x with gmem0 := put x.gmem0 (6 * j) } else { x with gmem1 := put x.gmem1 (6 * (j - 10)) }

/-- `REBUILD_COMPLETE` (R311, R381): the stripes have passed this package, and the spare takes the lost member's place, at the group's last
committed round. -/
def execRebuildComplete (g : Nat) (r : Rebuild) (s : State) : Host.Outcome State Fault Refusal :=
  let x := s.group g
  let spare := s.isSpare g r
  .next (if !spare && (x.st != 3 || !x.lostmap.getLsbD r.member) then s
    else if s.plat.frozen.contains parityMaster then s.later (.rebuildComplete g r)
    else
      let lm := (if spare then r.lost else x.lostmap) &&& ~~~(BitVec.ofNat 16 (2 ^ r.member))
      let y := x.setPackage r.member (x.spare.getD 0)
      ((r.stripes.foldl (fun s p => s.rebuildStripe g r p) s).modGroup g fun _ =>
        { y with
          gmem1 := y.gmem1 &&& ~~~(BitVec.ofNat 64 (2 ^ 42)), lostmap := lm, st := if lm = 0 then 1 else 2
          lastc := if spare then r.lastc else y.lastc
          doomed := x.doomed && x.rst != 0 }).groupEvent g 3 r.member)

/-! ## Repair -/

/-- The sectors of a line rebuilt from the sums of the other live members, one pair for each (R382). A stripe that needs no lost data member
counts that member's sector as zero (R375). -/
def Group.rebuiltLine (x : Group) (sums : List (BitVec 512 × BitVec 512)) (needs : Bool) : List Byte :=
  let lost := (x.lost.filter fun j => needs || x.lost.length < x.m || x.k ≤ j) ++ [x.self]
  (List.range 4).flatMap fun i => leBytes 64 (recover x.k lost x.self (sums.getD i (0, 0)).1 (sums.getD i (0, 0)).2).toNat

/-- `PROTECTED_READ_REPAIR` (R370, R382): once the deltas sent to its stripes are durable, the line of the error is rebuilt and written back, and the read goes
on; it fails where the group cannot rebuild. The sums come from the other live members, with committed parity folded with the pending deltas. -/
def execProtectedReadRepair (id : Nat) (l : LineSums) (s : State) : Host.Outcome State Fault Refusal :=
  .next (match s.access id with
    | none => s
    | some a =>
      let q := a.parts.flatMap (fun r => lineStarts r.1 r.2.length) |>.find? fun q => ptrTag q == ptrTag l.line && ptrOff q / 256 == ptrOff l.line / 256
      let q := q.getD a.first
      let p := q - BitVec.ofNat 64 (ptrOff q % 256)
      match (s.slot a.slot).markAt q a.keyTc with
      | none => s
      | some m =>
        let x := s.group (Tbl.get 0 (s.slot a.slot).grpOf m.grp)
        let off := ptrOff p - x.window.1
        if a.st != .sent || !m.prot then s
        else if x.st = 4 || (x.m ≤ x.lost.length && l.needs) then
          s.failAccess a (a.faultRec .uncorrectable 1 q) (s.physOf a.pages a.core a.slot q)
        else if x.deltas.any fun d => off ≤ d.off && d.off < off + 256 then s.later (.protectedReadRepair id l)
        else
          match s.keyFor a.pages a.core a.slot p with
          | some (_, key) => ({ s with dev := Map.setRun s.dev key (x.rebuiltLine l.sums l.needs) }).later a.ending
          | none => s)

end Sys2Proof.Machine
end

