-- ==== Sys2Proof/Machine/Agenda.lean ====
section
/-! DEFINITION. What the package does next: acts of the outside, events whose clock has come, supervisor cores, the streams of the
cohorts whose tc executes, and the clock (spec/00_scope.md R3; spec/02_timetable.md R24, R25, R33, R37, R39, R55;
spec/17_scheduling.md R329, R341). One step takes one of these. -/

namespace Sys2Proof.Machine

/-- One act of a step: an event, the next word of a supervisor core, the next piece or the next word of a stream. -/
inductive Job where
  | event (i : Instr)
  | sup (c : Nat)
  | piece (c st : Nat)
  | word (c st : Nat)
  deriving DecidableEq, Repr

/-! ## Events whose clock has come -/

/-- The planned events that are due, in the order planned. -/
def State.dueTimers (s : State) : List (Nat × Instr) := s.timers.filter fun t => t.1 ≤ s.clock

/-! ## Supervisor cores -/

/-- The next word of a supervisor core and the word after it, in device memory (R329). -/
def State.supText (s : State) (pc : Nat) : Map 64 :=
  Map.set (Map.set [] (pc / 8) (BitVec.ofNat 64 (s.devNat pc 8))) (pc / 8 + 1) (BitVec.ofNat 64 (s.devNat (pc + 8) 8))

/-- A supervisor core that can act on this clock: it takes an event, or it issues after the IDLE of its next word (R329, R341), which
lies in its windows (R389, R390). -/
def State.supReady (s : State) (c : Nat) : Option Job :=
  let x := (s.core c).sup
  let pc := ((s.core c).stream 0).pc
  if !x.running || x.frozen || x.blocked || s.clock < x.busy then none
  else if !x.events.isEmpty && !x.handling then some (.event (.supervisorEvent (c - 768)))
  else if !s.plat.inWindows (dieOf c) false pc 8 then some (.event (.capViolation (c - 768) 1 pc))
  else
    let w := BitVec.ofNat 64 (s.devNat pc 8)
    if x.busy + (hdrOf w).idle.toNat ≤ s.clock then some (.sup c) else none

/-- The word of a supervisor core enters: it is recorded, and the core moves past it (R329). -/
def State.supEnter (s : State) (c : Nat) : State :=
  let s := { s with cur := (c, 0) }
  let x := s.str
  let text := s.supText x.pc
  let x := { x with text := text, textLen := x.pc + 16, base := 0 }
  let w := { x.issueOf false 0 with guard := true, stages := 7 }
  let nx := advanceLoops x.pc x.loops
  s.modStr fun _ => { x with now := w, before := x.loops, pc := nx.1, loops := nx.2, base := 1 }

/-- The instruction that a supervisor core accepts: its opcode and fields are those of R329 and R334, and loops and calls keep their
rules; none is a misuse event. -/
def State.supInstr (s : State) : Option Instr :=
  let x := s.str
  match decodeWord x.now.word with
  | .ok i => if supervisorOk i && structOk .C { x with loops := x.before } x.now i && stackDetail x i == 0 then some i else none
  | .error _ => none

/-- The instruction of a supervisor core has been performed: the core is busy for its occupancy (R329). -/
def State.supDone (s : State) (c : Nat) : State :=
  s.modCore c fun x => { x with hist := [], sup := { x.sup with busy := s.clock + max (x.stream 0).base 1 } }

/-! ## Cohorts -/

/-- What a stream does on tc `t`: a piece of its instruction, or its next word (R24, R182). -/
def Stream.job (x : Stream) (c st t : Nat) : Option Job :=
  if x.stopped || x.ended then none
  else
    match x.act with
    | some a => if a.start + a.j ≤ t then some (.piece c st) else none
    | none => if x.due = t then some (.word c st) else none

/-- The first member stream, by cohort rank and stream code, that has something to do on the slot's tc (R25). -/
def State.streamJob (s : State) (x : Slot) : Option Job :=
  x.members.findSome? fun c => (List.range 5).findSome? fun st => ((s.core c).stream st).job c st x.tc

/-- The cohort is past the distance of its next curtain and has not been charged (R55). -/
def Slot.distanceDue (x : Slot) : Bool :=
  x.st == 2 && x.tc == x.prevPt + x.curDistNow + 1 && !x.faultsNow.any fun f => f.kind == .curtainDistance

/-- What a cohort does on this clock: a stop, a fault of its curtain distance, its streams, or the end of a hold. -/
def State.slotJob (s : State) (n : Nat) : Option Job :=
  let x := s.slot n
  if !x.live then none
  else if x.opened then
    if x.stopDue then some (.event (.fatalStop n))
    else if x.distanceDue then some (.event (.curtainDistanceFault n))
    else s.streamJob x
  else if x.held.isSome then
    if s.releasable n then some (.event (.holdRelease n))
    else if max x.holdwd 1024 ≤ x.wdog then some (.event (.holdWatchdogExpiry n))
    else none
  else
    match x.startAt with
    | some t => if t.toNat ≤ s.ns then some (.event (.ttStartAtTime n)) else none
    | none => none

/-! ## The agenda -/

/-- An event is the loss of a member of group `g` (R380). -/
def State.isLoss (s : State) (g : Nat) (i : Instr) : Bool :=
  match i with
  | .memberLost h _ | .memberLinkTimeout h _ => h == g
  | .linkLoss 4 peer => (s.membersOf peer).any fun e => e.1 == g
  | _ => false

/-- The input that comes next: a loss of a member stands before the notices of its group that came on its clock (R310). -/
def State.firstInput (s : State) : Option Instr :=
  match s.inputs with
  | .prep gid sender round :: is => some (((s.byGid gid).bind fun g => is.find? (s.isLoss g)).getD (.prep gid sender round))
  | is => is.head?

/-- The act of this step, and the state without what the act has taken from the inputs and the planned events: first the outside,
then due events, supervisor cores, cohorts in slot order, and last the clock. -/
def State.agenda (s : State) : Job × State :=
  match s.firstInput with
  | some i => (.event i, { s with inputs := s.inputs.erase i })
  | none =>
    match s.dueTimers.head? with
    | some t => (.event t.2, { s with timers := s.timers.erase t })
    | none =>
      match (List.range 16).findSome? fun v => s.supReady (768 + v) with
      | some j => (j, s)
      | none =>
        match s.running.findSome? s.slotJob with
        | some j => (j, s)
        | none => (.event .tcAdvance, s)

/-! ## Words and pieces of streams -/

/-- A stream issues its next word: the checks of R144 are made, and a word that passes enters with its token bits (R27, R144). No
instruction is left where a check has failed. -/
def State.fetch (s : State) (c st : Nat) : Option Instr × State :=
  let s := { s with cur := (c, st) }
  let x := s.str
  let w := x.issueOf (st == 3) s.tc
  match s.wordCheck (streamId st) x w with
  | .error e => (none, (s.enter c st).fault e.1 e.2)
  | .ok i => (some i, (s.enter c st).tokens (hdr i).tok)

/-- The next piece of the instruction that a stream executes (R182). -/
def State.runPiece (s : State) (c st : Nat) : State :=
  let s := { s with cur := (c, st) }
  match s.str.act with
  | none => s
  | some a =>
    match a.ins with
    | .ldQ _ _ | .ldV _ _ | .ldT _ _ | .ldTr _ _ | .ldCb _ _ => s.pieceWith loadStep
    | .ldW _ _ => s.pieceWith ldwStep
    | .ldG _ _ => s.pieceWith ldgStep
    | .ldBc _ _ => s.pieceWith ldbcStep
    | .stQ _ _ | .stV _ _ | .stT _ _ => s.pieceWith storeStep
    | .stS _ _ => s.pieceWith scatterStep
    | .stQnt _ _ => s.pieceWith stqntStep
    | .stUpd _ _ => s.pieceWith stupdStep
    | .stX _ _ => s.pieceWith stxStep
    | .stMc _ _ => s.pieceWith stmcStep
    | _ => if st = 3 then s.pieceWith vecStep else s.pieceWith matStep

/-! ## Placing an instruction -/

/-- The streams that may execute an instruction, in code order. -/
def streamsFor (i : Instr) : List Nat := (List.range 5).filter fun st => streamOk (streamId st) i

/-- The words of a text that lets an instruction issue first: a ring is followed by the loop that it heads (R45). -/
def textFor (w : Word) (i : Instr) : Map 64 :=
  match i with
  | .lring _ _ => Map.set (Map.set [] 0 w) 1 (0x23 <<< 46)
  | _ => Map.set [] 0 w

/-- A curtain record with nothing in it. -/
def bareCurtain : CurtRec :=
  { yok := false, tcoff := 0, lscal := 0, lmisc := 0, ranges := [], handler := 0xFFFF, succ := [], save := [], restore := [],
    windup := [], ctxsz := 0, savecy := 0 }

/-- A member core of the placed cohort: stream `st` of core 0 is about to issue the word, and every other stream waits for a later
tc. -/
def State.placeOn (s : State) (c st : Nat) (w : Word) (i : Instr) : State :=
  let idle := (hdrOf w).idle.toNat
  s.modCore c fun x =>
    { x with
      slot := 0, rank := c
      streams := (List.range 5).map fun k =>
        if c = 0 && k = st then
          (k, { x.stream k with
                text := textFor w i, textLen := 16, pc := 0, base := 0, loops := [], lring := none, act := none, main := none
                ret := (match i with
                  | .ret _ _ => [0]
                  | _ => []), stopped := false, ended := false })
        else (k, { x.stream k with base := idle + 1, act := none, stopped := false, ended := false }) }

/-- Slot 0 as a RUNNING cohort of quad 0 whose tc is the one on which the word issues. -/
def Slot.placed (x : Slot) (w : Word) : Slot :=
  { x with
    st := 2, stop := 0, members := [0, 1, 2, 3], resume := .none, opened := true, held := none, startAt := none, fatal := none
    faultsNow := [], tc := (hdrOf w).idle.toNat, prevPt := (hdrOf w).idle.toNat, curts := [bareCurtain] }

/-- The package about to run one instruction word: a privileged word lies at the pc of supervisor core 0, which runs; any other is the
first word of a stream of a cohort in slot 0 that executes its opcode. Nothing else is under way (notes/assumptions/2.md). -/
def State.placeWord (s : State) (w : Word) : State :=
  let s := { s with inputs := [], timers := s.timers.filter fun t => s.clock < t.1
                    cores := s.cores.map fun (e : Nat × Core) => (e.1, { e.2 with sup := { e.2.sup with running := false } }) }
  match decodeWord w with
  | .error _ => s
  | .ok i =>
    if isPrivileged i then
      let pc := ((s.core 768).stream 0).pc
      { (s.modCore 768 fun x =>
          { x with sup := { x.sup with
              running := true, blocked := false, frozen := false, events := [], busy := s.clock - (hdrOf w).idle.toNat } }) with
        clock := max s.clock (hdrOf w).idle.toNat
        timers := []
        dev := Map.setRun s.dev pc (leBytes 8 w.toNat) }
    else
      match streamsFor i with
      | [] => s
      | st :: _ =>
        let s := [0, 1, 2, 3].foldl (fun s c => s.placeOn c st w i) s
        { s with slots := [(0, (s.slot 0).placed w)] }

end Sys2Proof.Machine
end

