-- ==== Sys2Proof/Machine/Dispatch.lean ====
section
/-! DEFINITION. The dispatch of one instruction or event to its meaning: one arm for each constructor. -/

namespace Sys2Proof.Machine

/-- What an instruction or event does. -/
def exec (i : Instr) (s : State) : Host.Outcome State Fault Refusal :=
  match i with
  | .add h f => Sys2Proof.Machine.execAdd h f s
  | .sub h f => Sys2Proof.Machine.execSub h f s
  | .mul h f => Sys2Proof.Machine.execMul h f s
  | .mulh h f => Sys2Proof.Machine.execMulh h f s
  | .div h f => Sys2Proof.Machine.execDiv h f s
  | .rem h f => Sys2Proof.Machine.execRem h f s
  | .and h f => Sys2Proof.Machine.execAnd h f s
  | .or h f => Sys2Proof.Machine.execOr h f s
  | .xor h f => Sys2Proof.Machine.execXor h f s
  | .andn h f => Sys2Proof.Machine.execAndn h f s
  | .shl h f => Sys2Proof.Machine.execShl h f s
  | .shr h f => Sys2Proof.Machine.execShr h f s
  | .sar h f => Sys2Proof.Machine.execSar h f s
  | .min h f => Sys2Proof.Machine.execMin h f s
  | .max h f => Sys2Proof.Machine.execMax h f s
  | .cmp h f => Sys2Proof.Machine.execCmp h f s
  | .sel h f => Sys2Proof.Machine.execSel h f s
  | .clz h f => Sys2Proof.Machine.execClz h f s
  | .popc h f => Sys2Proof.Machine.execPopc h f s
  | .addi h f => Sys2Proof.Machine.execAddi h f s
  | .li h f => Sys2Proof.Machine.execLi h f s
  | .lih h f => Sys2Proof.Machine.execLih h f s
  | .ext h f => Sys2Proof.Machine.execExt h f s
  | .ins h f => Sys2Proof.Machine.execIns h f s
  | .jmp h f => Sys2Proof.Machine.execJmp h f s
  | .call h f => Sys2Proof.Machine.execCall h f s
  | .ret h f => Sys2Proof.Machine.execRet h f s
  | .loop h f => Sys2Proof.Machine.execLoop h f s
  | .lring h f => Sys2Proof.Machine.execLring h f s
  | .sptest h f => Sys2Proof.Machine.execSptest h f s
  | .spcastS h f => Sys2Proof.Machine.execSpcastS h f s
  | .spcastG h f => Sys2Proof.Machine.execSpcastG h f s
  | .padd h f => Sys2Proof.Machine.execPadd h f s
  | .hld h f => Sys2Proof.Machine.execHld h f s
  | .hst h f => Sys2Proof.Machine.execHst h f s
  | .hset h f => Sys2Proof.Machine.execHset h f s
  | .hget h f => Sys2Proof.Machine.execHget h f s
  | .hstat h f => Sys2Proof.Machine.execHstat h f s
  | .hstatOff h f => Sys2Proof.Machine.execHstatOff h f s
  | .hcpy h f => Sys2Proof.Machine.execHcpy h f s
  | .lds h f => Sys2Proof.Machine.execLds h f s
  | .sts h f => Sys2Proof.Machine.execSts h f s
  | .fpush h f => Sys2Proof.Machine.execFpush h f s
  | .rdctr h f => Sys2Proof.Machine.execRdctr h f s
  | .csrr h f => Sys2Proof.Machine.execCsrr h f s
  | .flagsClear h f => Sys2Proof.Machine.execFlagsClear h f s
  | .selWrite h f => Sys2Proof.Machine.execSelWrite h f s
  | .csrw h f => Sys2Proof.Machine.execCsrw h f s
  | .ldQ h f => Sys2Proof.Machine.execLdQ h f s
  | .ldV h f => Sys2Proof.Machine.execLdV h f s
  | .ldT h f => Sys2Proof.Machine.execLdT h f s
  | .ldTr h f => Sys2Proof.Machine.execLdTr h f s
  | .ldG h f => Sys2Proof.Machine.execLdG h f s
  | .ldW h f => Sys2Proof.Machine.execLdW h f s
  | .ldCb h f => Sys2Proof.Machine.execLdCb h f s
  | .ldBc h f => Sys2Proof.Machine.execLdBc h f s
  | .stV h f => Sys2Proof.Machine.execStV h f s
  | .stQ h f => Sys2Proof.Machine.execStQ h f s
  | .stT h f => Sys2Proof.Machine.execStT h f s
  | .stS h f => Sys2Proof.Machine.execStS h f s
  | .stQnt h f => Sys2Proof.Machine.execStQnt h f s
  | .stUpd h f => Sys2Proof.Machine.execStUpd h f s
  | .stX h f => Sys2Proof.Machine.execStX h f s
  | .stMc h f => Sys2Proof.Machine.execStMc h f s
  | .atom h f => Sys2Proof.Machine.execAtom h f s
  | .bobjArm h f => Sys2Proof.Machine.execBobjArm h f s
  | .bobjWait h f => Sys2Proof.Machine.execBobjWait h f s
  | .vadd h f => Sys2Proof.Machine.execVadd h f s
  | .vsub h f => Sys2Proof.Machine.execVsub h f s
  | .vmul h f => Sys2Proof.Machine.execVmul h f s
  | .vfma h f => Sys2Proof.Machine.execVfma h f s
  | .vmin h f => Sys2Proof.Machine.execVmin h f s
  | .vmax h f => Sys2Proof.Machine.execVmax h f s
  | .vabs h f => Sys2Proof.Machine.execVabs h f s
  | .vneg h f => Sys2Proof.Machine.execVneg h f s
  | .vcmp h f => Sys2Proof.Machine.execVcmp h f s
  | .vsel h f => Sys2Proof.Machine.execVsel h f s
  | .vcvt h f => Sys2Proof.Machine.execVcvt h f s
  | .vqnt h f => Sys2Proof.Machine.execVqnt h f s
  | .kop h f => Sys2Proof.Machine.execKop h f s
  | .kset h f => Sys2Proof.Machine.execKset h f s
  | .kmov h f => Sys2Proof.Machine.execKmov h f s
  | .viadd h f => Sys2Proof.Machine.execViadd h f s
  | .visub h f => Sys2Proof.Machine.execVisub h f s
  | .vimul h f => Sys2Proof.Machine.execVimul h f s
  | .vand h f => Sys2Proof.Machine.execVand h f s
  | .vor h f => Sys2Proof.Machine.execVor h f s
  | .vxor h f => Sys2Proof.Machine.execVxor h f s
  | .vshl h f => Sys2Proof.Machine.execVshl h f s
  | .vshr h f => Sys2Proof.Machine.execVshr h f s
  | .vsar h f => Sys2Proof.Machine.execVsar h f s
  | .vimin h f => Sys2Proof.Machine.execVimin h f s
  | .vimax h f => Sys2Proof.Machine.execVimax h f s
  | .vrcp h f => Sys2Proof.Machine.execVrcp h f s
  | .vrsq h f => Sys2Proof.Machine.execVrsq h f s
  | .vsqrt h f => Sys2Proof.Machine.execVsqrt h f s
  | .vexp2 h f => Sys2Proof.Machine.execVexp2 h f s
  | .vlog2 h f => Sys2Proof.Machine.execVlog2 h f s
  | .vsin h f => Sys2Proof.Machine.execVsin h f s
  | .vcos h f => Sys2Proof.Machine.execVcos h f s
  | .vtanh h f => Sys2Proof.Machine.execVtanh h f s
  | .vsigm h f => Sys2Proof.Machine.execVsigm h f s
  | .vrsum h f => Sys2Proof.Machine.execVrsum h f s
  | .vrmax h f => Sys2Proof.Machine.execVrmax h f s
  | .vcsum h f => Sys2Proof.Machine.execVcsum h f s
  | .vcmax h f => Sys2Proof.Machine.execVcmax h f s
  | .vbcast h f => Sys2Proof.Machine.execVbcast h f s
  | .vmov h f => Sys2Proof.Machine.execVmov h f s
  | .vqpop h f => Sys2Proof.Machine.execVqpop h f s
  | .vqpush h f => Sys2Proof.Machine.execVqpush h f s
  | .tmovR h f => Sys2Proof.Machine.execTmovR h f s
  | .tmovC h f => Sys2Proof.Machine.execTmovC h f s
  | .vrng h f => Sys2Proof.Machine.execVrng h f s
  | .viota h f => Sys2Proof.Machine.execViota h f s
  | .vshape h f => Sys2Proof.Machine.execVshape h f s
  | .valloc h f => Sys2Proof.Machine.execValloc h f s
  | .vshrink h f => Sys2Proof.Machine.execVshrink h f s
  | .vgate h f => Sys2Proof.Machine.execVgate h f s
  | .mxLdw h f => Sys2Proof.Machine.execMxLdw h f s
  | .mxMac h f => Sys2Proof.Machine.execMxMac h f s
  | .mxZero h f => Sys2Proof.Machine.execMxZero h f s
  | .mxDrain h f => Sys2Proof.Machine.execMxDrain h f s
  | .mxSwap h f => Sys2Proof.Machine.execMxSwap h f s
  | .mxFuseOn h f => Sys2Proof.Machine.execMxFuseOn h f s
  | .mxFuseOff h f => Sys2Proof.Machine.execMxFuseOff h f s
  | .mxTestFatal h f => Sys2Proof.Machine.execMxTestFatal h f s
  | .mxTestReport h f => Sys2Proof.Machine.execMxTestReport h f s
  | .mxTestRun h f => Sys2Proof.Machine.execMxTestRun h f s
  | .mxEvt h f => Sys2Proof.Machine.execMxEvt h f s
  | .mxCb h f => Sys2Proof.Machine.execMxCb h f s
  | .mxFill h f => Sys2Proof.Machine.execMxFill h f s
  | .nop h f => Sys2Proof.Machine.execNop h f s
  | .waitCy h f => Sys2Proof.Machine.execWaitCy h f s
  | .waitTime h f => Sys2Proof.Machine.execWaitTime h f s
  | .rdvEnd h f => Sys2Proof.Machine.execRdvEnd h f s
  | .rdv h f => Sys2Proof.Machine.execRdv h f s
  | .phase h f => Sys2Proof.Machine.execPhase h f s
  | .fence h f => Sys2Proof.Machine.execFence h f s
  | .bar h f => Sys2Proof.Machine.execBar h f s
  | .curtain h f => Sys2Proof.Machine.execCurtain h f s
  | .yield h f => Sys2Proof.Machine.execYield h f s
  | .curSet h f => Sys2Proof.Machine.execCurSet h f s
  | .curGetTrap h f => Sys2Proof.Machine.execCurGetTrap h f s
  | .curGetCur h f => Sys2Proof.Machine.execCurGetCur h f s
  | .rndOpen h f => Sys2Proof.Machine.execRndOpen h f s
  | .rndPrep h f => Sys2Proof.Machine.execRndPrep h f s
  | .rndCommit h f => Sys2Proof.Machine.execRndCommit h f s
  | .rndAbort h f => Sys2Proof.Machine.execRndAbort h f s
  | .protMark h f => Sys2Proof.Machine.execProtMark h f s
  | .statSeal h f => Sys2Proof.Machine.execStatSeal h f s
  | .statRd h f => Sys2Proof.Machine.execStatRd h f s
  | .statClr h f => Sys2Proof.Machine.execStatClr h f s
  | .pwrAcq h f => Sys2Proof.Machine.execPwrAcq h f s
  | .pwrRel h f => Sys2Proof.Machine.execPwrRel h f s
  | .coll h f => Sys2Proof.Machine.execColl h f s
  | .collWait h f => Sys2Proof.Machine.execCollWait h f s
  | .trap h f => Sys2Proof.Machine.execTrap h f s
  | .launchResume h f => Sys2Proof.Machine.execLaunchResume h f s
  | .launch h f => Sys2Proof.Machine.execLaunch h f s
  | .ttStartAt h f => Sys2Proof.Machine.execTtStartAt h f s
  | .ttStart h f => Sys2Proof.Machine.execTtStart h f s
  | .tlbiAsid h f => Sys2Proof.Machine.execTlbiAsid h f s
  | .tlbiAll h f => Sys2Proof.Machine.execTlbiAll h f s
  | .tlbi h f => Sys2Proof.Machine.execTlbi h f s
  | .pcsrWrite h f => Sys2Proof.Machine.execPcsrWrite h f s
  | .pcsrRead h f => Sys2Proof.Machine.execPcsrRead h f s
  | .holdRel h f => Sys2Proof.Machine.execHoldRel h f s
  | .holdRequest h f => Sys2Proof.Machine.execHoldRequest h f s
  | .svret h f => Sys2Proof.Machine.execSvret h f s
  | .tcAdvance => Sys2Proof.Machine.execTcAdvance s
  | .holdRelease x0 => Sys2Proof.Machine.execHoldRelease x0 s
  | .holdWatchdogExpiry x0 => Sys2Proof.Machine.execHoldWatchdogExpiry x0 s
  | .curtainDistanceFault x0 => Sys2Proof.Machine.execCurtainDistanceFault x0 s
  | .fatalStop x0 => Sys2Proof.Machine.execFatalStop x0 s
  | .phasedReplyArrival x0 => Sys2Proof.Machine.execPhasedReplyArrival x0 s
  | .storePerformed x0 => Sys2Proof.Machine.execStorePerformed x0 s
  | .atomPerformed x0 => Sys2Proof.Machine.execAtomPerformed x0 s
  | .updatePacket x0 x1 x2 => Sys2Proof.Machine.execUpdatePacket x0 x1 x2 s
  | .sealedViewArrival x0 => Sys2Proof.Machine.execSealedViewArrival x0 s
  | .bobjByteCount x0 x1 x2 => Sys2Proof.Machine.execBobjByteCount x0 x1 x2 s
  | .saveComplete x0 => Sys2Proof.Machine.execSaveComplete x0 s
  | .restoreComplete x0 => Sys2Proof.Machine.execRestoreComplete x0 s
  | .yieldDeadlineExpiry x0 => Sys2Proof.Machine.execYieldDeadlineExpiry x0 s
  | .leaseExpiry x0 x1 => Sys2Proof.Machine.execLeaseExpiry x0 x1 s
  | .packageJoinMessage x0 x1 x2 x3 => Sys2Proof.Machine.execPackageJoinMessage x0 x1 x2 x3 s
  | .exchangeDeadlineReport x0 x1 => Sys2Proof.Machine.execExchangeDeadlineReport x0 x1 s
  | .collComplete x0 x1 x2 => Sys2Proof.Machine.execCollComplete x0 x1 x2 s
  | .faultLogAppend x0 x1 => Sys2Proof.Machine.execFaultLogAppend x0 x1 s
  | .translationWalk x0 x1 x2 => Sys2Proof.Machine.execTranslationWalk x0 x1 x2 s
  | .migrationLinePull x0 x1 x2 => Sys2Proof.Machine.execMigrationLinePull x0 x1 x2 s
  | .migrationLineMove x0 x1 => Sys2Proof.Machine.execMigrationLineMove x0 x1 s
  | .uncorrectableError x0 => Sys2Proof.Machine.execUncorrectableError x0 s
  | .linkLoss x0 x1 => Sys2Proof.Machine.execLinkLoss x0 x1 s
  | .capViolation x0 x1 x2 => Sys2Proof.Machine.execCapViolation x0 x1 x2 s
  | .supervisorEvent x0 => Sys2Proof.Machine.execSupervisorEvent x0 s
  | .hostRequestSubmit x0 x1 => Sys2Proof.Machine.execHostRequestSubmit x0 x1 s
  | .ttStartAtTime x0 => Sys2Proof.Machine.execTtStartAtTime x0 s
  | .rattle x0 x1 => Sys2Proof.Machine.execRattle x0 x1 s
  | .afenceRetestDone x0 x1 x2 => Sys2Proof.Machine.execAfenceRetestDone x0 x1 x2 s
  | .groupConfig x0 x1 x2 => Sys2Proof.Machine.execGroupConfig x0 x1 x2 s
  | .delta x0 x1 x2 x3 x4 => Sys2Proof.Machine.execDelta x0 x1 x2 x3 x4 s
  | .deltaAck x0 x1 => Sys2Proof.Machine.execDeltaAck x0 x1 s
  | .prep x0 x1 x2 => Sys2Proof.Machine.execPrep x0 x1 x2 s
  | .dec x0 x1 => Sys2Proof.Machine.execDec x0 x1 s
  | .decAck x0 x1 => Sys2Proof.Machine.execDecAck x0 x1 s
  | .out x0 x1 => Sys2Proof.Machine.execOut x0 x1 s
  | .abt x0 x1 => Sys2Proof.Machine.execAbt x0 x1 s
  | .qry x0 x1 x2 => Sys2Proof.Machine.execQry x0 x1 x2 s
  | .ans x0 x1 x2 => Sys2Proof.Machine.execAns x0 x1 x2 s
  | .memberLost x0 x1 => Sys2Proof.Machine.execMemberLost x0 x1 s
  | .memberLinkTimeout x0 x1 => Sys2Proof.Machine.execMemberLinkTimeout x0 x1 s
  | .rebuildComplete x0 x1 => Sys2Proof.Machine.execRebuildComplete x0 x1 s
  | .protectedReadRepair x0 x1 => Sys2Proof.Machine.execProtectedReadRepair x0 x1 s
  | .eyeMonitorMeasure x0 x1 x2 x3 => Sys2Proof.Machine.execEyeMonitorMeasure x0 x1 x2 x3 s
  | .retrainSliceStart x0 x1 => Sys2Proof.Machine.execRetrainSliceStart x0 x1 s
  | .retrainSliceEnd x0 x1 => Sys2Proof.Machine.execRetrainSliceEnd x0 x1 s
  | .thermalSensorRead x0 x1 x2 => Sys2Proof.Machine.execThermalSensorRead x0 x1 x2 s
  | .zoneChange x0 => Sys2Proof.Machine.execZoneChange x0 s
  | .powerWindow => Sys2Proof.Machine.execPowerWindow s
  | .droopDetect x0 => Sys2Proof.Machine.execDroopDetect x0 s
  | .droopClear x0 => Sys2Proof.Machine.execDroopClear x0 s
  | .inrushRequest x0 => Sys2Proof.Machine.execInrushRequest x0 s
  | .inrushComplete x0 => Sys2Proof.Machine.execInrushComplete x0 s
  | .frequencyChangeDone x0 x1 => Sys2Proof.Machine.execFrequencyChangeDone x0 x1 s
  | .reset => Sys2Proof.Machine.execReset s
  | .selfHeatTimeout => Sys2Proof.Machine.execSelfHeatTimeout s
  | .bootokTimeout => Sys2Proof.Machine.execBootokTimeout s
  | .image => Sys2Proof.Machine.execImage s
  | .restart => Sys2Proof.Machine.execRestart s
  | .attest => Sys2Proof.Machine.execAttest s
  | .status => Sys2Proof.Machine.execStatus s
  | .unfreeze => Sys2Proof.Machine.execUnfreeze s
  | .config => Sys2Proof.Machine.execConfig s
  | .mailboxUnsupported => Sys2Proof.Machine.execMailboxUnsupported s
  | .privRegisterWrite x0 x1 x2 x3 => Sys2Proof.Machine.execPrivRegisterWrite x0 x1 x2 x3 s
  | .curDistWrite x0 x1 => Sys2Proof.Machine.execCurDistWrite x0 x1 s
  | .polite x0 x1 => Sys2Proof.Machine.execPolite x0 x1 s
  | .kill x0 => Sys2Proof.Machine.execKill x0 s
  | .ceilWrite x0 x1 x2 => Sys2Proof.Machine.execCeilWrite x0 x1 x2 s
  | .xlrespRetry x0 x1 => Sys2Proof.Machine.execXlrespRetry x0 x1 s
  | .xlrespFail x0 x1 => Sys2Proof.Machine.execXlrespFail x0 x1 s
  | .migctlStart x0 x1 x2 => Sys2Proof.Machine.execMigctlStart x0 x1 x2 s
  | .eyecmdRetrain x0 => Sys2Proof.Machine.execEyecmdRetrain x0 s
  | .eyecmdRepair x0 => Sys2Proof.Machine.execEyecmdRepair x0 s
  | .eyecmdClear x0 => Sys2Proof.Machine.execEyecmdClear x0 s
  | .thrmWrite x0 x1 => Sys2Proof.Machine.execThrmWrite x0 x1 s
  | .afenceClear x0 x1 x2 => Sys2Proof.Machine.execAfenceClear x0 x1 x2 s
  | .gcfgEnable x0 x1 x2 => Sys2Proof.Machine.execGcfgEnable x0 x1 x2 s
  | .gcfgDisable x0 x1 x2 => Sys2Proof.Machine.execGcfgDisable x0 x1 x2 s
  | .tlbiComplete x0 x1 x2 => Sys2Proof.Machine.execTlbiComplete x0 x1 x2 s
  | .bootok => Sys2Proof.Machine.execBootok s
  | .launchComplete x0 => Sys2Proof.Machine.execLaunchComplete x0 s
  | .leaseGrant x0 => Sys2Proof.Machine.execLeaseGrant x0 s
  | .adaptiveClockHoldTick x0 => Sys2Proof.Machine.execAdaptiveClockHoldTick x0 s
  | .partitionReset x0 => Sys2Proof.Machine.execPartitionReset x0 s
  | .slotRelease x0 => Sys2Proof.Machine.execSlotRelease x0 s
  | .cxlMemHostWrite x0 x1 => Sys2Proof.Machine.execCxlMemHostWrite x0 x1 s

end Sys2Proof.Machine
end

