-- ==== Sys2Proof/Machine/Step.lean ====
section
/-! DEFINITION. One step of the package: the first act of its agenda is performed. A step is less than a clock: `TC_ADVANCE` is the step
that moves the clock on. -/

namespace Sys2Proof.Machine

/-- What a step does once its act is known. -/
def State.perform (j : Job) (s : State) : Host.Outcome State Fault Refusal :=
  match j with
  | .event i => exec i s
  | .sup c =>
    match (s.supEnter c).supInstr with
    | some i =>
      match exec i (s.supEnter c) with
      | .next t => .next (t.supDone c)
      | .fault r => .fault r
      | .refused r => .refused r
    | none => .next ((s.supEnter c).misuse.supDone c)
  | .piece c st => .next (s.runPiece c st)
  | .word c st =>
    match s.fetch c st with
    | (some i, t) => exec i t
    | (none, t) => .next t

/-- One step. -/
def step (s : State) : Host.Outcome State Fault Refusal := State.perform s.agenda.1 s.agenda.2

/-- The state with an instruction word placed where the next step fetches it (notes/assumptions/2.md). Words are 64 bits. -/
def State.withFetchWord (s : State) (_nbits w : Nat) : State := s.placeWord (BitVec.ofNat 64 w)

end Sys2Proof.Machine
end

