-- ==== Sys2Proof/Safety.lean ====
section
/-! DEFINITION. The predicates that the statements use: what only the clock and the in-rush arbiter change, when the arbiter is in
order, and what it means that a word has had its effect. -/

namespace Sys2Proof.Machine

/-- The caps and partitions that the platform configuration gives (R388, R389). -/
def State.caps (s : State) : Tbl Word × Word × Word × Map 64 :=
  (s.plat.partcfg, s.plat.capegr, s.plat.caplim, s.plat.capwin)

/-- The parts of the state that `TC_ADVANCE`, the in-rush arbiter and a reset alone change: clock, timebase with its fraction, units
in use, FIFO, the grants under way, and the caps. -/
def State.still (s : State) : Nat × Nat × Nat × Nat × List Inrush × List Inrush × Tbl Word × Word × Word × Map 64 :=
  (s.clock, s.ns, s.frac, s.plat.units, s.plat.fifo, s.plat.waking, s.caps)

/-- The register files and memories of a core are in canonical form. -/
def Core.filesOk (x : Core) : Prop :=
  Map.wf x.s = true ∧ Map.wf x.h = true ∧ Map.wf x.k = true ∧ Memory.wf x.v = true ∧ Memory.wf x.t = true ∧ Memory.wf x.wb = true ∧
    Memory.wf x.cb = true ∧ Memory.wf x.sp = true ∧ Memory.wf x.priv = true ∧ Map.wf x.arr.acc = true ∧ Map.wf x.arr.wset = true ∧
    Map.wf x.arr.taint = true

/-- Home memory, quad-shared SRAM and every core's files are in canonical form: keys rise and no listed cell is what an unlisted one
reads as. -/
def State.filesOk (s : State) : Prop :=
  Memory.wf s.dev = true ∧ Memory.wf s.qs = true ∧ ∀ c, (s.core c).filesOk

/-- What a piece `j` of a vector word reads from its sources in field order, and the state after it: bytes 256j on of a register, and the popped
head of a queue where one stands ready (R214, R94). -/
def State.operands (s : State) (j : Nat) : List Nat → Option (List Entry × State)
  | [] => some ([], s)
  | n :: ns =>
    if n < 32 then (s.operands j ns).map fun p => (entryOf (s.getFile s.cur.1 .v (4096 * n + 256 * j) 256) :: p.1, p.2)
    else
      match s.me.queue (n - 32) with
      | [] => none
      | e :: es =>
        if s.tc < e.ready then none
        else ((s.modMe fun x => x.setQueue (n - 32) es).operands j ns).map fun p => (e.data :: p.1, p.2)

/-- The units that some grants hold (R398). -/
def heldUnits (rs : List Inrush) : Nat := (rs.map inrushCost).sum

/-- The in-rush arbiter is in order (R398): its units are those of the grants under way and at most 16, its FIFO has at most 64
entries, and a head is waiting only where it does not fit. -/
def State.arbiterOk (s : State) : Prop :=
  s.plat.units = heldUnits s.plat.waking ∧ s.plat.units ≤ 16 ∧ s.plat.fifo.length ≤ 64 ∧
    ∀ r rs, s.plat.fifo = r :: rs → 16 < s.plat.units + inrushCost r

end Sys2Proof.Machine
end

