-- ==== Sys2Proof/Certificates/Slice0/Obligations.lean ====
section
/-! DEFINITION. The statements for the provers, from the numbered rules of spec/. A statement that rests on a choice of the model says so and
names its log entry. -/

open Sys2Proof Sys2Proof.Machine

/-! ## Encoding -/

/-- Words written out from the encoding tables decode to what they stand for: `ADD s1, s2, s3` with its push bit, `LI s1, -1` with IDLE 5,
`JMP` back by one word, `LOOP` over two words three times, `LDS` of a half, `MX.ZERO`, `NOP`, `LAUNCH` (R137, R140, R142). -/
def Obligations.DecodedWords : Prop :=
  decodeWord (0b1000#4 ++ 0#6 ++ 0x01#8 ++ 0#2 ++ 1#7 ++ 2#7 ++ 3#7 ++ 0#7 ++ 0#3 ++ 0#5 ++ 0#8) =
      .ok (.add ⟨8, 0⟩ ⟨0, 1, 2, 3, 0, 0, 0, 0⟩) ∧
    decodeWord (0#4 ++ 5#6 ++ 0x15#8 ++ 0#2 ++ 1#7 ++ 0#5 ++ 0xFFFFFFFF#32) = .ok (.li ⟨0, 5⟩ ⟨0, 1, 0, 0xFFFFFFFF⟩) ∧
    decodeWord (0#4 ++ 0#6 ++ 0x20#8 ++ 0#14 ++ 0xFFFFFFFF#32) = .ok (.jmp ⟨0, 0⟩ ⟨0, 0xFFFFFFFF⟩) ∧
    decodeWord (0#4 ++ 0#6 ++ 0x23#8 ++ 0#2 ++ 0#2 ++ 1#8 ++ 0#2 ++ 3#32) = .ok (.loop ⟨0, 0⟩ ⟨0, 0, 1, 0, 3⟩) ∧
    decodeWord (0#4 ++ 0#6 ++ 0x38#8 ++ 0#2 ++ 4#7 ++ 0#4 ++ 5#7 ++ 2#2 ++ 0#2 ++ 0#1 ++ 0#3 ++ 1#5 ++ 6#13) =
      .ok (.lds ⟨0, 0⟩ ⟨0, 4, 0, 5, 2, 0, 0, 0, 1, 6⟩) ∧
    decodeWord (0#4 ++ 0#6 ++ 0xC2#8 ++ 0#2 ++ 1#1 ++ 7#7 ++ 3#7 ++ 1#2 ++ 0#2 ++ 0#4 ++ 0#8 ++ 0#13) =
      .ok (.mxZero ⟨0, 0⟩ ⟨0, 1, 7, 3, 1, 0, 0, 0, 0⟩) ∧
    decodeWord (0#4 ++ 0#6 ++ 0xE0#8 ++ 0#46) = .ok (.nop ⟨0, 0⟩ ⟨0, 0, 0, 0, 0⟩) ∧
    decodeWord (0#4 ++ 0#6 ++ 0xF8#8 ++ 0#2 ++ 0#3 ++ 9#7 ++ 0#2 ++ 17#32) = .ok (.launch ⟨0, 0⟩ ⟨0, 0, 9, 0, 17⟩) ∧
    decode (List.replicate 8 0) = .error (.unassigned 0)

/-- Decoding the word of a well-formed instruction gives it back, whatever its fields hold (R137, R140, R142). -/
def Obligations.DecodeEncode : Prop :=
  ∀ (i : Instr) (w : Word), i.wf = true → encode i = some w → decodeWord w = .ok i

/-- A word that decodes to an instruction is that instruction's word, bit for bit, and the instruction is well-formed: no two
readings, no bit ignored (R137, R140, R142). -/
def Obligations.EncodeDecode : Prop :=
  ∀ (w : Word) (i : Instr), decodeWord w = .ok i → i.wf = true ∧ encode i = some w

/-- No word with one of the opcodes of R143's list names an instruction, and every word with another opcode does. -/
def Obligations.UnassignedOpcodes : Prop :=
  ∀ w : Word, (decodeWord w = .error (.unassigned (opOf w))) ↔
    (let n := (opOf w).toNat
     n = 0 ∨ (0x19 ≤ n ∧ n ≤ 0x1F) ∨ (0x25 ≤ n ∧ n ≤ 0x27) ∨ (0x2B ≤ n ∧ n ≤ 0x2F) ∨ n = 0x36 ∨ n = 0x37 ∨ n = 0x3B ∨ n = 0x3F ∨
       (0x48 ≤ n ∧ n ≤ 0x5F) ∨ (0x6B ≤ n ∧ n ≤ 0x7F) ∨ n = 0x8C ∨ (0x9B ≤ n ∧ n ≤ 0x9F) ∨ (0xA9 ≤ n ∧ n ≤ 0xAF) ∨ n = 0xBF ∨
       (0xCA ≤ n ∧ n ≤ 0xDF) ∨ n = 0xFE ∨ n = 0xFF)

/-! ## Steps -/

/-- A step whose act is the next word of a cohort's stream: where the word passes the checks of R144, the step is the meaning of what
it decodes to, in the state in which the stream has recorded the word and moved past it and the word's token bits act. A word that fails a
check ends in the fatal fault of the first check that it fails, and none of its effects takes place: illegal instruction 0x10 for a word that no
instruction encodes and 0x11 for a privileged one, wrong stream 0x12, illegal instruction 0x13 to 0x15 for its fields (R139, R140, R144), 0x16
for the structural rules of loops, jumps and rings (R41, R44, R45), and 0x17 to 0x19 for the return stack (R166). The fields of `ADD`, `LDS`,
`VADD` and `MX.ZERO` stand for those of the word formats: unused bits that are set, then register numbers, then reserved values. -/
def Obligations.StepRunsWord : Prop :=
  (∀ (s t : State) (c st : Nat), s.agenda = (.word c st, t) →
    let u : State := { t with cur := (c, st) }
    let x := t.core c |>.stream st
    let fails := fun (k : FaultKind) (d : Nat) => step s = .next ((u.enter c st).fault k d)
    (∀ i, u.wordCheck (streamId st) u.str (u.str.issueOf (st == 3) u.tc) = .ok i →
      step s = exec i ((u.enter c st).tokens (hdr i).tok) ∧
        decodeWord x.next = .ok i ∧ isPrivileged i = false ∧ streamOk (streamId st) i = true ∧
        fieldDetail (streamId st) i = 0) ∧
    (∀ e, decodeWord x.next = .error e → fails .illegal 0x10) ∧
    (∀ i, decodeWord x.next = .ok i →
      (isPrivileged i = true → fails .illegal 0x11) ∧
      (isPrivileged i = false → streamOk (streamId st) i = false → fails .wrongStream 0x12) ∧
      (isPrivileged i = false → streamOk (streamId st) i = true →
        let d := (fieldDetail (streamId st) i).toNat
        (d ≠ 0 → (d = 0x13 ∨ d = 0x14 ∨ d = 0x15) ∧ fails .illegal d) ∧
        (d = 0 →
          (∀ h f, i = .loop h f → (3 ≤ x.loops.length ∨ ∃ l ls, x.loops = l :: ls ∧ l.last < x.pc + 8 * (f.blen.toNat + 1)) →
            fails .illegal 0x16) ∧
          (∀ h f, i = .jmp h f ∨ i = .call h f → x.loops ≠ [] → fails .illegal 0x16) ∧
          (∀ h f, i = .ret h f → x.loops ≠ [] → fails .illegal 0x16) ∧
          (∀ h f, i = .lring h f → (opOf (x.wordAt (x.pc + 8))).toNat ≠ 0x23 ∨ (∃ l ∈ x.loops, l.ringed = true) → fails .illegal 0x16) ∧
          (∀ h f, i = .call h f → x.loops = [] → 8 ≤ x.ret.length → fails .illegal 0x17) ∧
          (∀ h f, i = .ret h f → x.loops = [] → x.ret = [] → fails .illegal 0x18) ∧
          (∀ h f, i = .rdvEnd h f → u.my.resume ≠ .stubs → x.ret ≠ [] → fails .illegal 0x19) ∧
          (∀ h f, i = .curtain h f → u.my.resume ≠ .stubs → f.imm.toNat < u.my.curts.length → x.ret ≠ [] → fails .illegal 0x19)) ∧
        (d = 0 → ∀ h f, i = .add h f → f.rd.getLsbD 6 = true ∨ f.ra.getLsbD 6 = true ∨ f.rb.getLsbD 6 = true →
          (∀ l ∈ x.loops, l.ringed = false) → fails .illegal 0x16)))) ∧
  (∀ (h : Hdr) (f : Rrr),
    let bad := fun r : BitVec 7 => decide (r.toNat = 64)
    fieldDetail .C (.add h f) = (if f.kp ≠ 0 ∨ f.rc ≠ 0 ∨ f.fn ≠ 0 then 0x13 else if bad f.rd ∨ bad f.ra ∨ bad f.rb then 0x14
      else if f.md ≠ 0 then 0x15 else 0) ∧
    let off := fun r : BitVec 7 => decide (40 ≤ r.toNat % 64 ∨ 32 ≤ r.toNat % 64 ∧ 64 ≤ r.toNat)
    fieldDetail .V (.vadd h f) = (if f.stg ≠ 0 ∨ f.rc ≠ 0 ∨ f.fn ≠ 0 ∨ 32 ≤ f.md.toNat then 0x13
      else if off f.rd ∨ off f.ra ∨ off f.rb then 0x14 else if 16 ≤ f.md.toNat then 0x15 else 0)) ∧
  (∀ (h : Hdr) (f : Mem), fieldDetail .C (.lds h f) =
    (if f.hnd ≠ 0 ∨ f.iw ≠ 0 ∨ f.isg ≠ 0 ∨ f.isc ≠ 0 ∨ 8 ≤ f.fn.toNat then 0x13 else if f.rd.toNat = 64 ∨ f.rx.toNat = 64 then 0x14
      else if f.fn.toNat = 7 then 0x15 else 0)) ∧
  ∀ (h : Hdr) (f : Mx), fieldDetail .M (.mxZero h f) =
    (if f.qsrc ≠ 0 ∨ f.wline ≠ 0 ∨ f.fn ≠ 0 then 0x13
      else if 96 ≤ f.row.toNat + f.nrow.toNat ∨ 3 ≤ f.pan.toNat + f.npan.toNat then 0x15 else 0)

/-- A step whose act is the next word of a supervisor core runs the word's instruction and lets the core be busy for its occupancy; a word
that the core does not accept is a misuse event (R329, R341). One whose act is an event performs the event's meaning, and one whose act is a
piece goes on with the instruction that its stream executes (R3, R182). -/
def Obligations.StepRunsOthers : Prop :=
  ∀ s t : State,
    (∀ c, s.agenda = (.sup c, t) →
      (∀ i u, (t.supEnter c).supInstr = some i → exec i (t.supEnter c) = .next u → step s = .next (u.supDone c)) ∧
      ((t.supEnter c).supInstr = none → step s = .next ((t.supEnter c).misuse.supDone c)) ∧
      (∀ i, (t.supEnter c).supInstr = some i → decodeWord (t.supEnter c).str.now.word = .ok i ∧ supervisorOk i = true)) ∧
    (∀ i, s.agenda = (.event i, t) → step s = exec i t) ∧
    (∀ c st, s.agenda = (.piece c st, t) → step s = .next (t.runPiece c st))

/-! ## Reset and launch -/

/-- The package right after reset, as far as the spec gives it: no memory is listed, every slot is FREE with its reset registers, every
supervisor core is idle with its registers zero, `ADMIT`, `EYETHR`, `EYEDAT` and `THRM` hold their reset values, the arbiter is empty, and
no vector, tile or predicate register but `k0` to `k3` holds anything. That memory reads zero, and what cores hold before a launch, is the
model's choice (log entries 3, 4 and 5). -/
def Obligations.ResetValues : Prop :=
  let s := State.reset
  s.dev = [] ∧ s.qs = [] ∧ s.outs = [] ∧ s.tlb1 = [] ∧ s.tlb2 = [] ∧ s.inputs = [] ∧ s.timers = [] ∧
    (∀ n, (s.slot n).cstate = 0 ∧ (s.slot n).curDist = 0x400000 ∧ (s.slot n).holdwd = 0x684EE180 ∧ (s.slot n).ydead = 0x1AB3F0 ∧
      s.sched (s.slot n) = 0 ∧ (s.slot n).preemptWord = 0 ∧ s.pwrWord n = 0 ∧ (s.slot n).energy = 0 ∧ (s.slot n).members = []) ∧
    (∀ c r, 0x100 ≤ r → r ≤ 0x13F → (s.coreReg c r = some 0 ∨ s.coreReg c r = none)) ∧
    (∀ v, v < 16 → s.coreReg (768 + v) 0x200 = some 0x0000006401020408) ∧ s.plat.groups = [] ∧ s.plat.units = 0 ∧ s.plat.fifo = [] ∧ s.plat.waking = [] ∧
    (∀ d l, (s.eye d l).vmin = 0xFF ∧ (s.eye d l).hmin = 0xFF ∧ (s.eye d l).vm = 0 ∧ (s.eye d l).hm = 0 ∧ (s.eye d l).lst = 0) ∧
    (∀ d, (s.thermal d).tcl = 6 ∧ (s.thermal d).thc = 115 ∧ (s.thermal d).tht = 105 ∧ (s.thermal d).thw = 95 ∧ (s.thermal d).zone = 0) ∧
    (∀ c, (s.core c).v = [] ∧ (s.core c).t = [] ∧ (s.core c).s = [] ∧ (s.core c).h = [] ∧
      (∀ k, k ≤ 3 → Map.get (s.core c).k k = BitVec.allOnes 4096) ∧ (∀ k, 3 < k → Map.get (s.core c).k k = 0))

/-- A member core at tc 0, as a launch makes it (R21): registers, tiles, banks, queues, tokens and flags are zero or empty, `k0` to `k3` are all
ones, `VSHAPE` is 64 rows by 16 columns of 32 bits, every vector register is allotted and every bank is on; each stream starts with
text, launch constants and nothing else. -/
def Obligations.LaunchedCore : Prop :=
  ∀ (s : State) (g : Nat → Nat → Nat) (lk n rank : Nat),
    let x := s.freshCore g lk n rank
    (∀ r, x.sGet r = 0) ∧ x.h = [] ∧ x.sel = 0 ∧ x.v = [] ∧ x.t = [] ∧ x.allot = 32 ∧ x.banks = [.on, .on, .on, .on] ∧
      x.shape = (64, 16, 4) ∧ (∀ k, k ≤ 3 → Map.get x.k k = BitVec.allOnes 4096) ∧ (∀ k, 3 < k → Map.get x.k k = 0) ∧
      x.arr.acc = [] ∧ x.arr.evt = [0, 0] ∧ (∀ q, x.queue q = []) ∧ x.fq = [] ∧ x.tok = [0, 0, 0, 0, 0] ∧ x.sp = [] ∧ x.priv = [] ∧
      x.slot = n ∧ x.rank = rank ∧
      ∀ st, st < 5 → (x.stream st).flags = 0 ∧ (x.stream st).segp = 0 ∧ (x.stream st).cu = [0, 0, 0, 0] ∧ (x.stream st).pc = 0 ∧
        (x.stream st).base = 0 ∧ (x.stream st).loops = [] ∧ (x.stream st).ret = [] ∧ (x.stream st).lk = s.lkOf lk st ∧
        (x.stream st).act = none

/-! ## Registers and timed writes -/

/-- A scalar write under a mask (R139, R158): `s0` keeps reading zero, the named register takes the masked bits and keeps the others, every
other register and every other core is unchanged. -/
def Obligations.ScalarWrite : Prop :=
  ∀ (s : State) (tc c n : Nat) (m v : Word), Map.wf (s.core c).s = true →
    let t := s.apply tc c (.s n m v)
    (t.core c).sGet 0 = 0 ∧
      (n ≠ 0 → ∀ i, i < 64 → ((t.core c).sGet n).getLsbD i = if m.getLsbD i then v.getLsbD i else ((s.core c).sGet n).getLsbD i) ∧
      (∀ r, r ≠ n → (t.core c).sGet r = (s.core c).sGet r) ∧ ∀ d, d ≠ c → t.core d = s.core d

/-- The frame of a write that lands, whichever it is (R98, R124, R158): a register, flag, predicate, accumulator element or byte changes only
where the write names it, on the core that it reaches, and home memory never changes. -/
def Obligations.LandingFrame : Prop :=
  ∀ (s : State) (tc c : Nat) (e : Eff),
    let t := s.apply tc c e
    t.dev = s.dev ∧ t.clock = s.clock ∧
      (∀ d r, (d ≠ c ∨ ∀ m v, e ≠ .s r m v) → (t.core d).sGet r = (s.core d).sGet r) ∧
      (∀ d r, (d ≠ c ∨ ∀ m v, e ≠ .h r m v) → Map.get (t.core d).h r = Map.get (s.core d).h r) ∧
      (∀ d r, (d ≠ c ∨ ∀ m v, e ≠ .k r m v) → Map.get (t.core d).k r = Map.get (s.core d).k r) ∧
      (∀ d, (d ≠ c ∨ ∀ n v, e ≠ .csr n v) →
        (t.core d).sel = (s.core d).sel ∧ (t.core d).upda = (s.core d).upda ∧ (t.core d).updb = (s.core d).updb) ∧
      (∀ d st, (d ≠ c ∨ ∀ f, e ≠ .flags st f ∧ e ≠ .flagsClear st f) → ((t.core d).stream st).flags = ((s.core d).stream st).flags) ∧
      (∀ d, (d ≠ c ∨ ∀ n v, e ≠ .vshape v ∧ e ≠ .allot n) →
        (t.core d).vshape = (s.core d).vshape ∧ (t.core d).allot = (s.core d).allot) ∧
      (∀ d key, (d ≠ c ∨ (∀ b r k o i dp xs, e ≠ .mac b r k o i dp xs) ∧ (∀ b r p a xs, e ≠ .acc b r p a xs) ∧
          ∀ b r n p q, e ≠ .accZero b r n p q) →
        Map.get (t.core d).arr.acc key = Map.get (s.core d).arr.acc key) ∧
      (∀ d f key, Map.wf (s.file d f) = true → (f = .v → d ≠ c ∨ (∀ n, e ≠ .allot n) ∧ ∀ b o r, e ≠ .bank b o r) → (∀ k bs, e = .bytes f k bs → fileBase d f + key < fileBase c f + k ∨ fileBase c f + k + bs.length ≤ fileBase d f + key ∨
          (f ≠ .qs ∧ d ≠ c)) →
        Map.get (t.file d f) (fileBase d f + key) = Map.get (s.file d f) (fileBase d f + key))

/-- Every landing keeps every register file and memory of every core in canonical form, and reset has them so: what `Memory.wf` says of a
byte memory, and `Map.wf` of the other files. -/
def Obligations.FilesKept : Prop :=
  State.reset.filesOk ∧ ∀ (s : State) (tc c : Nat) (e : Eff), s.filesOk → (s.apply tc c e).filesOk

/-- A result is read from its result tc on and not before (R157, R158): a scalar operation of latency `lat` of a cohort's stream, with
no other write in flight, leaves every register as it is until tc + lat, and then changes its destination alone. -/
def Obligations.ResultsLand : Prop :=
  ∀ (s : State) (f : Rrr) (lat k : Nat) (op : Word → Word → Word), isSup s.cur.1 = false → s.guard = true → s.my.lands = [] → s.my.landed = [] → Map.wf s.me.s = true →
    let n := s.me.slot
    let t := s.alu f lat op
    let u := (t.modSlot n fun x => { x with tc := x.tc + k }).landDue n
    (k < lat → ∀ r, (u.core s.cur.1).sGet r = s.me.sGet r) ∧
      (lat ≤ k → s.reg .S f.rd ≠ 0 → (u.core s.cur.1).sGet (s.reg .S f.rd) = op (s.rs f.ra) (s.rs f.rb)) ∧
      (∀ r, r ≠ s.reg .S f.rd → (u.core s.cur.1).sGet r = s.me.sGet r) ∧
      ∀ d, d ≠ s.cur.1 → u.core d = s.core d

/-! ## Scalar instructions -/

/-- Results of the RRR instructions of the C stream but for division (R160, R161): what is written to RD and the tc on which it is
visible. Nothing else of the state changes. -/
def Obligations.ScalarArithmetic : Prop :=
  ∀ (h : Hdr) (f : Rrr) (s : State), s.guard = true →
    let a := s.rs f.ra
    let b := s.rs f.rb
    let put := fun (lat : Nat) (v : Word) => Host.Outcome.next (s.landS f.rd (s.tc + lat) v)
    exec (.add h f) s = put 1 (a + b) ∧ exec (.sub h f) s = put 1 (a - b) ∧
      exec (.mul h f) s = put 3 (BitVec.ofNat 64 (a.toNat * b.toNat)) ∧
      (f.md = 0 → exec (.mulh h f) s = put 3 (BitVec.ofInt 64 ((a.toNat : Int) * b.toNat / 2 ^ 64))) ∧
      (f.md = 1 → exec (.mulh h f) s = put 3 (BitVec.ofInt 64 (a.toInt * b.toInt / 2 ^ 64))) ∧
      (f.md = 2 → exec (.mulh h f) s = put 3 (BitVec.ofInt 64 (a.toInt * b.toNat / 2 ^ 64))) ∧
      exec (.and h f) s = put 1 (a &&& b) ∧ exec (.or h f) s = put 1 (a ||| b) ∧ exec (.xor h f) s = put 1 (a ^^^ b) ∧
      exec (.andn h f) s = put 1 (a &&& ~~~b) ∧
      (let n := (b.extractLsb' 0 6).toNat
       exec (.shl h f) s = put 1 (a <<< n) ∧ exec (.shr h f) s = put 1 (a >>> n) ∧ exec (.sar h f) s = put 1 (a.sshiftRight n)) ∧
      (f.md = 0 → exec (.min h f) s = put 1 (if a.toNat < b.toNat then a else b) ∧
        exec (.max h f) s = put 1 (if a.toNat < b.toNat then b else a)) ∧
      (f.md = 1 → exec (.min h f) s = put 1 (if a.toInt < b.toInt then a else b) ∧
        exec (.max h f) s = put 1 (if a.toInt < b.toInt then b else a)) ∧
      (f.md = 0 → exec (.cmp h f) s = put 1 (if a = b then 1 else 0)) ∧
      (f.md = 1 → exec (.cmp h f) s = put 1 (if a = b then 0 else 1)) ∧
      (f.md = 2 → exec (.cmp h f) s = put 1 (if a.toInt < b.toInt then 1 else 0)) ∧
      (f.md = 3 → exec (.cmp h f) s = put 1 (if a.toInt < b.toInt then 0 else 1)) ∧
      (f.md = 4 → exec (.cmp h f) s = put 1 (if a.toNat < b.toNat then 1 else 0)) ∧
      (f.md = 5 → exec (.cmp h f) s = put 1 (if a.toNat < b.toNat then 0 else 1)) ∧
      exec (.sel h f) s = put 1 (if s.rs f.rc = 0 then b else a) ∧
      (∃ n, n ≤ 64 ∧ exec (.clz h f) s = put 1 (BitVec.ofNat 64 n) ∧ (∀ i, 64 - n ≤ i → a.getLsbD i = false) ∧
        (n < 64 → a.getLsbD (63 - n) = true)) ∧
      exec (.popc h f) s = put 1 (BitVec.ofNat 64 ((List.range 64).filter fun i => a.getLsbD i).length)

/-- Division (R162): no operand makes it fault, and quotient and remainder are those of R162's table, at tc + 20. -/
def Obligations.Division : Prop :=
  ∀ (h : Hdr) (f : Rrr) (s : State),
    let a := s.rs f.ra
    let b := s.rs f.rb
    (∃ t, exec (.div h f) s = .next t ∧ (s.guard = false → t = s)) ∧ (∃ t, exec (.rem h f) s = .next t ∧ (s.guard = false → t = s)) ∧
      (s.guard = true → ∃ q r,
        exec (.div h f) s = .next (s.landS f.rd (s.tc + 20) q) ∧ exec (.rem h f) s = .next (s.landS f.rd (s.tc + 20) r) ∧
          (b = 0 → q = 0xFFFFFFFFFFFFFFFF ∧ r = a) ∧
          (f.md = 1 → a.toInt = -2 ^ 63 → b.toInt = -1 → q.toInt = -2 ^ 63 ∧ r = 0) ∧
          (f.md = 1 → b ≠ 0 → ¬(a.toInt = -2 ^ 63 ∧ b.toInt = -1) →
            q.toInt = a.toInt.tdiv b.toInt ∧ r.toInt = a.toInt - b.toInt * q.toInt ∧ (r = 0 ∨ (r.toInt < 0 ↔ a.toInt < 0))) ∧
          (f.md = 0 → b ≠ 0 → q.toNat = a.toNat / b.toNat ∧ r.toNat = a.toNat - b.toNat * q.toNat))

/-- Immediates and bit fields (R163, R164): what is written to RD and under which bits, at tc + 1. -/
def Obligations.ImmediatesAndFields : Prop :=
  ∀ (h : Hdr) (s : State), s.guard = true →
    (∀ f : Rri, exec (.addi h f) s = .next (s.landS f.rd (s.tc + 1) (s.rs f.ra + BitVec.ofInt 64 f.imm.toInt))) ∧
    (∀ f : Rriw, exec (.li h f) s = .next (s.landS f.rd (s.tc + 1) (BitVec.ofInt 64 f.imm.toInt))) ∧
    (∀ f : Rriw, ∃ m v, exec (.lih h f) s = .next (s.land (s.tc + 1) (.s (s.reg .S f.rd) m v)) ∧
      ∀ i, i < 64 → (m.getLsbD i = decide (32 ≤ i)) ∧ (32 ≤ i → v.getLsbD i = f.imm.getLsbD (i - 32))) ∧
    (∀ f : Rri,
      let pos := (f.imm.extractLsb' 0 6).toNat
      let len := (f.imm.extractLsb' 6 6).toNat + 1
      let a := s.rs f.ra
      (∃ v, exec (.ext h f) s = .next (s.landS f.rd (s.tc + 1) v) ∧ ∀ i, i < 64 →
        v.getLsbD i = if i < len then a.getLsbD (pos + i) else f.imm.getLsbD 12 && a.getLsbD (pos + len - 1)) ∧
      (∃ m v, exec (.ins h f) s = .next (s.land (s.tc + 1) (.s (s.reg .S f.rd) m v)) ∧ ∀ i, i < 64 →
        (m.getLsbD i = decide (pos ≤ i ∧ i < pos + len)) ∧ (pos ≤ i → i < pos + len → v.getLsbD i = a.getLsbD (i - pos))))

/-- Jumps, calls and loops (R165 to R168, R41, R42): where the stream goes on, what the return stack holds, and the level that a `LOOP` opens;
nothing but the executing stream's own position changes. -/
def Obligations.JumpsAndLoops : Prop :=
  ∀ (h : Hdr) (s : State),
    let x := s.str
    (∀ f : Jmp, 0 ≤ (x.now.pc : Int) + 8 * f.off.toInt → ∃ p : Nat, (p : Int) = x.now.pc + 8 * f.off.toInt ∧
      exec (.jmp h f) s = .next (s.modStr fun y => { y with pc := p }) ∧
      exec (.call h f) s = .next (s.modStr fun y => { y with pc := p, ret := (x.now.pc + 8) :: x.ret })) ∧
    (∀ (f : Ret) (o : Nat) (r : List Nat), x.ret = o :: r →
      exec (.ret h f) s = .next (s.modStr fun y => { y with pc := o, ret := r })) ∧
    (∀ (f : Loop) (n d : Nat), d = ((x.lring.map (·.1)).getD 0) →
      (f.csrc = 0 → n = f.count.toNat) → (f.csrc = 1 → n = (Map.get x.lk (f.count.toNat % 16)).toNat) →
      (f.csrc ≠ 0 → f.csrc ≠ 1 → n = if f.count.getLsbD 0 then x.segp.toNat / 65536 else x.segp.toNat % 65536) →
      let total := n + max d 1 - 1
      let last := x.now.pc + 8 * (f.blen.toNat + 1)
      ∃ t, exec (.loop h f) s = .next t ∧ t.str.lring = none ∧
        (0 < total → t.str.pc = x.now.pc + 8 ∧
          ∃ l, t.str.loops = l :: x.loops ∧ l.first = x.now.pc + 8 ∧ l.last = last ∧ l.n = n ∧ l.d = d ∧ l.total = total ∧ l.idx = 0 ∧
            l.ringed = x.lring.isSome ∧ l.ranges = (x.lring.map (·.2)).getD []) ∧
        (total = 0 → t.str.pc = (advanceLoops last x.loops).1 ∧ t.str.loops = (advanceLoops last x.loops).2) ∧
        t = s.modStr fun y => { y with pc := t.str.pc, loops := t.str.loops, lring := none }) ∧
    (∀ f : Lring, exec (.lring h f) s = .next (s.modStr fun y =>
      { y with lring := some (f.d.toNat, ([f.rng0, f.rng1, f.rng2, f.rng3].filter fun r => r.extractLsb' 0 5 != 0).map fun r =>
          ((r.extractLsb' 5 6).toNat, (r.extractLsb' 0 5).toNat + 1)) }))

/-! ## Pointers, handles and scalar memory -/

/-- Pointer instructions (R169, R170, R171): the bits of `SPTEST`'s word, the offset that `SPCAST.S` takes from a pointer that passes its
checks, the pointer that `SPCAST.G` builds, and the sum of `PADD`; all at tc + 1, and none of `SPTEST` and `PADD` depends on a check. -/
def Obligations.PointerInstructions : Prop :=
  ∀ (h : Hdr) (f : Rrr) (s : State), s.guard = true →
    let p := s.rs f.ra
    (∃ v, exec (.sptest h f) s = .next (s.landS f.rd (s.tc + 1) v) ∧
      let ok := tagOk (ptrTag p) && ptrZeroOk p && decide (ptrOff p + 1 ≤ s.ptrLimit p)
      (v.extractLsb' 0 4).toNat = ptrTag p ∧ v.extractLsb' 4 12 = 0 ∧
        (v.extractLsb' 16 10).toNat = (if ptrTag p = 9 ∨ ptrTag p = 10 ∨ ptrTag p = 11 then ptrNum p else 0) ∧ v.extractLsb' 26 6 = 0 ∧
        v.getLsbD 32 = ok ∧ v.getLsbD 33 = (ok && (s.ptrOwner p).isNone) ∧ v.getLsbD 34 = timedTag (ptrTag p) ∧ v.extractLsb' 35 29 = 0) ∧
    (ptrTag p = f.md.toNat % 16 → s.ptrCheck p 1 (fun _ => true) 1 = none →
      exec (.spcastS h f) s = .next (s.landS f.rd (s.tc + 1) (BitVec.ofNat 64 (p.toNat % 2 ^ offWidth (ptrTag p))))) ∧
    (∀ t n : Nat, t = f.md.toNat % 16 → n = (if f.md.getLsbD 5 then ownNum s.cur.1 t else (s.rs f.rb).toNat) →
      (t = 0 ∨ t = 8 ∨ t = 9 ∧ n ≤ 767 ∨ t = 10 ∧ n ≤ 191 ∨ t = 11 ∧ n ≤ 7) →
      p.toNat < s.ptrLimit (castPtr t n 0) → p.toNat < 2 ^ offWidth t →
      ∃ v, exec (.spcastG h f) s = .next (s.landS f.rd (s.tc + 1) v) ∧ ptrTag v = t ∧ ptrOff v = p.toNat ∧ ptrZeroOk v = true ∧
        (t = 9 ∨ t = 10 ∨ t = 11 → ptrNum v = n)) ∧
    ∃ v, exec (.padd h f) s = .next (s.landS f.rd (s.tc + 1) v) ∧ ptrTag v = ptrTag p ∧
      v.toNat % 2 ^ offWidth (ptrTag p) = (p.toNat + (s.rs f.rb).toNat * 2 ^ (f.md.toNat % 64)) % 2 ^ offWidth (ptrTag p) ∧
      ∀ i, offWidth (ptrTag p) ≤ i → v.getLsbD i = p.getLsbD i

/-- Where the scalar words that use a pointer trap (R83, R170, R174, R175): `SPCAST.S` of another tag or of a pointer that a check of R83 turns
away; `SPCAST.G` of a number that does not fit its field, check 2, or of an offset that does not, check 3 (for a die number and for the
offset the model's reading, log entry 19); and `LDS`, `STS`, `HLD` and `HST` at the first of R83's checks that fails: a tag of no space, for `HLD` and
`HST` a phased space, bits that must be zero or a number out of range, the offset limit, another core's scratchpad, another quad's SRAM, and
an address that is not aligned. Each is the fatal pointer or foreign-scratchpad fault with the pointer as its address. -/
def Obligations.CastFaults : Prop :=
  ∀ (h : Hdr) (s : State), s.guard = true → isSup s.cur.1 = false →
    let traps := fun (i : Instr) (k : FaultKind) (d : Nat) (p : Word) => exec i s = .next (s.faultAt s.cur.1 s.cur.2 k d p (0x80 + ptrTag p))
    let first := fun (p : Word) (n : Nat) (phased : Bool) (align : Nat) =>
      if ¬(ptrTag p = 0 ∨ 8 ≤ ptrTag p ∧ ptrTag p ≤ 11) then some (FaultKind.pointer, 1)
      else if phased = false ∧ (ptrTag p = 0 ∨ ptrTag p = 11) then some (.pointer, 0)
      else if ptrZeroOk p = false then some (.pointer, 2)
      else if s.ptrLimit p < ptrOff p + n then some (.pointer, 3)
      else if ptrTag p = 9 ∧ ptrNum p ≠ s.cur.1 then some (.foreign, 4)
      else if ptrTag p = 10 ∧ ptrNum p ≠ s.cur.1 / 4 then some (.foreign, 5)
      else if ptrOff p % align ≠ 0 then some (.pointer, 0)
      else none
    (∀ f : Rrr, let p := s.rs f.ra
      (ptrTag p ≠ f.md.toNat % 16 → traps (.spcastS h f) .pointer 0 p) ∧
      (∀ k d, ptrTag p = f.md.toNat % 16 → first p 1 true 1 = some (k, d) → traps (.spcastS h f) k d p) ∧
      ∀ t n : Nat, t = f.md.toNat % 16 → n = (if f.md.getLsbD 5 then ownNum s.cur.1 t else (s.rs f.rb).toNat) →
        ((t = 9 ∧ 767 < n ∨ t = 10 ∧ 191 < n ∨ t = 11 ∧ 7 < n) → traps (.spcastG h f) .pointer 2 p) ∧
        ((t = 0 ∨ t = 8 ∨ t = 9 ∧ n ≤ 767 ∨ t = 10 ∧ n ≤ 191 ∨ t = 11 ∧ n ≤ 7) → s.ptrLimit (castPtr t n 0) ≤ p.toNat →
          traps (.spcastG h f) .pointer 3 p)) ∧
    ∀ (f : Mem) (k : FaultKind) (d : Nat),
      (let p := ptrAdd (s.rs f.rx) (f.imm.signExtend 64)
       let n := 2 ^ (f.fn.toNat % 4)
       first p n true n = some (k, d) → traps (.lds h f) k d p ∧ traps (.sts h f) k d p) ∧
      (let p := ptrAdd (s.rs f.rx) (f.imm.zeroExtend 64 * 32)
       first p 32 false 8 = some (k, d) → traps (.hld h f) k d p ∧ traps (.hst h f) k d p)

/-- Handle instructions (R172, R173): the field that `HSET` merges and `HGET` reads by its code, the record binding of `HSTAT` and
`HSTAT.off`, and the copy of `HCPY`; all at tc + 1. -/
def Obligations.HandleInstructions : Prop :=
  ∀ (h : Hdr) (s : State), s.guard = true →
    (∀ (f : Rrr) (m lo w : Nat), f.md.toNat = m →
      (m, lo, w) ∈ [(0, 0, 64), (1, 64, 16), (2, 80, 16), (3, 96, 16), (4, 112, 16), (5, 128, 20), (6, 148, 20), (7, 168, 20), (8, 188, 4),
        (9, 192, 4), (10, 213, 8), (11, 221, 34), (12, 0, 64), (13, 64, 64), (14, 128, 64), (15, 192, 64)] →
      (∃ k v, exec (.hset h f) s = .next (s.land (s.tc + 1) (.h (s.reg .H f.rd) k v)) ∧ ∀ i, i < 256 →
        k.getLsbD i = decide (lo ≤ i ∧ i < lo + w) ∧ (lo ≤ i → i < lo + w → v.getLsbD i = (s.rs f.ra).getLsbD (i - lo))) ∧
      ∃ v, exec (.hget h f) s = .next (s.landS f.rd (s.tc + 1) v) ∧ ∀ i, i < 64 →
        v.getLsbD i = if i < w then (s.rh f.ra).getLsbD (lo + i) else decide (5 ≤ m ∧ m ≤ 7) && (s.rh f.ra).getLsbD (lo + w - 1)) ∧
    (∀ f : Rri, ∃ k v, exec (.hstat h f) s = .next (s.land (s.tc + 1) (.h (s.reg .H f.rd) k v)) ∧
      (∀ i, i < 256 → k.getLsbD i = decide (200 ≤ i ∧ i ≤ 212)) ∧
      (v.extractLsb' 200 12).toNat = ((s.rs f.ra).toNat + (f.imm.extractLsb' 0 12).toNat) % 4096 ∧ v.getLsbD 212 = true) ∧
    (∀ f : Rri, ∃ k, exec (.hstatOff h f) s = .next (s.land (s.tc + 1) (.h (s.reg .H f.rd) k 0)) ∧
      ∀ i, i < 256 → k.getLsbD i = decide (200 ≤ i ∧ i ≤ 212)) ∧
    ∀ f : Rrr, exec (.hcpy h f) s = .next (s.land (s.tc + 1) (.h (s.reg .H f.rd) (BitVec.allOnes 256) (s.rh f.ra)))

/-- Loads of scalars and handles (R157, R174, R175): a pointer that passes its checks gives the bytes at it, zero- or sign-extended; a timed
one at its result tc, a phased one by an access whose reply is scheduled for its latency class. -/
def Obligations.ScalarLoads : Prop :=
  ∀ (h : Hdr) (f : Mem) (s : State), s.guard = true →
    (let n := 2 ^ (f.fn.toNat % 4)
     let p := ptrAdd (s.rs f.rx) (f.imm.signExtend 64)
     s.ptrCheck p n (fun _ => true) n = none →
      (timedTag (ptrTag p) = true → ∃ v, exec (.lds h f) s = .next (s.landS f.rd (s.tc + timedLat (ptrTag p)) v) ∧ ∀ i, i < 64 →
        v.getLsbD i = if i < 8 * n then ((s.timedRead p n).getD (i / 8) 0).getLsbD (i % 8)
          else f.fn.getLsbD 2 && ((s.timedRead p n).getD (n - 1) 0).getLsbD 7) ∧
      (timedTag (ptrTag p) = false → isSup s.cur.1 = false → exec (.lds h f) s =
        .next (s.start .read (.lds h f) (s.tc + s.my.latcls.getD f.lcl.toNat 0) 0 0 [] [s.reg .S f.rd] [] [(p, List.replicate n 0)] none))) ∧
    (let p := ptrAdd (s.rs f.rx) (f.imm.zeroExtend 64 * 32)
     s.ptrCheck p 32 timedTag 8 = none → ∃ v, exec (.hld h f) s =
        .next (s.land (s.tc + timedLat (ptrTag p)) (.h f.hnd.toNat (BitVec.allOnes 256) v)) ∧
      ∀ i, i < 256 → v.getLsbD i = ((s.timedRead p 32).getD (i / 8) 0).getLsbD (i % 8))

/-- Timed stores of scalars and handles with their frame (R174, R175, R124): nothing in memory changes at the issue tc; one write is added to
those in flight, with the register's low bytes and the store, core and address that the pointer names; and when it lands, every byte of
every memory outside the stored ones reads as before. -/
def Obligations.TimedScalarStores : Prop :=
  ∀ (h : Hdr) (f : Mem) (s : State), s.guard = true → isSup s.cur.1 = false →
    ∀ (i : Instr) (p : Word) (n : Nat) (data : List Byte),
      (i = .sts h f ∧ n = 2 ^ (f.fn.toNat % 4) ∧ p = ptrAdd (s.rs f.rx) (f.imm.signExtend 64) ∧ s.ptrCheck p n (fun _ => true) n = none ∧
          timedTag (ptrTag p) = true ∧ data = leBytes n (s.rs f.rd).toNat) ∨
        (i = .hst h f ∧ n = 32 ∧ p = ptrAdd (s.rs f.rx) (f.imm.zeroExtend 64 * 32) ∧ s.ptrCheck p 32 timedTag 8 = none ∧
          data = leBytes 32 (Map.get s.me.h f.hnd.toNat).toNat) →
      let c := (s.timedAt p).1
      let fl := (s.timedAt p).2.1
      let key := (s.timedAt p).2.2
      exec i s = .next (s.modMy fun x => { x with lands := x.lands ++ [⟨s.tc + timedLat (ptrTag p), s.me.rank, s.cur.2, s.str.landSeq, c, .bytes fl key data⟩] }) ∧
        data.length = n ∧
        ∀ u : State, u.filesOk → (u.apply (s.tc + timedLat (ptrTag p)) c (.bytes fl key data)).getFile c fl key n = data ∧
          (u.apply (s.tc + timedLat (ptrTag p)) c (.bytes fl key data)).dev = u.dev ∧
          ∀ d g a, (g ≠ fl ∨ (g ≠ .qs ∧ d ≠ c) ∨ fileBase d g + a < fileBase c fl + key ∨ fileBase c fl + key + n ≤ fileBase d g + a) →
            (u.apply (s.tc + timedLat (ptrTag p)) c (.bytes fl key data)).getFile d g a 1 = u.getFile d g a 1

/-- A phased store of a scalar (R128, R129, R175): it is an access to be performed at its home, and its bytes join the coherence order at once;
home memory does not change at the issue tc. -/
def Obligations.PhasedScalarStore : Prop :=
  ∀ (h : Hdr) (f : Mem) (s : State), s.guard = true → isSup s.cur.1 = false →
    let n := 2 ^ (f.fn.toNat % 4)
    let p := ptrAdd (s.rs f.rx) (f.imm.signExtend 64)
    s.ptrCheck p n (fun _ => true) n = none → timedTag (ptrTag p) = false → s.my.markFault p n (s.my.writeTc s.tc) = none →
      exec (.sts h f) s = .next (s.start .store (.sts h f) s.tc 0 0 [] [] [] [(p, leBytes n (s.rs f.rd).toNat)] none)

/-- Format words, counters and control registers (R176 to R180, R80): `FPUSH` adds to `fq`'s pushes of the tc; `RDCTR` and `CSRR` write RD on C
and push an entry elsewhere; `CSRW` lands at the end of its tc, on `SEL` under the mask of its defined bits. A flag of a phased conversion
whose value has still to come reads as a free value from its tc on (the model's choice, log entry 30). -/
def Obligations.CountersAndControl : Prop :=
  ∀ (h : Hdr) (s : State), s.guard = true → isSup s.cur.1 = false →
    (∀ f : Rrr, exec (.fpush h f) s = .next (s.modMe fun x => { x with fpushes := x.fpushes ++ [s.rs f.ra] })) ∧
    (∀ (f : Rri) (v : Word), f.imm.toNat < 4 →
      v = [BitVec.ofNat 64 (s.my.outTc s.tc), BitVec.ofNat 64 s.my.heldClks, BitVec.ofNat 64 s.ns, s.my.energy].getD f.imm.toNat 0 →
      exec (.rdctr h f) s = .next (if s.sid = .C then s.landS f.rd (s.tc + 1) v else s.push (s.reg .Q f.rd) (v.zeroExtend 2048) (s.tc + 1))) ∧
    (∀ (f : Rri) (n : Nat) (v : Word), f.csr.toNat = n →
      (n, v) ∈ [(0, s.str.flags.zeroExtend 64), (1, s.str.segp.zeroExtend 64), (2, s.me.sel), (3, BitVec.ofNat 64 (s.str.now.lcs.getD 0 0)),
        (4, BitVec.ofNat 64 (s.str.now.lcs.getD 1 0)), (5, BitVec.ofNat 64 (s.str.now.lcs.getD 2 0)), (8, s.cohid), (9, s.cohsz), (10, s.memcfg),
        (11, s.my.latWord), (16, s.me.upda), (17, s.me.updb)] → (n = 0 → s.openFlags = 0) →
      exec (.csrr h f) s = .next (if s.sid = .C then s.landS f.rd (s.tc + 1) v else s.push (s.reg .Q f.rd) (v.zeroExtend 2048) (s.tc + 1))) ∧
    (∀ f : Rri, f.csr = 0 → s.openFlags ≠ 0 → ∃ (v : Word) (u : State), u = { s with free := u.free } ∧
      exec (.csrr h f) s = .next (if s.sid = .C then u.landS f.rd (s.tc + 1) v else u.push (s.reg .Q f.rd) (v.zeroExtend 2048) (s.tc + 1)) ∧
      ∀ i, i < 64 → s.openFlags.getLsbD i = false → v.getLsbD i = s.str.flags.getLsbD i) ∧
    ∀ (f : Rri) (v : Word) (t : State),
      (f.imm.getLsbD 12 = true ∧ v = (f.imm.extractLsb' 13 16).zeroExtend 64 ∧ t = s ∨
        f.imm.getLsbD 12 = false ∧ s.sid = .C ∧ v = s.rs f.ra ∧ t = s ∨
        f.imm.getLsbD 12 = false ∧ s.sid ≠ .C ∧ (∃ e es, s.me.queue (s.reg .Q f.ra) = e :: es ∧ e.ready ≤ s.tc ∧ v = e.data.extractLsb' 0 64 ∧
          t = s.modMe fun x => x.setQueue (s.reg .Q f.ra) es)) →
      exec (.flagsClear h f) s = .next (t.land (s.tc + 1) (.flagsClear s.cur.2 (v.truncate 6))) ∧
        exec (.selWrite h f) s = .next (t.land (s.tc + 1) (.csr 2 (v &&& 0xFFFFFFFF00000007))) ∧
        exec (.csrw h f) s = .next (t.land (s.tc + 1) (.csr f.csr.toNat v))

/-- An instruction of the C stream whose stage predicate is false does nothing but keep its place (R47, R157): no register, memory, record or
flag changes and no operand raises a fault. -/
def Obligations.FalseGuard : Prop :=
  ∀ (h : Hdr) (s : State), s.guard = false →
    (∀ f : Rrr, ∀ i ∈ ([.add h f, .sub h f, .mul h f, .mulh h f, .div h f, .rem h f, .and h f, .or h f, .xor h f, .andn h f, .shl h f, .shr h f,
        .sar h f, .min h f, .max h f, .cmp h f, .sel h f, .clz h f, .popc h f, .sptest h f, .spcastS h f, .spcastG h f, .padd h f, .hset h f,
        .hget h f, .hcpy h f] : List Instr), exec i s = .next s) ∧
    (∀ f : Rri, ∀ i ∈ ([.addi h f, .ext h f, .ins h f, .hstat h f, .hstatOff h f] : List Instr), exec i s = .next s) ∧
    (∀ f : Rriw, ∀ i ∈ ([.li h f, .lih h f] : List Instr), exec i s = .next s) ∧
    (∀ f : Mem, ∀ i ∈ ([.lds h f, .sts h f, .hld h f, .hst h f, .bobjArm h f, .bobjWait h f] : List Instr), exec i s = .next s) ∧
    (∀ f : Mx, ∀ i ∈ ([.mxSwap h f, .mxFuseOn h f, .mxFuseOff h f, .mxTestFatal h f, .mxTestReport h f] : List Instr), exec i s = .next s) ∧
    (∀ f : Sys, ∀ i ∈ ([.fence h f, .yield h f, .statSeal h f, .statClr h f, .trap h f] : List Instr), exec i s = .next s) ∧
    ∀ f : Rrr, exec (.fpush h f) s = .next (s.modMe fun x => { x with fpushes := x.fpushes ++ [0] })

/-! ## Loads and stores through a handle -/

/-- Loads through a handle that passes its checks and whose format the load accepts (R89, R182, R184, R189 to R195): L is occupied for
one tc for each piece, the entries of a queue load are reserved at once, and the pieces follow one a tc from the first on. -/
def Obligations.HandleLoads : Prop :=
  ∀ (h : Hdr) (f : Mem) (s : State), s.guard = true → isSup s.cur.1 = false →
    let H := s.memHandle f
    let cu := s.str.cu
    let q := s.reg .Q f.rd
    let wide := f.fn.getLsbD 0
    s.handleCheck H false cu = none → hEmpty H = false →
    (¬(hFmt H = 6 ∧ wide = true) →
      let n := f.imm.toNat % 128 + 1
      let r := s.reserveLoad q H f.lcl.toNat n true
      exec (.ldQ h f) s = .next ((r.2.begin (.ldQ h f) r.1 n H cu [] []).pieceWith loadStep)) ∧
    (∀ rows cols esz, s.me.shape = (rows, cols, esz) → s.me.vregFault (s.reg .V f.rd) = none →
      (wide = true → esz = 4 ∧ hFmt H ≠ 6) → (wide = false → hFmt H < 5 ∧ fmtSize (hFmt H) = esz) →
      let r := s.reg .V f.rd
      let b := rows * cols * esz
      let t := if timedSrc H then s.tc + 15 + handleLat H else s.tc + 15 + s.my.latcls.getD f.lcl.toNat 0 + s.my.horizon
      exec (.ldV h f) s = .next (((s.land t (.bytes .v (4096 * r + b) (List.replicate (4096 - b) 0))).begin (.ldV h f) 0 16 H cu
        [r, rows, cols, esz] []).pieceWith loadStep)) ∧
    (hFmt H ≠ 6 → (wide = true ∨ hFmt H = 0 ∨ hFmt H = 2) →
      let n := (f.imm.extractLsb' 6 6).toNat + 1
      let aux := [s.reg .T f.rd, (f.imm.extractLsb' 0 6).toNat, n]
      exec (.ldT h f) s = .next ((s.begin (.ldT h f) 0 n H cu aux []).pieceWith loadStep) ∧
        exec (.ldTr h f) s = .next ((s.begin (.ldTr h f) 0 n H cu aux []).pieceWith loadStep)) ∧
    (∀ n, (hFmt H, n) ∈ [(1, 32), (3, 16), (4, 16), (5, 13), (6, 4)] →
      exec (.ldW h f) s = .next ((s.begin (.ldW h f) 0 n H cu [f.imm.toNat % 256, n] []).pieceWith ldwStep)) ∧
    (hFmt H = 1 →
      let n := (f.imm.extractLsb' 6 3).toNat + 1
      exec (.ldCb h f) s = .next ((s.begin (.ldCb h f) 0 n H cu
        [2048 * (f.imm.toNat % 8) + 256 * (f.imm.extractLsb' 3 3).toNat, n] []).pieceWith loadStep)) ∧
    (∀ e es, s.me.queue (s.reg .Q f.rx) = e :: es → e.ready ≤ s.tc → hFmt H < 5 →
      let u := s.modMe fun x => x.setQueue (s.reg .Q f.rx) es
      let n := gatherPieces (f.imm.toNat % 256 + 1) (entryCap (hFmt H) wide) (f.fn.getLsbD 1)
      let r := u.reserveLoad q H f.lcl.toNat n true
      exec (.ldG h f) s = .next ((r.2.begin (.ldG h f) r.1 n H cu [] (entryBytes e.data)).pieceWith ldgStep))

/-- What a piece of a load brings (R184, R187, R190, R191, R194): elements of timed memory are read at the piece's tc and land `handleLat`
later in the vector register, tile row or codebook line that the piece names; those of phased memory are one read access due at the
scheduled arrival. The flags of widening are set at issue plus the occupancy; where a phased value is not fixed yet, because an atomic of its
bytes is under way or a byte is not mapped, they are set for that tc when it comes (the model's reading of R80 and R189, log entry 30). -/
def Obligations.LoadPieces : Prop :=
  ∀ (s : State) (a : Act) (j id : Nat) (cu : List Nat) (slots : List (Nat × List Nat)) (els : List Elem),
    s.resolve a.hnd (fun _ => true) false slots = .ok els →
    (timedSrc a.hnd = true →
      let xs := s.readTimed els
      let d := packLoad (widenBit a.ins) a.hnd xs
      let r := a.aux.getD 0 0
      (∀ h f, a.ins = .ldV h f → s.loadPiece a j id cu slots =
        (s.land (a.start + 15 + handleLat a.hnd) (.bytes .v (4096 * r + j * (a.aux.getD 2 0 * a.aux.getD 3 0))
          (leBytes (a.aux.getD 2 0 * a.aux.getD 3 0) d.1))).setFlags (a.start + a.n) d.2) ∧
      (∀ h f, (a.ins = .ldT h f ∨ a.ins = .ldTr h f) → s.loadPiece a j id cu slots =
        (s.land (s.tc + handleLat a.hnd) (.bytes .t (16384 * r + 256 * (a.aux.getD 1 0 + j)) (leBytes 256 d.1))).setFlags (a.start + a.n) d.2) ∧
      (∀ h f, a.ins = .ldCb h f → s.loadPiece a j id cu slots =
        (s.land (s.tc + handleLat a.hnd) (.bytes .cb (r + 256 * j) (leBytes 256 d.1))).setFlags (a.start + a.n) d.2) ∧
      (∀ h f, a.ins = .ldQ h f → s.loadPiece a j id cu slots =
        (s.fill s.cur.1 id (BitVec.ofNat 2048 d.1)).setFlags (a.start + a.n) d.2)) ∧
    (timedSrc a.hnd = false → els ≠ [] →
      let start := fun t : State => t.startAs id .read a.ins (s.arrival (lclOf a.ins)) j a.hnd cu a.aux els (readParts els) none
      (s.settledRead els = false → s.loadPiece a j id cu slots =
        if widenBit a.ins then (start s).modAccess id fun b => { b with flags := some (a.start + a.n, 0) } else start s) ∧
      (∀ xs, s.settledRead els = true → s.readPhased [] s.cur.1 (s.my.writeTc a.start) els = some xs →
        s.loadPiece a j id cu slots = start (s.setFlags (a.start + a.n) (packLoad (widenBit a.ins) a.hnd xs).2)))

/-- Stores through a handle that passes its checks and whose format the store accepts (R89, R182, R195 to R200): S is occupied for one tc
for each piece, and the pieces follow one a tc from the first on. -/
def Obligations.HandleStores : Prop :=
  ∀ (h : Hdr) (f : Mem) (s : State), s.guard = true →
    let H := s.memHandle f
    let cu := s.str.cu
    let conv := convOf f
    s.handleCheck H true cu = none →
    (¬(conv ≠ 0 ∧ 5 ≤ hFmt H) →
      let n := f.imm.toNat % 128 + 1
      exec (.stQ h f) s = .next ((s.begin (.stQ h f) 0 n H cu [s.reg .Q f.rd] []).pieceWith storeStep) ∧
        exec (.stX h f) s = .next ((s.begin (.stX h f) 0 n H cu [s.reg .Q f.rd] []).pieceWith stxStep) ∧
        (let m := (f.imm.extractLsb' 5 7).toNat + 1
         exec (.stMc h f) s = .next ((s.begin (.stMc h f) 0 m H cu [s.reg .Q f.rd] []).pieceWith stmcStep))) ∧
    (∀ rows cols esz, s.me.shape = (rows, cols, esz) → s.me.vregFault (s.reg .V f.rd) = none → hEmpty H = false →
      hFmt H < 5 → (conv = 0 → fmtSize (hFmt H) = esz) → (conv ≠ 0 → esz = 4) →
      let r := s.reg .V f.rd
      exec (.stV h f) s = .next ((s.begin (.stV h f) 0 16 H cu [r, rows, cols, esz]
        (s.getFile s.cur.1 .v (4096 * r) 4096)).pieceWith storeStep)) ∧
    (hEmpty H = false → hFmt H < 5 → (conv = 0 → fmtSize (hFmt H) = 4) →
      let n := (f.imm.extractLsb' 6 6).toNat + 1
      let r := s.reg .T f.rd
      exec (.stT h f) s = .next ((s.begin (.stT h f) 0 n H cu [r, (f.imm.extractLsb' 0 6).toNat]
        (s.getFile s.cur.1 .t (16384 * r) 16384)).pieceWith storeStep)) ∧
    (∀ e es, s.me.queue (s.reg .Q f.rx) = e :: es → e.ready ≤ s.tc → hFmt H < 5 →
      let u := s.modMe fun x => x.setQueue (s.reg .Q f.rx) es
      let n := gatherPieces (f.imm.toNat % 256 + 1) (storeCap conv (hFmt H)) (f.fn.getLsbD 2)
      exec (.stS h f) s = .next ((u.begin (.stS h f) 0 n H cu [s.reg .Q f.rd] (entryBytes e.data)).pieceWith scatterStep)) ∧
    (hFmt H ≠ 6 → (f.fn.toNat % 4 = 0 ∨ f.fn.toNat % 4 = 2) →
      let t := quantScale (f.fn.toNat % 4) (f.imm.extractLsb' 0 9).toInt (hFmt H) 0
      exec (.stQnt h f) s = .next ((s.begin (.stQnt h f) 0 ((f.imm.extractLsb' 9 4).toNat + 1) H cu
        [s.reg .Q f.rd, (t + 1024).toNat] []).pieceWith stqntStep)) ∧
    (let M := Map.get s.me.h (f.hnd.toNat + 1)
     (hFmt H = 0 ∨ hFmt H = 1) → (f.fn.getLsbD 0 = true ∨ (s.handleCheck M true cu = none ∧ (hFmt M = 0 ∨ hFmt M = 1) ∧ ∀ d, d < 4 → hExt H d = hExt M d)) →
      exec (.stUpd h f) s = .next ((s.begin (.stUpd h f) 0 (f.imm.toNat % 128 + 1) H cu
        [s.reg .Q f.rd, s.reg .Q f.rx, s.me.upda.toNat, s.me.updb.toNat] (leBytes 32 M.toNat)).pieceWith stupdStep))

/-- What a raw or converted piece writes through a handle of the executing core (R187, R197, R198): where its elements resolve and the space
is timed, the bytes of R90's layout land their space's latency later, and nothing else of memory changes but the record's updates and
the stream's flags; in phased memory outside marks it is one store, in the coherence order at once. -/
def Obligations.StorePieces : Prop :=
  ∀ (s : State) (i : Instr) (h : Handle) (j : Nat) (cu : List Nat) (w : Written) (rep : Nat) (els : List Elem),
    s.resolve h (fun _ => true) false w.slots = .ok els → s.str.stopped = false →
    let ps := writeParts (hFmt h) els w.code w.scale
    let aux := s.actAux
    (timedTag (ptrTag (hBase h)) = true → isSup s.cur.1 = false →
      s.writePiece i h j cu w rep =
        ((ps.foldl (fun u p => u.timedWrite p.1 p.2 (u.tc + timedLat (ptrTag p.1))) s).observeAll h w 0 rep).setFlags rep w.allFlags) ∧
    (timedTag (ptrTag (hBase h)) = false → ps ≠ [] → (∀ p ∈ ps, s.my.markFault p.1 p.2.length (s.my.writeTc s.tc) = none) →
      (s.start .store i s.tc j h cu aux els ps none).str.stopped = false →
      s.writePiece i h j cu w rep = ((s.start .store i s.tc j h cu aux els ps none).observeAll h w 0 rep).setFlags rep w.allFlags)

/-! ## Transfers between cores, atomics, barrier objects -/

/-- `LD.BC` (R203): its entries are reserved in every core that its mask names at issue, one for each piece. A piece is read from the quad's
SRAM on its own tc, takes the quad's bus 20 tc later, and fills the same entry in every target. -/
def Obligations.BroadcastLoad : Prop :=
  ∀ (h : Hdr) (f : Mem) (s : State), s.guard = true →
    let H := s.memHandle f
    let n := f.imm.toNat % 128 + 1
    s.handleCheck H false s.str.cu = none → hEmpty H = false → ¬(hFmt H = 6 ∧ f.fn.getLsbD 4 = true) →
      let r := s.reserveBc f n true
      exec (.ldBc h f) s = .next ((r.2.begin (.ldBc h f) r.1 n H s.str.cu [] []).pieceWith ldbcStep) ∧
        (∀ c, (r.2.core c).pushes = (s.core c).pushes ++ (s.bcCores f).zipIdx.flatMap fun t => if t.1 = c then
            (List.range n).map fun j => ⟨1, s.reg .Q f.rd, ⟨0, s.tc + j + 24, false, some (s.uid + t.2 * n + j), s.cur⟩, s.cur.1, s.cur.2⟩ else []) ∧
        ∀ (u : State) (a : Act) (els : List (Nat × List Nat)) (cu' : List Nat) (es : List Elem), a.ins = .ldBc h f →
          walkOk a.hnd u.str.cu = true → pieceWalk a.hnd (entryCap (hFmt a.hnd) (f.fn.getLsbD 4)) u.str.cu = (els, cu') →
          u.resolve a.hnd (fun p => ptrTag p == 10) false els = .ok es →
          ∃ v : State, ldbcStep a u = (v.loadFlags a.ins a.hnd (a.start + a.n) (u.readTimed es)).moveCursors cu' ∧
            v = ((u.bcCores f).zipIdx).foldl (fun v t => v.fill t.1 (a.id + t.2 * a.n + a.j)
                (BitVec.ofNat 2048 (packLoad (f.fn.getLsbD 4) a.hnd (u.readTimed es)).1))
              (u.useLinks [(busNum (quadOf u.cur.1), u.tc + 20)])

/-- The mesh (R201): a route goes first along X and then along Y, one link for each hop; its cost is 2 tc for each hop and 10 for each hop over a
die bridge, and each link, named by where it starts and its direction, is taken with the exact sum of the costs of the hops before it. -/
def Obligations.MeshRoutes : Prop :=
  ∀ a b : Nat, a < 768 → b < 768 →
    let hops := fun (u v : Nat) => max u v - min u v
    let cuts := fun (u v w : Nat) => max (u / w) (v / w) - min (u / w) (v / w)
    let x := (meshXY a).1
    let y := (meshXY a).2
    let u := (meshXY b).1
    let v := (meshXY b).2
    (route a b).1.length = hops x u + hops y v ∧
      (route a b).2 = 2 * (hops x u + hops y v) + 8 * (cuts x u 12 + cuts y v 8) ∧
      (let after := fun (i j k : Nat) => if i < j then i + k else i - k
       (∀ k, k < hops x u → (route a b).1[k]? =
          some (linkNum (after x u k) y (if x < u then 0 else 1), 2 * k + 8 * cuts x (after x u k) 12)) ∧
        ∀ k, k < hops y v → (route a b).1[hops x u + k]? = some (linkNum u (after y v k) (if y < v then 2 else 3),
          2 * (hops x u + k) + 8 * (cuts x u 12 + cuts y (after y v k) 8))) ∧
      ∀ i j dir m n e : Nat, i < 48 → m < 48 → dir < 4 → e < 4 → linkNum i j dir = linkNum m n e → i = m ∧ j = n ∧ dir = e

/-- `ATOM` at an element whose pointer passes its checks (R205): the operand's entry is popped, an entry for the old value is reserved for
A + H, the element's bytes are an atomic access, and the cursors move on by one element. -/
def Obligations.Atomics : Prop :=
  ∀ (h : Hdr) (f : Mem) (s : State) (e : QEntry) (es : List QEntry) (p : Word), s.guard = true →
    let H := s.memHandle f
    let cu := s.str.cu
    let w := if f.fn.getLsbD 4 then 8 else 4
    s.me.queue (s.reg .Q f.rx) = e :: es → e.ready ≤ s.tc → s.handleCheck H true cu = none → hEmpty H = false →
    atomFmtOk (f.fn.toNat % 16) (hFmt H) (f.fn.getLsbD 4) = true →
    s.rangeCheck H (fun p => !timedTag (ptrTag p)) false ((ptrOff (hBase H) : Int) + 4 * elemOff H cu) w = .ok (p, w) → ptrOff p % w = 0 →
    s.my.markFault p w (s.my.writeTc s.tc) = none →
      let u := s.modMe fun x => x.setQueue (s.reg .Q f.rx) es
      let a := e.data.toNat % 2 ^ (8 * w)
      let c := e.data.toNat / 2 ^ (8 * w) % 2 ^ (8 * w)
      exec (.atom h f) s = .next ((((u.newId.2.reserve (s.reg .Q f.rd) (s.arrival f.lcl.toNat + s.my.horizon) s.uid).startAs s.uid .atomic
        (.atom h f) (s.arrival f.lcl.toNat) 0 H [a, c] [] [⟨0, cu, [(p, w)]⟩] [(p, List.replicate w 0)] none)).moveCursors (advance H cu 0 1))

/-- What atomics and the update stage compute (R200, R205). An atomic's new value, as a number of its width, by its operation. The optimiser step
on one element: `g' = g·s + λ·w`, `m' = μ·m + g'` or `g'` without a moment, and `w' = w − η·m'`, each operation rounded on its own, with
the union of their flags. -/
def Obligations.MemoryArithmetic : Prop :=
  (∀ (w64 : Bool) (old a c : Nat),
    let w := if w64 then 64 else 32
    old < 2 ^ w → a < 2 ^ w → c < 2 ^ w →
      let si := fun x => (BitVec.ofNat w x).toInt
      atomNew 0 w old a c = (old + a) % 2 ^ w ∧
        (w64 = false → atomNew 1 w old a c = (fadd (BitVec.ofNat 32 old) (BitVec.ofNat 32 a)).1.toNat) ∧
        si (atomNew 2 w old a c) = min (si old) (si a) ∧ si (atomNew 3 w old a c) = max (si old) (si a) ∧
        atomNew 4 w old a c = min old a ∧ atomNew 5 w old a c = max old a ∧
        (∀ i, (atomNew 6 w old a c).testBit i = (old.testBit i && a.testBit i)) ∧
        (∀ i, (atomNew 7 w old a c).testBit i = (old.testBit i || a.testBit i)) ∧
        (∀ i, (atomNew 8 w old a c).testBit i = (old.testBit i ^^ a.testBit i)) ∧
        atomNew 9 w old a c = a ∧ atomNew 10 w old a c = (if old = c then a else old) ∧
        ∀ op, op ≤ 10 → (op = 1 → w64 = false) → atomNew op w old a c < 2 ^ w) ∧
  ∀ (ua ub : Word) (nomom : Bool) (g w m : BitVec 32),
    let lr := ua.extractLsb' 32 32
    let decay : BitVec 32 := ua.extractLsb' 0 32
    let mom := ub.extractLsb' 32 32
    let gsc : BitVec 32 := ub.extractLsb' 0 32
    let g1 := fmul g gsc
    let d1 := fmul decay w
    let g2 := fadd g1.1 d1.1
    let p := fmul mom m
    let s := fadd p.1 g2.1
    let r := updSlot ua ub nomom g w m
    (nomom = true → r.2.1 = g2.1) ∧ (nomom = false → r.2.1 = s.1) ∧
      (let e := fmul lr r.2.1
       let x := fadd w (e.1 ^^^ 0x80000000)
       r.1 = x.1 ∧ ∀ i, i < 6 → r.2.2.getLsbD i = (g1.2.getLsbD i || d1.2.getLsbD i || g2.2.getLsbD i || e.2.getLsbD i || x.2.getLsbD i ||
         (!nomom && (p.2.getLsbD i || s.2.getLsbD i))))

/-- Barrier objects (R206 to R210): `BOBJ.ARM` of an IDLE object makes it ARMED with its handle's bytes or a launch constant as its total,
or OPEN where that is 0, and of another one barrier fault 1; a `BCAST` bit of its handle is the handle fault, which comes first (the model's
order, log entry 72). `BOBJ.WAIT` on an OPEN object makes it IDLE and acquires what it counted; while the object is ARMED its cohort waits; on
an IDLE one it is barrier fault 3. A landed range adds the bytes that an ARMED object covers, and opens it at its total; for an OPEN one it is the sender's barrier fault 2. -/
def Obligations.BarrierObjects : Prop :=
  ∀ (h : Hdr) (f : Mem) (s : State), s.guard = true → isSup s.cur.1 = false →
    let H := s.memHandle f
    let b := f.imm.toNat % 16
    let o := s.me.obj b
    (s.handleCheck H false s.str.cu = none → (∀ d, d < 4 → hBcast H d = false) →
      (o.st = .idle → ∀ total, total = (if f.fn.getLsbD 0 then (Map.get s.str.lk (f.rx.toNat % 16)).toNat else coverSize (coverOf H)) →
        exec (.bobjArm h f) s = .next (s.land (s.tc + 1) (.bobjSet b
          ⟨if total = 0 then .opened else .armed, total, 0, H, coverOf H, o.uses + 1⟩))) ∧
      (o.st ≠ .idle → exec (.bobjArm h f) s = .next (s.faultAt s.cur.1 s.cur.2 .barrier 1 0 0))) ∧
    (s.handleCheck H false s.str.cu = none → (∃ d, d < 4 ∧ hBcast H d = true) →
      exec (.bobjArm h f) s = .next (s.faultAt s.cur.1 s.cur.2 .handle 0 0 0)) ∧
    (o.st = .opened → exec (.bobjWait h f) s = .next ((s.modMy fun x =>
        { x with acq := x.acq ++ [⟨s.cur.1, x.writeTc x.tc, some (b, o.uses), none, o.cover⟩] }).land (s.tc + 1) (.bobjSet b { o with st := .idle }))) ∧
    (o.st = .idle → exec (.bobjWait h f) s = .next (s.faultAt s.cur.1 s.cur.2 .barrier 3 0 0)) ∧
    (o.st = .armed → ∀ asleep t seq w, s.waits asleep s.cur.1 t seq w (.bobjWait h f) = true) ∧
    (∀ (c wr : Nat) (p : Word) (len : Nat), let k := coveredBytes ((s.core c).obj b).cover p len
      let t := s.offerTo s.cur.1 s.cur.2 0 0 b p len wr c
      (((s.core c).obj b).st = .armed → ((s.core c).obj b).count + k ≤ ((s.core c).obj b).total → 0 < k →
        ((t.core c).obj b).count = ((s.core c).obj b).count + k ∧
          ((t.core c).obj b).st = (if ((s.core c).obj b).total = ((s.core c).obj b).count + k then .opened else .armed)) ∧
      ((((s.core c).obj b).st = .idle ∨ k = 0) → t = s) ∧
      (((s.core c).obj b).st = .opened → 0 < k → ∃ r, t = s.addFault s.me.slot r ∧ r.kind = .barrier ∧ r.detail = 2)) ∧
    ∀ n obj dest : Nat,
      let sent := (s.slot n).log.find? fun w => w.offer == some obj && w.done != 0 && w.addr.toNat ≤ dest && dest < w.addr.toNat + w.data.length
      (∀ w, sent = some w →
        exec (.bobjByteCount n obj dest) s = .next (s.offer w.core w.stream 0 0 obj (BitVec.ofNat 64 dest) 1 w.done)) ∧
      (sent = none → exec (.bobjByteCount n obj dest) s = .next ((s.slot n).members.foldl
        (fun u c => u.offerTo ((s.slot n).members.headD 0) 4 0 0 obj (BitVec.ofNat 64 dest) 1 0 c) s))

/-! ## Vectors -/

/-- The element-wise instructions (R212 to R218, R222 to R225, R229, R237, R240, R241): a word whose registers pass the checks of R218 and whose
element type the instruction accepts and is as wide as `VSHAPE` says, or whose stage predicate is false, begins P = ceil(B / 256) pieces,
with one entry for each reserved where RD is a queue, to be popped from tc + j + LAT on. -/
def Obligations.ShapedVectors : Prop :=
  ∀ (h : Hdr) (f : Rrr) (s : State) (i : Instr) (tys : List Nat) (rd rc : Space) (lat : Nat),
    let F : List Nat := [0, 1]
    let I : List Nat := [2, 3, 4]
    let A : List Nat := [0, 1, 2, 3, 4]
    let sp := if f.md.toNat / 16 % 2 = 1 then 20 else 8
    (i, tys, rd, rc, lat) ∈ [(.vadd h f, F, .VQ, .VQ, 4), (.vsub h f, F, .VQ, .VQ, 4), (.vmul h f, F, .VQ, .VQ, 4), (.vfma h f, F, .VQ, .VQ, 4),
        (.vmin h f, F, .VQ, .VQ, 4), (.vmax h f, F, .VQ, .VQ, 4), (.vabs h f, F, .VQ, .VQ, 2), (.vneg h f, F, .VQ, .VQ, 2),
        (.vcmp h f, A, .K, .VQ, 4), (.vsel h f, A, .VQ, .K, 2), (.viadd h f, I, .VQ, .VQ, 2), (.visub h f, I, .VQ, .VQ, 2),
        (.vimul h f, I, .VQ, .VQ, 4), (.vand h f, A, .VQ, .VQ, 2), (.vor h f, A, .VQ, .VQ, 2), (.vxor h f, A, .VQ, .VQ, 2)] ++
      [(.vshl h f, I, .VQ, .VQ, 2), (.vshr h f, I, .VQ, .VQ, 2), (.vsar h f, I, .VQ, .VQ, 2), (.vimin h f, I, .VQ, .VQ, 2),
        (.vimax h f, I, .VQ, .VQ, 2), (.vrcp h f, F, .VQ, .VQ, sp), (.vrsq h f, F, .VQ, .VQ, sp), (.vsqrt h f, F, .VQ, .VQ, sp),
        (.vexp2 h f, F, .VQ, .VQ, sp), (.vlog2 h f, F, .VQ, .VQ, sp), (.vsin h f, F, .VQ, .VQ, sp), (.vcos h f, F, .VQ, .VQ, sp),
        (.vtanh h f, F, .VQ, .VQ, sp), (.vsigm h f, F, .VQ, .VQ, sp), (.vmov h f, A, .VQ, .VQ, 2), (.vbcast h f, A, .VQ, .VQ, 2),
        (.viota h f, [2], .VQ, .VQ, 2), (.vrng h f, [2], .VQ, .VQ, 6)] →
    let ty := f.md.toNat % 16
    let aux := s.vecAux f rd .VQ rc
    (s.str.now.deadFor f.kp.toNat = true ∨
      (s.me.vregsFault (vregs s.str.now i) = none ∧ ty ∈ tys ∧ fmtSize ty = s.me.shape.2.2 ∧
        ((∃ g e, i = .vcmp g e) → (ty ≤ 1 → f.fn ≠ 6 ∧ f.fn ≠ 7) ∧ (1 < ty → f.fn ≠ 8)))) →
      let b := s.me.shape.1 * s.me.shape.2.1 * s.me.shape.2.2
      let n := (b + 255) / 256
      let buf := match i with
        | .vbcast _ _ => s.getFile s.cur.1 .v (4096 * s.reg .VQ f.ra) 4096
        | _ => []
      exec i s = .next (s.vecBegin i aux n (if rd = .VQ ∧ 32 ≤ s.reg rd f.rd then n else 0) (fun j => s.tc + j + lat) 0 [] buf)

/-- A piece of an element-wise instruction (R213, R214, R216, R240, R241): it reads its sources, the bytes at 256j of a register or the head of a
queue, computes each element that its predicate holds active, lands the results LAT later in RD's bytes or its entry, leaves inactive elements
as they are (zero in an entry), and sets its flags with the last piece's. `VIOTA` reads its parameter block and `VRNG` its key block with the
first piece and keeps it. Under a false stage predicate it writes nothing. That the predicate is read on the piece's own tc is the model's
reading (log entry 41). -/
def Obligations.ShapedPieces : Prop :=
  ∀ (s u : State) (a : Act) (es : List Entry), s.operands a.j (pieceSources a) = some (es, u) →
    let blk := match a.ins with
      | .viota _ _ => if a.j = 0 then entryBytes (es.getD 0 0) else a.buf
      | .vrng _ _ => if a.j = 0 then entryBytes (es.getD 1 0) else a.buf
      | _ => a.buf
    let e0 := 256 * a.j / a.x 6
    let n := min 256 (a.x 4 * a.x 5 * a.x 6 - 256 * a.j) / a.x 6
    (a.x 7 = 1 → shapedStep a s = u.keepBuf blk) ∧
    (a.x 7 ≠ 1 → ∃ rs : List (Option (Nat × Flags)), rs.length = n ∧
      (∀ i, i < n → rs[i]? = some (if (Map.get s.me.k (a.x 9)).getLsbD (e0 + i) then
        some (vecElem a (match a.ins with | .vsel _ _ => Map.get s.me.k (a.x 3) | _ => 0) blk (e0 + i) (es.map fun e => entryElem (a.x 6) e i))
        else none)) ∧
      let t := (u.keepBuf blk).setFlags (a.start + a.n - 1 + vecLat a) (rs.foldl (fun x r => x ||| (r.map (·.2)).getD 0) 0)
      ((∀ h f, a.ins ≠ .vcmp h f) → a.x 0 < 32 →
        shapedStep a s = t.landElems (a.x 0) (256 * a.j) (a.x 6) (t.tc + vecLat a) (rs.map fun r => r.map (·.1))) ∧
      ((∀ h f, a.ins ≠ .vcmp h f) → 32 ≤ a.x 0 →
        shapedStep a s = t.fill t.cur.1 (a.id + a.j) (entryOf (rs.flatMap fun r => leBytes (a.x 6) ((r.map (·.1)).getD 0)))) ∧
      ((∃ h f, a.ins = .vcmp h f) → e0 + n ≤ 4096 → ∃ m v, shapedStep a s = t.land (t.tc + 4) (.k (a.x 0) m v) ∧
        ∀ b, b < 4096 → (m.getLsbD b = decide (e0 ≤ b ∧ b < e0 + n ∧ (Map.get s.me.k (a.x 9)).getLsbD b = true)) ∧
          (m.getLsbD b = true → ∃ w, rs[b - e0]? = some (some w) ∧ v.getLsbD b = (w.1 == 1))))

/-- Elements of the integer instructions (R225), on operands of the type's width, and bitwise elements of every type: results wrap, or with SAT
clamp to the type's range and set saturate exactly where they do; bitwise operations, shifts by the amount modulo the width, and minimum and
maximum by the type's order. Then the indices of `VIOTA` from its parameter block (R240) and the hash of `VRNG` from its key block (R241). -/
def Obligations.IntegerElements : Prop :=
  ∀ (a : Act) (ks : BitVec 4096) (blk : List Byte) (e x y : Nat) (h : Hdr) (f : Rrr),
    let ty := a.x 8
    let w := 8 * a.x 6
    let el := fun i => vecElem { a with ins := i } ks blk e [x, y]
    let clamp := fun (z : Int) => (if z < (intRange ty).1 then (intRange ty).1 else if (intRange ty).2 < z then (intRange ty).2 else z)
    let sat := fun (z : Int) (r : Nat × Flags) => vecInt ty r.1 = clamp z ∧ r.1 < 2 ^ w ∧ r.2 = (if clamp z = z then 0 else fSat)
    ((ty, a.x 6) ∈ [(0, 4), (1, 2)] → x < 2 ^ w → y < 2 ^ w → (∀ b, (el (.vand h f)).1.testBit b = (x.testBit b && y.testBit b) ∧
        (el (.vor h f)).1.testBit b = (x.testBit b || y.testBit b) ∧ (el (.vxor h f)).1.testBit b = (x.testBit b ^^ y.testBit b)) ∧
      ∀ i ∈ ([.vand h f, .vor h f, .vxor h f] : List Instr), (el i).2 = 0) ∧
    ((ty, a.x 6) ∈ [(2, 4), (3, 1), (4, 1)] → x < 2 ^ w → y < 2 ^ w →
      (a.x 10 / 16 % 2 = 0 → el (.viadd h f) = ((x + y) % 2 ^ w, 0) ∧ el (.visub h f) = ((x + 2 ^ w - y) % 2 ^ w, 0) ∧
        el (.vimul h f) = (x * y % 2 ^ w, 0)) ∧
      (a.x 10 / 16 % 2 = 1 → sat (vecInt ty x + vecInt ty y) (el (.viadd h f)) ∧ sat (vecInt ty x - vecInt ty y) (el (.visub h f)) ∧
        sat (vecInt ty x * vecInt ty y) (el (.vimul h f))) ∧
      (∀ b, (el (.vand h f)).1.testBit b = (x.testBit b && y.testBit b) ∧ (el (.vor h f)).1.testBit b = (x.testBit b || y.testBit b) ∧
        (el (.vxor h f)).1.testBit b = (x.testBit b ^^ y.testBit b) ∧
        ((el (.vshl h f)).1.testBit b = (decide (b < w) && decide (y % w ≤ b) && x.testBit (b - y % w))) ∧
        ((el (.vshr h f)).1.testBit b = x.testBit (b + y % w)) ∧
        (b < w → (el (.vsar h f)).1.testBit b = x.testBit (min (b + y % w) (w - 1)))) ∧
      vecInt ty (el (.vimin h f)).1 = min (vecInt ty x) (vecInt ty y) ∧ vecInt ty (el (.vimax h f)).1 = max (vecInt ty x) (vecInt ty y) ∧
      ∀ i ∈ ([.vand h f, .vor h f, .vxor h f, .vshl h f, .vshr h f, .vsar h f, .vimin h f, .vimax h f] : List Instr), (el i).2 = 0) ∧
    (∀ p q r tl, blk = leBytes 4 p ++ leBytes 4 q ++ leBytes 4 r ++ tl → p < 2 ^ 32 → q < 2 ^ 32 → r < 2 ^ 32 →
      el (.viota h f) = ((p + e / a.x 5 * q + e % a.x 5 * r) % 2 ^ 32, 0)) ∧
    ∀ key hi tl, blk = leBytes 8 key ++ leBytes 4 hi ++ tl → key < 2 ^ 64 → hi < 2 ^ 32 → x < 2 ^ 32 →
      let c : Word := BitVec.ofNat 64 (hi * 2 ^ 32 + x)
      let v1 := c + BitVec.ofNat 64 key * 0x5F21C8D93E6BA04D
      let v2 := (v1 ^^^ (v1 >>> 31)) * 0x8C3A71E52B9D46F7
      let v3 := (v2 ^^^ (v2 >>> 27)) * 0xE47D0B639A15C2AB
      el (.vrng h f) = (((v3 ^^^ (v3 >>> 33)).toNat / 2 ^ 32), 0)

/-- Conversions, quantisation, reductions and tile moves (R214, R218, R226, R227, R236, R239, R228): a word that passes its checks, or whose stage
predicate is false, occupies V for its pieces and reserves the entries of a queue destination. Then what a piece does with the entry that it
reads: a conversion writes each active element's result 4 tc later; a quantisation gathers elements and, with the last piece that an output
entry draws on, fills the entry, sets its flags and reports its overflows; a reduction gathers elements with its identity for inactive ones and
writes, with its last piece, the tree of R77 over each row or column; `TMOV.R` writes each active element to its tile place, `TMOV.C` reads
them from there; `KMOV` moves a predicate's halves on two tc (the tc of the read is the model's choice, log entry 78). -/
def Obligations.LongVectors : Prop :=
  (∀ (h : Hdr) (f : Rrr) (s : State),
    let rows := s.me.shape.1
    let cols := s.me.shape.2.1
    let esz := s.me.shape.2.2
    let ty := f.md.toNat % 16
    let dead := s.str.now.deadFor f.kp.toNat
    let ok := fun i => s.me.vregsFault (vregs s.str.now i) = none
    let q := fun (n : Nat) => if 32 ≤ s.reg .VQ f.rd then n else 0
    let ceil := fun (n m : Nat) => (n + m - 1) / m
    (let dst := f.md.toNat / 16
     dead = true ∨ (ok (.vcvt h f) ∧ ty ≤ 4 ∧ dst ≤ 4 ∧ fmtSize ty = esz ∧ rows * cols * fmtSize dst ≤ 4096) →
      let g := 256 / max (fmtSize ty) (fmtSize dst)
      let p := ceil (rows * cols) g
      exec (.vcvt h f) s = .next (s.vecBegin (.vcvt h f) (s.vecAux f .VQ .VQ .VQ) p (q (ceil (rows * cols * fmtSize dst) 256))
        (fun j => s.tc + min (p - 1) (((j + 1) * 256 / fmtSize dst - 1) / g) + 4) 0 [] [])) ∧
    (let H := Map.get s.me.h (f.rc.toNat % 16)
     let cap := entryCap (hFmt H) false
     dead = false → ok (.vqnt h f) → s.vqntCheck H (rows * cols) esz = none → (f.md.toNat % 4 = 0 ∨ f.md.toNat % 4 = 2) →
      exec (.vqnt h f) s = .next (s.vecBegin (.vqnt h f) (s.vecAux f .VQ .VQ .H) (ceil (rows * cols) 64) (ceil (rows * cols) cap)
        (fun j => s.tc + min (ceil (rows * cols) 64 - 1) (((j + 1) * cap - 1) / 64) + 6) H
        [(quantScale (f.md.toNat % 4) (vqntExp f) (hFmt H) 0 + 1024).toNat] [])) ∧
    (∀ i c, (i, c) ∈ [(.vrsum h f, rows), (.vrmax h f, rows), (.vcsum h f, cols), (.vcmax h f, cols)] →
      dead = true ∨ (ok i ∧ (ty = 0 ∨ ty = 2) ∧ esz = 4) →
      let n := ceil (rows * cols * esz) 256
      exec i s = .next (s.vecBegin i (s.vecAux f .VQ .VQ .VQ) n (q (ceil (4 * c) 256)) (fun _ => s.tc + n + 24) 0 [] [])) ∧
    (dead = true ∨ (ok (.tmovR h f) ∧ ty ≤ 4) →
      exec (.tmovR h f) s = .next (s.vecBegin (.tmovR h f) (s.vecAux f .T .VQ .VQ) 16 0 (fun _ => 0) 0 [] [])) ∧
    (dead = true ∨ (ok (.tmovC h f) ∧ ty ≤ 4) →
      exec (.tmovC h f) s = .next (s.vecBegin (.tmovC h f) (s.vecAux f .VQ .T .VQ) 16 (q 16) (fun j => s.tc + j + 4) 0 [] [])) ∧
    (f.fn ≠ 0 → ok (.kmov h f) →
      exec (.kmov h f) s = .next (s.vecBegin (.kmov h f) (s.vecAux f (if f.fn = 2 then .VQ else .K) (if f.fn = 1 then .VQ else .K) .VQ) 2 0
        (fun _ => 0) 0 [] []))) ∧
  ∀ (h : Hdr) (f : Rrr) (s u : State) (a : Act) (e : Entry),
    let k := Map.get s.me.k (a.x 9)
    let elems := a.x 4 * a.x 5
    let sz := fmtSize (a.x 8)
    let reads := s.operands a.j [a.x 1] = some ([e], u)
    let flags := fun rs : List (Option (Nat × Flags)) => rs.foldl (fun x r => x ||| (r.map (·.2)).getD 0) 0
    let bytes := fun (w : Nat) (rs : List (Option (Nat × Flags))) => rs.flatMap fun r => leBytes w ((r.map (·.1)).getD 0)
    let word := fun (bs : List Byte) (i : Nat) => BitVec.ofNat 32 (leNat ((bs.drop (4 * i)).take 4))
    (a.ins = .vcvt h f →
      let dst := a.x 10 / 16
      let dsz := fmtSize dst
      let g := 256 / max sz dsz
      let e0 := g * a.j
      (if a.x 1 < 32 then u = s ∧ e = entryOf (s.getFile s.cur.1 .v (4096 * a.x 1 + e0 * sz / 256 * 256) 256)
        else if e0 * sz % 256 = 0 then reads else u = s ∧ e = entryOf (a.buf.take 256)) →
      (a.x 7 = 1 → vecStep a s = u.keepBuf (entryBytes e)) ∧
      (a.x 7 ≠ 1 → ∃ rs : List (Option (Nat × Flags)), rs.length = min g (elems - e0) ∧
        (∀ i, i < min g (elems - e0) → let x := entryElem sz e (e0 % (256 / sz) + i)
          rs[i]? = some (if k.getLsbD (e0 + i) then some (if a.x 8 = dst then (x, 0)
            else ((convert (a.x 11 % 4) dst (vecVal (a.x 8) x)).1.toNat, (convert (a.x 11 % 4) dst (vecVal (a.x 8) x)).2)) else none)) ∧
        let t := u.setFlags (a.start + a.n - 1 + 4) (flags rs)
        (a.x 0 < 32 → vecStep a s = (t.landElems (a.x 0) (e0 * dsz) dsz (t.tc + 4) (rs.map fun r => r.map (·.1))).keepBuf (entryBytes e)) ∧
        (32 ≤ a.x 0 → let out := (if e0 * dsz % 256 = 0 then [] else a.buf.drop 256) ++ bytes dsz rs
          vecStep a s = (if (e0 + g) * dsz % 256 = 0 ∨ a.j + 1 = a.n then t.fill t.cur.1 (a.id + e0 * dsz / 256) (entryOf out) else t).keepBuf
            (entryBytes e ++ out)))) ∧
    (a.ins = .vqnt h f → reads →
      let fmt := hFmt a.hnd
      let cap := entryCap fmt false
      let buf := a.buf ++ (List.range (min 64 (elems - 64 * a.j))).flatMap fun i => leBytes 4 (if k.getLsbD (64 * a.j + i) then entryElem 4 e i else 0)
      let done := 64 * (a.j + 1) % cap = 0 ∨ a.j + 1 = a.n
      let q := qntEntry fmt ((a.cu.getD 0 0 : Int) - 1024) ((List.range (buf.length / 4)).map (word buf))
      let rep := a.start + a.n - 1 + 6
      (a.x 7 = 1 → vecStep a s = u) ∧ (a.x 7 ≠ 1 → ¬done → vecStep a s = u.keepBuf buf) ∧
      (a.x 7 ≠ 1 → done → vecStep a s = (q.2.1.foldl (fun v i => v.stat a.hnd none (64 * a.j / cap * cap + i) true 0 rep)
        ((u.fill u.cur.1 (a.id + 64 * a.j / cap) q.1).setFlags rep q.2.2)).keepBuf [])) ∧
    (∀ isMax row, (a.ins, isMax, row) ∈ [(.vrsum h f, false, true), (.vrmax h f, true, true), (.vcsum h f, false, false), (.vcmax h f, true, false)] →
      reads →
      let none_ : BitVec 32 := if isMax then (if a.x 8 = 0 then 0xFF800000 else 0x80000000) else if a.x 8 = 0 then 0x80000000 else 0
      let buf := a.buf ++ (List.range (min 64 (elems - 64 * a.j))).flatMap fun i =>
        leBytes 4 (if k.getLsbD (64 * a.j + i) then entryElem 4 e i else none_.toNat)
      let n := if row then a.x 4 else a.x 5
      let m := if row then a.x 5 else a.x 4
      (a.x 7 = 1 → vecStep a s = u) ∧ (a.x 7 ≠ 1 → a.j + 1 < a.n → vecStep a s = u.keepBuf buf) ∧
      (a.x 7 ≠ 1 → a.n ≤ a.j + 1 → ∃ rs : List (BitVec 32 × Flags), rs.length = n ∧
        (∀ i, i < n → rs[i]? = some ((tree (reduceOp isMax (a.x 8)) 12 ((List.range m).map fun c =>
          (word buf (if row then i * a.x 5 + c else c * a.x 5 + i), (0 : Flags)))).headD (0, 0))) ∧
        let out := rs.flatMap fun r => leBytes 4 r.1.toNat
        let v := u.setFlags (a.start + a.n + 24) (rs.foldl (fun x r => x ||| r.2) 0)
        (a.x 0 < 32 → vecStep a s = v.land (a.start + a.n + 24) (.bytes .v (4096 * a.x 0) (out ++ List.replicate (4096 - out.length) 0))) ∧
        (32 ≤ a.x 0 → vecStep a s = (List.range ((out.length + 255) / 256)).foldl
          (fun v j => v.fill v.cur.1 (a.id + j) (entryOf ((out.drop (256 * j)).take 256))) v))) ∧
    (a.ins = .tmovR h f → reads →
      (a.x 7 = 1 → vecStep a s = u) ∧
      (a.x 7 ≠ 1 → vecStep a s = ((List.range (256 / sz)).filter fun i => k.getLsbD (256 / sz * a.j + i)).foldl
        (fun v i => v.land (v.tc + 4) (.bytes .t (16384 * a.x 0 + 256 * (16 * (a.x 10 / 64) + (256 / sz * a.j + i) / 64) + 4 * ((256 / sz * a.j + i) % 64))
          (leBytes 4 (widen32 (a.x 8) (entryElem sz e i, 0)).1.toNat))) u)) ∧
    (a.ins = .tmovC h f →
      (a.x 7 = 1 → vecStep a s = s) ∧
      (a.x 7 ≠ 1 → ∃ rs : List (Option (Nat × Flags)), rs.length = 256 / sz ∧
        (∀ i, i < 256 / sz → let b := 256 / sz * a.j + i
          let x := leNat (s.getFile s.cur.1 .t (16384 * a.x 1 + 256 * (b % 64) + 4 * (16 * (a.x 10 / 64) + b / 64)) 4)
          rs[i]? = some (if k.getLsbD b then some (match a.x 8 with
            | 1 => ((rnd16 0 (val32 (BitVec.ofNat 32 x))).1.toNat, (rnd16 0 (val32 (BitVec.ofNat 32 x))).2)
            | 3 => intResult 3 true (BitVec.ofNat 32 x).toInt
            | 4 => intResult 4 true (BitVec.ofNat 32 x).toInt
            | _ => (x, 0)) else none)) ∧
        let t := s.setFlags (a.start + a.n - 1 + 4) (flags rs)
        (a.x 0 < 32 → vecStep a s = t.landElems (a.x 0) (256 * a.j) sz (s.tc + 4) (rs.map fun r => r.map (·.1))) ∧
        (32 ≤ a.x 0 → vecStep a s = t.fill t.cur.1 (a.id + a.j) (entryOf (bytes sz rs))))) ∧
    (a.ins = .kmov h f →
      (a.x 11 = 1 → reads → let buf := a.buf ++ entryBytes e
        (a.j = 0 → vecStep a s = u.keepBuf buf) ∧
        (a.j ≠ 0 → vecStep a s = u.land (a.start + 3) (.k (a.x 0) (BitVec.allOnes 4096) (BitVec.ofNat 4096 (leNat buf))))) ∧
      (a.x 11 ≠ 1 → let bs := leBytes 256 ((Map.get s.me.k (a.x 1)).extractLsb' (2048 * a.j) 2048).toNat
        (a.x 0 < 32 → vecStep a s = s.land (a.start + 3) (.bytes .v (4096 * a.x 0 + 256 * a.j) bs)) ∧
        (32 ≤ a.x 0 → vecStep a s = s.push (a.x 0 - 32) (entryOf bs) (a.start + 3))))

/-- Moves between queue entries and vector registers, and the predicate instructions (R238, R228): what is written, and when. A pop takes the head
of its queue; the other 15 pieces of the register keep their bytes. -/
def Obligations.QueueMovesAndPredicates : Prop :=
  ∀ (h : Hdr) (f : Rrr) (s : State), isSup s.cur.1 = false →
    let p := f.md.toNat % 16
    let a := Map.get s.me.k (s.reg .K f.ra)
    let b := Map.get s.me.k (s.reg .K f.rb)
    (∀ e es, s.me.queue (s.reg .Q f.ra) = e :: es → e.ready ≤ s.tc → s.me.vregsFault (vregs s.str.now (.vqpop h f)) = none →
      exec (.vqpop h f) s = .next ((s.modMe fun x => x.setQueue (s.reg .Q f.ra) es).land (s.tc + 1)
        (.bytes .v (4096 * s.reg .V f.rd + 256 * p) (entryBytes e.data)))) ∧
    (s.me.vregsFault (vregs s.str.now (.vqpush h f)) = none →
      exec (.vqpush h f) s = .next (s.modMe fun x => { x with pushes := x.pushes ++ [⟨s.cur.2, s.reg .Q f.rd,
        ⟨entryOf (s.getFile s.cur.1 .v (4096 * s.reg .V f.ra + 256 * p) 256), s.tc + 1, false, none, s.cur⟩, s.cur.1, s.cur.2⟩] })) ∧
    (∃ v, exec (.kop h f) s = .next (s.land (s.tc + 2) (.k (s.reg .K f.rd) (BitVec.allOnes 4096) v)) ∧ ∀ i, i < 4096 →
      (f.fn = 0 → v.getLsbD i = (a.getLsbD i && b.getLsbD i)) ∧ (f.fn = 1 → v.getLsbD i = (a.getLsbD i || b.getLsbD i)) ∧
        (f.fn = 2 → v.getLsbD i = (a.getLsbD i ^^ b.getLsbD i)) ∧ (f.fn = 3 → v.getLsbD i = (a.getLsbD i && !b.getLsbD i)) ∧
        (f.fn = 4 → v.getLsbD i = !a.getLsbD i)) ∧
    (∃ v, exec (.kset h f) s = .next (s.land (s.tc + 2) (.k (s.reg .K f.rd) (BitVec.allOnes 4096) v)) ∧ ∀ i, i < 4096 →
      (f.fn = 0 → v.getLsbD i = false) ∧ (f.fn = 1 → v.getLsbD i = true) ∧
        (f.fn = 2 → v.getLsbD i = decide (i < s.me.shape.1 * s.me.shape.2.1))) ∧
    (f.fn = 0 → exec (.kmov h f) s = .next (s.land (s.tc + 2) (.k (s.reg .K f.rd) (BitVec.allOnes 4096) a)))

/-- The vector shape, the allotment and bank gating (R219, R220, R242): what each writes at tc + 1, and where each is the fatal allotment or
gated-bank fault. -/
def Obligations.VectorControl : Prop :=
  ∀ (h : Hdr) (f : Rri) (s : State), isSup s.cur.1 = false →
    let n := f.imm.toNat % 64
    let b := f.imm.toNat % 4
    let want := (f.imm.extractLsb' 2 2).toNat
    let quiet := fun lo hi => s.landsOn s.cur.1 s.tc lo hi = false
    exec (.vshape h f) s = .next (s.land (s.tc + 1) (.vshape ((f.imm.extractLsb' 0 20).zeroExtend 32))) ∧
    (s.me.allot ≤ n → exec (.valloc h f) s = .next (s.land (s.tc + 1) (.allot n))) ∧
    (n < s.me.allot → exec (.valloc h f) s = .next (s.faultAt s.cur.1 s.cur.2 .allotment 2 0 0)) ∧
    (n ≤ s.me.allot → quiet n s.me.allot → exec (.vshrink h f) s = .next (s.land (s.tc + 1) (.allot n))) ∧
    (s.me.allot < n → exec (.vshrink h f) s = .next (s.faultAt s.cur.1 s.cur.2 .allotment 2 0 0)) ∧
    (n ≤ s.me.allot → ¬quiet n s.me.allot → exec (.vshrink h f) s = .next (s.faultAt s.cur.1 s.cur.2 .allotment 3 0 0)) ∧
    (want = 0 → exec (.vgate h f) s = .next s) ∧
    (want = 1 → (s.me.bank b = .off ∨ s.me.bank b = .on ∧ quiet (8 * b) (8 * b + 8)) →
      exec (.vgate h f) s = .next (s.land (s.tc + 1) (.bank b false true))) ∧
    (want = 2 → (s.me.bank b = .on ∨ s.me.bank b = .retention) → quiet (8 * b) (8 * b + 8) →
      exec (.vgate h f) s = .next (s.land (s.tc + 1) (.bank b true false))) ∧
    ((want = 1 ∧ s.me.bank b = .retention ∨ want = 2 ∧ s.me.bank b = .off) → exec (.vgate h f) s = .next s) ∧
    ((want = 1 ∧ s.me.bank b = .on ∨ want = 2 ∧ (s.me.bank b = .on ∨ s.me.bank b = .retention)) → ¬quiet (8 * b) (8 * b + 8) →
      exec (.vgate h f) s = .next (s.faultAt s.cur.1 s.cur.2 .gatedBank 2 0 0))

/-! ## The matrix unit -/

/-- Matrix commands with a format word (R245 to R253, R257 to R261): each pops its word at issue; where the word's reserved bits are zero and the
command's conditions hold, the array holds the command for its time, and its pieces follow one a tc: a load of the standby set that
becomes active nL + 64 tc later, rows of products, entries added to or put into a bank, zeroed rows, and drained rows. -/
def Obligations.MatrixCommands : Prop :=
  ∀ (h : Hdr) (f : Mx) (s : State) (w : Word) (ws : List Word), s.guard = true → s.me.fq = w :: ws → w.extractLsb' 0 7 = 0 →
    let u := s.modMe fun x => { x with fq := ws }
    let bank := s.me.contents f.bank
    let rows := f.nrow.toNat + 1
    let pans := f.npan.toNat + 1
    (∀ n, pairOk (wAfmt w) (wBfmt w) = true → ¬(pairMode (wAfmt w) (wBfmt w) = true ∧ wWest w = true) → n = ldwLines (wAfmt w) (wBfmt w) →
      s.me.arr.switch = none → (∀ c ∈ s.me.arr.held, s.tc < c.done → c.set ≠ some (1 - s.me.arr.active)) →
      let x := s.tc + n + 64
      exec (.mxLdw h f) s = .next (((((u.holdCmd x none).modArr fun r => { r with switch := some x }).land x
        (.switchSet (wAfmt w) (wBfmt w))).begin (.mxLdw h f) 0 n 0 [w.toNat] [f.wline.toNat] []).pieceWith matStep)) ∧
    (let a := s.me.arr
     wAfmt w = a.wfmt.getD (2 * a.active) 1 → wBfmt w = a.wfmt.getD (2 * a.active + 1) 1 →
      let east := s.me.eastFused s.cur.1
      let k := (f.fn.extractLsb' 0 6).toNat
      exec (.mxMac h f) s = .next (((((u.holdCmd (s.tc + f.nrow.toNat + 129 + if east then 2 else 0) (some a.active)).modArr fun r =>
          { r with last := [s.tc, 0, f.nrow.toNat, k, wAfmt w, wBfmt w, f.qsrc.toNat] })).begin (.mxMac h f) 0 rows 0 [w.toNat]
        [f.qsrc.toNat, bank, f.row.toNat, 64 * f.pan.toNat, k + 1, a.active, if f.fn.getLsbD 6 then 1 else 0, if east then 1 else 0]
        []).pieceWith matStep)) ∧
    exec (.mxZero h f) s = .next ((u.holdCmd (s.tc + 1) none).land (s.tc + 1) (.accZero bank f.row.toNat rows f.pan.toNat pans)) ∧
    (wAfmt w = 0 →
      exec (.mxFill h f) s = .next (((u.holdCmd (s.tc + rows * pans + 1) none).begin (.mxFill h f) 0 (rows * pans) 0 []
        [f.qsrc.toNat, bank, f.row.toNat, f.pan.toNat, pans, if f.fn.getLsbD 0 then 1 else 0] []).pieceWith matStep)) ∧
    (let n := (f.fn.extractLsb' 0 4).toNat
     let H := Map.get s.me.h n
     let q := f.fn.getLsbD 4
     wOfmt w < 6 → (wQmode w = 0 ∨ wQmode w = 2) → wTq w = false → s.drainCheck w f = none →
      let last := max (s.tc + rows * pans) (max (if q then s.tc + rows * pans + 1 else drainLand H rows pans s.tc false) 0)
      let v := u.holdCmd last none
      let v := if f.fn.getLsbD 5 then v.modArr fun r => { r with evt := setAt r.evt bank 0, evtTaint := setAt r.evtTaint bank 0 } else v
      exec (.mxDrain h f) s = .next ((v.begin (.mxDrain h f) 0 (rows * pans) H []
        [bank, f.row.toNat, f.pan.toNat, pans, if f.fn.getLsbD 6 then 1 else 0, last, (s.me.arr.evt.getD bank 0).toNat,
          (quantScale (wQmode w) (wQexp w) (hFmt H) 0 + 1024).toNat, (0 + 1024 : Int).toNat, if q then f.qsrc.toNat + 1 else 0, 0]
        (leBytes 32 (Map.get s.me.h (n + 1)).toNat)).pieceWith matStep))

/-- Matrix commands without a format word (R248, R262, R263, R265 to R267): a swap, a fusion change, and a rattle policy take effect at tc + 1;
the self-test pushes a word whose bits above 3 are zero and occupies M for 72 tc; a bank's event bits are pushed, and cleared where the
word says so; a codebook is filled from entries. The self-test's four bits are free (log entry 9). -/
def Obligations.MatrixControl : Prop :=
  ∀ (h : Hdr) (f : Mx) (s : State), s.guard = true →
    let held := fun (t : Nat) => s.holdCmd t none
    let alone := ∀ i, i < 4 → (s.core (4 * quadOf s.cur.1 + i)).holds s.tc true = false
    let bank := s.me.contents f.bank
    exec (.mxSwap h f) s = .next ((held (s.tc + 1)).land (s.tc + 1) .swapBanks) ∧
    (∀ i on k, (i = .mxFuseOn h f ∧ on = true ∧ k = 1 ∨ i = .mxFuseOff h f ∧ on = false ∧ k = 0) →
      (alone → exec i s = .next (((held (s.tc + 1)).modArr fun r => { r with last := [s.tc, 1, k] }).land (s.tc + 1) (.fuse on))) ∧
      (¬alone → isSup s.cur.1 = false → exec i s = .next (s.faultAt s.cur.1 s.cur.2 .matrix 3 0 0))) ∧
    exec (.mxTestFatal h f) s = .next ((held s.tc).land (s.tc + 1) (.policy false)) ∧
    exec (.mxTestReport h f) s = .next ((held s.tc).land (s.tc + 1) (.policy true)) ∧
    (s.me.holds s.tc false = false → ∃ (e : Entry) (v : State), e.toNat < 16 ∧ v = { s with free := v.free } ∧
      exec (.mxTestRun h f) s = .next (((v.holdCmd (s.tc + 72) none).push f.qsrc.toNat e (s.tc + 72)).occupy 72)) ∧
    (∃ e : Entry, (∀ i, i < 2048 → e.getLsbD i = (s.me.arr.evt.getD bank 0).getLsbD i) ∧
      exec (.mxEvt h f) s = .next (let v := (held (s.tc + 1)).push f.qsrc.toNat e (s.tc + 1)
        if f.fn.getLsbD 0 then v.modArr fun r => { r with evt := setAt r.evt bank 0, evtTaint := setAt r.evtTaint bank 0 } else v)) ∧
    (let n := (f.fn.extractLsb' 6 3).toNat + 1
     exec (.mxCb h f) s = .next (((held (s.tc + n)).begin (.mxCb h f) 0 n 0 []
      [f.qsrc.toNat, 2048 * (f.fn.extractLsb' 0 3).toNat + 256 * (f.fn.extractLsb' 3 3).toNat] []).pieceWith matStep))

/-- What lands in an accumulator bank (R254 to R257): a row's column replaces its element or is added to it in FP32, an entry of a fill likewise,
a zeroed block reads 0, and every other element of every core keeps its value. A column of a sub-array whose rattle failed under the report
policy is a free value (R265, log entry 9). Then the pieces (R253 to R255, R257, R259, R260, R264, R267): a row of `MX.MAC` pops its entry, or in the
east core of a fused pair takes the west core's, and its 64 sums are the column chains of the rounded products of the entry's elements with the
weights of its set, landing 66 tc later, 68 in the east; `MX.FILL` and `MX.CB` pop an entry that lands 2 tc and 1 tc later; `MX.DRAIN` puts out a
row of a panel as it stands, as an entry 2 tc later or as elements through its handle, and as a transposed copy, and with ZAFT zeroes it. Under a false stage predicate
a piece pops, or pushes zeros. That a drain to a queue counts its overflows whatever QMODE is is the model's choice (log entry 70). -/
def Obligations.AccumulatorLandings : Prop :=
  (∀ (s : State) (tc c : Nat), Map.wf (s.core c).arr.acc = true →
    let acc := fun (t : State) (b r k : Nat) => Map.get (t.core c).arr.acc (accKey b r k)
    (∀ b r k ovw int deep v ev vs, r < 96 → k < 192 →
      let t := s.apply tc c (.mac b r k ovw int deep ((v, ev) :: vs))
      ((s.core c).arr.unsound &&& subArrays k deep = 0 → acc t b r k = (if ovw then v else (fadd (acc s b r k) v).1)) ∧
      ((s.core c).arr.unsound &&& subArrays k deep ≠ 0 → acc t b r k = BitVec.ofNat 32 (Config.freeNat s.free)) ∧
        ∀ b' r' k', r' < 96 → k' < 192 → (b', r', k') ≠ (b, r, k) → acc t b' r' k' = acc s b' r' k') ∧
    (∀ b r p add (vs : List (BitVec 32)), r < 96 → p < 3 → vs.length = 64 →
      let t := s.apply tc c (.acc b r p add vs)
      ∀ b' r' k', r' < 96 → k' < 192 → acc t b' r' k' =
        if b' = b ∧ r' = r ∧ k' / 64 = p then (if add then (fadd (acc s b r k') (vs.getD (k' % 64) 0)).1 else vs.getD (k' % 64) 0)
        else acc s b' r' k') ∧
    (∀ b r rows p ps, r + rows ≤ 96 → p + ps ≤ 3 →
      let t := s.apply tc c (.accZero b r rows p ps)
      ∀ b' r' k', r' < 96 → k' < 192 → acc t b' r' k' =
        if b' = b ∧ r ≤ r' ∧ r' < r + rows ∧ p ≤ k' / 64 ∧ k' / 64 < p + ps then 0 else acc s b' r' k')) ∧
  (∀ (s u : State) (a : Act) (h : Hdr) (f : Mx) (e : Entry),
    (a.ins = .mxMac h f → a.x 7 = 1 ∧ u = s ∧ e = (s.core (s.cur.1 - 1)).arr.fwd ∨ a.x 7 = 0 ∧ s.operands a.j [32 + a.x 0] = some ([e], u) →
      let w := BitVec.ofNat 64 (a.cu.getD 0 0)
      let v := u.modArr fun r => { r with fwd := e }
      (s.guard = false → matStep a s = v) ∧
      (s.guard = true → ∃ sums : List (BitVec 32 × BitVec 3), sums.length = 64 ∧
        matStep a s = v.land (s.tc + 66 + 2 * a.x 7) (.mac (a.x 1) (a.x 2 + a.j) (a.x 3) (a.x 6 == 1) (intMode (wAfmt w)) (32 < a.x 4) sums) ∧
        ∀ n, n < 64 → ∃ ps : List (BitVec 32 × Flags), ps.length = a.x 4 ∧
          (sums.map (·.1))[n]? = some (colChain (ps.map (·.1))).1 ∧
          ∀ c, c < a.x 4 → let x := Map.get s.me.arr.wset (cellKey (a.x 5) c n)
            ps[c]? = some (if pairMode (wAfmt w) (wBfmt w) then pairProd (wScale w) e c x
              else prodOf (wAfmt w) (wBfmt w) (wScale w) (aElem (wAfmt w) c e) x))) ∧
    (a.ins = .mxFill h f → s.operands a.j [32 + a.x 0] = some ([e], u) → (s.guard = false → matStep a s = u) ∧
      (s.guard = true → ∃ vs : List (BitVec 32), vs.length = 64 ∧ (∀ i, i < 64 → vs[i]? = some (e.extractLsb' (32 * i) 32)) ∧
        matStep a s = u.land (s.tc + 2) (.acc (a.x 1) (a.x 2 + a.j / a.x 4) (a.x 3 + a.j % a.x 4) (a.x 5 == 1) vs))) ∧
    (a.ins = .mxCb h f → s.operands a.j [32 + a.x 0] = some ([e], u) →
      matStep a s = if s.guard then u.land (s.tc + 1) (.bytes .cb (a.x 1 + 256 * a.j) (entryBytes e)) else u) ∧
    (a.ins = .mxDrain h f → s.guard = false → matStep a s = if a.x 9 = 0 then s else s.push (a.x 9 - 1) 0 (s.tc + 2)) ∧
    (a.ins = .mxDrain h f → s.guard = true →
      let i := a.j / a.x 3
      let p := a.j % a.x 3
      let x := fun n : Nat => Map.get s.me.arr.acc (accKey (a.x 0) (a.x 1 + i) (64 * (a.x 2 + p) + n))
      let used := s.me.panelTaint (a.x 0) (a.x 1 + i) (a.x 2 + p)
      let ev : BitVec 8 := if a.j = 0 then BitVec.ofNat 8 (8 * a.x 6) else 0
      let done := fun v : State => if a.x 4 = 1 ∧ v.alive then v.land (v.tc + 1) (.accZero (a.x 0) (a.x 1 + i) 1 (a.x 2 + p) 1) else v
      let t := (a.x 7 : Int) - 1024
      (a.x 9 ≠ 0 → a.x 10 = 0 →
        let r := qntEntry (hFmt a.hnd) t ((List.range 64).map x)
        matStep a s = done ((r.2.1.foldl (fun v n => v.stat a.hnd none (i * 64 * a.x 3 + 64 * p + n) true 0 (a.x 5))
          ((s.push (a.x 9 - 1) r.1 (s.tc + 2)).setFlags (a.x 5) r.2.2)).noteDrain used s.uid a.hnd [] (some (a.x 9 - 1, s.tc + 2)))) ∧
      (a.x 9 = 0 → ∃ x' : Nat → BitVec 32, (∀ n, n < 64 → x' n = x n) ∧
        let sl := drainSlots a.hnd i (64 * p) false
        let v := (s.writePieceEv a.ins a.hnd (2 * a.j) [64 * p, i, 0, 0] (quantPiece 2 (hFmt a.hnd) t sl x') ev (a.x 5)).noteDrain used s.uid a.hnd sl none
        let h2 : Handle := BitVec.ofNat 256 (leNat (a.buf.take 32))
        let t2 := (a.x 8 : Int) - 1024
        (a.x 10 = 0 ∨ v.alive = false → matStep a s = done v) ∧
        (a.x 10 ≠ 0 → v.alive = true → hFmt h2 ≠ 5 →
          let sl2 := drainSlots h2 i (64 * p) true
          matStep a s = done ((v.writePieceEv a.ins h2 (2 * a.j + 1) [i, 64 * p, 0, 0] (quantPiece 2 (hFmt h2) t2 sl2 x') ev (a.x 5)).noteDrain used v.uid
            h2 sl2 none)) ∧
        (a.x 10 ≠ 0 → v.alive = true → hFmt h2 = 5 → i % 32 ≠ 31 → matStep a s = done (v.keepBuf (a.buf ++ (List.range 64).flatMap fun n => leBytes 4 (x n).toNat))) ∧
        (a.x 10 ≠ 0 → v.alive = true → hFmt h2 = 5 → i % 32 = 31 →
          let rows := a.buf.drop 32 ++ (List.range 64).flatMap fun n => leBytes 4 (x n).toNat
          let sl2 := copySlots h2 i (64 * p)
          let ev2 : BitVec 8 := if i = 31 ∧ p = 0 then BitVec.ofNat 8 (8 * a.x 6) else 0
          let y := (v.writePieceEv a.ins h2 (2 * a.j + 1) [i, 64 * p, 0, 0] (quantPiece 64 5 t2 sl2 fun k =>
              BitVec.ofNat 32 (leNat ((rows.drop (4 * (64 * (k % 32 * a.x 3 + p) + k / 32))).take 4))) ev2 (a.x 5)).noteDrain
            (v.me.arr.drained.foldl (fun b d => b ||| d.bits) used) v.uid h2 sl2 none
          matStep a s = done (y.keepBuf (a.buf.take 32 ++ if p = a.x 3 - 1 then [] else rows))))))

/-! ## Waiting, joining, cursors and traps -/

/-- Waiting words and joining points (R271 to R279): `NOP` does nothing; `WAIT.CY` occupies max(n, 1) tc;
`WAIT.TIME`, once its hold has ended, leaves the target on its core for the stores that follow (R313); a joining point stands for its stream on
its tc; `FENCE` orders the stream's later accesses, whatever its scope, which is the model's choice (log entry 71); and `YIELD` marks the cohort. -/
def Obligations.WaitingWords : Prop :=
  ∀ (h : Hdr) (f : Sys) (s : State),
    exec (.nop h f) s = .next s ∧
    (∀ n, n = (if f.fn = 0 then f.imm.toNat else (Map.get s.str.lk (f.imm.extractLsb' 0 4).toNat).toNat) →
      exec (.waitCy h f) s = .next (s.modStr fun x => { x with base := s.str.now.tc + max n 1 })) ∧
    (s.guard = true → s.sid = .C → exec (.waitTime h f) s = .next (s.modStr fun x =>
      { x with stamp := some (s.me.sAt (s.reg .S f.ra) (s.tc - s.my.horizon) + f.imm.signExtend 64) })) ∧
    (∀ i op arg, (i, op, arg) ∈ [(Instr.rdv h f, 0xE3, 0), (.rdvEnd h f, 0xE3, 1), (.phase h f, 0xE4, f.scope.toNat), (.bar h f, 0xE6, f.scope.toNat),
        (.curtain h f, 0xE7, f.imm.toNat)] → exec i s = .next (s.modStr fun x => { x with join := some ⟨op, arg⟩ })) ∧
    (s.guard = true → exec (.fence h f) s = .next (s.modStr fun x => { x with fences := x.fences + 1 }) ∧
      ∃ t, exec (.yield h f) s = .next t ∧ t.my.ymark = some (s.my.ymark.getD s.tc) ∧
        (s.my.ymark = none → t = s.modMy fun x => { x with ymark := some s.tc }))

/-- Cursors and traps (R92, R280 to R282): new cursors hold from issue + 1 on, a reading of them is an entry of four halfwords, the words of the
delivered-trap register are delivered by stream, and a software trap is recorded with its ARG, tc and word, where the stream's own is pending
already only as its DROP. -/
def Obligations.CursorsAndTraps : Prop :=
  ∀ (h : Hdr) (f : Sys) (s : State), s.guard = true →
    (∀ e es, f.fn = 0 → s.me.queue (s.reg .Q f.ra) = e :: es → e.ready ≤ s.tc →
      exec (.curSet h f) s = .next ((s.modMe fun x => x.setQueue (s.reg .Q f.ra) es).land (s.tc + 1) (.cursors s.cur.2
        ((List.range 4).map fun d => (e.data.extractLsb' (16 * d) 16).toNat)))) ∧
    (f.fn ≠ 0 → ∃ cu, exec (.curSet h f) s = .next (s.land (s.tc + 1) (.cursors s.cur.2 cu)) ∧ cu.length = s.str.cu.length ∧
      ∀ d, d < s.str.cu.length → cu.getD d 0 = if d = (f.imm.extractLsb' 16 2).toNat then (f.imm.extractLsb' 0 16).toNat else s.str.cu.getD d 0) ∧
    (∀ a b c d : Nat, s.str.cu = [a, b, c, d] → a < 65536 → b < 65536 → c < 65536 → d < 65536 →
      ∃ e : Entry, exec (.curGetCur h f) s = .next (s.push (s.reg .Q f.ra) e (s.tc + 1)) ∧
        (List.range 4).map (fun d => (e.extractLsb' (16 * d) 16).toNat) = [a, b, c, d] ∧ ∀ i, 64 ≤ i → e.getLsbD i = false) ∧
    exec (.curGetTrap h f) s = .next (
      let v := s.str.dtrap.getD (f.imm.extractLsb' 0 3).toNat 0
      if s.sid = .C then s.landS f.ra (s.tc + 1) v else s.push (s.reg .Q f.ra) (v.zeroExtend 2048) (s.tc + 1)) ∧
    (let mine := fun t : Trap => t.code == 4 && t.core == s.cur.1 && t.stream == s.cur.2
     (s.my.traps.any mine = false → exec (.trap h f) s = .next (s.modMy fun x => { x with traps := x.traps ++
        [⟨4, s.me.rank, s.cur.2, s.cur.1, false, s.str.now.pc, f.imm.toNat, s.my.outTc s.str.now.tc, s.str.now.word, BitVec.allOnes 64,
          s.my.outTc s.tc⟩] })) ∧
     let drop := fun t : Trap => if mine t then { t with drop := true } else t
     (s.my.traps.any mine = true → exec (.trap h f) s = .next (s.modMy fun x => { x with traps := x.traps.map drop })))

/-! ## Statistics records and power leases -/

/-- Record instructions (R108, R113, R114, R290, R291): a seal or clear of a granted record waits for its stream's next boundary at or above its
scope, up to four of them; an index without a grant and a fifth one are record faults; and `STAT.RD` is a phased access for the image of the
record as the core sees it at issue, 256 bytes long, that its class's arrival delivers and that
returns after a free delay (log entry 8). -/
def Obligations.RecordInstructions : Prop :=
  ∀ (h : Hdr) (f : Sys) (s : State), s.guard = true →
    (∀ i clr all, (i = .statSeal h f ∧ clr = false ∧ all = false ∨ i = .statClr h f ∧ clr = true ∧ all = f.fn.getLsbD 1) →
      let H := s.rh f.ra
      let hf := f.fn.getLsbD 0
      let idx := if hf then (H.extractLsb' 200 12).toNat else (f.imm.extractLsb' 0 12).toNat
      (hf = true → H.getLsbD 255 = false ∧ H.extractLsb' 196 4 = 0 ∧ H.getLsbD 212 = true) →
        ((s.record idx).isSome = true → s.str.seals.length < 4 →
          exec i s = .next (s.modStr fun x => { x with seals := x.seals ++ [⟨clr, all, f.scope.toNat, idx⟩] })) ∧
        ((s.record idx).isSome = true → 4 ≤ s.str.seals.length → exec i s = .next (s.fault .record 3)) ∧
        (s.record idx = none → exec i s = .next (s.fault .record 1))) ∧
    (∀ r, s.record (f.imm.extractLsb' 0 12).toNat = some r → ∃ t, exec (.statRd h f) s = .next t ∧
      ∃ a, t.outs = s.outs ++ [a] ∧ a.id = s.uid ∧ a.kind = .read ∧ a.tc = s.tc ∧ a.st = .sent ∧
        a.arr = s.tc + s.my.latcls.getD (f.imm.extractLsb' 17 2).toNat 0 ∧
        a.parts = [(0, s.my.recImage r s.cur.1 (s.my.writeTc s.tc))] ∧
        (r.othr.toNat < 2 ^ 32 → ((a.parts.headD (0, [])).2.drop 4).take 4 = leBytes 4 r.smax.toNat ∧
          ((a.parts.headD (0, [])).2.drop 8).take 4 = leBytes 4 r.nseal.toNat) ∧
        t.timers = s.timers ++ [(s.clock + 1 + Config.delay s.free, .phasedReplyArrival s.uid)] ∧
        (s.sid = .C → t.cores = s.cores) ∧
        (s.sid ≠ .C → t.me.pushes = s.me.pushes ++ [⟨s.cur.2, s.reg .Q f.ra, ⟨0, a.arr + s.my.horizon, true, some s.uid, s.cur⟩, s.cur.1, s.cur.2⟩]))

/-- Power leases (R292, R353): the granted level is the one asked for or the cohort's ceiling, the new lease replaces one held and expires its
time later, and releasing a lease puts the cohort back to its declared level; without a lease the release has no effect. The quads of
a cohort that is loaded or runs keep their frequency until a platform hold, asked for here where the level in force calls for another one, changes it;
1200 + 50v MHz is 48 + 2v steps of 25 MHz. Microseconds are 1750 clocks (the model's choice, log entry 6). -/
def Obligations.PowerLeases : Prop :=
  ∀ (h : Hdr) (f : Sys) (s : State),
    let v := min (f.imm.extractLsb' 0 4).toNat s.my.ceil
    let us := (f.imm.extractLsb' 8 24).toNat
    let wanted := fun t : State => 48 + 2 * min (t.levelInForce s.me.slot) 15
    let follows := fun t : State => (s.my.live = false → s.my.st ≠ 1 → t.my.freq = wanted t) ∧
      (s.my.live = true ∨ s.my.st = 1 → t.my.freq = s.my.freq ∧
        (t.my.freq = wanted t ∨ ∃ q ∈ t.my.reqs, q.cause = .platform 1 ∧ q.cleared = none))
    (∃ t : State, exec (.pwrAcq h f) s = .next (t.landS f.ra (s.tc + 1) (BitVec.ofNat 64 v)) ∧ t.my.lease = some ⟨v, s.ns + 1000 * us⟩ ∧
      t.timers.getLast? = some (s.clock + 1750 * us, .leaseExpiry s.me.slot (s.ns + 1000 * us)) ∧ t.my.decl = s.my.decl ∧ t.my.ceil = s.my.ceil ∧
      follows t) ∧
    (s.my.lease = none → exec (.pwrRel h f) s = .next s) ∧
    (s.my.lease ≠ none → ∃ t, exec (.pwrRel h f) s = .next t ∧ t.my.lease = none ∧ t.my.decl = s.my.decl ∧ t.my.ceil = s.my.ceil ∧ follows t)

/-! ## Rounds, marks and collectives -/

/-- Write rounds (R283 to R288, R304, R377, R380): each instruction acts in its state only, on the group granted to its slot, and once on a tc. OPEN
opens the round after the last committed one and gives its number, PREP prepares it where every write of it is published and the log has room for
its seal, which a doomed round does not need, COMMIT answers 0 for a committed round and 1 for another, whose sectors it restores, and ABORT
dooms and restores the round; elsewhere round-state faults 1, 2, 3, 5, 7 and 8. Where another core's C stream of the tc has the same instruction with other
operands, none acts, which is fault 3. That a PREP which finds no room for its seal takes fault 7 is the model's choice (log entry 59). -/
def Obligations.WriteRounds : Prop :=
  ∀ (h : Hdr) (f : Sys) (s : State) (gs : Nat), gs = (f.imm.extractLsb' 0 4).toNat → (∀ o ∈ s.my.roundOps, o.grp ≠ gs) →
    let ends := fun (i : Instr) (u : State) => ∃ ops, exec i s = .next (u.modMy fun x => { x with roundOps := ops })
    let ra : Word := BitVec.ofNat 64 (s.reg .S f.ra)
    let forms : List (Nat × Word × Instr) := [(0xEB, ra, .rndOpen h f), (0xEC, 0, .rndPrep h f), (0xED, ra, .rndCommit h f), (0xEE, 0, .rndAbort h f)]
    (∀ e ∈ forms, s.differs e.1 gs e.2.1 f.imm.toNat = true → ends e.2.2 (s.fault .round 3)) ∧
    ((∀ e ∈ forms, s.differs e.1 gs e.2.1 f.imm.toNat = false) →
    (s.my.grpOf.find? (fun e => e.1 == gs) = none →
      ∀ i ∈ [Instr.rndOpen h f, .rndPrep h f, .rndCommit h f, .rndAbort h f], ends i (s.fault .round 5)) ∧
    ∀ n g, s.my.grpOf.find? (fun e => e.1 == gs) = some (n, g) →
      let r := s.my.round gs
      let undone := (s.restore s.me.slot gs g s.cur.1).dev
      ((s.group g).st = 4 → ∀ i ∈ [Instr.rndOpen h f, .rndPrep h f, .rndCommit h f, .rndAbort h f], ends i (s.fault .round 8)) ∧
      ((s.group g).st ≠ 4 →
        (r.st = .idle →
          (∃ t : State, exec (.rndOpen h f) s = .next (t.landS f.ra (s.tc + 1) (BitVec.ofNat 64 ((s.group g).lastc.toNat + 1))) ∧
            t.my.round gs = { Round.idle with st := .opened, num := (s.group g).lastc.toNat + 1, start := s.my.writeTc s.tc, opener := s.cur.1 } ∧
            (t.group g).rst = 1 ∧ (t.group g).lastc = (s.group g).lastc ∧ t.dev = s.dev) ∧
          ends (.rndPrep h f) (s.fault .round 3) ∧ ends (.rndCommit h f) (s.fault .round 3) ∧ ends (.rndAbort h f) (s.fault .round 3)) ∧
        (r.st ≠ .idle → ends (.rndOpen h f) (s.fault .round 2) ∧
          ∃ t, exec (.rndAbort h f) s = .next t ∧ (t.my.round gs).st = .idle ∧
            (r.settled = some true → t.dev = s.dev) ∧
            (r.settled ≠ some true → (t.group g).rst = 0) ∧ (r.settled = some false → t.dev = undone) ∧
            (r.settled = none → t.dev = ((s.doom g).restore s.me.slot gs g s.cur.1).dev)) ∧
        (r.st = .opened → ends (.rndCommit h f) (s.fault .round 3) ∧
          (∀ w, s.uncovered s.me.slot gs = some w → ends (.rndPrep h f) (s.faultPtr .round 1 w)) ∧
          (s.uncovered s.me.slot gs = none → r.doomed = true → ∃ t, exec (.rndPrep h f) s = .next t ∧ (t.my.round gs).st = .prepared ∧
            (t.my.round gs).doomed = true ∧ t.dev = s.dev) ∧
          (s.uncovered s.me.slot gs = none → r.doomed = false →
            (freePlace s.plat.plog (s.plat.rlog.map (·.at_)) = none → ends (.rndPrep h f) (s.fault .round 7)) ∧
            (freePlace s.plat.plog (s.plat.rlog.map (·.at_)) ≠ none → ∃ t, exec (.rndPrep h f) s = .next t ∧ (t.my.round gs).st = .prepared ∧
              (t.my.round gs).num = r.num ∧ (t.group g).rst = 2 ∧ (t.group g).lastc = (s.group g).lastc))) ∧
        (r.st = .prepared → ends (.rndPrep h f) (s.fault .round 3) ∧
          (r.settled = some true → ∃ t : State, exec (.rndCommit h f) s = .next (t.landS f.ra (s.tc + 1) 0) ∧ (t.my.round gs).st = .idle ∧ t.dev = s.dev) ∧
          (r.settled ≠ some true → ∃ t : State, exec (.rndCommit h f) s = .next (t.landS f.ra (s.tc + 1) 1) ∧ (t.my.round gs).st = .idle ∧
            (t.group g).rst = 0 ∧ t.dev = undone))))

/-- Marks (R284, R304, R375): `PROT.MARK` marks its range in its kind, or takes the slot's marks out of it, while every other byte's mark stays; another
tag, a base off 64 KiB, an empty range, one that leaves the protected window, a clash, or a round that is not IDLE is round-state fault 4, a
slot without a group fault 5, and a compressed page page fault 2. The same `PROT.MARK` of a second core of the tc has no effect of its own,
and where one of another core differs none acts, which is fault 4 of the first core. That FN 0 takes its range out of marks which only overlap it is the
model's reading (log entry 42). -/
def Obligations.RangeMarks : Prop :=
  ∀ (h : Hdr) (f : Sys) (s : State) (gs : Nat), gs = (f.imm.extractLsb' 24 4).toNat →
    let p := s.rs f.ra
    let base := ptrOff p
    let len := (f.imm.extractLsb' 0 24).toNat * 65536
    let arg := f.imm.toNat + f.fn.toNat * 2 ^ 32
    let ends := fun (u : State) => ∃ ops, exec (.protMark h f) s = .next (u.modMy fun x => { x with roundOps := ops })
    let before := s.my.roundOps.find? fun o => o.code == 0xEF && o.grp == gs
    (∀ o, before = some o → o.val = p → o.arg = arg → o.result = none → exec (.protMark h f) s = .next s) ∧
    (∀ o, before = some o → (o.val ≠ p ∨ o.arg ≠ arg) →
      exec (.protMark h f) s = .next (if ((s.core o.core).stream 0).stopped then s
        else s.faultAt o.core 0 .round 4 o.val (0x80 + ptrTag o.val))) ∧
    (before = none → s.differs 0xEF gs p arg = true → ends (s.faultPtr .round 4 p)) ∧
    (before = none → s.differs 0xEF gs p arg = false →
      (s.my.grpOf.find? (fun e => e.1 == gs) = none → ends (s.faultPtr .round 5 p)) ∧
      ∀ n g, s.my.grpOf.find? (fun e => e.1 == gs) = some (n, g) →
        let win := (s.group g).window
        let good := (s.my.round gs).st = .idle ∧ ptrTag p = 0 ∧ base % 65536 = 0 ∧ len ≠ 0 ∧ win.1 ≤ base ∧ base + len ≤ win.1 + win.2 ∧
          ∀ m ∈ s.my.marks, m.gone = none → base < m.base + m.len → m.base < base + len → m.grp = gs ∧ (f.fn = 0 ∨ m.prot = (f.fn == 2))
        let bad := fun i => ∃ l a b, s.walk s.my (p + BitVec.ofNat 64 (i * 65536)) = .leaf l a b ∧ l.getLsbD 3 = true
        let marked := fun (t : State) (b j : Nat) (k : Bool) =>
          ∃ m ∈ t.my.marks, m.gone = none ∧ m.grp = j ∧ m.prot = k ∧ m.base ≤ b ∧ b < m.base + m.len
        (¬good → ends (s.faultPtr .round 4 p)) ∧
        (∀ i, good → i < len / 65536 → bad i → (∀ j < i, ¬bad j) → ends (s.faultPtr .page 2 (p + BitVec.ofNat 64 (i * 65536)))) ∧
        (good → (∀ i < len / 65536, ¬bad i) → ∃ t, exec (.protMark h f) s = .next t ∧
          (f.fn = 0 → ∀ b j k, marked t b j k ↔ marked s b j k ∧ ¬(j = gs ∧ base ≤ b ∧ b < base + len)) ∧
          (f.fn ≠ 0 → ∀ b j k, marked t b j k ↔ marked s b j k ∨ (j = gs ∧ k = (f.fn == 2) ∧ base ≤ b ∧ b < base + len))))

/-- Collectives (R83, R134, R293 to R296, R362): with its checks passed, `COLL` starts collective `id` with the descriptor as it stands and the
bytes of a timed source; a phased source and a phased destination are accesses of their own. `COLL_COMPLETE` gives it the combined bytes
where the participants agree, fault 4 where they do not, and waits for a source that is not read yet. `COLL.WAIT` takes a completed one
away and opens its ranges to the members; a byte of its phased buffers that members have written since `COLL` ends with one of its values, and
the buffers stay as they are where they have not (R134); a timed destination receives the bytes on the next tc; an id in use, one not in use, a bad
descriptor and a slot without a group are faults 1, 2, 3 and 5. A collective's record updates are those of its `COLL.WAIT`. The order of the checks is the
model's reading (log entry 43), the later planning of a completion log entry 8, and the tc of the record updates log entry 75. -/
def Obligations.Collectives : Prop :=
  ∀ (h : Hdr) (f : Sys) (s : State) (id gs : Nat), id = (f.imm.extractLsb' 0 2).toNat → gs = (f.imm.extractLsb' 4 4).toNat →
    let p := s.rs f.ra
    let d := s.timedRead p 64
    let descOk := s.ptrCheck p 64 (fun t => t == 8 || t == 9) 1 = none
    (descOk → s.my.collOf.find? (fun e => e.1 == gs) = none → exec (.coll h f) s = .next (s.fault .collective 5)) ∧
    (∀ n ps, descOk → s.my.collOf.find? (fun e => e.1 == gs) = some (n, ps) →
      let np := ps.getD 0 1
      let srcLen := collSrcN d np (ps.getD 1 0) * collSize d
      let dstLen := collDstN d np * collSize d
      let inUse := s.my.colls.any fun k => k.id == id
      (inUse = true → exec (.coll h f) s = .next (s.fault .collective 1)) ∧
      (inUse = false → descBad d np = true → exec (.coll h f) s = .next (s.fault .collective 3)) ∧
      (inUse = false → descBad d np = false → (∀ i, collRec d = some i → s.record i = none → exec (.coll h f) s = .next (s.fault .record 1))) ∧
      (inUse = false → descBad d np = false → (∀ i, collRec d = some i → s.record i ≠ none) →
        (srcLen = 0 ∨ s.ptrCheck (collSrc d) srcLen (fun _ => true) (collSize d) = none) →
        s.ptrCheck (collDst d) dstLen (fun _ => true) (collSize d) = none → s.my.markFault (collDst d) dstLen (s.my.writeTc s.tc) = none →
        let u := s.modMy fun x => { x with colls := x.colls ++ [⟨id, gs, s.cur.1, s.my.writeTc s.tc, d, none, none, none⟩] }
        let v := if timedTag (ptrTag (collDst d)) then u else u.collAccess h f .store 1 id (collDst d) (List.replicate dstLen 0)
        (srcLen = 0 → exec (.coll h f) s = .next (v.collSource v.me.slot id [])) ∧
        (srcLen ≠ 0 → timedTag (ptrTag (collSrc d)) = true → exec (.coll h f) s = .next (v.collSource v.me.slot id (v.timedRead (collSrc d) srcLen))) ∧
        (srcLen ≠ 0 → timedTag (ptrTag (collSrc d)) = false →
          exec (.coll h f) s = .next (v.collAccess h f .read 0 id (collSrc d) (List.replicate srcLen 0))))) ∧
    (s.my.colls.find? (fun k => k.id == id) = none → exec (.collWait h f) s = .next (s.fault .collective 2)) ∧
    (∀ k bs, s.my.colls.find? (fun k => k.id == id) = some k → k.fault = none → k.result = some bs → collRec k.desc = none →
      let u := s.modMy fun x => { x with
        colls := x.colls.filter fun j => j.id != id
        acq := x.acq ++ x.members.map fun c =>
          ⟨c, x.writeTc x.tc, none, some k.tc, [(collSrc k.desc, (k.src.getD []).length), (collDst k.desc, bs.length)]⟩ }
      let at_ := State.timedAt { s with cur := (k.core, 0) } (collDst k.desc)
      (timedTag (ptrTag (collDst k.desc)) = false → exec (.collWait h f) s = .next (u.endBuffers k bs)) ∧
      (timedTag (ptrTag (collDst k.desc)) = true → exec (.collWait h f) s = .next ((u.endBuffers k bs).modMy fun x =>
        { x with lands := x.lands ++ [⟨x.tc + 1, 0xFFFF, 7, 0, at_.1, .bytes at_.2.1 at_.2.2 bs⟩] })) ∧
      ((∀ w ∈ (s.slot (s.core k.core).slot).log, w.peer = none → w.engine = none → w.tc.before k.tc = true) → u.endBuffers k bs = u)) ∧
    (∀ k bs r rec, s.my.colls.find? (fun k => k.id == id) = some k → k.fault = none → k.result = some bs → collRec k.desc = some r →
      s.my.recs.find? (fun q => q.1 == r) = some (r, rec) →
      ∃ t ups q, exec (.collWait h f) s = .next t ∧ t.my.recs.find? (fun q => q.1 == r) = some (r, q) ∧ q.upd = rec.upd ++ ups ∧
        ups.length = bs.length / collSize k.desc ∧ (∀ c ∈ t.my.colls, c.id ≠ id) ∧
        ∀ u ∈ ups, u.tc = s.my.outTc s.str.now.tc ∧ u.rank = s.me.rank ∧ u.stream = s.cur.2 ∧ u.pc = s.str.now.pc) ∧
    (∀ (t : State) (cs : List (List Byte)) (i : Nat) (c : List Byte), cs[i]? = some c → c ≠ [] → ∃ b ∈ c, (t.pickBytes cs).1[i]? = some b) ∧
    ∀ (n : Nat) (k : Coll) (parts : List (List Byte)), (s.slot n).colls.find? (fun k => k.id == id && k.result.isNone && k.fault.isNone) = some k →
      (k.src = none → exec (.collComplete n id parts) s = .next (s.later (.collComplete n id parts))) ∧
      ∀ src, k.src = some src →
        let g := Tbl.get [1, 0] (s.slot n).collOf k.grp
        let all := (List.range (g.getD 0 1)).map fun j => if j = g.getD 1 0 then k.desc.take 16 ++ src else parts.getD j []
        let bs := collResult k.desc (all.map fun q => q.drop 16) (g.getD 1 0)
        ((∃ q ∈ all, q.take 16 ≠ k.desc.take 16) → exec (.collComplete n id parts) s = .next (s.modSlot n fun x =>
          { x with colls := x.colls.map fun j => if j.id = id then { j with fault := some (.collective, 4, 0) } else j })) ∧
        ((∀ q ∈ all, q.take 16 = k.desc.take 16) → timedTag (ptrTag (collDst k.desc)) = true →
          exec (.collComplete n id parts) s = .next (s.modSlot n fun x =>
            { x with colls := x.colls.map fun j => if j.id = id then { j with result := some bs } else j })) ∧
        ((∀ q ∈ all, q.take 16 = k.desc.take 16) → timedTag (ptrTag (collDst k.desc)) = false → ∃ t a, exec (.collComplete n id parts) s = .next t ∧
          t = State.translate { s with uid := s.uid + 1, outs := s.outs ++ [a] } a ∧ a.id = s.uid ∧ a.kind = .store ∧ a.slot = n ∧ a.core = k.core ∧
          a.parts = [(collDst k.desc, bs)])

/-! ## Supervisor cores and cohorts -/

/-- Privileged words (R144, R334 to R338, R341, R361). On a cohort stream each is the illegal-instruction fault 0x11, with a stage guard or scope
a misuse event. On a supervisor core, with its fields as R334 gives them and its slot in the state it needs, each has its own effect: `LAUNCH`
of an image whose signature verifies loads the slot and waits for a free delay (log entry 8), and `LAUNCH.resume` takes the new quads and
begins the restore; `TT.START` starts a LOADED slot, at once or at a time; `HOLD` requests and releases a platform hold of a RUNNING one; `TLBI`
leaves no entry that it covers and waits; `PCSR` reads a register and plans its write for the next clock; and `SVRET` goes back to SVEPC. The caps let
the supervisor core reach what `LAUNCH` reads (R389). That a signature which does not verify is a misuse is the model's choice (log entries 17 and 45), as is
that FN 0 of `TT.START` starts a package set at once (log entry 66). -/
def Obligations.SupervisorWords : Prop :=
  ∀ (h : Hdr) (f : Sys) (s : State),
    let n := (f.imm.extractLsb' 0 8).toNat
    let priv := [Instr.launch h f, .launchResume h f, .ttStart h f, .ttStartAt h f, .holdRequest h f, .holdRel h f, .tlbi h f, .tlbiAsid h f,
      .tlbiAll h f, .pcsrRead h f, .pcsrWrite h f, .svret h f]
    (isSup s.cur.1 = false → ∀ i ∈ priv, exec i s = .next (s.faultAt s.cur.1 s.cur.2 .illegal 0x11 0 0)) ∧
    (isSup s.cur.1 = true → f.stg ≠ 0 ∨ f.scope ≠ 0 → ∀ i ∈ priv, exec i s = .next s.misuse) ∧
    (isSup s.cur.1 = true → f.stg = 0 → f.scope = 0 →
      (f.imm.toNat < 256 →
        (let p := s.rs f.ra
         let cb := s.supRead p 128
         let field := fun off k => leNat ((cb.drop off).take k)
         let g := s.imageAt (field 0x00 8)
         let reach := fun (rs : List (Nat × Nat)) => ∀ r ∈ rs, s.capAccess (s.cur.1 - 768) (dieOf s.cur.1) r.1 r.2 true = .ok s
         let reads := [(field 0x28 8, 320), (field 0x18 8, 64)] ++ if field 0x20 8 = 0 then [] else [(field 0x20 8, 0x4030)]
         s.ptrCheck p 128 (fun _ => true) 1 = none → (ptrTag p = 0 → reach [(ptrOff p, 128)]) → reach reads → reach [(field 0x00 8, 512)] →
          s.partSlot n = true → (s.slot n).resume = .none →
          (∀ qs rs, f.fn = 0 → reach [(field 0x00 8, imgSpan g)] → (s.slot n).st = 0 → imageOk g = true → blockOk cb (imgN g) = true →
            s.groupsFree n (s.grantGroups (field 0x20 8)) = true →
            s.placement (imgKind g) (imgW g) (imgH g) (field 0x30 1) (field 0x31 1) ((imgOwn g 2).2 != 0) = some qs →
            rs = grantRecords g n ((qs.map (· / 24)).eraseDups) → s.recordsFit rs = true →
            ∃ t q at_, exec (.launch h f) s = .next (if signatureOk s.plat.boot.keys g then t else s.misuse) ∧
              t.slot n = { s.launchSlot (s.slot n) cb g qs rs with freq := q } ∧ t.me.sup.blocked = true ∧
              t.timers.getLast? = some (at_, .launchComplete n) ∧ s.clock < at_) ∧
          (∀ qs, (s.slot n).st = 4 → blockOk cb (s.slot n).npkg = true →
            s.placement (s.slot n).kind (s.slot n).w (s.slot n).ht (field 0x30 1) (field 0x31 1) (s.slot n).mtext = some qs →
            ∃ t at_, exec (.launchResume h f) s = .next t ∧ (t.slot n).resume = .restoring ∧ (t.slot n).st = 4 ∧ (t.slot n).members = quadCores qs ∧
              t.me.sup.blocked = true ∧ s.clock < at_ ∧
              t.timers.getLast? = some (at_, if (s.slot n).lrem.2 = 0 then .restoreComplete n else .leaseGrant n))) ∧
        ((s.slot n).st = 1 →
          (f.fn = 0 → exec (.ttStart h f) s = .next (s.modSlot n fun x =>
            { x with st := 2, tc := 0, opened := false, held := none, curDistNow := x.curDist })) ∧
          exec (.ttStartAt h f) s = .next (s.modSlot n fun x =>
            { x with st := 2, tc := 0, opened := false, held := none, curDistNow := x.curDist, startAt := some (s.rs f.ra) })) ∧
        ((s.slot n).st ≠ 1 → exec (.ttStart h f) s = .next s.misuse ∧ exec (.ttStartAt h f) s = .next s.misuse) ∧
        (f.ra = 0 → (s.slot n).st = 2 →
          (f.fn = 0 → ((s.slot n).reqs.any fun r => r.cause == .platform 0 && r.cleared.isNone) = false →
            exec (.holdRequest h f) s = .next (s.request n ((s.slot n).tc + (s.slot n).horizon) (.platform 0))) ∧
          exec (.holdRel h f) s = .next (s.clearCause n (.platform 0)))) ∧
      (∀ i sc m, (i = .tlbi h f ∧ f.fn = 0 ∧ f.imm.toNat < 512 ∧ ptrTag (s.rs f.ra) = (if f.imm.getLsbD 8 then 11 else 0) ∧
            sc = .page (s.rs f.ra) ∧ m = n ∨ i = .tlbiAsid h f ∧ f.imm.toNat < 256 ∧ f.ra = 0 ∧ sc = .slot ∧ m = n ∨
          i = .tlbiAll h f ∧ f.imm = 0 ∧ f.ra = 0 ∧ sc = .all ∧ m = 0) →
        ∃ t, exec i s = .next t ∧ t.me.sup.blocked = true ∧ t.tlbi = s.tlbi ++ [(s.cur.1, .tlbiComplete (s.cur.1 - 768) m sc)] ∧
          ∀ c, Tbl.get [] t.tlb1 c = (Tbl.get [] s.tlb1 c).filter (fun e => !e.dropped m sc) ∧
            Tbl.get [] t.tlb2 c = (Tbl.get [] s.tlb2 c).filter (fun e => !e.dropped m sc)) ∧
      (∀ v, pcsrImm f = true → s.pcsrValue f = some v →
        (f.fn = 0 → exec (.pcsrRead h f) s = .next (s.apply 0 s.cur.1 (.s (s.reg .S f.ra) (BitVec.allOnes 64) (BitVec.ofNat 64 v)))) ∧
        exec (.pcsrWrite h f) s = .next { s with timers := s.timers ++ (s.writeEvents f (s.rs f.ra)).map fun e => (s.clock + 1, e) }) ∧
      (f.fn = 0 → f.ra = 0 → f.imm = 0 → ∃ t, exec (.svret h f) s = .next t ∧ (t.me.stream 0).pc = s.me.sup.epc.toNat ∧
        (t.me.stream 0).loops = (s.me.stream 0).loops ∧ t.me.sup = { s.me.sup with handling := false } ∧ t.me.s = s.me.s ∧ t.slots = s.slots ∧
        t.dev = s.dev))

/-- Events of cohorts and supervisor cores (R3, R37, R135, R275, R322, R333, R336, R341, R346, R349, R350, R361). A clock moves clock and timebase
on, the timebase by 4 ns in 7 clocks (log entry 6), where no cohort's quads have a clock of their own left. A hold that may end opens its tc. The
first standing seal cause clears. A start waits for its time. A supervisor core takes the head of its queue into SVEPC and SVCAUSE and goes
to SVEVEC. A launch, a `TLBI`, a save and a restore complete, a droop putting the latter off (R399), a slot is set FREE, and the requests of R346 are made
and taken back. Which fields a freed slot keeps is the model's reading (log entry 23), and the waits that are planned again are log entry 8. -/
def Obligations.CohortEvents : Prop :=
  ∀ (s : State) (n : Nat),
    let x := s.slot n
    (∃ t, exec .tcAdvance s = .next t ∧
      (s.running.filter (fun m => 70 ≤ (s.slot m).phase) = [] → t.clock = s.clock + 1 ∧ 7 * t.ns + t.frac = 7 * s.ns + s.frac + 4) ∧
      (s.running.filter (fun m => 70 ≤ (s.slot m).phase) ≠ [] → t.clock = s.clock ∧ t.ns = s.ns)) ∧
    (s.releasable n = true → ∃ t, exec (.holdRelease n) s = .next t ∧ (t.slot n).opened = true ∧ (t.slot n).held = none ∧ (t.slot n).tc = x.tc) ∧
    (s.releasable n = false → exec (.holdRelease n) s = .next s) ∧
    (∀ qs rs target c, x.reqs = qs ++ ⟨target, .seal c, none⟩ :: rs → (∀ q ∈ qs, ∀ d, q.cause = .seal d → q.cleared ≠ none) →
      exec (.sealedViewArrival n) s = .next (s.clearCause n (.seal c))) ∧
    (∀ p q k, x.pkgs[p]? = none ∨ s.plat.caps = false → exec (.packageJoinMessage n p q k) s = .next (s.modSlot n fun x => { x with joinMsgs := x.joinMsgs ++ [(p, q, k)] })) ∧
    (x.live = true → x.st ≠ 1 → exec (.adaptiveClockHoldTick n) s = .next ((s.request n (x.tc + x.horizon) (.platform 3)).clearCause n (.platform 3))) ∧
    (∀ g, x.startAt = some g →
      (g.toNat ≤ s.ns → exec (.ttStartAtTime n) s = .next ((s.modSlot n fun x => { x with startAt := none }).reach n)) ∧
      (s.ns < g.toNat → exec (.ttStartAtTime n) s = .next s)) ∧
    (∀ v cause info es, let y := (s.core (768 + v)).sup
      y.events = (cause, info) :: es → y.handling = false → y.frozen = false → y.running = true → y.blocked = false →
      ∃ t, exec (.supervisorEvent v) s = .next t ∧
        (t.core (768 + v)).sup = { y with
          epc := BitVec.ofNat 64 ((s.core (768 + v)).stream 0).pc
          cause := info <<< 32 ||| BitVec.ofNat 64 (cause + if y.lost then 256 else 0), events := es, lost := false, handling := true } ∧
        ((t.core (768 + v)).stream 0).pc = y.evec.toNat ∧ ((t.core (768 + v)).stream 0).loops = ((s.core (768 + v)).stream 0).loops ∧
        (t.core (768 + v)).s = (s.core (768 + v)).s ∧ t.dev = s.dev ∧ t.slots = s.slots) ∧
    (x.st = 0 → x.resume = .loading → s.quadsWaking n = false → ∃ t, exec (.launchComplete n) s = .next t ∧
      (t.slot n).st = 1 ∧ (t.slot n).resume = .none ∧ (t.slot n).energy = 0 ∧ (t.core x.sup).sup.blocked = false) ∧
    (∀ v m sc, s.tlbi.contains (768 + v, .tlbiComplete v m sc) = true →
      ((s.outs.any fun a => a.usesDropped m sc) = true → exec (.tlbiComplete v m sc) s = .next (s.later (.tlbiComplete v m sc))) ∧
      ((s.outs.any fun a => a.usesDropped m sc) = false → ∃ t, exec (.tlbiComplete v m sc) s = .next t ∧
        (t.core (768 + v)).sup.blocked = false ∧ t.tlbi = s.tlbi.erase (768 + v, .tlbiComplete v m sc))) ∧
    (x.st = 3 → s.drooping n = true → exec (.saveComplete n) s = .next (s.later (.saveComplete n))) ∧
    (x.st = 3 → s.drooping n = false → ∃ t, exec (.saveComplete n) s = .next t ∧ (t.slot n).st = 4 ∧ (t.slot n).savedNs = s.ns ∧
      ∀ q ∈ (t.slot n).reqs, q ∈ x.reqs ∧ q.cleared = none) ∧
    (∀ r, x.resume = .restoring → x.st = 4 → s.quadsWaking n = false → x.curts[x.curtain]? = some r →
      ∃ t, exec (.restoreComplete n) s = .next t ∧ (t.slot n).resume = .stubs ∧ (t.slot n).tc = 0 ∧ (t.slot n).stubs = x.tc ∧
        (t.slot n).traps = x.kept ∧ (t.core x.sup).sup.blocked = false ∧
        (t.slot n).seldp = BitVec.ofNat 64 (s.devNat (x.blockAt (s.core (x.members.headD 0)).rank + 0x58) 8)) ∧
    (x.resume = .deciding → s.drooping n = false → ∃ t, exec (.restoreComplete n) s = .next t ∧ (t.slot n).resume = .none ∧ (t.slot n).tc = x.stubs + 1) ∧
    (x.st = 5 ∨ x.st = 6 → ∃ t, exec (.slotRelease n) s = .next t ∧
      t.slot n = { Slot.reset with curDist := x.curDist, holdwd := x.holdwd, ydead := x.ydead, energy := x.energy } ∧ t.cores = s.cores) ∧
    (x.st < 5 → exec (.slotRelease n) s = .next s) ∧
    (x.polite = none → exec (.polite n true) s = .next ((s.modSlot n fun x => { x with polite := some (x.outTc x.tc) }).inClocks x.ydead (.yieldDeadlineExpiry n))) ∧
    (∃ t, exec (.polite n false) s = .next t ∧ (t.slot n).polite = none ∧ (t.slot n).due = none ∧
      (∀ p, x.polite = some p → (t.slot n).withdrawn = x.withdrawn ++ [(p, x.outTc x.tc, x.due)]) ∧ (.yieldDeadlineExpiry n) ∉ t.timers.map (·.2)) ∧
    (x.polite ≠ none → x.due = none → exec (.yieldDeadlineExpiry n) s = .next (s.modSlot n fun x => { x with due := some (x.outTc x.tc) }))

/-- Fatal stops and their causes (R33, R39, R55, R314, R351, R364, R365, R369 to R371, R387, R390). The frames are 256 bytes and name tc, stream,
KIND and DETAIL. A due stop leaves its slot STOPPED for a fault or a kill; a watchdog's expiry stops at the held tc; a cohort past its curtain
distance takes the fault of its lowest-ranked core's C stream; a kill takes effect at the cohort's tc, or at once on a saved one; a late
cross-package store, an uncorrectable error and a lost path give the fault that the rules name, the loss of a package also taking its members
out of their groups; an answered FAIL takes its record away; and a capped master is frozen and reported. Which accesses a lost path touches, by the
DETAIL that R371 gives it, is the model's reading (log entry 48). -/
def Obligations.FaultEvents : Prop :=
  ∀ (s : State) (n : Nat),
    let x := s.slot n
    (∀ (f : FaultRec) (c : Nat), let b := s.frame x f c
      b.length = 256 ∧ b.take 8 = leBytes 8 (x.outTc f.tc) ∧ (b.drop 10).take 4 = leBytes 1 f.stream ++ leBytes 1 f.kind.code ++ leBytes 2 f.detail) ∧
    (∀ f, x.fatal = some f → x.stopDue = true → ∃ t, exec (.fatalStop n) s = .next t ∧ (t.slot n).st = 5 ∧
      (t.slot n).stop = (if f.kind = .kill then 2 else 1) ∧ (t.slot n).lease = none ∧ t.cur = s.cur) ∧
    (x.stopDue = false → exec (.fatalStop n) s = .next s) ∧
    (x.st = 2 → x.tc = x.prevPt + x.curDistNow + 1 → exec (.curtainDistanceFault n) s =
      .next ((s.faultAt (x.members.headD 0) 0 .curtainDistance 0 0 0).stopAll n)) ∧
    (x.live = true → x.held.isSome = true → max x.holdwd 1024 ≤ x.wdog → s.releasable n = false → x.fatal = none →
      ∃ t, exec (.holdWatchdogExpiry n) s = .next t ∧ (t.slot n).st = 5 ∧ (t.slot n).stop = 1) ∧
    (x.st = 2 → x.kill = none → ∃ t, exec (.kill n) s = .next t ∧ (t.slot n).kill = some (x.outTc x.tc) ∧ (t.slot n).lease = none ∧ (t.slot n).st = 2 ∧
      ∃ f, (t.slot n).dueFaults = x.dueFaults ++ [f] ∧ f.kind = .kill ∧ f.tc = x.outTc x.tc) ∧
    (x.st = 3 ∨ x.st = 4 → ∃ t, exec (.kill n) s = .next t ∧ (t.slot n).st = 5 ∧ (t.slot n).stop = 2) ∧
    (x.st ≠ 2 → x.st ≠ 3 → x.st ≠ 4 → exec (.kill n) s = .next s) ∧
    (∀ l : LateStore, x.live = true → let own := x.members.find? fun c => (s.core c).rank == l.rank
      ∃ r, exec (.exchangeDeadlineReport n l) s = .next (if own.isSome then s.addFault n r else s.modSlot n fun y =>
          { y with faultsNow := y.faultsNow ++ [r] }) ∧
        r.kind = .exchange ∧ r.detail = 1 ∧ r.stream = l.stream ∧ r.tc = x.tc ∧ r.addr = l.addr ∧ r.late = some (l.tc, l.stamp) ∧
        ∀ c, own = some c → r.core = c) ∧
    (∀ d p, d ≤ 4 → (∀ a ∈ s.outs, s.onPath d p a = false ∧ a.st ≠ .lost) → (∀ m ∈ s.viewers, (s.slot m).colls = []) →
      exec (.linkLoss d p) s = .next (if d = 4 then (s.membersOf p).foldl (fun (u : State) e => u.lostMember e.1 e.2) s else s)) ∧
    (∀ d p a, d ≤ 4 → (d = 4 → s.membersOf p = []) → s.viewers = [n] → x.colls = [] → s.outs = [a] → a.slot = n → a.coll = none → a.st = .sent → s.onPath d p a = true →
      ∃ t, exec (.linkLoss d p) s = .next t ∧ t.outs = [{ a with st := .failed }] ∧
        (t.slot n).dueFaults = x.dueFaults ++
          [{ a.faultRec .linkLoss d a.first with tc := if a.kind = .read then x.faultTc a a.arr else x.tc }]) ∧
    (∀ id a p q, s.access id = some a → q ∈ a.parts → inRange p (q.1, q.2.length) = true → let at_ := s.physOf a.pages a.core a.slot p
      exec (.uncorrectableError (.pageTable id p)) s = .next (s.failAccess a (a.faultRec .page 5 p) (s.walkEntry (s.slot a.slot) p)) ∧
      exec (.uncorrectableError (.loggedOld id p)) s = .next (s.failAccess a { a.faultRec .uncorrectable 2 p with tc := a.tc } at_) ∧
      (a.kind ≠ .read ∨ (∀ m, (s.slot a.slot).markAt p a.keyTc = some m → m.prot = false) → exec (.uncorrectableError (.load id p)) s =
        .next (s.failAccess a { a.faultRec .uncorrectable 1 p with tc := if a.kind = .atomic then a.tc else a.arr } at_)) ∧
      (∀ m, a.kind = .read → (s.slot a.slot).markAt p a.keyTc = some m → m.prot = true →
        exec (.uncorrectableError (.load id p)) s = .next { s with timers := s.timers.filter fun e => e.2 ≠ a.ending })) ∧
    (∀ off, (x.st = 3 → ∃ t, exec (.uncorrectableError (.save n off)) s = .next t ∧ (t.slot n).st = 5 ∧ (t.slot n).stop = 3) ∧
      (x.resume = .restoring → ∃ t, exec (.uncorrectableError (.restore n off)) s = .next t ∧ (t.slot n).st = 5 ∧ (t.slot n).stop = 1)) ∧
    (∀ q, x.st = 2 ∨ x.st = 3 → x.faults.any (fun e => e.seq == q) = true → ∃ t, exec (.xlrespFail n q) s = .next t ∧
      (t.slot n).faults = x.faults.filter (fun e => e.seq != q) ∧ ∀ a ∈ t.outs, a.slot = n → a.st ≠ .faulted q) ∧
    (∀ q, ¬(x.st = 2 ∨ x.st = 3) → exec (.xlrespFail n q) s = .next s ∧ exec (.xlrespRetry n q) s = .next s) ∧
    ∀ m k a, ∃ t, exec (.capViolation m k a) s = .next t ∧ m ∈ t.plat.frozen ∧ t.plat.flog = s.plat.flog ++ [⟨s.plat.fnOf m, m, k, a, true⟩] ∧
      t.plat.msgs = s.plat.msgs ++ [.msix (s.plat.fnOf m) 1] ∧ (m < 16 → (t.core (768 + m)).sup.frozen = true) ∧ t.dev = s.dev ∧ t.slots = s.slots

/-- Phased accesses at their homes (R127 to R132, R315, R331, R341, R360 to R368, R382, R387). A reply, a store and an atomic that wait for nothing
earlier of their stream are done and outstanding no more, and one that must wait stays; a store of another package joins the cohort's
coherence order under its own key; an update packet changes no record; a write of the host inside its range puts its bytes at their addresses and
nowhere else; a walk fills the TLB and the fault log's accesses are looked at again; a migration copies its lines once, within the caps of its copy
engine (R390); and a protected line is rebuilt from the sums of the other members, once their deltas are durable. Waits that are planned again are
log entry 8, the `TLBI` stage that lets lines move log entry 47, and what becomes of a host write outside its range log entry 25. -/
def Obligations.MemoryEvents : Prop :=
  ∀ s : State,
    (∀ a, s.access a.id = some a → a.st = .sent →
      (a.kind = .read → s.fenced a = false → s.atomAhead a = false → s.collReach a false = .ok s → ∃ t, exec (.phasedReplyArrival a.id) s = .next t ∧ t.cur = s.cur ∧
        ∀ b ∈ t.outs, b.id ≠ a.id) ∧
      (a.kind = .read → s.fenced a = true ∨ s.atomAhead a = true → exec (.phasedReplyArrival a.id) s = .next (s.later (.phasedReplyArrival a.id))) ∧
      (∀ u, a.kind = .store → s.storeAhead a = false → s.fenced a = false → s.doubtful a = false → s.awayOffer a = false → s.enginesReach a = .ok u →
        ∃ t, exec (.storePerformed (.own a.id)) s = .next t ∧ ∀ b ∈ t.outs, b.id ≠ a.id) ∧
      (a.kind = .store → s.storeAhead a = true ∨ s.fenced a = true →
        exec (.storePerformed (.own a.id)) s = .next (s.later (.storePerformed (.own a.id)))) ∧
      (∀ u, a.kind = .atomic → s.storeAhead a = false → s.fenced a = false → s.doubtful a = false → s.enginesReach a = .ok u →
        ∃ t, exec (.atomPerformed a.id) s = .next t ∧ ∀ b ∈ t.outs, b.id = a.id → b.st = .failed ∧ u.accessSectors a ≠ []) ∧
      (∀ u, a.kind ≠ .read → s.storeAhead a = false → s.fenced a = false → s.doubtful a = false → s.awayOffer a = false → s.enginesReach a = .error u →
        let i : Instr := if a.kind = .store then .storePerformed (.own a.id) else .atomPerformed a.id
        exec i s = .next (u.later i)) ∧
      (a.kind = .atomic → s.storeAhead a = true ∨ s.fenced a = true → exec (.atomPerformed a.id) s = .next (s.later (.atomPerformed a.id)))) ∧
    (∀ w : PeerStore, (s.slot w.slot).pkgs[w.prank]? = none ∨ s.plat.caps = false →
      s.markedHomes w.slot (homeKey 0 0 w.addr) w.data.length ⟨w.tc, 0⟩ = [] → ∃ t v, exec (.storePerformed (.peer w)) s = .next t ∧ t.outs = s.outs ∧ (t.slot w.slot).log = (s.slot w.slot).log ++ [v] ∧
      v.npod = w.npod ∧ v.prank = w.prank ∧ v.tc = ⟨w.tc, 0⟩ ∧ v.rank = w.rank ∧ v.stream = w.stream ∧ v.data = w.data) ∧
    (∀ n i d, exec (.updatePacket n i d) s = .next s) ∧
    (∀ fn addr data i, fn < 8 → (i = Instr.hostRequestSubmit addr data ∨ i = .cxlMemHostWrite (.mem fn addr) data) →
      s.plat.hdmHolds fn addr data.length = true → Memory.wf s.dev = true → ∃ t, exec i s = .next t ∧
      t.devBytes addr data.length = data ∧ (∀ a, a < addr ∨ addr + data.length ≤ a → t.devBytes a 1 = s.devBytes a 1) ∧ t.qs = s.qs) ∧
    (∀ fn addr data, s.plat.hdmHolds fn addr data.length = false → exec (.cxlMemHostWrite (.mem fn addr) data) s = .next s) ∧
    (∀ c p st, ∃ t, exec (.translationWalk c p st) s = .next t ∧ ∀ l pg sz, s.tlbHit c (s.core c).slot p = none →
      s.walk (s.slot (s.core c).slot) p = .leaf l pg sz → (s.outs.all fun a => a.core != c) = true →
        ⟨(s.core c).slot, ptrTag p == 11, pg, sz, l⟩ ∈ Tbl.get [] t.tlb1 c) ∧
    (∀ n tag, (s.outs.all fun a => !(a.slot == n && a.id == tag)) = true → exec (.faultLogAppend n tag) s = .next s) ∧
    (∀ n tag a, s.outs.filter (fun a => a.slot == n && a.st == .walk && a.id == tag) = [a] → exec (.faultLogAppend n tag) s = .next (s.translate a)) ∧
    (∀ n q, (s.slot n).st = 2 ∨ (s.slot n).st = 3 → (s.slot n).faults.any (fun e => e.seq == q) = true →
      ∃ t, exec (.xlrespRetry n q) s = .next ((s.outs.filter fun a => a.slot == n && a.st == .faulted q).foldl (fun u a => u.translate a) t) ∧
        (t.slot n).faults = (s.slot n).faults.filter fun e => e.seq != q) ∧
    (∀ v m l, let ctl := Map.get (s.core (768 + v)).sup.migctl m
      (ctl.getLsbD 1 = false → exec (.migrationLinePull v m l) s = .next s ∧ exec (.migrationLineMove v m) s = .next s) ∧
      (ctl.getLsbD 1 = true → (s.core (768 + v)).sup.moved.contains (m, l) = true →
        exec (.migrationLinePull v m l) s = .next (s.rewalk (s.migOwner (768 + v) m) fun _ => true)) ∧
      (∀ u, ctl.getLsbD 1 = true → (s.core (768 + v)).sup.moved.contains (m, l) = false → Map.get (s.core (768 + v)).sup.migtlbi m = migMay →
        s.migReach (768 + v) m l = .ok u → exec (.migrationLinePull v m l) s =
          .next ((if (s.core (768 + v)).sup.bad.contains (m, l) then u.loseLine (768 + v) m l else u.moveLine (768 + v) m l).rewalk
            (s.migOwner (768 + v) m) fun _ => true)) ∧
      (∀ u, ctl.getLsbD 1 = true → Map.get (s.core (768 + v)).sup.migtlbi m = migMay → (s.core (768 + v)).sup.nextLine m = some l →
        (s.migReach (768 + v) m l = .ok u → (u.core (768 + v)).sup.bad.contains (m, l) = false → exec (.migrationLineMove v m) s =
          .next (((u.moveLine (768 + v) m l).rewalk (u.migOwner (768 + v) m) fun _ => true).later (.migrationLineMove v m))) ∧
        (s.migReach (768 + v) m l = .error u → exec (.migrationLineMove v m) s = .next (u.later (.migrationLineMove v m)))) ∧
      (ctl.getLsbD 1 = false → Map.wf (s.core (768 + v)).sup.migctl = true → Map.wf (s.core (768 + v)).sup.migtlbi = true →
        ∀ w : Word, ∃ t, exec (.migctlStart v m w) s = .next t ∧
        (Map.get (t.core (768 + v)).sup.migctl m).getLsbD 1 = true ∧ Map.get (t.core (768 + v)).sup.migtlbi m = 0 ∧
        ∀ e ∈ (t.core (768 + v)).sup.moved, e.1 ≠ m)) ∧
    ∀ a sums needs m q, s.access a.id = some a → a.st = .sent → q ∈ a.parts.flatMap (fun r => lineStarts r.1 r.2.length) →
      (∀ r ∈ a.parts.flatMap (fun r => lineStarts r.1 r.2.length), ptrTag r = ptrTag q → ptrOff r / 256 = ptrOff q / 256 → r = q) →
      (s.slot a.slot).markAt q a.keyTc = some m → m.prot = true →
      let x := s.group (Tbl.get 0 (s.slot a.slot).grpOf m.grp)
      let p := q - BitVec.ofNat 64 (ptrOff q % 256)
      let off := ptrOff p - x.window.1
      let fails := x.st = 4 ∨ x.m ≤ x.lost.length ∧ needs = true
      let early := ∃ d ∈ x.deltas, off ≤ d.off ∧ d.off < off + 256
      (fails → exec (.protectedReadRepair a.id ⟨q, sums, needs⟩) s =
        .next (s.failAccess a (a.faultRec .uncorrectable 1 q) (s.physOf a.pages a.core a.slot q))) ∧
      (¬fails → early → exec (.protectedReadRepair a.id ⟨q, sums, needs⟩) s = .next (s.later (.protectedReadRepair a.id ⟨q, sums, needs⟩))) ∧
      (∀ l key, ¬fails → ¬early → s.keyFor a.pages a.core a.slot p = some (l, key) →
        ∃ line, exec (.protectedReadRepair a.id ⟨q, sums, needs⟩) s = .next (State.later { s with dev := Map.setRun s.dev key line } a.ending) ∧
          (x.lost = [] → x.self < x.k → line = (List.range 4).flatMap fun i => leBytes 64 (sums.getD i (0, 0)).1.toNat))

/-! ## Groups, registers and the platform -/

/-- Group messages and losses (R310, R311, R374 to R381, R388, R390). A message of an enabled group from one of its other members that the wall lets
through acts, and a frozen parity engine takes it up later (log entries 8 and 53); one of no such group does nothing more. A configuration is compared and
counted; a parity member logs, at the lowest free place, and acknowledges a delta, folds a decided round and discards an aborted one; the
coordinator enters notices and acknowledgements, decides once every notice stands and its own cohort waits in `RND.COMMIT`, and gives the
outcome once every live parity member has acknowledged; an outcome settles the held round, and one of 1, or an abort, restores it at once; a query
is answered by the decision held; and a loss sets LOSTMAP, DEGRADED or FAILED, until a rebuild passes its stripes on, or writes them at the
spare, and gives the member the spare's package. That the coordinator waits for its own cohort is the model's reading (log entry 60), the place
of a log entry its choice (log entry 59). -/
def Obligations.GroupEvents : Prop :=
  ∀ (s : State) (h : GroupHdr),
    (∀ g j round m, let x := s.group g
      (s.plat.frozen.contains parityMaster = false → s.plat.caps = false → s.tell g j round m = s.send (.group j ⟨x.gid, x.self, round⟩ m)) ∧
      (s.plat.frozen.contains parityMaster = true → s.tell g j round m = s)) ∧
    (s.byGid h.gid = none → ∀ i, (∃ o d b, i ∈ [Instr.delta h.gid h.sender h.round o d, .deltaAck h ⟨o, b⟩, .prep h.gid h.sender h.round, .dec ⟨h.gid, h.sender⟩ h.round, .decAck ⟨h.gid, h.sender⟩ h.round, .out h o, .abt ⟨h.gid, h.sender⟩ h.round, .qry h.gid h.sender h.round, .ans ⟨h.gid, h.sender⟩ h.round b]) →
      exec i s = .next s) ∧
    (∀ g, s.byGid h.gid = some g → h.sender < (s.group g).k + (s.group g).m → h.sender ≠ (s.group g).self →
      s.plat.wallOpen (s.group g).die ((s.group g).package h.sender) = true → s.plat.frozen.contains parityMaster = true →
      exec (.decAck ⟨h.gid, h.sender⟩ h.round) s = .next (s.later (.decAck ⟨h.gid, h.sender⟩ h.round))) ∧
    (∀ g, s.byGid h.gid = some g → h.sender < (s.group g).k + (s.group g).m → h.sender ≠ (s.group g).self →
      s.plat.wallOpen (s.group g).die ((s.group g).package h.sender) = true → s.plat.frozen.contains parityMaster = false →
      let x := s.group g
      let part := x.k ≤ x.self
      let answered := fun (u : State) (m : GroupMsg) => u.tell g h.sender h.round m
      (∀ c : GroupCfg, x.st = 0 →
        let u := s.modPlat fun p =>
          { p with configs := (p.configs.filter fun e => e.1 != h.gid || e.2.1 != h.sender) ++ [(h.gid, h.sender, c)] }
        (c ≠ x.config → exec (.groupConfig h.gid h.sender c) s = .next (u.groupEvent g 1 h.sender)) ∧
        (c = x.config → x.agreed.contains h.sender = false → ∃ t, exec (.groupConfig h.gid h.sender c) s = .next t ∧ t.slots = s.slots ∧
          t.group g = { x with agreed := x.agreed ++ [h.sender], st := if x.k + x.m ≤ x.agreed.length + 1 then 1 else 0 })) ∧
      (part → ∀ off (d : BitVec 512), s.logReach x.die s.plat.ppend (s.plat.pend.map (·.at_)) = .ok s →
        (∀ i, freePlace s.plat.ppend (s.plat.pend.map (·.at_)) = some i → ∃ u : State, u.plat.pend = s.plat.pend ++ [⟨off, h.round, g, false, h.sender, d, i⟩] ∧
          (Memory.wf s.dev = true → u.devBytes ((s.plat.ppend.extractLsb' 16 38).toNat * 65536 + 96 * i) 96 =
            leBytes 8 off ++ leBytes 4 h.round ++ leBytes 1 g ++ leBytes 1 0 ++ leBytes 1 h.sender ++ leBytes 1 0 ++ leBytes 64 d.toNat ++
              leBytes 16 0) ∧
          exec (.delta h.gid h.sender h.round off d) s =
            .next (answered (u.modGroup g fun y => { y with collecting := true, decided := false }) (.deltaAck off true))) ∧
        (freePlace s.plat.ppend (s.plat.pend.map (·.at_)) = none →
          exec (.delta h.gid h.sender h.round off d) s = .next (answered s (.deltaAck off false)))) ∧
      (¬part → ∀ off d, exec (.delta h.gid h.sender h.round off d) s = .next s) ∧
      (∀ off e, x.deltas.find? (fun e => e.member == h.sender && e.off == off) = some e →
        exec (.deltaAck h ⟨off, true⟩) s = .next (s.modGroup g fun y => { y with deltas := y.deltas.erase e }) ∧
        ∀ n gs, s.holder g = some (n, gs) →
          exec (.deltaAck h ⟨off, false⟩) s = .next ((s.modGroup g fun y => { y with deltas := y.deltas.erase e }).dueFault n e.fault)) ∧
      (let waits := h.round = x.round ∧ x.notices.contains h.sender = false ∧ (x.doomed = true → x.aborts.contains h.sender = true)
       let entered := s.modGroup g fun y => { y with notices := y.notices ++ [h.sender] }
       (¬waits → exec (.prep h.gid h.sender h.round) s = .next s) ∧
       (waits → x.st ≠ 1 → x.decided = false → exec (.prep h.gid h.sender h.round) s = .next (entered.abandon g)) ∧
       (waits → x.st = 1 → (x.coordinates = false ∨ x.doomed = true ∨ x.decided = false ∧ x.rst ≠ 3) →
         exec (.prep h.gid h.sender h.round) s = .next entered) ∧
       (waits → x.st = 1 → x.coordinates = true → x.doomed = false → x.decided = false → x.rst = 3 → (∀ j ∈ x.liveData, j ∈ x.notices ∨ j = h.sender) →
         (∃ j ∈ x.liveParity, j ∉ x.acks) → ∃ t, exec (.prep h.gid h.sender h.round) s = .next t ∧ (t.group g).decided = true ∧ (t.group g).lastc = x.lastc ∧
           (s.plat.caps = false → ∀ j ∈ x.liveParity, j ∉ x.acks → .group j ⟨x.gid, x.self, x.round⟩ .dec ∈ t.plat.msgs))) ∧
      (part → (x.lastc.toNat = h.round → exec (.dec ⟨h.gid, h.sender⟩ h.round) s = .next (answered s .decAck)) ∧
        (x.lastc.toNat ≠ h.round → s.foldReach g h.round = .ok s → ∃ u : State, exec (.dec ⟨h.gid, h.sender⟩ h.round) s = .next ((answered u .decAck).startRebuild g) ∧
          (u.group g).lastc = BitVec.ofNat 32 h.round ∧ ∀ e ∈ u.plat.pend, ¬(e.grp = g ∧ e.round = h.round))) ∧
      (¬part → ∃ t, exec (.dec ⟨h.gid, h.sender⟩ h.round) s = .next t ∧ t.group g = { x with decided := true } ∧ t.plat.msgs = s.plat.msgs) ∧
      (x.coordinates = false ∨ x.doomed = true ∨ x.decided = false ∧ x.rst ≠ 3 → exec (.decAck ⟨h.gid, h.sender⟩ h.round) s = .next (s.modGroup g fun y =>
        { y with acks := if x.acks.contains h.sender then x.acks else x.acks ++ [h.sender] })) ∧
      (x.coordinates = true → x.doomed = false → x.decided = true → (∀ j ∈ x.liveParity, j ∈ x.acks ∨ j = h.sender) →
        ∃ t, exec (.decAck ⟨h.gid, h.sender⟩ h.round) s = .next t ∧ (t.group g).lastc = BitVec.ofNat 32 x.round ∧ (t.group g).rst = 0 ∧
          (s.plat.caps = false → ∀ j ∈ x.liveData, j ≠ x.self → .group j ⟨x.gid, x.self, x.round⟩ (.out 0) ∈ t.plat.msgs)) ∧
      (¬part → h.round = x.round →
        (2 ≤ x.rst → ∃ t, exec (.out h 0) s = .next t ∧ (t.group g).lastc = BitVec.ofNat 32 h.round ∧ (t.group g).rst = 0 ∧
          ∀ n gs, s.holder g = some (n, gs) → ((t.slot n).round gs).settled = some true) ∧
        (∀ i o, (o ≠ 0 ∧ i = Instr.out h o ∨ i = .abt ⟨h.gid, h.sender⟩ h.round) → x.rst ≠ 0 → ∃ t, exec i s = .next t ∧ (t.group g).lastc = x.lastc ∧
          ∀ n gs, s.holder g = some (n, gs) → ((s.slot n).round gs).st ≠ .idle → ((s.slot n).round gs).settled = none →
            ((t.slot n).round gs).settled = some false ∧
            (x.rst = 1 ∨ x.rst = 2 → (t.group g).rst = 0 ∧ ∀ e ∈ t.plat.rlog, e.grp ≠ g)) ∧
        (x.rst = 0 → exec (.abt ⟨h.gid, h.sender⟩ h.round) s =
          .next (s.modGroup g fun y => { y with aborts := x.aborts ++ [h.sender], notices := [] }))) ∧
      (part → ∃ u : State, exec (.abt ⟨h.gid, h.sender⟩ h.round) s = .next ((answered u .decAck).startRebuild g) ∧
        u.plat.pend = s.plat.pend.filter (fun e => !(e.grp == g && e.round == h.round)) ∧ u.dev = s.dev) ∧
      exec (.qry h.gid h.sender h.round) s = .next (answered s (.ans (x.lastc.toNat == h.round || (x.decided && x.round == h.round)))) ∧
      (x.answers ≠ [] → h.round = x.round → x.answers.any (fun a => a.1 == h.sender) = false → ∀ c,
        ((∃ i, i < x.k + x.m ∧ x.lostmap.getLsbD i = false ∧ i ≠ h.sender ∧ x.answers.any (fun a => a.1 == i) = false) →
          exec (.ans ⟨h.gid, h.sender⟩ h.round c) s = .next (s.modGroup g fun y => { y with answers := y.answers ++ [(h.sender, c)] })) ∧
        ((∀ i, i < x.k + x.m → x.lostmap.getLsbD i = false → i = h.sender ∨ x.answers.any (fun a => a.1 == i) = true) →
          c = false → (∀ a ∈ x.answers, a.2 = false) → ∃ t, exec (.ans ⟨h.gid, h.sender⟩ h.round c) s = .next t ∧ (t.group g).lastc = x.lastc ∧
            ∀ n gs, s.holder g = some (n, gs) → ((s.slot n).round gs).st ≠ .idle → ((s.slot n).round gs).settled = none →
              ((t.slot n).round gs).settled = some false))) ∧
    ∀ g m : Nat, let x := s.group g
      (∀ i ∈ [Instr.memberLost g m, .memberLinkTimeout g m],
        let known := x.gcfg.getLsbD 0 = true ∧ x.lostmap.getLsbD m = false ∧ m ≠ x.self ∧ m < x.k + x.m
        let forget := s.modPlat fun p => { p with configs := p.configs.filter fun e => e.1 != x.gid || e.2.1 != m }
        (¬known → exec i s = .next s) ∧
        (known → x.st = 0 → exec i s = .next (forget.modGroup g fun y => { y with agreed := y.agreed.filter (· != m) })) ∧
        (known → x.st ≠ 0 → ∃ t, exec i s = .next t ∧ (t.group g).lostmap = x.lostmap ||| BitVec.ofNat 16 (2 ^ m) ∧
          (let lost := ((List.range 16).filter fun j => ((t.group g).lostmap).getLsbD j).length
           if x.m < lost then (t.group g).st = 4 else (t.group g).st = 2 ∨ (t.group g).st = 3))) ∧
      ∀ r : Rebuild, r.member = m → s.plat.frozen.contains parityMaster = false → (s.isSpare g r = true ∨ x.st = 3 ∧ x.lostmap.getLsbD m = true) → m < 16 →
        let left := (if s.isSpare g r then r.lost else x.lostmap) &&& ~~~(BitVec.ofNat 16 (2 ^ m))
        ∃ t, exec (.rebuildComplete g r) s = .next t ∧ (t.group g).lostmap = left ∧ (t.group g).st = (if left = 0 then 1 else 2) ∧
          (t.group g).package m = x.spare.getD 0 ∧ (t.group g).gmem1.getLsbD 42 = false ∧
          (t.group g).lastc = (if s.isSpare g r then r.lastc else x.lastc) ∧
          ∀ p, r.stripes = [p] →
            (s.isSpare g r = false → s.plat.caps = false →
              ∃ j, t.plat.msgs = s.plat.msgs ++ [.group j ⟨x.gid, x.self, x.round⟩ (.chain (s.addTerm g p))]) ∧
            (s.isSpare g r = true → Memory.wf s.dev = true →
              let key := if x.k ≤ m then x.parityKey p.off else homeKey 0 0 p.addr
              s.capAccess parityMaster x.die key 64 true = .ok s →
              t.devBytes key 64 = leBytes 64 (recover x.k (missingOf r) m p.a p.b).toNat)

/-- Writes of privileged registers (R338 to R340, R353, R363, R367, R373, R374, R377, R380, R384, R389, R390, R400, R402): each register takes
the bits that its table gives for writing, a ceiling above LVLMAX freezes the writer, thresholds out of order and a group not fit to
be enabled are misuse events, an enabled group tells its members its configuration and a disabled one that it leaves, and cleared fence
bits are tested again. That the cap of a ceiling has number 5 and binds from the first loaded configuration on is the model's choice (log
entries 15 and 53). -/
def Obligations.RegisterEvents : Prop :=
  ∀ (s : State) (v n : Nat) (w : Word),
    let c := 768 + v
    exec (.curDistWrite n w) s = .next (s.modSlot n fun x => { x with curDist := max (w.extractLsb' 0 32).toNat 1024 }) ∧
    (s.plat.caps = false ∨ (w.extractLsb' 0 4).toNat ≤ (s.plat.caplim.extractLsb' 16 4).toNat →
      ∃ t, exec (.ceilWrite v n w) s = .next t ∧ (t.slot n).ceil = (w.extractLsb' 0 4).toNat ∧ t.plat = s.plat) ∧
    (s.plat.caps = true → (s.plat.caplim.extractLsb' 16 4).toNat < (w.extractLsb' 0 4).toNat → exec (.ceilWrite v n w) s = .next (s.freeze v 5 n)) ∧
    exec (.privRegisterWrite v 2 n w) s = .next (s.modSlot n fun x => { x with holdwd := max (w.extractLsb' 0 48).toNat 1024 }) ∧
    exec (.privRegisterWrite v 3 n w) s = .next (s.modSlot n fun x => { x with prio := (w.extractLsb' 2 2).toNat }) ∧
    exec (.privRegisterWrite v 5 n w) s = .next (s.modSlot n fun x => { x with ydead := (w.extractLsb' 0 48).toNat }) ∧
    exec (.privRegisterWrite v 0x100 n w) s = .next (s.modCore c fun y => { y with sup := { y.sup with epc := w } }) ∧
    exec (.privRegisterWrite v 0x102 n w) s = .next (s.modCore c fun y => { y with sup := { y.sup with evec := w } }) ∧
    exec (.privRegisterWrite v 0x200 n w) s = .next (s.modCore c fun y => { y with sup := { y.sup with admission := w &&& 0xFFFFFFFFFFFF } }) ∧
    (∀ j, j < 16 → Map.wf (s.core c).sup.watch = true → ∃ t, exec (.privRegisterWrite v (0x110 + j) n w) s = .next t ∧
      (∀ i, i < 64 → (Map.get (t.core c).sup.watch j).getLsbD i = (w.getLsbD i && (i == 0 || 6 ≤ i))) ∧
      ∀ k, k ≠ j → Map.get (t.core c).sup.watch k = Map.get (s.core c).sup.watch k) ∧
    exec (.privRegisterWrite v 0x120 n w) s = .next (s.modCore c fun y => { y with sup := { y.sup with flogb := w &&& 0x003FFFFFFFFFF001 } }) ∧
    ((s.core c).sup.waiting = [] → exec (.privRegisterWrite v 0x121 n w) s =
      .next (s.modCore c fun y => { y with sup := { y.sup with flogp := y.sup.flogp &&& 0xFF00 ||| w &&& 0xFF } })) ∧
    (s.groupsOff = true → exec (.privRegisterWrite v 0x1C0 n w) s = .next (s.modPlat fun p => { p with plog := w &&& 0x003FFFFFFFFFFFFF })) ∧
    (s.groupsOff = false → exec (.privRegisterWrite v 0x1C0 n w) s = .next s ∧ exec (.privRegisterWrite v 0x1C1 n w) s = .next s) ∧
    (∀ g i, g < 16 → i < 8 → (s.group g).gcfg.getLsbD 0 = true → i ≠ 4 → exec (.privRegisterWrite v (0x140 + 8 * g + i) n w) s = .next (s.misuseOf c)) ∧
    (let d := dieOf c
     let ok := (w.extractLsb' 8 8).toNat + 3 < (s.thermal d).thc ∧ (w.extractLsb' 0 8).toNat + 3 < (w.extractLsb' 8 8).toNat
     (ok → ∃ t, exec (.thrmWrite v w) s = .next t ∧ t.thermal d = { s.thermal d with
        tcl := (w.extractLsb' 48 4).toNat, tht := (w.extractLsb' 8 8).toNat, thw := (w.extractLsb' 0 8).toNat }) ∧
     (¬ok → exec (.thrmWrite v w) s = .next (s.misuseOf c))) ∧
    (∀ g, let x := s.group g
      let y : Group := { x with gcfg := w &&& 0xFFFF0000F0FC0001 }
      (x.gcfg.getLsbD 0 = false → y.enableOk = false → exec (.gcfgEnable v g w) s = .next (s.misuseOf c)) ∧
      (x.gcfg.getLsbD 0 = false → y.enableOk = true → ∃ t, exec (.gcfgEnable v g w) s = .next t ∧
        (t.group g).gcfg = y.gcfg ∧ (t.group g).lostmap = 0 ∧ (t.group g).lastc = x.lastc ∧
        ((∀ e ∈ s.plat.configs, e.1 ≠ y.gid) → (t.group g).st = 0 ∧ (t.group g).agreed = [y.self]) ∧
        (s.plat.frozen.contains parityMaster = false → s.plat.caps = false → ∀ j, j < y.k + y.m → j ≠ y.self →
          .group j ⟨y.gid, y.self, 0⟩ (.config y.config) ∈ t.plat.msgs)) ∧
      (x.gcfg.getLsbD 0 = true → exec (.gcfgEnable v g w) s = .next (if y.gcfg = x.gcfg then s else s.misuseOf c)) ∧
      (let same := w &&& 0xFFFF0000F0FC0000 = x.gcfg &&& 0xFFFF0000F0FC0000
       (x.rst ≠ 0 ∨ ¬same → exec (.gcfgDisable v g w) s = .next (s.misuseOf c)) ∧
       (x.rst = 0 → same → ∃ t, exec (.gcfgDisable v g w) s = .next t ∧ (t.group g).gcfg.getLsbD 0 = false ∧ (t.group g).st = 0 ∧
         (t.group g).lostmap = 0 ∧ (s.plat.frozen.contains parityMaster = false → s.plat.caps = false → ∀ j ∈ x.others, .group j ⟨x.gid, x.self, x.round⟩ .lost ∈ t.plat.msgs)))) ∧
    (∀ q, let clears := s.fencedBits q &&& w.extractLsb' 0 16 ≠ 0
      (s.busyQuads.contains q = true → clears → exec (.afenceClear v q w) s = .next (s.misuseOf c)) ∧
      (s.busyQuads.contains q = false ∨ ¬clears → Map.wf s.plat.afence = true → ∃ t, exec (.afenceClear v q w) s = .next t ∧
        t.fencedBits q = s.fencedBits q &&& ~~~(w.extractLsb' 0 16) ∧
        ∀ i, i < 16 → w.getLsbD i = true → (s.fencedBits q).getLsbD i = true → ∃ b, (s.clock + 72, .afenceRetestDone q i b) ∈ t.timers)) ∧
    ∀ d, let l := s.selLane d
      exec (.eyecmdRetrain d) s = .next (s.requestSlice d l false) ∧ exec (.eyecmdRepair d) s = .next (s.requestSlice d l true) ∧
      ∃ t, exec (.eyecmdClear d) s = .next t ∧ t.eye d l.toNat = { s.eye d l.toNat with hmin := 0xFF, vmin := 0xFF }

/-- Platform events (R265, R292, R353, R384, R385, R396 to R402): a self-test that fails fences its sub-arrays and is a fault or a trap; a
measurement keeps the last and least margins; a slice of a link that no cohort waits for starts at once for at most 2800 clocks and ends;
the requests of a clock arrive, and a completed power-up gives its units back and its quad power; a droop pauses its quad for 256 clocks,
in which it takes no test, and the quad's cohort is asked to hold until then; a reading is the highest of 12 sensors (those that it does not name are log entry 27); a die moves to its
zone; leases are granted and expire; and a frequency change takes 20 µs of a held cohort. Clocks of the platform run at 1.75 GHz (log
entry 6), and a test during a droop, the end of a slice and a restore come some clocks later (log entry 8). -/
def Obligations.PlatformEvents : Prop :=
  ∀ s : State,
    (∀ c b, let q := quadOf c
      let bad := b &&& ~~~((s.fencedBits q).extractLsb' (4 * (c % 4)) 4)
      let n := (s.core c).slot
      let mine := (s.slot n).live && (s.slot n).members.contains c
      let busy := mine && (s.core c).holds (s.slot n).tc false || s.plat.droops.contains q || s.inReset (dieOf c)
      let r := s.modCore c fun x => { x with arr := x.arr.passed (~~~((s.fencedBits q).extractLsb' (4 * (c % 4)) 4) &&& ~~~b) }
      let u := r.fence q (bad.zeroExtend 16 <<< (4 * (c % 4)))
      (busy = true → exec (.rattle c b) s = .next s) ∧
      (busy = false → bad = 0 → exec (.rattle c b) s = .next r) ∧
      (busy = false → bad ≠ 0 → mine = false → exec (.rattle c b) s = .next u) ∧
      (busy = false → bad ≠ 0 → mine = true → (s.core c).arr.report = false → exec (.rattle c b) s = .next (u.faultAt c 2 .matrix 4 0 0)) ∧
      (busy = false → bad ≠ 0 → mine = true → (s.core c).arr.report = true → ∃ t e, exec (.rattle c b) s = .next t ∧
        (t.slot n).traps = (s.slot n).traps ++ [e] ∧ e.code = 5 ∧ e.core = c ∧ e.arg = bad.toNat)) ∧
    (∀ q b, (∀ failed, s.plat.droops.contains q = true → exec (.afenceRetestDone q b failed) s = .next (s.later (.afenceRetestDone q b failed))) ∧
      (s.plat.droops.contains q = false → exec (.afenceRetestDone q b false) s = .next s ∧ (Map.wf s.plat.afence = true →
        ∃ t, exec (.afenceRetestDone q b true) s = .next t ∧ t.fencedBits q = s.fencedBits q ||| BitVec.ofNat 16 (2 ^ (b % 16))))) ∧
    (∀ d l hm vm, (2 < laneKind l ∨ s.inReset d = true → exec (.eyeMonitorMeasure d l hm vm) s = .next s) ∧ (laneKind l ≤ 2 → s.inReset d = false → ∃ t, exec (.eyeMonitorMeasure d l hm vm) s = .next t ∧ (t.eye d l.toNat).hm = hm ∧ (t.eye d l.toNat).vm = vm ∧
      (t.eye d l.toNat).hmin.toNat = min hm.toNat (s.eye d l.toNat).hmin.toNat ∧ (t.eye d l.toNat).vmin.toNat = min vm.toNat (s.eye d l.toNat).vmin.toNat)) ∧
    (∀ d l, s.sliceWaits d l = false → exec (.retrainSliceStart d l) s = .next s) ∧
    (∀ d l, s.sliceWaits d l = true → s.sliceCohorts d l = [] → (s.plat.slices.any fun e => e.onLink d l && e.active) = false →
      s.sliceFrom d l ≤ s.clock → ∃ t k, exec (.retrainSliceStart d l) s = .next t ∧ k ≤ 2800 ∧ t.timers = s.timers ++ [(s.clock + k, .retrainSliceEnd d l)] ∧
        ⟨d, l, true, none, false⟩ ∈ t.plat.slices) ∧
    (∀ d l, (s.plat.slices.any fun e => e.die == d && e.lane == l && e.active) = true → ∃ t, exec (.retrainSliceEnd d l) s = .next t ∧
      ⟨d, l, false, some s.clock, false⟩ ∈ t.plat.slices ∧ ∀ e ∈ t.plat.slices, e.die = d → e.lane = l → e.active = false) ∧
    (∀ r : Inrush, exec (.inrushRequest r) s = .next (if s.inReset r.die then s else s.modPlat fun p => { p with arrivals := p.arrivals ++ [r] })) ∧
    (s.plat.fifo = [] → ∀ r : Inrush, s.plat.arrivals = [r] → s.plat.units + inrushCost r ≤ 16 →
      s.admitPower.plat.fifo = [] ∧ s.admitPower.plat.arrivals = [] ∧ s.admitPower.plat.units = s.plat.units + inrushCost r ∧
        s.admitPower.timers = s.timers ++ [(s.clock + inrushClocks r, .inrushComplete r)]) ∧
    (∀ r : Inrush,
      (s.plat.waking.contains r = false → exec (.inrushComplete r) s = .next s) ∧
      (s.plat.waking.contains r = true → s.plat.fifo = [] → ∃ t, exec (.inrushComplete r) s = .next t ∧
        t.plat.units = s.plat.units - inrushCost r ∧ t.plat.waking = s.plat.waking.erase r ∧ (r.kind = 1 → r.quad ∈ t.plat.onQuads))) ∧
    (∀ q, let cause := Cause.platform (2000 + q)
      (∃ t, exec (.droopDetect q) s = .next t ∧ q ∈ t.plat.droops ∧ t.timers.getLast? = some (s.clock + 256, .droopClear q) ∧
        ∀ n, s.quadHolder q = some n → (s.slot n).live = true ∨ (s.slot n).st = 1 → (∀ r ∈ (s.slot n).reqs, r.cause = cause → r.cleared ≠ none) →
          (t.slot n).reqs = (s.slot n).reqs ++ [⟨if (s.slot n).st = 1 then 0 else (s.slot n).tc + (s.slot n).horizon, cause, none⟩]) ∧
      ∃ t, exec (.droopClear q) s = .next t ∧ q ∉ t.plat.droops ∧ t.timers = s.timers ∧
        ∀ n, ∀ r ∈ (t.slot n).reqs, r.cause = cause → r.cleared ≠ none) ∧
    (∃ t, exec .powerWindow s = .next t ∧ t.timers.getLast? = some (s.clock + 1750000, .powerWindow) ∧ t.cores = s.cores) ∧
    (∀ d xs inlet, s.plat.boot.step ≠ 4 → xs.length = 12 → ∃ t, exec (.thermalSensorRead d xs inlet) s = .next t ∧ t.plat.inlet = inlet ∧
      (∀ x ∈ xs, x ≤ (t.thermal d).reading) ∧ (t.thermal d).reading ∈ xs ∧ (t.thermal d).zone = (s.thermal d).zone) ∧
    (∀ d, let x := s.thermal d
      (x.wanted = x.zone ∨ s.ns < x.since + 1000000 → exec (.zoneChange d) s = .next s) ∧
      (x.wanted ≠ x.zone → x.since + 1000000 ≤ s.ns → ∃ t, exec (.zoneChange d) s = .next t ∧ (t.thermal d).zone = x.wanted ∧ (t.thermal d).since = s.ns)) ∧
    ∀ n, let x := s.slot n
      (∀ l, x.lease = some l → (∃ t, exec (.leaseExpiry n l.expiry) s = .next t ∧ (t.slot n).lease = none ∧ (t.slot n).decl = x.decl) ∧
        ∀ k, l.expiry ≠ k → exec (.leaseExpiry n k) s = .next s) ∧
      (x.resume = .restoring → ∃ t, exec (.leaseGrant n) s = .next t ∧
        (t.slot n).lease = some ⟨min x.lrem.1 x.ceil, s.ns + 1000 * x.lrem.2⟩ ∧ (t.slot n).lrem = (0, 0) ∧
        ∃ at_, s.clock < at_ ∧
          t.timers = s.timers ++ [(s.clock + 1750 * x.lrem.2, .leaseExpiry n (s.ns + 1000 * x.lrem.2)), (at_, .restoreComplete n)]) ∧
      (x.resume ≠ .restoring → x.nextAcq = none → exec (.leaseGrant n) s = .next s) ∧
      (∀ t v, x.resume ≠ .restoring → x.nextAcq = some (t, v) →
        (s.freqGranted n v = x.freq → exec (.leaseGrant n) s = .next (s.modSlot n fun y =>
          { y with acqs := y.acqs.map fun e => if e.1 = t then (e.1, e.2.1, true) else e })) ∧
        (s.freqGranted n v ≠ x.freq → exec (.leaseGrant n) s = .next (s.inClocks 0 (.frequencyChangeDone n 2)))) ∧
      ∀ k, let runs := x.live = true ∨ x.st = 1
        let wanted := 48 + 2 * min (s.levelInForce n) 15
        (¬runs → exec (.frequencyChangeDone n k) s = .next s) ∧
        (runs → x.tuning = none → x.stillFor k = false → exec (.frequencyChangeDone n k) s = .next (s.inClocks 1 (.frequencyChangeDone n k))) ∧
        (runs → k ≠ 2 →
          (x.tuning = some k → exec (.frequencyChangeDone n k) s =
            .next ((s.modSlot n fun y => { y with freq := wanted, tuning := none }).clearCause n (.platform k))) ∧
          (x.tuning = none → x.stillFor k = true → x.freq ≠ wanted → exec (.frequencyChangeDone n k) s =
            .next ((s.modSlot n fun y => { y with tuning := some k }).inClocks 35000 (.frequencyChangeDone n k))) ∧
          (x.tuning = none → x.stillFor k = true → x.freq = wanted →
            exec (.frequencyChangeDone n k) s = .next (s.clearCause n (.platform k))))

/-- Boot, mailboxes and partition reset (R387, R388, R390 to R395): a reset counts its start and either loads the accepted configuration or
records why not; BOOTOK clears the count, without it the start has failed; a host writes the memory of its function's range and no other, and
a function's mailbox, whose doorbell it rings; the mailbox of that function performs the command of its opcode: it stages images and
configurations, attests, reports, restarts once for a good signature over the last nonce and thaws a master of its own log, and answers 3 to
any other opcode; the firmware extends MR3 by the key list, and MR4 to MR7; and a partition's reset leaves the others alone. The layout of
replies and return codes 2 and 3 (log entry 25), what a partition's reset touches (26), that a signature and a hash are not modelled (17),
that a reset clears memory and clock (28), and times in clocks (6), are the model's choice. -/
def Obligations.BootEvents : Prop :=
  ∀ s : State,
    let b := s.plat.boot
    (∃ t, exec .reset s = .next t ∧ t.clock = 0 ∧ t.dev = [] ∧ t.inputs = s.inputs ∧
      (3 ≤ b.starts → t.plat.boot.minimal = true ∧ t.plat.boot.step = 1) ∧
      (b.starts < 3 → t.plat.boot.starts = b.starts + 1 ∧ t.plat.boot.image = b.firmware ∧
        (firmwareReason b.firmware = 0 → configOk b.nextConfig = true → t.plat.boot.step = 4 ∧ t.plat.boot.config = b.nextConfig ∧ t.plat.caps = true ∧
          ∀ d, d < 8 → t.coldOf d = ⟨1, none, true⟩) ∧
        (firmwareReason b.firmware ≠ 0 → t.plat.boot.reasons.head? = some (firmwareReason b.firmware)) ∧
        (firmwareReason b.firmware = 0 → configOk b.nextConfig = false → t.plat.boot.reasons.head? = some 3))) ∧
    (b.step = 6 → (∃ t, exec .bootok s = .next t ∧ t.plat.boot.starts = 0 ∧ t.plat.boot.bootok = true ∧ t.plat.boot.step = 7) ∧
      ∃ t, exec .bootokTimeout s = .next t ∧ t.plat.boot.reasons.head? = some 7 ∧ t.timers.getLast? = some (s.clock + 1, .reset)) ∧
    (b.step ≠ 6 → exec .bootok s = .next s ∧ exec .bootokTimeout s = .next s) ∧
    (b.step ≠ 4 → exec .selfHeatTimeout s = .next s) ∧
    (∀ d k, b.step = 4 → d < 8 → s.coldOf d = ⟨3, some k, true⟩ → k + 2100000000000 ≤ s.clock →
      ∃ t, exec .selfHeatTimeout s = .next t ∧ t.plat.boot.reasons.head? = some 4) ∧
    (let fn := s.caller
      let x := s.mailbox fn
      let holds := fun op : Nat => x.opcode.toNat = op
      (∀ e ∈ [(1, Instr.image), (2, .restart), (3, .attest), (4, .status), (5, .unfreeze), (6, .config)], ¬holds e.1 → exec e.2 s = .next s) ∧
      (holds 1 → ∃ t, exec .image s = .next t ∧ t.plat.boot.staged = x.payload ∧ (t.mailbox fn).status = 0 ∧ t.plat.boot.image = b.image) ∧
      (holds 6 → ∃ t, exec .config s = .next t ∧ t.plat.boot.stagedCfg = x.payload ∧ (t.mailbox fn).status = 0 ∧ t.plat.boot.config = b.config) ∧
      (holds 2 → ∃ t, exec .restart s = .next t ∧
        (∀ n, x.nonce = some n → (keySlot x.payload).isSome = true → signedFor x.payload (leBytes 32 n.toNat) = true → t.plat.boot.starts = 0 ∧
          (t.mailbox fn).status = 0 ∧ (t.mailbox fn).nonce = none ∧ t.timers = s.timers ++ [(s.clock + 1, .reset)]) ∧
        ((∀ n, x.nonce = some n → keySlot x.payload = none ∨ signedFor x.payload (leBytes 32 n.toNat) = false) → t = s.answer fn 2 [])) ∧
      (holds 3 → x.payload.length = 32 → ∃ t, exec .attest s = .next t ∧ (t.mailbox fn).status = 0 ∧ (t.mailbox fn).reply.take 32 = x.payload ∧
        t.plat.boot.mr = b.mr) ∧
      (holds 3 → x.payload.length ≠ 32 → exec .attest s = .next (s.answer fn 2 [])) ∧
      (holds 4 → ∃ t, exec .status s = .next t ∧ (t.mailbox fn).status = 0 ∧ t.plat.boot.starts = b.starts ∧ t.plat.frozen = s.plat.frozen ∧
        (t.mailbox fn).nonce = some (BitVec.ofNat 256 (leNat (((t.mailbox fn).reply.drop 4).take 32)))) ∧
      (∀ e, holds 5 → (s.plat.freezeLog fn)[leNat x.payload]? = some e → e.live = true → ∃ t, exec .unfreeze s = .next t ∧ e.master ∉ t.plat.frozen ∧
        (t.mailbox fn).status = 0 ∧ ∀ f ∈ t.plat.flog, f.master = e.master → f.live = false) ∧
      (holds 5 → (s.plat.freezeLog fn)[leNat x.payload]? = none → exec .unfreeze s = .next (s.answer fn 2 [])) ∧
      (x.opcode.toNat = 0 ∨ 6 < x.opcode.toNat → exec .mailboxUnsupported s = .next (s.answer fn 3 []))) ∧
    (∀ fn a data, (s.plat.hdmHolds fn a data.length = true → exec (.cxlMemHostWrite (.mem fn a) data) s = .next (s.hostWrite a data)) ∧
      (s.plat.hdmHolds fn a data.length = false → exec (.cxlMemHostWrite (.mem fn a) data) s = .next s)) ∧
    (∀ data, let t := exec (.cxlMemHostWrite .keyList data) s
      ((b.step = 6 ∨ b.step = 7) → b.mr.length = 8 → ∃ u, t = .next u ∧ u.plat.boot.mr = b.mr.set 3 (extendMr (b.mr.getD 3 0) (Config.sha3 data))) ∧
      (b.step ≠ 6 → b.step ≠ 7 → t = .next s)) ∧
    (∀ i data, b.step = 6 ∨ b.step = 7 → 4 ≤ i → i < 8 → b.mr.length = 8 → ∃ t, exec (.cxlMemHostWrite (.measure i) data) s = .next t ∧
      t.plat.boot.mr = b.mr.set i (extendMr (b.mr.getD i 0) (BitVec.ofNat 256 (leNat data)))) ∧
    (∀ fn op data, ∃ t, exec (.cxlMemHostWrite (.mailbox fn op) data) s = .next t ∧ t.caller = fn ∧ (t.mailbox fn).payload = data ∧
      (t.mailbox fn).opcode = BitVec.ofNat 16 op ∧ t.dev = s.dev ∧ ∀ f, f ≠ fn → t.mailbox f = s.mailbox f) ∧
    ∀ part, let ds := (s.partition part).1
      let ns := (s.partition part).2
      ∃ t, exec (.partitionReset part) s = .next t ∧ t.clock = s.clock ∧ t.plat.partcfg = s.plat.partcfg ∧
        (∀ n, n ∈ ns → t.slot n = Slot.reset) ∧ (∀ n, n ∉ ns → t.slot n = s.slot n) ∧
        (∀ c, ds.contains (dieOf c) = true → c < 768 → t.core c = Core.reset) ∧
        ∀ a ∈ t.outs, a ∈ s.outs ∧ a.slot ∉ ns

/-! ## Invariants -/

/-- The in-rush arbiter stays in order (R398): whatever a step does, the units in use are those of the grants under way and at most 16, at most
64 requests queue, and the head waits only while it does not fit. -/
def Obligations.ArbiterKept : Prop := ∀ s t : State, s.arbiterOk → step s = .next t → t.arbiterOk

/-- After reset the arbiter is in order, and every memory and register file is in canonical form (R398). -/
def Obligations.ArbiterAtReset : Prop := State.reset.arbiterOk ∧ State.reset.filesOk

/-- No step but a reset writes the caps and partitions (R388, R389). -/
def Obligations.CapsKept : Prop :=
  ∀ s t : State, s.agenda.1 ≠ .event .reset → step s = .next t → t.caps = s.caps
end

