-- ==== Sys2Proof/Laws/Encoding.lean ====
section
/-! SUPPORT. The fields of a word that was built from fields are those fields, format by format (spec/07_encoding.md R137, R140). -/

namespace Sys2Proof

/-- The lowest part of a joined word. -/
theorem extract_append_low {n m : Nat} (x : BitVec n) (y : BitVec m) : (x ++ y).extractLsb' 0 m = y := by
  apply BitVec.eq_of_getLsbD_eq
  intro i hi
  simp [BitVec.getLsbD_append, hi]

/-- A field above the lowest part of a joined word. -/
theorem extract_append_high {n m : Nat} (x : BitVec n) (y : BitVec m) (a l : Nat) (h : m ≤ a) :
    (x ++ y).extractLsb' a l = x.extractLsb' (a - m) l := by
  apply BitVec.eq_of_getLsbD_eq
  intro i hi
  simp only [BitVec.getLsbD_extractLsb', hi, decide_true, Bool.true_and, BitVec.getLsbD_append]
  rw [if_neg (by omega), show a + i - m = a - m + i by omega]

/-- Neighbouring fields of a word join to one. -/
theorem extract_join {n : Nat} (w : BitVec n) (b l c k : Nat) (h : b = c + k) :
    w.extractLsb' b l ++ w.extractLsb' c k = w.extractLsb' c (l + k) := by
  subst h
  apply BitVec.eq_of_getLsbD_eq
  intro i hi
  simp only [BitVec.getLsbD_append, BitVec.getLsbD_extractLsb', hi, decide_true, Bool.true_and]
  split
  · simp [*]
  · rw [show c + k + (i - k) = c + i by omega, decide_eq_true (by omega), Bool.true_and]

/-- A whole word as one field. -/
theorem extract_self {n : Nat} (x : BitVec n) : x.extractLsb' 0 n = x := by simp

/-! ## Rrr -/

@[simp] theorem opOf_rrrWord (h : Hdr) (op : BitVec 8) (f : Rrr) : opOf (rrrWord h op f) = op := by
  unfold opOf rrrWord
  change BitVec.extractLsb' (n := 4 + 6 + 8 + 2 + 7 + 7 + 7 + 7 + 3 + 5 + 8) 46 8 _ = op
  simp (disch := decide) only [extract_append_high, extract_append_low, Nat.reduceSub]

@[simp] theorem hdrOf_rrrWord (h : Hdr) (op : BitVec 8) (f : Rrr) : hdrOf (rrrWord h op f) = h := by
  unfold hdrOf rrrWord
  change Hdr.mk (BitVec.extractLsb' (n := 4 + 6 + 8 + 2 + 7 + 7 + 7 + 7 + 3 + 5 + 8) 60 4 _)
    (BitVec.extractLsb' (n := 4 + 6 + 8 + 2 + 7 + 7 + 7 + 7 + 3 + 5 + 8) 54 6 _) = h
  simp (disch := decide) only [extract_append_high, extract_append_low, extract_self, Nat.reduceSub]

@[simp] theorem rrrOf_rrrWord (h : Hdr) (op : BitVec 8) (f : Rrr) : rrrOf (rrrWord h op f) = f := by
  unfold rrrOf rrrWord
  change Rrr.mk (BitVec.extractLsb' (n := 4 + 6 + 8 + 2 + 7 + 7 + 7 + 7 + 3 + 5 + 8) 44 2 _)
    (BitVec.extractLsb' (n := 4 + 6 + 8 + 2 + 7 + 7 + 7 + 7 + 3 + 5 + 8) 37 7 _)
    (BitVec.extractLsb' (n := 4 + 6 + 8 + 2 + 7 + 7 + 7 + 7 + 3 + 5 + 8) 30 7 _)
    (BitVec.extractLsb' (n := 4 + 6 + 8 + 2 + 7 + 7 + 7 + 7 + 3 + 5 + 8) 23 7 _)
    (BitVec.extractLsb' (n := 4 + 6 + 8 + 2 + 7 + 7 + 7 + 7 + 3 + 5 + 8) 16 7 _)
    (BitVec.extractLsb' (n := 4 + 6 + 8 + 2 + 7 + 7 + 7 + 7 + 3 + 5 + 8) 13 3 _)
    (BitVec.extractLsb' (n := 4 + 6 + 8 + 2 + 7 + 7 + 7 + 7 + 3 + 5 + 8) 8 5 _)
    (BitVec.extractLsb' (n := 4 + 6 + 8 + 2 + 7 + 7 + 7 + 7 + 3 + 5 + 8) 0 8 _) = f
  simp (disch := decide) only [extract_append_high, extract_append_low, extract_self, Nat.reduceSub]

/-! ## Rri -/

@[simp] theorem opOf_rriWord (h : Hdr) (op : BitVec 8) (f : Rri) : opOf (rriWord h op f) = op := by
  unfold opOf rriWord
  change BitVec.extractLsb' (n := 4 + 6 + 8 + 2 + 7 + 7 + 30) 46 8 _ = op
  simp (disch := decide) only [extract_append_high, extract_append_low, Nat.reduceSub]

@[simp] theorem hdrOf_rriWord (h : Hdr) (op : BitVec 8) (f : Rri) : hdrOf (rriWord h op f) = h := by
  unfold hdrOf rriWord
  change Hdr.mk (BitVec.extractLsb' (n := 4 + 6 + 8 + 2 + 7 + 7 + 30) 60 4 _)
    (BitVec.extractLsb' (n := 4 + 6 + 8 + 2 + 7 + 7 + 30) 54 6 _) = h
  simp (disch := decide) only [extract_append_high, extract_append_low, extract_self, Nat.reduceSub]

@[simp] theorem rriOf_rriWord (h : Hdr) (op : BitVec 8) (f : Rri) : rriOf (rriWord h op f) = f := by
  unfold rriOf rriWord
  change Rri.mk (BitVec.extractLsb' (n := 4 + 6 + 8 + 2 + 7 + 7 + 30) 44 2 _)
    (BitVec.extractLsb' (n := 4 + 6 + 8 + 2 + 7 + 7 + 30) 37 7 _)
    (BitVec.extractLsb' (n := 4 + 6 + 8 + 2 + 7 + 7 + 30) 30 7 _)
    (BitVec.extractLsb' (n := 4 + 6 + 8 + 2 + 7 + 7 + 30) 0 30 _) = f
  simp (disch := decide) only [extract_append_high, extract_append_low, extract_self, Nat.reduceSub]

/-! ## Rriw -/

@[simp] theorem opOf_rriwWord (h : Hdr) (op : BitVec 8) (f : Rriw) : opOf (rriwWord h op f) = op := by
  unfold opOf rriwWord
  change BitVec.extractLsb' (n := 4 + 6 + 8 + 2 + 7 + 5 + 32) 46 8 _ = op
  simp (disch := decide) only [extract_append_high, extract_append_low, Nat.reduceSub]

@[simp] theorem hdrOf_rriwWord (h : Hdr) (op : BitVec 8) (f : Rriw) : hdrOf (rriwWord h op f) = h := by
  unfold hdrOf rriwWord
  change Hdr.mk (BitVec.extractLsb' (n := 4 + 6 + 8 + 2 + 7 + 5 + 32) 60 4 _)
    (BitVec.extractLsb' (n := 4 + 6 + 8 + 2 + 7 + 5 + 32) 54 6 _) = h
  simp (disch := decide) only [extract_append_high, extract_append_low, extract_self, Nat.reduceSub]

@[simp] theorem rriwOf_rriwWord (h : Hdr) (op : BitVec 8) (f : Rriw) : rriwOf (rriwWord h op f) = f := by
  unfold rriwOf rriwWord
  change Rriw.mk (BitVec.extractLsb' (n := 4 + 6 + 8 + 2 + 7 + 5 + 32) 44 2 _)
    (BitVec.extractLsb' (n := 4 + 6 + 8 + 2 + 7 + 5 + 32) 37 7 _)
    (BitVec.extractLsb' (n := 4 + 6 + 8 + 2 + 7 + 5 + 32) 32 5 _)
    (BitVec.extractLsb' (n := 4 + 6 + 8 + 2 + 7 + 5 + 32) 0 32 _) = f
  simp (disch := decide) only [extract_append_high, extract_append_low, extract_self, Nat.reduceSub]

/-! ## Jmp -/

@[simp] theorem opOf_jmpWord (h : Hdr) (op : BitVec 8) (f : Jmp) : opOf (jmpWord h op f) = op := by
  unfold opOf jmpWord
  change BitVec.extractLsb' (n := 4 + 6 + 8 + 14 + 32) 46 8 _ = op
  simp (disch := decide) only [extract_append_high, extract_append_low, Nat.reduceSub]

@[simp] theorem hdrOf_jmpWord (h : Hdr) (op : BitVec 8) (f : Jmp) : hdrOf (jmpWord h op f) = h := by
  unfold hdrOf jmpWord
  change Hdr.mk (BitVec.extractLsb' (n := 4 + 6 + 8 + 14 + 32) 60 4 _)
    (BitVec.extractLsb' (n := 4 + 6 + 8 + 14 + 32) 54 6 _) = h
  simp (disch := decide) only [extract_append_high, extract_append_low, extract_self, Nat.reduceSub]

@[simp] theorem jmpOf_jmpWord (h : Hdr) (op : BitVec 8) (f : Jmp) : jmpOf (jmpWord h op f) = f := by
  unfold jmpOf jmpWord
  change Jmp.mk (BitVec.extractLsb' (n := 4 + 6 + 8 + 14 + 32) 32 14 _)
    (BitVec.extractLsb' (n := 4 + 6 + 8 + 14 + 32) 0 32 _) = f
  simp (disch := decide) only [extract_append_high, extract_append_low, extract_self, Nat.reduceSub]

/-! ## Ret -/

@[simp] theorem opOf_retWord (h : Hdr) (op : BitVec 8) (f : Ret) : opOf (retWord h op f) = op := by
  unfold opOf retWord
  change BitVec.extractLsb' (n := 4 + 6 + 8 + 46) 46 8 _ = op
  simp (disch := decide) only [extract_append_high, extract_append_low, Nat.reduceSub]

@[simp] theorem hdrOf_retWord (h : Hdr) (op : BitVec 8) (f : Ret) : hdrOf (retWord h op f) = h := by
  unfold hdrOf retWord
  change Hdr.mk (BitVec.extractLsb' (n := 4 + 6 + 8 + 46) 60 4 _)
    (BitVec.extractLsb' (n := 4 + 6 + 8 + 46) 54 6 _) = h
  simp (disch := decide) only [extract_append_high, extract_append_low, extract_self, Nat.reduceSub]

@[simp] theorem retOf_retWord (h : Hdr) (op : BitVec 8) (f : Ret) : retOf (retWord h op f) = f := by
  unfold retOf retWord
  change Ret.mk (BitVec.extractLsb' (n := 4 + 6 + 8 + 46) 0 46 _) = f
  simp (disch := decide) only [extract_append_high, extract_append_low, extract_self, Nat.reduceSub]

/-! ## Loop -/

@[simp] theorem opOf_loopWord (h : Hdr) (op : BitVec 8) (f : Loop) : opOf (loopWord h op f) = op := by
  unfold opOf loopWord
  change BitVec.extractLsb' (n := 4 + 6 + 8 + 2 + 2 + 8 + 2 + 32) 46 8 _ = op
  simp (disch := decide) only [extract_append_high, extract_append_low, Nat.reduceSub]

@[simp] theorem hdrOf_loopWord (h : Hdr) (op : BitVec 8) (f : Loop) : hdrOf (loopWord h op f) = h := by
  unfold hdrOf loopWord
  change Hdr.mk (BitVec.extractLsb' (n := 4 + 6 + 8 + 2 + 2 + 8 + 2 + 32) 60 4 _)
    (BitVec.extractLsb' (n := 4 + 6 + 8 + 2 + 2 + 8 + 2 + 32) 54 6 _) = h
  simp (disch := decide) only [extract_append_high, extract_append_low, extract_self, Nat.reduceSub]

@[simp] theorem loopOf_loopWord (h : Hdr) (op : BitVec 8) (f : Loop) : loopOf (loopWord h op f) = f := by
  unfold loopOf loopWord
  change Loop.mk (BitVec.extractLsb' (n := 4 + 6 + 8 + 2 + 2 + 8 + 2 + 32) 44 2 _)
    (BitVec.extractLsb' (n := 4 + 6 + 8 + 2 + 2 + 8 + 2 + 32) 42 2 _)
    (BitVec.extractLsb' (n := 4 + 6 + 8 + 2 + 2 + 8 + 2 + 32) 34 8 _)
    (BitVec.extractLsb' (n := 4 + 6 + 8 + 2 + 2 + 8 + 2 + 32) 32 2 _)
    (BitVec.extractLsb' (n := 4 + 6 + 8 + 2 + 2 + 8 + 2 + 32) 0 32 _) = f
  simp (disch := decide) only [extract_append_high, extract_append_low, extract_self, Nat.reduceSub]

/-! ## Lring -/

@[simp] theorem opOf_lringWord (h : Hdr) (op : BitVec 8) (f : Lring) : opOf (lringWord h op f) = op := by
  unfold opOf lringWord
  change BitVec.extractLsb' (n := 4 + 6 + 8 + 2 + 11 + 11 + 11 + 11) 46 8 _ = op
  simp (disch := decide) only [extract_append_high, extract_append_low, Nat.reduceSub]

@[simp] theorem hdrOf_lringWord (h : Hdr) (op : BitVec 8) (f : Lring) : hdrOf (lringWord h op f) = h := by
  unfold hdrOf lringWord
  change Hdr.mk (BitVec.extractLsb' (n := 4 + 6 + 8 + 2 + 11 + 11 + 11 + 11) 60 4 _)
    (BitVec.extractLsb' (n := 4 + 6 + 8 + 2 + 11 + 11 + 11 + 11) 54 6 _) = h
  simp (disch := decide) only [extract_append_high, extract_append_low, extract_self, Nat.reduceSub]

@[simp] theorem lringOf_lringWord (h : Hdr) (op : BitVec 8) (f : Lring) : lringOf (lringWord h op f) = f := by
  unfold lringOf lringWord
  change Lring.mk (BitVec.extractLsb' (n := 4 + 6 + 8 + 2 + 11 + 11 + 11 + 11) 44 2 _)
    (BitVec.extractLsb' (n := 4 + 6 + 8 + 2 + 11 + 11 + 11 + 11) 33 11 _)
    (BitVec.extractLsb' (n := 4 + 6 + 8 + 2 + 11 + 11 + 11 + 11) 22 11 _)
    (BitVec.extractLsb' (n := 4 + 6 + 8 + 2 + 11 + 11 + 11 + 11) 11 11 _)
    (BitVec.extractLsb' (n := 4 + 6 + 8 + 2 + 11 + 11 + 11 + 11) 0 11 _) = f
  simp (disch := decide) only [extract_append_high, extract_append_low, extract_self, Nat.reduceSub]

/-! ## Mem -/

@[simp] theorem opOf_memWord (h : Hdr) (op : BitVec 8) (f : Mem) : opOf (memWord h op f) = op := by
  unfold opOf memWord
  change BitVec.extractLsb' (n := 4 + 6 + 8 + 2 + 7 + 4 + 7 + 2 + 2 + 1 + 3 + 5 + 13) 46 8 _ = op
  simp (disch := decide) only [extract_append_high, extract_append_low, Nat.reduceSub]

@[simp] theorem hdrOf_memWord (h : Hdr) (op : BitVec 8) (f : Mem) : hdrOf (memWord h op f) = h := by
  unfold hdrOf memWord
  change Hdr.mk (BitVec.extractLsb' (n := 4 + 6 + 8 + 2 + 7 + 4 + 7 + 2 + 2 + 1 + 3 + 5 + 13) 60 4 _)
    (BitVec.extractLsb' (n := 4 + 6 + 8 + 2 + 7 + 4 + 7 + 2 + 2 + 1 + 3 + 5 + 13) 54 6 _) = h
  simp (disch := decide) only [extract_append_high, extract_append_low, extract_self, Nat.reduceSub]

@[simp] theorem memOf_memWord (h : Hdr) (op : BitVec 8) (f : Mem) : memOf (memWord h op f) = f := by
  unfold memOf memWord
  change Mem.mk (BitVec.extractLsb' (n := 4 + 6 + 8 + 2 + 7 + 4 + 7 + 2 + 2 + 1 + 3 + 5 + 13) 44 2 _)
    (BitVec.extractLsb' (n := 4 + 6 + 8 + 2 + 7 + 4 + 7 + 2 + 2 + 1 + 3 + 5 + 13) 37 7 _)
    (BitVec.extractLsb' (n := 4 + 6 + 8 + 2 + 7 + 4 + 7 + 2 + 2 + 1 + 3 + 5 + 13) 33 4 _)
    (BitVec.extractLsb' (n := 4 + 6 + 8 + 2 + 7 + 4 + 7 + 2 + 2 + 1 + 3 + 5 + 13) 26 7 _)
    (BitVec.extractLsb' (n := 4 + 6 + 8 + 2 + 7 + 4 + 7 + 2 + 2 + 1 + 3 + 5 + 13) 24 2 _)
    (BitVec.extractLsb' (n := 4 + 6 + 8 + 2 + 7 + 4 + 7 + 2 + 2 + 1 + 3 + 5 + 13) 22 2 _)
    (BitVec.extractLsb' (n := 4 + 6 + 8 + 2 + 7 + 4 + 7 + 2 + 2 + 1 + 3 + 5 + 13) 21 1 _)
    (BitVec.extractLsb' (n := 4 + 6 + 8 + 2 + 7 + 4 + 7 + 2 + 2 + 1 + 3 + 5 + 13) 18 3 _)
    (BitVec.extractLsb' (n := 4 + 6 + 8 + 2 + 7 + 4 + 7 + 2 + 2 + 1 + 3 + 5 + 13) 13 5 _)
    (BitVec.extractLsb' (n := 4 + 6 + 8 + 2 + 7 + 4 + 7 + 2 + 2 + 1 + 3 + 5 + 13) 0 13 _) = f
  simp (disch := decide) only [extract_append_high, extract_append_low, extract_self, Nat.reduceSub]

/-! ## Mx -/

@[simp] theorem opOf_mxWord (h : Hdr) (op : BitVec 8) (f : Mx) : opOf (mxWord h op f) = op := by
  unfold opOf mxWord
  change BitVec.extractLsb' (n := 4 + 6 + 8 + 2 + 1 + 7 + 7 + 2 + 2 + 4 + 8 + 13) 46 8 _ = op
  simp (disch := decide) only [extract_append_high, extract_append_low, Nat.reduceSub]

@[simp] theorem hdrOf_mxWord (h : Hdr) (op : BitVec 8) (f : Mx) : hdrOf (mxWord h op f) = h := by
  unfold hdrOf mxWord
  change Hdr.mk (BitVec.extractLsb' (n := 4 + 6 + 8 + 2 + 1 + 7 + 7 + 2 + 2 + 4 + 8 + 13) 60 4 _)
    (BitVec.extractLsb' (n := 4 + 6 + 8 + 2 + 1 + 7 + 7 + 2 + 2 + 4 + 8 + 13) 54 6 _) = h
  simp (disch := decide) only [extract_append_high, extract_append_low, extract_self, Nat.reduceSub]

@[simp] theorem mxOf_mxWord (h : Hdr) (op : BitVec 8) (f : Mx) : mxOf (mxWord h op f) = f := by
  unfold mxOf mxWord
  change Mx.mk (BitVec.extractLsb' (n := 4 + 6 + 8 + 2 + 1 + 7 + 7 + 2 + 2 + 4 + 8 + 13) 44 2 _)
    (BitVec.extractLsb' (n := 4 + 6 + 8 + 2 + 1 + 7 + 7 + 2 + 2 + 4 + 8 + 13) 43 1 _)
    (BitVec.extractLsb' (n := 4 + 6 + 8 + 2 + 1 + 7 + 7 + 2 + 2 + 4 + 8 + 13) 36 7 _)
    (BitVec.extractLsb' (n := 4 + 6 + 8 + 2 + 1 + 7 + 7 + 2 + 2 + 4 + 8 + 13) 29 7 _)
    (BitVec.extractLsb' (n := 4 + 6 + 8 + 2 + 1 + 7 + 7 + 2 + 2 + 4 + 8 + 13) 27 2 _)
    (BitVec.extractLsb' (n := 4 + 6 + 8 + 2 + 1 + 7 + 7 + 2 + 2 + 4 + 8 + 13) 25 2 _)
    (BitVec.extractLsb' (n := 4 + 6 + 8 + 2 + 1 + 7 + 7 + 2 + 2 + 4 + 8 + 13) 21 4 _)
    (BitVec.extractLsb' (n := 4 + 6 + 8 + 2 + 1 + 7 + 7 + 2 + 2 + 4 + 8 + 13) 13 8 _)
    (BitVec.extractLsb' (n := 4 + 6 + 8 + 2 + 1 + 7 + 7 + 2 + 2 + 4 + 8 + 13) 0 13 _) = f
  simp (disch := decide) only [extract_append_high, extract_append_low, extract_self, Nat.reduceSub]

/-! ## Sys -/

@[simp] theorem opOf_sysWord (h : Hdr) (op : BitVec 8) (f : Sys) : opOf (sysWord h op f) = op := by
  unfold opOf sysWord
  change BitVec.extractLsb' (n := 4 + 6 + 8 + 2 + 3 + 7 + 2 + 32) 46 8 _ = op
  simp (disch := decide) only [extract_append_high, extract_append_low, Nat.reduceSub]

@[simp] theorem hdrOf_sysWord (h : Hdr) (op : BitVec 8) (f : Sys) : hdrOf (sysWord h op f) = h := by
  unfold hdrOf sysWord
  change Hdr.mk (BitVec.extractLsb' (n := 4 + 6 + 8 + 2 + 3 + 7 + 2 + 32) 60 4 _)
    (BitVec.extractLsb' (n := 4 + 6 + 8 + 2 + 3 + 7 + 2 + 32) 54 6 _) = h
  simp (disch := decide) only [extract_append_high, extract_append_low, extract_self, Nat.reduceSub]

@[simp] theorem sysOf_sysWord (h : Hdr) (op : BitVec 8) (f : Sys) : sysOf (sysWord h op f) = f := by
  unfold sysOf sysWord
  change Sys.mk (BitVec.extractLsb' (n := 4 + 6 + 8 + 2 + 3 + 7 + 2 + 32) 44 2 _)
    (BitVec.extractLsb' (n := 4 + 6 + 8 + 2 + 3 + 7 + 2 + 32) 41 3 _)
    (BitVec.extractLsb' (n := 4 + 6 + 8 + 2 + 3 + 7 + 2 + 32) 34 7 _)
    (BitVec.extractLsb' (n := 4 + 6 + 8 + 2 + 3 + 7 + 2 + 32) 32 2 _)
    (BitVec.extractLsb' (n := 4 + 6 + 8 + 2 + 3 + 7 + 2 + 32) 0 32 _) = f
  simp (disch := decide) only [extract_append_high, extract_append_low, extract_self, Nat.reduceSub]

@[simp] theorem rrrWord_of (w : Word) : rrrWord (hdrOf w) (opOf w) (rrrOf w) = w := by
  unfold rrrWord hdrOf opOf rrrOf
  dsimp only
  simp (disch := decide) only [extract_join]
  exact BitVec.extractLsb'_eq_self

@[simp] theorem rriWord_of (w : Word) : rriWord (hdrOf w) (opOf w) (rriOf w) = w := by
  unfold rriWord hdrOf opOf rriOf
  dsimp only
  simp (disch := decide) only [extract_join]
  exact BitVec.extractLsb'_eq_self

@[simp] theorem rriwWord_of (w : Word) : rriwWord (hdrOf w) (opOf w) (rriwOf w) = w := by
  unfold rriwWord hdrOf opOf rriwOf
  dsimp only
  simp (disch := decide) only [extract_join]
  exact BitVec.extractLsb'_eq_self

@[simp] theorem jmpWord_of (w : Word) : jmpWord (hdrOf w) (opOf w) (jmpOf w) = w := by
  unfold jmpWord hdrOf opOf jmpOf
  dsimp only
  simp (disch := decide) only [extract_join]
  exact BitVec.extractLsb'_eq_self

@[simp] theorem retWord_of (w : Word) : retWord (hdrOf w) (opOf w) (retOf w) = w := by
  unfold retWord hdrOf opOf retOf
  dsimp only
  simp (disch := decide) only [extract_join]
  exact BitVec.extractLsb'_eq_self

@[simp] theorem loopWord_of (w : Word) : loopWord (hdrOf w) (opOf w) (loopOf w) = w := by
  unfold loopWord hdrOf opOf loopOf
  dsimp only
  simp (disch := decide) only [extract_join]
  exact BitVec.extractLsb'_eq_self

@[simp] theorem lringWord_of (w : Word) : lringWord (hdrOf w) (opOf w) (lringOf w) = w := by
  unfold lringWord hdrOf opOf lringOf
  dsimp only
  simp (disch := decide) only [extract_join]
  exact BitVec.extractLsb'_eq_self

@[simp] theorem memWord_of (w : Word) : memWord (hdrOf w) (opOf w) (memOf w) = w := by
  unfold memWord hdrOf opOf memOf
  dsimp only
  simp (disch := decide) only [extract_join]
  exact BitVec.extractLsb'_eq_self

@[simp] theorem mxWord_of (w : Word) : mxWord (hdrOf w) (opOf w) (mxOf w) = w := by
  unfold mxWord hdrOf opOf mxOf
  dsimp only
  simp (disch := decide) only [extract_join]
  exact BitVec.extractLsb'_eq_self

@[simp] theorem sysWord_of (w : Word) : sysWord (hdrOf w) (opOf w) (sysOf w) = w := by
  unfold sysWord hdrOf opOf sysOf
  dsimp only
  simp (disch := decide) only [extract_join]
  exact BitVec.extractLsb'_eq_self

/-! ## Opcodes: what each names (R142), and that no other names anything (R143) -/

theorem decodeOp_01 (w : Word) : decodeOp 0x01 w = (some (.add (hdrOf w) (rrrOf w))) := rfl
theorem decodeOp_02 (w : Word) : decodeOp 0x02 w = (some (.sub (hdrOf w) (rrrOf w))) := rfl
theorem decodeOp_03 (w : Word) : decodeOp 0x03 w = (some (.mul (hdrOf w) (rrrOf w))) := rfl
theorem decodeOp_04 (w : Word) : decodeOp 0x04 w = (some (.mulh (hdrOf w) (rrrOf w))) := rfl
theorem decodeOp_05 (w : Word) : decodeOp 0x05 w = (some (.div (hdrOf w) (rrrOf w))) := rfl
theorem decodeOp_06 (w : Word) : decodeOp 0x06 w = (some (.rem (hdrOf w) (rrrOf w))) := rfl
theorem decodeOp_07 (w : Word) : decodeOp 0x07 w = (some (.and (hdrOf w) (rrrOf w))) := rfl
theorem decodeOp_08 (w : Word) : decodeOp 0x08 w = (some (.or (hdrOf w) (rrrOf w))) := rfl
theorem decodeOp_09 (w : Word) : decodeOp 0x09 w = (some (.xor (hdrOf w) (rrrOf w))) := rfl
theorem decodeOp_0A (w : Word) : decodeOp 0x0A w = (some (.andn (hdrOf w) (rrrOf w))) := rfl
theorem decodeOp_0B (w : Word) : decodeOp 0x0B w = (some (.shl (hdrOf w) (rrrOf w))) := rfl
theorem decodeOp_0C (w : Word) : decodeOp 0x0C w = (some (.shr (hdrOf w) (rrrOf w))) := rfl
theorem decodeOp_0D (w : Word) : decodeOp 0x0D w = (some (.sar (hdrOf w) (rrrOf w))) := rfl
theorem decodeOp_0E (w : Word) : decodeOp 0x0E w = (some (.min (hdrOf w) (rrrOf w))) := rfl
theorem decodeOp_0F (w : Word) : decodeOp 0x0F w = (some (.max (hdrOf w) (rrrOf w))) := rfl
theorem decodeOp_10 (w : Word) : decodeOp 0x10 w = (some (.cmp (hdrOf w) (rrrOf w))) := rfl
theorem decodeOp_11 (w : Word) : decodeOp 0x11 w = (some (.sel (hdrOf w) (rrrOf w))) := rfl
theorem decodeOp_12 (w : Word) : decodeOp 0x12 w = (some (.clz (hdrOf w) (rrrOf w))) := rfl
theorem decodeOp_13 (w : Word) : decodeOp 0x13 w = (some (.popc (hdrOf w) (rrrOf w))) := rfl
theorem decodeOp_14 (w : Word) : decodeOp 0x14 w = (some (.addi (hdrOf w) (rriOf w))) := rfl
theorem decodeOp_15 (w : Word) : decodeOp 0x15 w = (some (.li (hdrOf w) (rriwOf w))) := rfl
theorem decodeOp_16 (w : Word) : decodeOp 0x16 w = (some (.lih (hdrOf w) (rriwOf w))) := rfl
theorem decodeOp_17 (w : Word) : decodeOp 0x17 w = (some (.ext (hdrOf w) (rriOf w))) := rfl
theorem decodeOp_18 (w : Word) : decodeOp 0x18 w = (some (.ins (hdrOf w) (rriOf w))) := rfl
theorem decodeOp_20 (w : Word) : decodeOp 0x20 w = (some (.jmp (hdrOf w) (jmpOf w))) := rfl
theorem decodeOp_21 (w : Word) : decodeOp 0x21 w = (some (.call (hdrOf w) (jmpOf w))) := rfl
theorem decodeOp_22 (w : Word) : decodeOp 0x22 w = (some (.ret (hdrOf w) (retOf w))) := rfl
theorem decodeOp_23 (w : Word) : decodeOp 0x23 w = (some (.loop (hdrOf w) (loopOf w))) := rfl
theorem decodeOp_24 (w : Word) : decodeOp 0x24 w = (some (.lring (hdrOf w) (lringOf w))) := rfl
theorem decodeOp_28 (w : Word) : decodeOp 0x28 w = (some (.sptest (hdrOf w) (rrrOf w))) := rfl
theorem decodeOp_29 (w : Word) : decodeOp 0x29 w = (let f := rrrOf w; if !f.md.getLsbD 4 then some (.spcastS (hdrOf w) f) else some (.spcastG (hdrOf w) f)) := rfl
theorem decodeOp_2A (w : Word) : decodeOp 0x2A w = (some (.padd (hdrOf w) (rrrOf w))) := rfl
theorem decodeOp_30 (w : Word) : decodeOp 0x30 w = (some (.hld (hdrOf w) (memOf w))) := rfl
theorem decodeOp_31 (w : Word) : decodeOp 0x31 w = (some (.hst (hdrOf w) (memOf w))) := rfl
theorem decodeOp_32 (w : Word) : decodeOp 0x32 w = (some (.hset (hdrOf w) (rrrOf w))) := rfl
theorem decodeOp_33 (w : Word) : decodeOp 0x33 w = (some (.hget (hdrOf w) (rrrOf w))) := rfl
theorem decodeOp_34 (w : Word) : decodeOp 0x34 w = (let f := rriOf w; if !f.imm.getLsbD 12 then some (.hstat (hdrOf w) f) else some (.hstatOff (hdrOf w) f)) := rfl
theorem decodeOp_35 (w : Word) : decodeOp 0x35 w = (some (.hcpy (hdrOf w) (rrrOf w))) := rfl
theorem decodeOp_38 (w : Word) : decodeOp 0x38 w = (some (.lds (hdrOf w) (memOf w))) := rfl
theorem decodeOp_39 (w : Word) : decodeOp 0x39 w = (some (.sts (hdrOf w) (memOf w))) := rfl
theorem decodeOp_3A (w : Word) : decodeOp 0x3A w = (some (.fpush (hdrOf w) (rrrOf w))) := rfl
theorem decodeOp_3C (w : Word) : decodeOp 0x3C w = (some (.rdctr (hdrOf w) (rriOf w))) := rfl
theorem decodeOp_3D (w : Word) : decodeOp 0x3D w = (some (.csrr (hdrOf w) (rriOf w))) := rfl
theorem decodeOp_3E (w : Word) : decodeOp 0x3E w = (let f := rriOf w; if f.csr == 0 then some (.flagsClear (hdrOf w) f) else if f.csr == 2 then some (.selWrite (hdrOf w) f) else some (.csrw (hdrOf w) f)) := rfl
theorem decodeOp_40 (w : Word) : decodeOp 0x40 w = (some (.ldQ (hdrOf w) (memOf w))) := rfl
theorem decodeOp_41 (w : Word) : decodeOp 0x41 w = (some (.ldV (hdrOf w) (memOf w))) := rfl
theorem decodeOp_42 (w : Word) : decodeOp 0x42 w = (some (.ldT (hdrOf w) (memOf w))) := rfl
theorem decodeOp_43 (w : Word) : decodeOp 0x43 w = (some (.ldTr (hdrOf w) (memOf w))) := rfl
theorem decodeOp_44 (w : Word) : decodeOp 0x44 w = (some (.ldG (hdrOf w) (memOf w))) := rfl
theorem decodeOp_45 (w : Word) : decodeOp 0x45 w = (some (.ldW (hdrOf w) (memOf w))) := rfl
theorem decodeOp_46 (w : Word) : decodeOp 0x46 w = (some (.ldCb (hdrOf w) (memOf w))) := rfl
theorem decodeOp_47 (w : Word) : decodeOp 0x47 w = (some (.ldBc (hdrOf w) (memOf w))) := rfl
theorem decodeOp_60 (w : Word) : decodeOp 0x60 w = (some (.stV (hdrOf w) (memOf w))) := rfl
theorem decodeOp_61 (w : Word) : decodeOp 0x61 w = (some (.stQ (hdrOf w) (memOf w))) := rfl
theorem decodeOp_62 (w : Word) : decodeOp 0x62 w = (some (.stT (hdrOf w) (memOf w))) := rfl
theorem decodeOp_63 (w : Word) : decodeOp 0x63 w = (some (.stS (hdrOf w) (memOf w))) := rfl
theorem decodeOp_64 (w : Word) : decodeOp 0x64 w = (some (.stQnt (hdrOf w) (memOf w))) := rfl
theorem decodeOp_65 (w : Word) : decodeOp 0x65 w = (some (.stUpd (hdrOf w) (memOf w))) := rfl
theorem decodeOp_66 (w : Word) : decodeOp 0x66 w = (some (.stX (hdrOf w) (memOf w))) := rfl
theorem decodeOp_67 (w : Word) : decodeOp 0x67 w = (some (.stMc (hdrOf w) (memOf w))) := rfl
theorem decodeOp_68 (w : Word) : decodeOp 0x68 w = (some (.atom (hdrOf w) (memOf w))) := rfl
theorem decodeOp_69 (w : Word) : decodeOp 0x69 w = (some (.bobjArm (hdrOf w) (memOf w))) := rfl
theorem decodeOp_6A (w : Word) : decodeOp 0x6A w = (some (.bobjWait (hdrOf w) (memOf w))) := rfl
theorem decodeOp_80 (w : Word) : decodeOp 0x80 w = (some (.vadd (hdrOf w) (rrrOf w))) := rfl
theorem decodeOp_81 (w : Word) : decodeOp 0x81 w = (some (.vsub (hdrOf w) (rrrOf w))) := rfl
theorem decodeOp_82 (w : Word) : decodeOp 0x82 w = (some (.vmul (hdrOf w) (rrrOf w))) := rfl
theorem decodeOp_83 (w : Word) : decodeOp 0x83 w = (some (.vfma (hdrOf w) (rrrOf w))) := rfl
theorem decodeOp_84 (w : Word) : decodeOp 0x84 w = (some (.vmin (hdrOf w) (rrrOf w))) := rfl
theorem decodeOp_85 (w : Word) : decodeOp 0x85 w = (some (.vmax (hdrOf w) (rrrOf w))) := rfl
theorem decodeOp_86 (w : Word) : decodeOp 0x86 w = (some (.vabs (hdrOf w) (rrrOf w))) := rfl
theorem decodeOp_87 (w : Word) : decodeOp 0x87 w = (some (.vneg (hdrOf w) (rrrOf w))) := rfl
theorem decodeOp_88 (w : Word) : decodeOp 0x88 w = (some (.vcmp (hdrOf w) (rrrOf w))) := rfl
theorem decodeOp_89 (w : Word) : decodeOp 0x89 w = (some (.vsel (hdrOf w) (rrrOf w))) := rfl
theorem decodeOp_8A (w : Word) : decodeOp 0x8A w = (some (.vcvt (hdrOf w) (rrrOf w))) := rfl
theorem decodeOp_8B (w : Word) : decodeOp 0x8B w = (some (.vqnt (hdrOf w) (rrrOf w))) := rfl
theorem decodeOp_8D (w : Word) : decodeOp 0x8D w = (some (.kop (hdrOf w) (rrrOf w))) := rfl
theorem decodeOp_8E (w : Word) : decodeOp 0x8E w = (some (.kset (hdrOf w) (rrrOf w))) := rfl
theorem decodeOp_8F (w : Word) : decodeOp 0x8F w = (some (.kmov (hdrOf w) (rrrOf w))) := rfl
theorem decodeOp_90 (w : Word) : decodeOp 0x90 w = (some (.viadd (hdrOf w) (rrrOf w))) := rfl
theorem decodeOp_91 (w : Word) : decodeOp 0x91 w = (some (.visub (hdrOf w) (rrrOf w))) := rfl
theorem decodeOp_92 (w : Word) : decodeOp 0x92 w = (some (.vimul (hdrOf w) (rrrOf w))) := rfl
theorem decodeOp_93 (w : Word) : decodeOp 0x93 w = (some (.vand (hdrOf w) (rrrOf w))) := rfl
theorem decodeOp_94 (w : Word) : decodeOp 0x94 w = (some (.vor (hdrOf w) (rrrOf w))) := rfl
theorem decodeOp_95 (w : Word) : decodeOp 0x95 w = (some (.vxor (hdrOf w) (rrrOf w))) := rfl
theorem decodeOp_96 (w : Word) : decodeOp 0x96 w = (some (.vshl (hdrOf w) (rrrOf w))) := rfl
theorem decodeOp_97 (w : Word) : decodeOp 0x97 w = (some (.vshr (hdrOf w) (rrrOf w))) := rfl
theorem decodeOp_98 (w : Word) : decodeOp 0x98 w = (some (.vsar (hdrOf w) (rrrOf w))) := rfl
theorem decodeOp_99 (w : Word) : decodeOp 0x99 w = (some (.vimin (hdrOf w) (rrrOf w))) := rfl
theorem decodeOp_9A (w : Word) : decodeOp 0x9A w = (some (.vimax (hdrOf w) (rrrOf w))) := rfl
theorem decodeOp_A0 (w : Word) : decodeOp 0xA0 w = (some (.vrcp (hdrOf w) (rrrOf w))) := rfl
theorem decodeOp_A1 (w : Word) : decodeOp 0xA1 w = (some (.vrsq (hdrOf w) (rrrOf w))) := rfl
theorem decodeOp_A2 (w : Word) : decodeOp 0xA2 w = (some (.vsqrt (hdrOf w) (rrrOf w))) := rfl
theorem decodeOp_A3 (w : Word) : decodeOp 0xA3 w = (some (.vexp2 (hdrOf w) (rrrOf w))) := rfl
theorem decodeOp_A4 (w : Word) : decodeOp 0xA4 w = (some (.vlog2 (hdrOf w) (rrrOf w))) := rfl
theorem decodeOp_A5 (w : Word) : decodeOp 0xA5 w = (some (.vsin (hdrOf w) (rrrOf w))) := rfl
theorem decodeOp_A6 (w : Word) : decodeOp 0xA6 w = (some (.vcos (hdrOf w) (rrrOf w))) := rfl
theorem decodeOp_A7 (w : Word) : decodeOp 0xA7 w = (some (.vtanh (hdrOf w) (rrrOf w))) := rfl
theorem decodeOp_A8 (w : Word) : decodeOp 0xA8 w = (some (.vsigm (hdrOf w) (rrrOf w))) := rfl
theorem decodeOp_B0 (w : Word) : decodeOp 0xB0 w = (some (.vrsum (hdrOf w) (rrrOf w))) := rfl
theorem decodeOp_B1 (w : Word) : decodeOp 0xB1 w = (some (.vrmax (hdrOf w) (rrrOf w))) := rfl
theorem decodeOp_B2 (w : Word) : decodeOp 0xB2 w = (some (.vcsum (hdrOf w) (rrrOf w))) := rfl
theorem decodeOp_B3 (w : Word) : decodeOp 0xB3 w = (some (.vcmax (hdrOf w) (rrrOf w))) := rfl
theorem decodeOp_B4 (w : Word) : decodeOp 0xB4 w = (some (.vbcast (hdrOf w) (rrrOf w))) := rfl
theorem decodeOp_B5 (w : Word) : decodeOp 0xB5 w = (some (.vmov (hdrOf w) (rrrOf w))) := rfl
theorem decodeOp_B6 (w : Word) : decodeOp 0xB6 w = (some (.vqpop (hdrOf w) (rrrOf w))) := rfl
theorem decodeOp_B7 (w : Word) : decodeOp 0xB7 w = (some (.vqpush (hdrOf w) (rrrOf w))) := rfl
theorem decodeOp_B8 (w : Word) : decodeOp 0xB8 w = (some (.tmovR (hdrOf w) (rrrOf w))) := rfl
theorem decodeOp_B9 (w : Word) : decodeOp 0xB9 w = (some (.tmovC (hdrOf w) (rrrOf w))) := rfl
theorem decodeOp_BA (w : Word) : decodeOp 0xBA w = (some (.vrng (hdrOf w) (rrrOf w))) := rfl
theorem decodeOp_BB (w : Word) : decodeOp 0xBB w = (some (.viota (hdrOf w) (rrrOf w))) := rfl
theorem decodeOp_BC (w : Word) : decodeOp 0xBC w = (some (.vshape (hdrOf w) (rriOf w))) := rfl
theorem decodeOp_BD (w : Word) : decodeOp 0xBD w = (let f := rriOf w; if !f.imm.getLsbD 6 then some (.valloc (hdrOf w) f) else some (.vshrink (hdrOf w) f)) := rfl
theorem decodeOp_BE (w : Word) : decodeOp 0xBE w = (some (.vgate (hdrOf w) (rriOf w))) := rfl
theorem decodeOp_C0 (w : Word) : decodeOp 0xC0 w = (some (.mxLdw (hdrOf w) (mxOf w))) := rfl
theorem decodeOp_C1 (w : Word) : decodeOp 0xC1 w = (some (.mxMac (hdrOf w) (mxOf w))) := rfl
theorem decodeOp_C2 (w : Word) : decodeOp 0xC2 w = (some (.mxZero (hdrOf w) (mxOf w))) := rfl
theorem decodeOp_C3 (w : Word) : decodeOp 0xC3 w = (some (.mxDrain (hdrOf w) (mxOf w))) := rfl
theorem decodeOp_C4 (w : Word) : decodeOp 0xC4 w = (some (.mxSwap (hdrOf w) (mxOf w))) := rfl
theorem decodeOp_C5 (w : Word) : decodeOp 0xC5 w = (let f := mxOf w; if f.fn.getLsbD 0 then some (.mxFuseOn (hdrOf w) f) else some (.mxFuseOff (hdrOf w) f)) := rfl
theorem decodeOp_C6 (w : Word) : decodeOp 0xC6 w = (let f := mxOf w; if f.op2 == 1 then some (.mxTestFatal (hdrOf w) f) else if f.op2 == 2 then some (.mxTestReport (hdrOf w) f) else some (.mxTestRun (hdrOf w) f)) := rfl
theorem decodeOp_C7 (w : Word) : decodeOp 0xC7 w = (some (.mxEvt (hdrOf w) (mxOf w))) := rfl
theorem decodeOp_C8 (w : Word) : decodeOp 0xC8 w = (some (.mxCb (hdrOf w) (mxOf w))) := rfl
theorem decodeOp_C9 (w : Word) : decodeOp 0xC9 w = (some (.mxFill (hdrOf w) (mxOf w))) := rfl
theorem decodeOp_E0 (w : Word) : decodeOp 0xE0 w = (some (.nop (hdrOf w) (sysOf w))) := rfl
theorem decodeOp_E1 (w : Word) : decodeOp 0xE1 w = (some (.waitCy (hdrOf w) (sysOf w))) := rfl
theorem decodeOp_E2 (w : Word) : decodeOp 0xE2 w = (some (.waitTime (hdrOf w) (sysOf w))) := rfl
theorem decodeOp_E3 (w : Word) : decodeOp 0xE3 w = (let f := sysOf w; if f.fn == 1 then some (.rdvEnd (hdrOf w) f) else some (.rdv (hdrOf w) f)) := rfl
theorem decodeOp_E4 (w : Word) : decodeOp 0xE4 w = (some (.phase (hdrOf w) (sysOf w))) := rfl
theorem decodeOp_E5 (w : Word) : decodeOp 0xE5 w = (some (.fence (hdrOf w) (sysOf w))) := rfl
theorem decodeOp_E6 (w : Word) : decodeOp 0xE6 w = (some (.bar (hdrOf w) (sysOf w))) := rfl
theorem decodeOp_E7 (w : Word) : decodeOp 0xE7 w = (some (.curtain (hdrOf w) (sysOf w))) := rfl
theorem decodeOp_E8 (w : Word) : decodeOp 0xE8 w = (some (.yield (hdrOf w) (sysOf w))) := rfl
theorem decodeOp_E9 (w : Word) : decodeOp 0xE9 w = (some (.curSet (hdrOf w) (sysOf w))) := rfl
theorem decodeOp_EA (w : Word) : decodeOp 0xEA w = (let f := sysOf w; if f.fn == 1 then some (.curGetTrap (hdrOf w) f) else some (.curGetCur (hdrOf w) f)) := rfl
theorem decodeOp_EB (w : Word) : decodeOp 0xEB w = (some (.rndOpen (hdrOf w) (sysOf w))) := rfl
theorem decodeOp_EC (w : Word) : decodeOp 0xEC w = (some (.rndPrep (hdrOf w) (sysOf w))) := rfl
theorem decodeOp_ED (w : Word) : decodeOp 0xED w = (some (.rndCommit (hdrOf w) (sysOf w))) := rfl
theorem decodeOp_EE (w : Word) : decodeOp 0xEE w = (some (.rndAbort (hdrOf w) (sysOf w))) := rfl
theorem decodeOp_EF (w : Word) : decodeOp 0xEF w = (some (.protMark (hdrOf w) (sysOf w))) := rfl
theorem decodeOp_F0 (w : Word) : decodeOp 0xF0 w = (some (.statSeal (hdrOf w) (sysOf w))) := rfl
theorem decodeOp_F1 (w : Word) : decodeOp 0xF1 w = (some (.statRd (hdrOf w) (sysOf w))) := rfl
theorem decodeOp_F2 (w : Word) : decodeOp 0xF2 w = (some (.statClr (hdrOf w) (sysOf w))) := rfl
theorem decodeOp_F3 (w : Word) : decodeOp 0xF3 w = (some (.pwrAcq (hdrOf w) (sysOf w))) := rfl
theorem decodeOp_F4 (w : Word) : decodeOp 0xF4 w = (some (.pwrRel (hdrOf w) (sysOf w))) := rfl
theorem decodeOp_F5 (w : Word) : decodeOp 0xF5 w = (some (.coll (hdrOf w) (sysOf w))) := rfl
theorem decodeOp_F6 (w : Word) : decodeOp 0xF6 w = (some (.collWait (hdrOf w) (sysOf w))) := rfl
theorem decodeOp_F7 (w : Word) : decodeOp 0xF7 w = (some (.trap (hdrOf w) (sysOf w))) := rfl
theorem decodeOp_F8 (w : Word) : decodeOp 0xF8 w = (let f := sysOf w; if f.fn == 1 then some (.launchResume (hdrOf w) f) else some (.launch (hdrOf w) f)) := rfl
theorem decodeOp_F9 (w : Word) : decodeOp 0xF9 w = (let f := sysOf w; if f.fn == 1 then some (.ttStartAt (hdrOf w) f) else some (.ttStart (hdrOf w) f)) := rfl
theorem decodeOp_FA (w : Word) : decodeOp 0xFA w = (let f := sysOf w; if f.fn == 1 then some (.tlbiAsid (hdrOf w) f) else if f.fn == 2 then some (.tlbiAll (hdrOf w) f) else some (.tlbi (hdrOf w) f)) := rfl
theorem decodeOp_FB (w : Word) : decodeOp 0xFB w = (let f := sysOf w; if f.fn == 1 then some (.pcsrWrite (hdrOf w) f) else some (.pcsrRead (hdrOf w) f)) := rfl
theorem decodeOp_FC (w : Word) : decodeOp 0xFC w = (let f := sysOf w; if f.fn == 1 then some (.holdRel (hdrOf w) f) else some (.holdRequest (hdrOf w) f)) := rfl
theorem decodeOp_FD (w : Word) : decodeOp 0xFD w = (some (.svret (hdrOf w) (sysOf w))) := rfl

end Sys2Proof
end

