-- ==== Sys2Proof/Laws/Memory.lean ====
section
/-! SUPPORT. The laws of the sparse stores of Word.lean: what a read gives after a write, and that every operation keeps the
canonical form. Equal reads make equal stores. -/

namespace Sys2Proof

variable {n : Nat}

/-! ## The canonical form -/

@[simp] theorem Map.above_nil (b : Nat) : Map.above b ([] : Map n) = true := rfl

@[simp] theorem Map.above_cons (b k : Nat) (v : BitVec n) (m : Map n) :
    Map.above b ((k, v) :: m) = true ↔ b < k ∧ v ≠ 0 ∧ Map.above k m = true := by
  simp [Map.above, and_assoc]

@[simp] theorem Map.wf_nil : Map.wf ([] : Map n) = true := rfl

@[simp] theorem Map.wf_cons (k : Nat) (v : BitVec n) (m : Map n) :
    Map.wf ((k, v) :: m) = true ↔ v ≠ 0 ∧ Map.above k m = true := by
  simp [Map.wf]

theorem Map.above_mono {a b : Nat} {m : Map n} (h : Map.above b m = true) (hab : a ≤ b) : Map.above a m = true := by
  cases m with
  | nil => rfl
  | cons e m => obtain ⟨k, v⟩ := e; simp only [Map.above_cons] at *; exact ⟨by omega, h.2⟩

theorem Map.wf_of_above {b : Nat} {m : Map n} (h : Map.above b m = true) : Map.wf m = true := by
  cases m with
  | nil => rfl
  | cons e m => obtain ⟨k, v⟩ := e; simp only [Map.above_cons, Map.wf_cons] at *; exact h.2

theorem Map.get_of_above {b a : Nat} {m : Map n} (h : Map.above b m = true) (ha : a ≤ b) : Map.get m a = 0 := by
  induction m generalizing b with
  | nil => rfl
  | cons e m ih =>
    obtain ⟨k, v⟩ := e
    simp only [Map.above_cons] at h
    rw [Map.get, if_neg (by omega), ih h.2.2 (by omega)]

/-! ## One cell -/

theorem Map.above_set {b a : Nat} {x : BitVec n} {m : Map n} (h : Map.above b m = true) (hb : b < a) :
    Map.above b (Map.set m a x) = true := by
  induction m generalizing b with
  | nil => simp only [Map.set]; split <;> simp_all
  | cons e m ih =>
    obtain ⟨k, v⟩ := e
    simp only [Map.above_cons] at h
    simp only [Map.set]
    split
    · split <;> simp_all
    · split
      · split
        · exact Map.above_mono h.2.2 (by omega)
        · subst a; simp_all
      · simp only [Map.above_cons]
        exact ⟨h.1, h.2.1, ih h.2.2 (by omega)⟩

theorem Map.wf_set {m : Map n} (h : Map.wf m = true) (a : Nat) (x : BitVec n) : Map.wf (Map.set m a x) = true := by
  cases m with
  | nil => simp only [Map.set]; split <;> simp_all
  | cons e m =>
    obtain ⟨k, v⟩ := e
    simp only [Map.wf_cons] at h
    simp only [Map.set]
    split
    · split <;> simp_all
    · split
      · split
        · exact Map.wf_of_above h.2
        · subst a; simp_all
      · simp only [Map.wf_cons]
        exact ⟨h.1, Map.above_set h.2 (by omega)⟩

theorem Map.get_set_above {b : Nat} {m : Map n} (h : Map.above b m = true) (a : Nat) (x : BitVec n) (i : Nat) :
    Map.get (Map.set m a x) i = if i = a then x else Map.get m i := by
  induction m generalizing b with
  | nil => simp only [Map.set]; split <;> simp_all [Map.get]
  | cons e m ih =>
    obtain ⟨k, v⟩ := e
    simp only [Map.above_cons] at h
    have h0 : a ≤ k → Map.get m a = 0 := fun hk => Map.get_of_above h.2.2 hk
    simp only [Map.set]
    split
    · split
      · split
        · subst i; simp [Map.get, *, Nat.ne_of_lt ‹a < k›, h0 (by omega)]
        · rfl
      · simp [Map.get]
    · split
      · subst a
        split
        · split
          · subst i; simp [*]
          · simp [Map.get, *]
        · simp [Map.get]; split <;> simp_all
      · simp only [Map.get, ih h.2.2]
        split <;> split <;> simp_all

/-- A read after a write of one cell. -/
theorem Map.get_set {m : Map n} (h : Map.wf m = true) (a : Nat) (x : BitVec n) (i : Nat) :
    Map.get (Map.set m a x) i = if i = a then x else Map.get m i := by
  cases m with
  | nil => simp only [Map.set]; split <;> simp_all [Map.get]
  | cons e m =>
    obtain ⟨k, v⟩ := e
    simp only [Map.wf_cons] at h
    have h0 : a ≤ k → Map.get m a = 0 := fun hk => Map.get_of_above h.2 hk
    simp only [Map.set]
    split
    · split
      · split
        · subst i; simp [Map.get, *, Nat.ne_of_lt ‹a < k›, h0 (by omega)]
        · rfl
      · simp [Map.get]
    · split
      · subst a
        split
        · split
          · subst i; simp [*]
          · simp [Map.get, *]
        · simp [Map.get]; split <;> simp_all
      · simp only [Map.get, Map.get_set_above h.2]
        split <;> split <;> simp_all

/-- Stores in canonical form that read alike are equal. -/
theorem Map.eq_of_get {m m' : Map n} (h : Map.wf m = true) (h' : Map.wf m' = true)
    (hg : ∀ a, Map.get m a = Map.get m' a) : m = m' := by
  induction m generalizing m' with
  | nil =>
    cases m' with
    | nil => rfl
    | cons e m' =>
      obtain ⟨k, v⟩ := e
      have := hg k
      simp_all [Map.get]
  | cons e m ih =>
    obtain ⟨k, v⟩ := e
    cases m' with
    | nil => have := hg k; simp_all [Map.get]
    | cons e' m' =>
      obtain ⟨k', v'⟩ := e'
      simp only [Map.wf_cons] at h h'
      have hk : k = k' := by
        rcases Nat.lt_trichotomy k k' with hlt | heq | hgt
        · have := hg k
          rw [Map.get, if_pos rfl, Map.get, if_neg (by omega), Map.get_of_above h'.2 (by omega)] at this
          exact absurd this h.1
        · exact heq
        · have := hg k'
          rw [Map.get, if_neg (by omega), Map.get_of_above h.2 (by omega), Map.get, if_pos rfl] at this
          exact absurd this.symm h'.1
      subst hk
      have hv : v = v' := by simpa [Map.get] using hg k
      subst hv
      congr 1
      apply ih (Map.wf_of_above h.2) (Map.wf_of_above h'.2)
      intro a
      rcases Nat.lt_or_ge k a with hlt | hge
      · simpa [Map.get, Nat.ne_of_gt hlt] using hg a
      · rw [Map.get_of_above h.2 hge, Map.get_of_above h'.2 hge]

/-! ## Runs of cells -/

/-- Every key of a store is below `b`. -/
def Map.below (b : Nat) (m : Map n) : Prop := ∀ e ∈ m, e.1 < b

theorem Map.above_append {b c : Nat} {m m' : Map n} (h : Map.above b m = true) (hc : Map.below c m) (hbc : b < c)
    (h' : m'.all (fun e => decide (c ≤ e.1)) = true) (hw : Map.wf m' = true) : Map.above b (m ++ m') = true := by
  induction m generalizing b with
  | nil =>
    cases m' with
    | nil => rfl
    | cons e m' =>
      obtain ⟨k, v⟩ := e
      simp only [List.all_cons, Bool.and_eq_true, decide_eq_true_eq] at h'
      simp only [Map.wf_cons] at hw
      simp only [List.nil_append, Map.above_cons]
      exact ⟨by omega, hw.1, hw.2⟩
  | cons e m ih =>
    obtain ⟨k, v⟩ := e
    simp only [Map.above_cons] at h
    simp only [List.cons_append, Map.above_cons]
    exact ⟨h.1, h.2.1, ih h.2.2 (fun e he => hc e (List.mem_cons_of_mem _ he)) (hc (k, v) (by simp))⟩

theorem Map.wf_append {c : Nat} {m m' : Map n} (h : Map.wf m = true) (hc : Map.below c m)
    (h' : m'.all (fun e => decide (c ≤ e.1)) = true) (hw : Map.wf m' = true) : Map.wf (m ++ m') = true := by
  cases m with
  | nil => simpa using hw
  | cons e m =>
    obtain ⟨k, v⟩ := e
    simp only [Map.wf_cons] at h
    simp only [List.cons_append, Map.wf_cons]
    exact ⟨h.1, Map.above_append h.2 (fun e he => hc e (List.mem_cons_of_mem _ he)) (hc (k, v) (by simp)) h' hw⟩

theorem Map.get_append {m m' : Map n} (i : Nat) (h : ∀ e ∈ m, e.1 ≠ i) : Map.get (m ++ m') i = Map.get m' i := by
  induction m with
  | nil => rfl
  | cons e m ih =>
    obtain ⟨k, v⟩ := e
    have hk : k ≠ i := h (k, v) (by simp)
    rw [List.cons_append, Map.get, if_neg (Ne.symm hk), ih fun e he => h e (List.mem_cons_of_mem _ he)]

theorem Map.get_append_left {m m' : Map n} (i : Nat) (h : ∀ e ∈ m', e.1 ≠ i) : Map.get (m ++ m') i = Map.get m i := by
  induction m with
  | nil =>
    induction m' with
    | nil => rfl
    | cons e m' ih =>
      obtain ⟨k, v⟩ := e
      have hk : k ≠ i := h (k, v) (by simp)
      simp only [List.nil_append, Map.get, if_neg (Ne.symm hk)] at *
      exact ih fun e he => h e (List.mem_cons_of_mem _ he)
  | cons e m ih =>
    obtain ⟨k, v⟩ := e
    simp only [List.cons_append, Map.get, ih]

theorem Map.above_of_forall {b : Nat} {m : Map n} (h : Map.wf m = true) (hb : ∀ e ∈ m, b < e.1) : Map.above b m = true := by
  cases m with
  | nil => rfl
  | cons e m =>
    obtain ⟨k, v⟩ := e
    simp only [Map.wf_cons] at h
    simp only [Map.above_cons]
    exact ⟨hb (k, v) (by simp), h⟩

theorem Map.forall_of_above {b : Nat} {m : Map n} (h : Map.above b m = true) : ∀ e ∈ m, b < e.1 := by
  induction m generalizing b with
  | nil => simp
  | cons e m ih =>
    obtain ⟨k, v⟩ := e
    simp only [Map.above_cons] at h
    intro e he
    rcases List.mem_cons.mp he with rfl | he
    · exact h.1
    · exact Nat.lt_trans h.1 (ih h.2.2 e he)

theorem Map.wf_filter {m : Map n} (h : Map.wf m = true) (p : Nat × BitVec n → Bool) : Map.wf (m.filter p) = true := by
  induction m with
  | nil => rfl
  | cons e m ih =>
    obtain ⟨k, v⟩ := e
    simp only [Map.wf_cons] at h
    rw [List.filter_cons]
    split
    · simp only [Map.wf_cons]
      refine ⟨h.1, Map.above_of_forall (ih (Map.wf_of_above h.2)) fun e he => ?_⟩
      exact Map.forall_of_above h.2 e (List.mem_filter.mp he).1
    · exact ih (Map.wf_of_above h.2)

theorem Map.wf_clearRun {m : Map n} (h : Map.wf m = true) (a c : Nat) : Map.wf (Map.clearRun m a c) = true :=
  Map.wf_filter h _

theorem Map.get_filter {m : Map n} (p : Nat → Bool) (i : Nat) :
    Map.get (m.filter fun e => p e.1) i = if p i then Map.get m i else 0 := by
  induction m with
  | nil => simp [Map.get]
  | cons e m ih =>
    obtain ⟨k, v⟩ := e
    rw [List.filter_cons]
    by_cases hk : i = k
    · subst hk; cases hp : p i <;> simp [Map.get, hp, ih]
    · cases hp : p k <;> simp [Map.get, hk, ih]

/-- A read after a run of cells was set to zero. -/
theorem Map.get_clearRun (m : Map n) (a c i : Nat) :
    Map.get (Map.clearRun m a c) i = if a ≤ i ∧ i < a + c then 0 else Map.get m i := by
  unfold Map.clearRun
  rw [Map.get_filter (fun k => k < a || a + c ≤ k)]
  by_cases h1 : i < a <;> by_cases h2 : a + c ≤ i <;> simp [h1, h2] <;> omega

theorem Map.cells_ge {a : Nat} {xs : List (BitVec n)} : ∀ e ∈ Map.cells a xs, a ≤ e.1 := by
  induction xs generalizing a with
  | nil => simp [Map.cells]
  | cons x xs ih =>
    intro e he
    rw [Map.cells] at he
    split at he
    · exact Nat.le_of_succ_le (ih e he)
    · rcases List.mem_cons.mp he with rfl | he
      · exact Nat.le_refl _
      · exact Nat.le_of_succ_le (ih e he)

theorem Map.cells_below {a : Nat} {xs : List (BitVec n)} : Map.below (a + xs.length) (Map.cells a xs) := by
  induction xs generalizing a with
  | nil => intro e he; simp [Map.cells] at he
  | cons x xs ih =>
    intro e he
    rw [Map.cells] at he
    simp only [List.length_cons]
    split at he
    · have := ih e he; omega
    · rcases List.mem_cons.mp he with rfl | he
      · simp
      · have := ih e he; omega

theorem Map.wf_cells (a : Nat) (xs : List (BitVec n)) : Map.wf (Map.cells a xs) = true := by
  induction xs generalizing a with
  | nil => rfl
  | cons x xs ih =>
    rw [Map.cells]
    split
    · exact ih _
    · simp only [Map.wf_cons]
      exact ⟨‹_›, Map.above_of_forall (ih _) fun e he => Map.cells_ge e he⟩

theorem Map.get_cells (a : Nat) (xs : List (BitVec n)) (i : Nat) :
    Map.get (Map.cells a xs) i = if a ≤ i then xs.getD (i - a) 0 else 0 := by
  induction xs generalizing a with
  | nil => simp [Map.cells, Map.get]
  | cons x xs ih =>
    rw [Map.cells]
    by_cases hi : i = a
    · subst hi
      split
      · rw [ih, if_neg (by omega)]; simp [*]
      · simp [Map.get]
    · have : (if a + 1 ≤ i then xs.getD (i - (a + 1)) 0 else 0) = if a ≤ i then (x :: xs).getD (i - a) 0 else 0 := by
        by_cases h : a ≤ i
        · rw [if_pos (by omega), if_pos h, show i - a = (i - (a + 1)) + 1 by omega, List.getD_cons_succ]
        · rw [if_neg (by omega), if_neg h]
      split
      · rw [ih, this]
      · rw [Map.get, if_neg hi, ih, this]

theorem Map.takeWhile_below (m : Map n) (a : Nat) : Map.below a (m.takeWhile fun e => decide (e.1 < a)) := by
  induction m with
  | nil => intro e he; simp at he
  | cons x m ih =>
    intro e he
    rw [List.takeWhile_cons] at he
    split at he
    · rename_i hx
      rcases List.mem_cons.mp he with rfl | he
      · simpa using hx
      · exact ih e he
    · simp at he

theorem Map.wf_takeWhile {m : Map n} (h : Map.wf m = true) (p : Nat × BitVec n → Bool) : Map.wf (m.takeWhile p) = true := by
  induction m with
  | nil => rfl
  | cons e m ih =>
    obtain ⟨k, v⟩ := e
    simp only [Map.wf_cons] at h
    rw [List.takeWhile_cons]
    split
    · simp only [Map.wf_cons]
      refine ⟨h.1, Map.above_of_forall (ih (Map.wf_of_above h.2)) fun e he => ?_⟩
      exact Map.forall_of_above h.2 e (List.takeWhile_sublist p |>.subset he)
    · rfl

theorem Map.wf_dropWhile {m : Map n} (h : Map.wf m = true) (p : Nat × BitVec n → Bool) : Map.wf (m.dropWhile p) = true := by
  induction m with
  | nil => rfl
  | cons e m ih =>
    obtain ⟨k, v⟩ := e
    rw [List.dropWhile_cons]
    split
    · simp only [Map.wf_cons] at h; exact ih (Map.wf_of_above h.2)
    · exact h

theorem Map.dropWhile_ge {m : Map n} (h : Map.wf m = true) (a : Nat) :
    ∀ e ∈ m.dropWhile (fun e => decide (e.1 < a)), a ≤ e.1 := by
  induction m with
  | nil => simp
  | cons e m ih =>
    obtain ⟨k, v⟩ := e
    simp only [Map.wf_cons] at h
    rw [List.dropWhile_cons]
    split
    · exact ih (Map.wf_of_above h.2)
    · rename_i hk
      simp only [decide_eq_true_eq] at hk
      intro e he
      rcases List.mem_cons.mp he with rfl | he
      · simpa using hk
      · have := Map.forall_of_above h.2 e he; omega

theorem Map.get_takeWhile {m : Map n} (h : Map.wf m = true) (a i : Nat) (hi : i < a) :
    Map.get (m.takeWhile fun e => decide (e.1 < a)) i = Map.get m i := by
  have := List.takeWhile_append_dropWhile (p := fun e : Nat × BitVec n => decide (e.1 < a)) (l := m)
  conv => rhs; rw [← this]
  rw [Map.get_append_left]
  intro e he
  have := Map.dropWhile_ge h a e he
  omega

theorem Map.get_dropWhile {m : Map n} (a i : Nat) (hi : a ≤ i) :
    Map.get (m.dropWhile fun e => decide (e.1 < a)) i = Map.get m i := by
  have := List.takeWhile_append_dropWhile (p := fun e : Nat × BitVec n => decide (e.1 < a)) (l := m)
  conv => rhs; rw [← this]
  rw [Map.get_append]
  intro e he
  have := Map.takeWhile_below m a e he
  omega

/-- Writing a run keeps the canonical form. -/
theorem Map.wf_setRun {m : Map n} (h : Map.wf m = true) (a : Nat) (xs : List (BitVec n)) :
    Map.wf (Map.setRun m a xs) = true := by
  unfold Map.setRun
  refine Map.wf_append (c := a) (Map.wf_takeWhile h _) (Map.takeWhile_below m a) ?_
    (Map.wf_append (c := a + xs.length) (Map.wf_cells a xs) Map.cells_below ?_ (Map.wf_dropWhile h _))
  · rw [List.all_eq_true]
    intro e he
    rcases List.mem_append.mp he with he | he
    · simpa using Map.cells_ge e he
    · have := Map.dropWhile_ge h (a + xs.length) e he
      simp; omega
  · rw [List.all_eq_true]
    intro e he
    simpa using Map.dropWhile_ge h (a + xs.length) e he

/-- A read after a run of cells was written. -/
theorem Map.get_setRun {m : Map n} (h : Map.wf m = true) (a : Nat) (xs : List (BitVec n)) (i : Nat) :
    Map.get (Map.setRun m a xs) i = if a ≤ i ∧ i < a + xs.length then xs.getD (i - a) 0 else Map.get m i := by
  unfold Map.setRun
  rcases Nat.lt_or_ge i a with hi | hi
  · rw [if_neg (by omega), Map.get_append_left, Map.get_takeWhile h a i hi]
    intro e he
    rcases List.mem_append.mp he with he | he
    · have := Map.cells_ge e he; omega
    · have := Map.dropWhile_ge h (a + xs.length) e he; omega
  · rw [Map.get_append i fun e he => by have := Map.takeWhile_below m a e he; omega]
    rcases Nat.lt_or_ge i (a + xs.length) with hj | hj
    · rw [if_pos ⟨hi, hj⟩, Map.get_append_left, Map.get_cells, if_pos hi]
      intro e he
      have := Map.dropWhile_ge h (a + xs.length) e he; omega
    · rw [if_neg (by omega), Map.get_append i fun e he => by have := Map.cells_below e he; omega, Map.get_dropWhile _ _ hj]

theorem Map.values_eq {m : Map n} (a c : Nat) (h : Map.wf m = true) (ha : ∀ e ∈ m, a ≤ e.1) :
    Map.values m a c = (List.range c).map fun i => Map.get m (a + i) := by
  induction c generalizing m a with
  | zero => cases m <;> rfl
  | succ c ih =>
    rw [List.range_succ_eq_map, List.map_cons, List.map_map]
    cases m with
    | nil =>
      rw [Map.values, ih (a + 1) rfl (by simp)]
      exact congrArg _ (List.map_congr_left fun _ _ => rfl)
    | cons e m =>
      obtain ⟨k, v⟩ := e
      have hk : a ≤ k := ha (k, v) (by simp)
      simp only [Map.wf_cons] at h
      rw [Map.values]
      split
      · subst k
        rw [ih (a + 1) (Map.wf_of_above h.2) fun e he => Map.forall_of_above h.2 e he]
        congr 1
        · simp [Map.get]
        · apply List.map_congr_left
          intro i _
          simp only [Function.comp_apply, Map.get]
          rw [if_neg (by omega), show a + 1 + i = a + (i + 1) by omega]
      · rw [ih (m := (k, v) :: m) (a + 1) (by simpa using h)]
        · congr 1
          · rw [Map.get, if_neg (by omega), Map.get_of_above h.2 (by omega)]
          · apply List.map_congr_left
            intro i _
            simp only [Function.comp_apply]
            rw [show a + 1 + i = a + (i + 1) by omega]
        · intro e he
          rcases List.mem_cons.mp he with rfl | he
          · simp; omega
          · have := Map.forall_of_above h.2 e he; omega

/-- A run of reads is the reads of its cells. -/
theorem Map.getRun_eq {m : Map n} (h : Map.wf m = true) (a c : Nat) :
    Map.getRun m a c = (List.range c).map fun i => Map.get m (a + i) := by
  unfold Map.getRun
  rw [Map.values_eq a c (Map.wf_dropWhile h _) (Map.dropWhile_ge h a)]
  apply List.map_congr_left
  intro i _
  rw [Map.get_dropWhile _ _ (by omega)]

/-! ## Tables -/

/-- A read of a table after a write. -/
theorem Tbl.get_set_self {α : Type} (d : α) (m : Tbl α) (a : Nat) (x : α) : Tbl.get d (Tbl.set m a x) a = x := by
  induction m with
  | nil => simp [Tbl.set, Tbl.get]
  | cons e m ih =>
    obtain ⟨k, v⟩ := e
    simp only [Tbl.set]
    split
    · simp [Tbl.get]
    · split
      · simp [Tbl.get]
      · rw [Tbl.get, if_neg ‹_›, ih]

/-- A write of a table leaves every other number alone. -/
theorem Tbl.get_set_ne {α : Type} (d : α) (m : Tbl α) {a i : Nat} (x : α) (h : i ≠ a) :
    Tbl.get d (Tbl.set m a x) i = Tbl.get d m i := by
  induction m with
  | nil => simp [Tbl.set, Tbl.get, h]
  | cons e m ih =>
    obtain ⟨k, v⟩ := e
    simp only [Tbl.set]
    split
    · simp [Tbl.get, h]
    · split
      · subst a; simp [Tbl.get, h]
      · rw [Tbl.get, Tbl.get, ih]

end Sys2Proof
end

