-- ==== Sys2Proof/Laws/State.lean ====
section
/-! SUPPORT. One lemma per field for each update of the state, true by unfolding: what an update leaves alone. Then what a core, a
stream and a slot read after an update. -/

namespace Sys2Proof.Machine

variable (s : State)

/-! ## `setCore` -/

@[simp] theorem State.setCore_clock (c : Nat) (x : Core) : (s.setCore c x).clock = s.clock := rfl
@[simp] theorem State.setCore_ns (c : Nat) (x : Core) : (s.setCore c x).ns = s.ns := rfl
@[simp] theorem State.setCore_frac (c : Nat) (x : Core) : (s.setCore c x).frac = s.frac := rfl
@[simp] theorem State.setCore_cur (c : Nat) (x : Core) : (s.setCore c x).cur = s.cur := rfl
@[simp] theorem State.setCore_slots (c : Nat) (x : Core) : (s.setCore c x).slots = s.slots := rfl
@[simp] theorem State.setCore_qs (c : Nat) (x : Core) : (s.setCore c x).qs = s.qs := rfl
@[simp] theorem State.setCore_dev (c : Nat) (x : Core) : (s.setCore c x).dev = s.dev := rfl
@[simp] theorem State.setCore_outs (c : Nat) (x : Core) : (s.setCore c x).outs = s.outs := rfl
@[simp] theorem State.setCore_tlb1 (c : Nat) (x : Core) : (s.setCore c x).tlb1 = s.tlb1 := rfl
@[simp] theorem State.setCore_tlb2 (c : Nat) (x : Core) : (s.setCore c x).tlb2 = s.tlb2 := rfl
@[simp] theorem State.setCore_tlbi (c : Nat) (x : Core) : (s.setCore c x).tlbi = s.tlbi := rfl
@[simp] theorem State.setCore_inputs (c : Nat) (x : Core) : (s.setCore c x).inputs = s.inputs := rfl
@[simp] theorem State.setCore_timers (c : Nat) (x : Core) : (s.setCore c x).timers = s.timers := rfl
@[simp] theorem State.setCore_free (c : Nat) (x : Core) : (s.setCore c x).free = s.free := rfl
@[simp] theorem State.setCore_uid (c : Nat) (x : Core) : (s.setCore c x).uid = s.uid := rfl
@[simp] theorem State.setCore_done (c : Nat) (x : Core) : (s.setCore c x).done = s.done := rfl
@[simp] theorem State.setCore_plat (c : Nat) (x : Core) : (s.setCore c x).plat = s.plat := rfl
@[simp] theorem State.setCore_slot (c : Nat) (x : Core) (a : Nat) : (s.setCore c x).slot a = s.slot a := rfl

/-! ## `modCore` -/

@[simp] theorem State.modCore_clock (c : Nat) (f : Core → Core) : (s.modCore c f).clock = s.clock := rfl
@[simp] theorem State.modCore_ns (c : Nat) (f : Core → Core) : (s.modCore c f).ns = s.ns := rfl
@[simp] theorem State.modCore_frac (c : Nat) (f : Core → Core) : (s.modCore c f).frac = s.frac := rfl
@[simp] theorem State.modCore_cur (c : Nat) (f : Core → Core) : (s.modCore c f).cur = s.cur := rfl
@[simp] theorem State.modCore_slots (c : Nat) (f : Core → Core) : (s.modCore c f).slots = s.slots := rfl
@[simp] theorem State.modCore_qs (c : Nat) (f : Core → Core) : (s.modCore c f).qs = s.qs := rfl
@[simp] theorem State.modCore_dev (c : Nat) (f : Core → Core) : (s.modCore c f).dev = s.dev := rfl
@[simp] theorem State.modCore_outs (c : Nat) (f : Core → Core) : (s.modCore c f).outs = s.outs := rfl
@[simp] theorem State.modCore_tlb1 (c : Nat) (f : Core → Core) : (s.modCore c f).tlb1 = s.tlb1 := rfl
@[simp] theorem State.modCore_tlb2 (c : Nat) (f : Core → Core) : (s.modCore c f).tlb2 = s.tlb2 := rfl
@[simp] theorem State.modCore_tlbi (c : Nat) (f : Core → Core) : (s.modCore c f).tlbi = s.tlbi := rfl
@[simp] theorem State.modCore_inputs (c : Nat) (f : Core → Core) : (s.modCore c f).inputs = s.inputs := rfl
@[simp] theorem State.modCore_timers (c : Nat) (f : Core → Core) : (s.modCore c f).timers = s.timers := rfl
@[simp] theorem State.modCore_free (c : Nat) (f : Core → Core) : (s.modCore c f).free = s.free := rfl
@[simp] theorem State.modCore_uid (c : Nat) (f : Core → Core) : (s.modCore c f).uid = s.uid := rfl
@[simp] theorem State.modCore_done (c : Nat) (f : Core → Core) : (s.modCore c f).done = s.done := rfl
@[simp] theorem State.modCore_plat (c : Nat) (f : Core → Core) : (s.modCore c f).plat = s.plat := rfl
@[simp] theorem State.modCore_slot (c : Nat) (f : Core → Core) (a : Nat) : (s.modCore c f).slot a = s.slot a := rfl

/-! ## `modStreamAt` -/

@[simp] theorem State.modStreamAt_clock (c st : Nat) (f : Stream → Stream) : (s.modStreamAt c st f).clock = s.clock := rfl
@[simp] theorem State.modStreamAt_ns (c st : Nat) (f : Stream → Stream) : (s.modStreamAt c st f).ns = s.ns := rfl
@[simp] theorem State.modStreamAt_frac (c st : Nat) (f : Stream → Stream) : (s.modStreamAt c st f).frac = s.frac := rfl
@[simp] theorem State.modStreamAt_cur (c st : Nat) (f : Stream → Stream) : (s.modStreamAt c st f).cur = s.cur := rfl
@[simp] theorem State.modStreamAt_slots (c st : Nat) (f : Stream → Stream) : (s.modStreamAt c st f).slots = s.slots := rfl
@[simp] theorem State.modStreamAt_qs (c st : Nat) (f : Stream → Stream) : (s.modStreamAt c st f).qs = s.qs := rfl
@[simp] theorem State.modStreamAt_dev (c st : Nat) (f : Stream → Stream) : (s.modStreamAt c st f).dev = s.dev := rfl
@[simp] theorem State.modStreamAt_outs (c st : Nat) (f : Stream → Stream) : (s.modStreamAt c st f).outs = s.outs := rfl
@[simp] theorem State.modStreamAt_tlb1 (c st : Nat) (f : Stream → Stream) : (s.modStreamAt c st f).tlb1 = s.tlb1 := rfl
@[simp] theorem State.modStreamAt_tlb2 (c st : Nat) (f : Stream → Stream) : (s.modStreamAt c st f).tlb2 = s.tlb2 := rfl
@[simp] theorem State.modStreamAt_tlbi (c st : Nat) (f : Stream → Stream) : (s.modStreamAt c st f).tlbi = s.tlbi := rfl
@[simp] theorem State.modStreamAt_inputs (c st : Nat) (f : Stream → Stream) : (s.modStreamAt c st f).inputs = s.inputs := rfl
@[simp] theorem State.modStreamAt_timers (c st : Nat) (f : Stream → Stream) : (s.modStreamAt c st f).timers = s.timers := rfl
@[simp] theorem State.modStreamAt_free (c st : Nat) (f : Stream → Stream) : (s.modStreamAt c st f).free = s.free := rfl
@[simp] theorem State.modStreamAt_uid (c st : Nat) (f : Stream → Stream) : (s.modStreamAt c st f).uid = s.uid := rfl
@[simp] theorem State.modStreamAt_done (c st : Nat) (f : Stream → Stream) : (s.modStreamAt c st f).done = s.done := rfl
@[simp] theorem State.modStreamAt_plat (c st : Nat) (f : Stream → Stream) : (s.modStreamAt c st f).plat = s.plat := rfl
@[simp] theorem State.modStreamAt_slot (c st : Nat) (f : Stream → Stream) (a : Nat) : (s.modStreamAt c st f).slot a = s.slot a := rfl

/-! ## `modMe` -/

@[simp] theorem State.modMe_clock (f : Core → Core) : (s.modMe f).clock = s.clock := rfl
@[simp] theorem State.modMe_ns (f : Core → Core) : (s.modMe f).ns = s.ns := rfl
@[simp] theorem State.modMe_frac (f : Core → Core) : (s.modMe f).frac = s.frac := rfl
@[simp] theorem State.modMe_cur (f : Core → Core) : (s.modMe f).cur = s.cur := rfl
@[simp] theorem State.modMe_slots (f : Core → Core) : (s.modMe f).slots = s.slots := rfl
@[simp] theorem State.modMe_qs (f : Core → Core) : (s.modMe f).qs = s.qs := rfl
@[simp] theorem State.modMe_dev (f : Core → Core) : (s.modMe f).dev = s.dev := rfl
@[simp] theorem State.modMe_outs (f : Core → Core) : (s.modMe f).outs = s.outs := rfl
@[simp] theorem State.modMe_tlb1 (f : Core → Core) : (s.modMe f).tlb1 = s.tlb1 := rfl
@[simp] theorem State.modMe_tlb2 (f : Core → Core) : (s.modMe f).tlb2 = s.tlb2 := rfl
@[simp] theorem State.modMe_tlbi (f : Core → Core) : (s.modMe f).tlbi = s.tlbi := rfl
@[simp] theorem State.modMe_inputs (f : Core → Core) : (s.modMe f).inputs = s.inputs := rfl
@[simp] theorem State.modMe_timers (f : Core → Core) : (s.modMe f).timers = s.timers := rfl
@[simp] theorem State.modMe_free (f : Core → Core) : (s.modMe f).free = s.free := rfl
@[simp] theorem State.modMe_uid (f : Core → Core) : (s.modMe f).uid = s.uid := rfl
@[simp] theorem State.modMe_done (f : Core → Core) : (s.modMe f).done = s.done := rfl
@[simp] theorem State.modMe_plat (f : Core → Core) : (s.modMe f).plat = s.plat := rfl
@[simp] theorem State.modMe_slot (f : Core → Core) (a : Nat) : (s.modMe f).slot a = s.slot a := rfl

/-! ## `modStr` -/

@[simp] theorem State.modStr_clock (f : Stream → Stream) : (s.modStr f).clock = s.clock := rfl
@[simp] theorem State.modStr_ns (f : Stream → Stream) : (s.modStr f).ns = s.ns := rfl
@[simp] theorem State.modStr_frac (f : Stream → Stream) : (s.modStr f).frac = s.frac := rfl
@[simp] theorem State.modStr_cur (f : Stream → Stream) : (s.modStr f).cur = s.cur := rfl
@[simp] theorem State.modStr_slots (f : Stream → Stream) : (s.modStr f).slots = s.slots := rfl
@[simp] theorem State.modStr_qs (f : Stream → Stream) : (s.modStr f).qs = s.qs := rfl
@[simp] theorem State.modStr_dev (f : Stream → Stream) : (s.modStr f).dev = s.dev := rfl
@[simp] theorem State.modStr_outs (f : Stream → Stream) : (s.modStr f).outs = s.outs := rfl
@[simp] theorem State.modStr_tlb1 (f : Stream → Stream) : (s.modStr f).tlb1 = s.tlb1 := rfl
@[simp] theorem State.modStr_tlb2 (f : Stream → Stream) : (s.modStr f).tlb2 = s.tlb2 := rfl
@[simp] theorem State.modStr_tlbi (f : Stream → Stream) : (s.modStr f).tlbi = s.tlbi := rfl
@[simp] theorem State.modStr_inputs (f : Stream → Stream) : (s.modStr f).inputs = s.inputs := rfl
@[simp] theorem State.modStr_timers (f : Stream → Stream) : (s.modStr f).timers = s.timers := rfl
@[simp] theorem State.modStr_free (f : Stream → Stream) : (s.modStr f).free = s.free := rfl
@[simp] theorem State.modStr_uid (f : Stream → Stream) : (s.modStr f).uid = s.uid := rfl
@[simp] theorem State.modStr_done (f : Stream → Stream) : (s.modStr f).done = s.done := rfl
@[simp] theorem State.modStr_plat (f : Stream → Stream) : (s.modStr f).plat = s.plat := rfl
@[simp] theorem State.modStr_slot (f : Stream → Stream) (a : Nat) : (s.modStr f).slot a = s.slot a := rfl

/-! ## `modSlot` -/

@[simp] theorem State.modSlot_clock (n : Nat) (f : Slot → Slot) : (s.modSlot n f).clock = s.clock := rfl
@[simp] theorem State.modSlot_ns (n : Nat) (f : Slot → Slot) : (s.modSlot n f).ns = s.ns := rfl
@[simp] theorem State.modSlot_frac (n : Nat) (f : Slot → Slot) : (s.modSlot n f).frac = s.frac := rfl
@[simp] theorem State.modSlot_cur (n : Nat) (f : Slot → Slot) : (s.modSlot n f).cur = s.cur := rfl
@[simp] theorem State.modSlot_cores (n : Nat) (f : Slot → Slot) : (s.modSlot n f).cores = s.cores := rfl
@[simp] theorem State.modSlot_qs (n : Nat) (f : Slot → Slot) : (s.modSlot n f).qs = s.qs := rfl
@[simp] theorem State.modSlot_dev (n : Nat) (f : Slot → Slot) : (s.modSlot n f).dev = s.dev := rfl
@[simp] theorem State.modSlot_outs (n : Nat) (f : Slot → Slot) : (s.modSlot n f).outs = s.outs := rfl
@[simp] theorem State.modSlot_tlb1 (n : Nat) (f : Slot → Slot) : (s.modSlot n f).tlb1 = s.tlb1 := rfl
@[simp] theorem State.modSlot_tlb2 (n : Nat) (f : Slot → Slot) : (s.modSlot n f).tlb2 = s.tlb2 := rfl
@[simp] theorem State.modSlot_tlbi (n : Nat) (f : Slot → Slot) : (s.modSlot n f).tlbi = s.tlbi := rfl
@[simp] theorem State.modSlot_inputs (n : Nat) (f : Slot → Slot) : (s.modSlot n f).inputs = s.inputs := rfl
@[simp] theorem State.modSlot_timers (n : Nat) (f : Slot → Slot) : (s.modSlot n f).timers = s.timers := rfl
@[simp] theorem State.modSlot_free (n : Nat) (f : Slot → Slot) : (s.modSlot n f).free = s.free := rfl
@[simp] theorem State.modSlot_uid (n : Nat) (f : Slot → Slot) : (s.modSlot n f).uid = s.uid := rfl
@[simp] theorem State.modSlot_done (n : Nat) (f : Slot → Slot) : (s.modSlot n f).done = s.done := rfl
@[simp] theorem State.modSlot_plat (n : Nat) (f : Slot → Slot) : (s.modSlot n f).plat = s.plat := rfl
@[simp] theorem State.modSlot_core (n : Nat) (f : Slot → Slot) (a : Nat) : (s.modSlot n f).core a = s.core a := rfl
@[simp] theorem State.modSlot_me (n : Nat) (f : Slot → Slot) : (s.modSlot n f).me = s.me := rfl
@[simp] theorem State.modSlot_str (n : Nat) (f : Slot → Slot) : (s.modSlot n f).str = s.str := rfl

/-! ## `modMy` -/

@[simp] theorem State.modMy_clock (f : Slot → Slot) : (s.modMy f).clock = s.clock := rfl
@[simp] theorem State.modMy_ns (f : Slot → Slot) : (s.modMy f).ns = s.ns := rfl
@[simp] theorem State.modMy_frac (f : Slot → Slot) : (s.modMy f).frac = s.frac := rfl
@[simp] theorem State.modMy_cur (f : Slot → Slot) : (s.modMy f).cur = s.cur := rfl
@[simp] theorem State.modMy_cores (f : Slot → Slot) : (s.modMy f).cores = s.cores := rfl
@[simp] theorem State.modMy_qs (f : Slot → Slot) : (s.modMy f).qs = s.qs := rfl
@[simp] theorem State.modMy_dev (f : Slot → Slot) : (s.modMy f).dev = s.dev := rfl
@[simp] theorem State.modMy_outs (f : Slot → Slot) : (s.modMy f).outs = s.outs := rfl
@[simp] theorem State.modMy_tlb1 (f : Slot → Slot) : (s.modMy f).tlb1 = s.tlb1 := rfl
@[simp] theorem State.modMy_tlb2 (f : Slot → Slot) : (s.modMy f).tlb2 = s.tlb2 := rfl
@[simp] theorem State.modMy_tlbi (f : Slot → Slot) : (s.modMy f).tlbi = s.tlbi := rfl
@[simp] theorem State.modMy_inputs (f : Slot → Slot) : (s.modMy f).inputs = s.inputs := rfl
@[simp] theorem State.modMy_timers (f : Slot → Slot) : (s.modMy f).timers = s.timers := rfl
@[simp] theorem State.modMy_free (f : Slot → Slot) : (s.modMy f).free = s.free := rfl
@[simp] theorem State.modMy_uid (f : Slot → Slot) : (s.modMy f).uid = s.uid := rfl
@[simp] theorem State.modMy_done (f : Slot → Slot) : (s.modMy f).done = s.done := rfl
@[simp] theorem State.modMy_plat (f : Slot → Slot) : (s.modMy f).plat = s.plat := rfl
@[simp] theorem State.modMy_core (f : Slot → Slot) (a : Nat) : (s.modMy f).core a = s.core a := rfl
@[simp] theorem State.modMy_me (f : Slot → Slot) : (s.modMy f).me = s.me := rfl
@[simp] theorem State.modMy_str (f : Slot → Slot) : (s.modMy f).str = s.str := rfl

/-! ## `modPlat` -/

@[simp] theorem State.modPlat_clock (f : Plat → Plat) : (s.modPlat f).clock = s.clock := rfl
@[simp] theorem State.modPlat_ns (f : Plat → Plat) : (s.modPlat f).ns = s.ns := rfl
@[simp] theorem State.modPlat_frac (f : Plat → Plat) : (s.modPlat f).frac = s.frac := rfl
@[simp] theorem State.modPlat_cur (f : Plat → Plat) : (s.modPlat f).cur = s.cur := rfl
@[simp] theorem State.modPlat_cores (f : Plat → Plat) : (s.modPlat f).cores = s.cores := rfl
@[simp] theorem State.modPlat_slots (f : Plat → Plat) : (s.modPlat f).slots = s.slots := rfl
@[simp] theorem State.modPlat_qs (f : Plat → Plat) : (s.modPlat f).qs = s.qs := rfl
@[simp] theorem State.modPlat_dev (f : Plat → Plat) : (s.modPlat f).dev = s.dev := rfl
@[simp] theorem State.modPlat_outs (f : Plat → Plat) : (s.modPlat f).outs = s.outs := rfl
@[simp] theorem State.modPlat_tlb1 (f : Plat → Plat) : (s.modPlat f).tlb1 = s.tlb1 := rfl
@[simp] theorem State.modPlat_tlb2 (f : Plat → Plat) : (s.modPlat f).tlb2 = s.tlb2 := rfl
@[simp] theorem State.modPlat_tlbi (f : Plat → Plat) : (s.modPlat f).tlbi = s.tlbi := rfl
@[simp] theorem State.modPlat_inputs (f : Plat → Plat) : (s.modPlat f).inputs = s.inputs := rfl
@[simp] theorem State.modPlat_timers (f : Plat → Plat) : (s.modPlat f).timers = s.timers := rfl
@[simp] theorem State.modPlat_free (f : Plat → Plat) : (s.modPlat f).free = s.free := rfl
@[simp] theorem State.modPlat_uid (f : Plat → Plat) : (s.modPlat f).uid = s.uid := rfl
@[simp] theorem State.modPlat_done (f : Plat → Plat) : (s.modPlat f).done = s.done := rfl
@[simp] theorem State.modPlat_core (f : Plat → Plat) (a : Nat) : (s.modPlat f).core a = s.core a := rfl
@[simp] theorem State.modPlat_me (f : Plat → Plat) : (s.modPlat f).me = s.me := rfl
@[simp] theorem State.modPlat_str (f : Plat → Plat) : (s.modPlat f).str = s.str := rfl
@[simp] theorem State.modPlat_slot (f : Plat → Plat) (a : Nat) : (s.modPlat f).slot a = s.slot a := rfl

/-! ## `send` -/

@[simp] theorem State.send_clock (m : Msg) : (s.send m).clock = s.clock := rfl
@[simp] theorem State.send_ns (m : Msg) : (s.send m).ns = s.ns := rfl
@[simp] theorem State.send_frac (m : Msg) : (s.send m).frac = s.frac := rfl
@[simp] theorem State.send_cur (m : Msg) : (s.send m).cur = s.cur := rfl
@[simp] theorem State.send_cores (m : Msg) : (s.send m).cores = s.cores := rfl
@[simp] theorem State.send_slots (m : Msg) : (s.send m).slots = s.slots := rfl
@[simp] theorem State.send_qs (m : Msg) : (s.send m).qs = s.qs := rfl
@[simp] theorem State.send_dev (m : Msg) : (s.send m).dev = s.dev := rfl
@[simp] theorem State.send_outs (m : Msg) : (s.send m).outs = s.outs := rfl
@[simp] theorem State.send_tlb1 (m : Msg) : (s.send m).tlb1 = s.tlb1 := rfl
@[simp] theorem State.send_tlb2 (m : Msg) : (s.send m).tlb2 = s.tlb2 := rfl
@[simp] theorem State.send_tlbi (m : Msg) : (s.send m).tlbi = s.tlbi := rfl
@[simp] theorem State.send_inputs (m : Msg) : (s.send m).inputs = s.inputs := rfl
@[simp] theorem State.send_timers (m : Msg) : (s.send m).timers = s.timers := rfl
@[simp] theorem State.send_free (m : Msg) : (s.send m).free = s.free := rfl
@[simp] theorem State.send_uid (m : Msg) : (s.send m).uid = s.uid := rfl
@[simp] theorem State.send_done (m : Msg) : (s.send m).done = s.done := rfl
@[simp] theorem State.send_core (m : Msg) (a : Nat) : (s.send m).core a = s.core a := rfl
@[simp] theorem State.send_me (m : Msg) : (s.send m).me = s.me := rfl
@[simp] theorem State.send_str (m : Msg) : (s.send m).str = s.str := rfl
@[simp] theorem State.send_slot (m : Msg) (a : Nat) : (s.send m).slot a = s.slot a := rfl

/-! ## `later` -/

@[simp] theorem State.later_clock (i : Instr) : (s.later i).clock = s.clock := rfl
@[simp] theorem State.later_ns (i : Instr) : (s.later i).ns = s.ns := rfl
@[simp] theorem State.later_frac (i : Instr) : (s.later i).frac = s.frac := rfl
@[simp] theorem State.later_cur (i : Instr) : (s.later i).cur = s.cur := rfl
@[simp] theorem State.later_cores (i : Instr) : (s.later i).cores = s.cores := rfl
@[simp] theorem State.later_slots (i : Instr) : (s.later i).slots = s.slots := rfl
@[simp] theorem State.later_qs (i : Instr) : (s.later i).qs = s.qs := rfl
@[simp] theorem State.later_dev (i : Instr) : (s.later i).dev = s.dev := rfl
@[simp] theorem State.later_outs (i : Instr) : (s.later i).outs = s.outs := rfl
@[simp] theorem State.later_tlb1 (i : Instr) : (s.later i).tlb1 = s.tlb1 := rfl
@[simp] theorem State.later_tlb2 (i : Instr) : (s.later i).tlb2 = s.tlb2 := rfl
@[simp] theorem State.later_tlbi (i : Instr) : (s.later i).tlbi = s.tlbi := rfl
@[simp] theorem State.later_inputs (i : Instr) : (s.later i).inputs = s.inputs := rfl
@[simp] theorem State.later_uid (i : Instr) : (s.later i).uid = s.uid := rfl
@[simp] theorem State.later_done (i : Instr) : (s.later i).done = s.done := rfl
@[simp] theorem State.later_plat (i : Instr) : (s.later i).plat = s.plat := rfl
@[simp] theorem State.later_core (i : Instr) (a : Nat) : (s.later i).core a = s.core a := rfl
@[simp] theorem State.later_me (i : Instr) : (s.later i).me = s.me := rfl
@[simp] theorem State.later_str (i : Instr) : (s.later i).str = s.str := rfl
@[simp] theorem State.later_slot (i : Instr) (a : Nat) : (s.later i).slot a = s.slot a := rfl

/-! ## `inClocks` -/

@[simp] theorem State.inClocks_clock (k : Nat) (i : Instr) : (s.inClocks k i).clock = s.clock := rfl
@[simp] theorem State.inClocks_ns (k : Nat) (i : Instr) : (s.inClocks k i).ns = s.ns := rfl
@[simp] theorem State.inClocks_frac (k : Nat) (i : Instr) : (s.inClocks k i).frac = s.frac := rfl
@[simp] theorem State.inClocks_cur (k : Nat) (i : Instr) : (s.inClocks k i).cur = s.cur := rfl
@[simp] theorem State.inClocks_cores (k : Nat) (i : Instr) : (s.inClocks k i).cores = s.cores := rfl
@[simp] theorem State.inClocks_slots (k : Nat) (i : Instr) : (s.inClocks k i).slots = s.slots := rfl
@[simp] theorem State.inClocks_qs (k : Nat) (i : Instr) : (s.inClocks k i).qs = s.qs := rfl
@[simp] theorem State.inClocks_dev (k : Nat) (i : Instr) : (s.inClocks k i).dev = s.dev := rfl
@[simp] theorem State.inClocks_outs (k : Nat) (i : Instr) : (s.inClocks k i).outs = s.outs := rfl
@[simp] theorem State.inClocks_tlb1 (k : Nat) (i : Instr) : (s.inClocks k i).tlb1 = s.tlb1 := rfl
@[simp] theorem State.inClocks_tlb2 (k : Nat) (i : Instr) : (s.inClocks k i).tlb2 = s.tlb2 := rfl
@[simp] theorem State.inClocks_tlbi (k : Nat) (i : Instr) : (s.inClocks k i).tlbi = s.tlbi := rfl
@[simp] theorem State.inClocks_inputs (k : Nat) (i : Instr) : (s.inClocks k i).inputs = s.inputs := rfl
@[simp] theorem State.inClocks_free (k : Nat) (i : Instr) : (s.inClocks k i).free = s.free := rfl
@[simp] theorem State.inClocks_uid (k : Nat) (i : Instr) : (s.inClocks k i).uid = s.uid := rfl
@[simp] theorem State.inClocks_done (k : Nat) (i : Instr) : (s.inClocks k i).done = s.done := rfl
@[simp] theorem State.inClocks_plat (k : Nat) (i : Instr) : (s.inClocks k i).plat = s.plat := rfl
@[simp] theorem State.inClocks_core (k : Nat) (i : Instr) (a : Nat) : (s.inClocks k i).core a = s.core a := rfl
@[simp] theorem State.inClocks_me (k : Nat) (i : Instr) : (s.inClocks k i).me = s.me := rfl
@[simp] theorem State.inClocks_str (k : Nat) (i : Instr) : (s.inClocks k i).str = s.str := rfl
@[simp] theorem State.inClocks_slot (k : Nat) (i : Instr) (a : Nat) : (s.inClocks k i).slot a = s.slot a := rfl

/-! ## `unplan` -/

@[simp] theorem State.unplan_clock (p : Instr → Bool) : (s.unplan p).clock = s.clock := rfl
@[simp] theorem State.unplan_ns (p : Instr → Bool) : (s.unplan p).ns = s.ns := rfl
@[simp] theorem State.unplan_frac (p : Instr → Bool) : (s.unplan p).frac = s.frac := rfl
@[simp] theorem State.unplan_cur (p : Instr → Bool) : (s.unplan p).cur = s.cur := rfl
@[simp] theorem State.unplan_cores (p : Instr → Bool) : (s.unplan p).cores = s.cores := rfl
@[simp] theorem State.unplan_slots (p : Instr → Bool) : (s.unplan p).slots = s.slots := rfl
@[simp] theorem State.unplan_qs (p : Instr → Bool) : (s.unplan p).qs = s.qs := rfl
@[simp] theorem State.unplan_dev (p : Instr → Bool) : (s.unplan p).dev = s.dev := rfl
@[simp] theorem State.unplan_outs (p : Instr → Bool) : (s.unplan p).outs = s.outs := rfl
@[simp] theorem State.unplan_tlb1 (p : Instr → Bool) : (s.unplan p).tlb1 = s.tlb1 := rfl
@[simp] theorem State.unplan_tlb2 (p : Instr → Bool) : (s.unplan p).tlb2 = s.tlb2 := rfl
@[simp] theorem State.unplan_tlbi (p : Instr → Bool) : (s.unplan p).tlbi = s.tlbi := rfl
@[simp] theorem State.unplan_inputs (p : Instr → Bool) : (s.unplan p).inputs = s.inputs := rfl
@[simp] theorem State.unplan_free (p : Instr → Bool) : (s.unplan p).free = s.free := rfl
@[simp] theorem State.unplan_uid (p : Instr → Bool) : (s.unplan p).uid = s.uid := rfl
@[simp] theorem State.unplan_done (p : Instr → Bool) : (s.unplan p).done = s.done := rfl
@[simp] theorem State.unplan_plat (p : Instr → Bool) : (s.unplan p).plat = s.plat := rfl
@[simp] theorem State.unplan_core (p : Instr → Bool) (a : Nat) : (s.unplan p).core a = s.core a := rfl
@[simp] theorem State.unplan_me (p : Instr → Bool) : (s.unplan p).me = s.me := rfl
@[simp] theorem State.unplan_str (p : Instr → Bool) : (s.unplan p).str = s.str := rfl
@[simp] theorem State.unplan_slot (p : Instr → Bool) (a : Nat) : (s.unplan p).slot a = s.slot a := rfl

/-! ## `addTrap` -/

@[simp] theorem State.addTrap_clock (t : Trap) : (s.addTrap t).clock = s.clock := rfl
@[simp] theorem State.addTrap_ns (t : Trap) : (s.addTrap t).ns = s.ns := rfl
@[simp] theorem State.addTrap_frac (t : Trap) : (s.addTrap t).frac = s.frac := rfl
@[simp] theorem State.addTrap_cur (t : Trap) : (s.addTrap t).cur = s.cur := rfl
@[simp] theorem State.addTrap_cores (t : Trap) : (s.addTrap t).cores = s.cores := rfl
@[simp] theorem State.addTrap_qs (t : Trap) : (s.addTrap t).qs = s.qs := rfl
@[simp] theorem State.addTrap_dev (t : Trap) : (s.addTrap t).dev = s.dev := rfl
@[simp] theorem State.addTrap_outs (t : Trap) : (s.addTrap t).outs = s.outs := rfl
@[simp] theorem State.addTrap_tlb1 (t : Trap) : (s.addTrap t).tlb1 = s.tlb1 := rfl
@[simp] theorem State.addTrap_tlb2 (t : Trap) : (s.addTrap t).tlb2 = s.tlb2 := rfl
@[simp] theorem State.addTrap_tlbi (t : Trap) : (s.addTrap t).tlbi = s.tlbi := rfl
@[simp] theorem State.addTrap_inputs (t : Trap) : (s.addTrap t).inputs = s.inputs := rfl
@[simp] theorem State.addTrap_timers (t : Trap) : (s.addTrap t).timers = s.timers := rfl
@[simp] theorem State.addTrap_free (t : Trap) : (s.addTrap t).free = s.free := rfl
@[simp] theorem State.addTrap_uid (t : Trap) : (s.addTrap t).uid = s.uid := rfl
@[simp] theorem State.addTrap_done (t : Trap) : (s.addTrap t).done = s.done := rfl
@[simp] theorem State.addTrap_plat (t : Trap) : (s.addTrap t).plat = s.plat := rfl
@[simp] theorem State.addTrap_core (t : Trap) (a : Nat) : (s.addTrap t).core a = s.core a := rfl
@[simp] theorem State.addTrap_me (t : Trap) : (s.addTrap t).me = s.me := rfl
@[simp] theorem State.addTrap_str (t : Trap) : (s.addTrap t).str = s.str := rfl

/-! ## `request` -/

@[simp] theorem State.request_clock (n x : Nat) (c : Cause) : (s.request n x c).clock = s.clock := rfl
@[simp] theorem State.request_ns (n x : Nat) (c : Cause) : (s.request n x c).ns = s.ns := rfl
@[simp] theorem State.request_frac (n x : Nat) (c : Cause) : (s.request n x c).frac = s.frac := rfl
@[simp] theorem State.request_cur (n x : Nat) (c : Cause) : (s.request n x c).cur = s.cur := rfl
@[simp] theorem State.request_cores (n x : Nat) (c : Cause) : (s.request n x c).cores = s.cores := rfl
@[simp] theorem State.request_qs (n x : Nat) (c : Cause) : (s.request n x c).qs = s.qs := rfl
@[simp] theorem State.request_dev (n x : Nat) (c : Cause) : (s.request n x c).dev = s.dev := rfl
@[simp] theorem State.request_outs (n x : Nat) (c : Cause) : (s.request n x c).outs = s.outs := rfl
@[simp] theorem State.request_tlb1 (n x : Nat) (c : Cause) : (s.request n x c).tlb1 = s.tlb1 := rfl
@[simp] theorem State.request_tlb2 (n x : Nat) (c : Cause) : (s.request n x c).tlb2 = s.tlb2 := rfl
@[simp] theorem State.request_tlbi (n x : Nat) (c : Cause) : (s.request n x c).tlbi = s.tlbi := rfl
@[simp] theorem State.request_inputs (n x : Nat) (c : Cause) : (s.request n x c).inputs = s.inputs := rfl
@[simp] theorem State.request_timers (n x : Nat) (c : Cause) : (s.request n x c).timers = s.timers := rfl
@[simp] theorem State.request_free (n x : Nat) (c : Cause) : (s.request n x c).free = s.free := rfl
@[simp] theorem State.request_uid (n x : Nat) (c : Cause) : (s.request n x c).uid = s.uid := rfl
@[simp] theorem State.request_done (n x : Nat) (c : Cause) : (s.request n x c).done = s.done := rfl
@[simp] theorem State.request_plat (n x : Nat) (c : Cause) : (s.request n x c).plat = s.plat := rfl
@[simp] theorem State.request_core (n x : Nat) (c : Cause) (a : Nat) : (s.request n x c).core a = s.core a := rfl
@[simp] theorem State.request_me (n x : Nat) (c : Cause) : (s.request n x c).me = s.me := rfl
@[simp] theorem State.request_str (n x : Nat) (c : Cause) : (s.request n x c).str = s.str := rfl

/-! ## `clearCause` -/

@[simp] theorem State.clearCause_clock (n : Nat) (c : Cause) : (s.clearCause n c).clock = s.clock := rfl
@[simp] theorem State.clearCause_ns (n : Nat) (c : Cause) : (s.clearCause n c).ns = s.ns := rfl
@[simp] theorem State.clearCause_frac (n : Nat) (c : Cause) : (s.clearCause n c).frac = s.frac := rfl
@[simp] theorem State.clearCause_cur (n : Nat) (c : Cause) : (s.clearCause n c).cur = s.cur := rfl
@[simp] theorem State.clearCause_cores (n : Nat) (c : Cause) : (s.clearCause n c).cores = s.cores := rfl
@[simp] theorem State.clearCause_qs (n : Nat) (c : Cause) : (s.clearCause n c).qs = s.qs := rfl
@[simp] theorem State.clearCause_dev (n : Nat) (c : Cause) : (s.clearCause n c).dev = s.dev := rfl
@[simp] theorem State.clearCause_outs (n : Nat) (c : Cause) : (s.clearCause n c).outs = s.outs := rfl
@[simp] theorem State.clearCause_tlb1 (n : Nat) (c : Cause) : (s.clearCause n c).tlb1 = s.tlb1 := rfl
@[simp] theorem State.clearCause_tlb2 (n : Nat) (c : Cause) : (s.clearCause n c).tlb2 = s.tlb2 := rfl
@[simp] theorem State.clearCause_tlbi (n : Nat) (c : Cause) : (s.clearCause n c).tlbi = s.tlbi := rfl
@[simp] theorem State.clearCause_inputs (n : Nat) (c : Cause) : (s.clearCause n c).inputs = s.inputs := rfl
@[simp] theorem State.clearCause_timers (n : Nat) (c : Cause) : (s.clearCause n c).timers = s.timers := rfl
@[simp] theorem State.clearCause_free (n : Nat) (c : Cause) : (s.clearCause n c).free = s.free := rfl
@[simp] theorem State.clearCause_uid (n : Nat) (c : Cause) : (s.clearCause n c).uid = s.uid := rfl
@[simp] theorem State.clearCause_done (n : Nat) (c : Cause) : (s.clearCause n c).done = s.done := rfl
@[simp] theorem State.clearCause_plat (n : Nat) (c : Cause) : (s.clearCause n c).plat = s.plat := rfl
@[simp] theorem State.clearCause_core (n : Nat) (c : Cause) (a : Nat) : (s.clearCause n c).core a = s.core a := rfl
@[simp] theorem State.clearCause_me (n : Nat) (c : Cause) : (s.clearCause n c).me = s.me := rfl
@[simp] theorem State.clearCause_str (n : Nat) (c : Cause) : (s.clearCause n c).str = s.str := rfl

/-! ## `platformHold` -/

@[simp] theorem State.platformHold_clock (n tag : Nat) : (s.platformHold n tag).clock = s.clock := rfl
@[simp] theorem State.platformHold_ns (n tag : Nat) : (s.platformHold n tag).ns = s.ns := rfl
@[simp] theorem State.platformHold_frac (n tag : Nat) : (s.platformHold n tag).frac = s.frac := rfl
@[simp] theorem State.platformHold_cur (n tag : Nat) : (s.platformHold n tag).cur = s.cur := rfl
@[simp] theorem State.platformHold_cores (n tag : Nat) : (s.platformHold n tag).cores = s.cores := rfl
@[simp] theorem State.platformHold_qs (n tag : Nat) : (s.platformHold n tag).qs = s.qs := rfl
@[simp] theorem State.platformHold_dev (n tag : Nat) : (s.platformHold n tag).dev = s.dev := rfl
@[simp] theorem State.platformHold_outs (n tag : Nat) : (s.platformHold n tag).outs = s.outs := rfl
@[simp] theorem State.platformHold_tlb1 (n tag : Nat) : (s.platformHold n tag).tlb1 = s.tlb1 := rfl
@[simp] theorem State.platformHold_tlb2 (n tag : Nat) : (s.platformHold n tag).tlb2 = s.tlb2 := rfl
@[simp] theorem State.platformHold_tlbi (n tag : Nat) : (s.platformHold n tag).tlbi = s.tlbi := rfl
@[simp] theorem State.platformHold_inputs (n tag : Nat) : (s.platformHold n tag).inputs = s.inputs := rfl
@[simp] theorem State.platformHold_timers (n tag : Nat) : (s.platformHold n tag).timers = s.timers := rfl
@[simp] theorem State.platformHold_free (n tag : Nat) : (s.platformHold n tag).free = s.free := rfl
@[simp] theorem State.platformHold_uid (n tag : Nat) : (s.platformHold n tag).uid = s.uid := rfl
@[simp] theorem State.platformHold_done (n tag : Nat) : (s.platformHold n tag).done = s.done := rfl
@[simp] theorem State.platformHold_plat (n tag : Nat) : (s.platformHold n tag).plat = s.plat := rfl
@[simp] theorem State.platformHold_core (n tag : Nat) (a : Nat) : (s.platformHold n tag).core a = s.core a := rfl
@[simp] theorem State.platformHold_me (n tag : Nat) : (s.platformHold n tag).me = s.me := rfl
@[simp] theorem State.platformHold_str (n tag : Nat) : (s.platformHold n tag).str = s.str := rfl

/-! ## `pushTo` -/

@[simp] theorem State.pushTo_clock (c order q : Nat) (e : QEntry) : (s.pushTo c order q e).clock = s.clock := rfl
@[simp] theorem State.pushTo_ns (c order q : Nat) (e : QEntry) : (s.pushTo c order q e).ns = s.ns := rfl
@[simp] theorem State.pushTo_frac (c order q : Nat) (e : QEntry) : (s.pushTo c order q e).frac = s.frac := rfl
@[simp] theorem State.pushTo_cur (c order q : Nat) (e : QEntry) : (s.pushTo c order q e).cur = s.cur := rfl
@[simp] theorem State.pushTo_slots (c order q : Nat) (e : QEntry) : (s.pushTo c order q e).slots = s.slots := rfl
@[simp] theorem State.pushTo_qs (c order q : Nat) (e : QEntry) : (s.pushTo c order q e).qs = s.qs := rfl
@[simp] theorem State.pushTo_dev (c order q : Nat) (e : QEntry) : (s.pushTo c order q e).dev = s.dev := rfl
@[simp] theorem State.pushTo_outs (c order q : Nat) (e : QEntry) : (s.pushTo c order q e).outs = s.outs := rfl
@[simp] theorem State.pushTo_tlb1 (c order q : Nat) (e : QEntry) : (s.pushTo c order q e).tlb1 = s.tlb1 := rfl
@[simp] theorem State.pushTo_tlb2 (c order q : Nat) (e : QEntry) : (s.pushTo c order q e).tlb2 = s.tlb2 := rfl
@[simp] theorem State.pushTo_tlbi (c order q : Nat) (e : QEntry) : (s.pushTo c order q e).tlbi = s.tlbi := rfl
@[simp] theorem State.pushTo_inputs (c order q : Nat) (e : QEntry) : (s.pushTo c order q e).inputs = s.inputs := rfl
@[simp] theorem State.pushTo_timers (c order q : Nat) (e : QEntry) : (s.pushTo c order q e).timers = s.timers := rfl
@[simp] theorem State.pushTo_free (c order q : Nat) (e : QEntry) : (s.pushTo c order q e).free = s.free := rfl
@[simp] theorem State.pushTo_uid (c order q : Nat) (e : QEntry) : (s.pushTo c order q e).uid = s.uid := rfl
@[simp] theorem State.pushTo_done (c order q : Nat) (e : QEntry) : (s.pushTo c order q e).done = s.done := rfl
@[simp] theorem State.pushTo_plat (c order q : Nat) (e : QEntry) : (s.pushTo c order q e).plat = s.plat := rfl
@[simp] theorem State.pushTo_slot (c order q : Nat) (e : QEntry) (a : Nat) : (s.pushTo c order q e).slot a = s.slot a := rfl

/-! ## `push` -/

@[simp] theorem State.push_clock (q : Nat) (e : Entry) (t : Nat) : (s.push q e t).clock = s.clock := rfl
@[simp] theorem State.push_ns (q : Nat) (e : Entry) (t : Nat) : (s.push q e t).ns = s.ns := rfl
@[simp] theorem State.push_frac (q : Nat) (e : Entry) (t : Nat) : (s.push q e t).frac = s.frac := rfl
@[simp] theorem State.push_cur (q : Nat) (e : Entry) (t : Nat) : (s.push q e t).cur = s.cur := rfl
@[simp] theorem State.push_slots (q : Nat) (e : Entry) (t : Nat) : (s.push q e t).slots = s.slots := rfl
@[simp] theorem State.push_qs (q : Nat) (e : Entry) (t : Nat) : (s.push q e t).qs = s.qs := rfl
@[simp] theorem State.push_dev (q : Nat) (e : Entry) (t : Nat) : (s.push q e t).dev = s.dev := rfl
@[simp] theorem State.push_outs (q : Nat) (e : Entry) (t : Nat) : (s.push q e t).outs = s.outs := rfl
@[simp] theorem State.push_tlb1 (q : Nat) (e : Entry) (t : Nat) : (s.push q e t).tlb1 = s.tlb1 := rfl
@[simp] theorem State.push_tlb2 (q : Nat) (e : Entry) (t : Nat) : (s.push q e t).tlb2 = s.tlb2 := rfl
@[simp] theorem State.push_tlbi (q : Nat) (e : Entry) (t : Nat) : (s.push q e t).tlbi = s.tlbi := rfl
@[simp] theorem State.push_inputs (q : Nat) (e : Entry) (t : Nat) : (s.push q e t).inputs = s.inputs := rfl
@[simp] theorem State.push_timers (q : Nat) (e : Entry) (t : Nat) : (s.push q e t).timers = s.timers := rfl
@[simp] theorem State.push_free (q : Nat) (e : Entry) (t : Nat) : (s.push q e t).free = s.free := rfl
@[simp] theorem State.push_uid (q : Nat) (e : Entry) (t : Nat) : (s.push q e t).uid = s.uid := rfl
@[simp] theorem State.push_done (q : Nat) (e : Entry) (t : Nat) : (s.push q e t).done = s.done := rfl
@[simp] theorem State.push_plat (q : Nat) (e : Entry) (t : Nat) : (s.push q e t).plat = s.plat := rfl
@[simp] theorem State.push_slot (q : Nat) (e : Entry) (t : Nat) (a : Nat) : (s.push q e t).slot a = s.slot a := rfl

/-! ## `reserve` -/

@[simp] theorem State.reserve_clock (q t id : Nat) : (s.reserve q t id).clock = s.clock := rfl
@[simp] theorem State.reserve_ns (q t id : Nat) : (s.reserve q t id).ns = s.ns := rfl
@[simp] theorem State.reserve_frac (q t id : Nat) : (s.reserve q t id).frac = s.frac := rfl
@[simp] theorem State.reserve_cur (q t id : Nat) : (s.reserve q t id).cur = s.cur := rfl
@[simp] theorem State.reserve_slots (q t id : Nat) : (s.reserve q t id).slots = s.slots := rfl
@[simp] theorem State.reserve_qs (q t id : Nat) : (s.reserve q t id).qs = s.qs := rfl
@[simp] theorem State.reserve_dev (q t id : Nat) : (s.reserve q t id).dev = s.dev := rfl
@[simp] theorem State.reserve_outs (q t id : Nat) : (s.reserve q t id).outs = s.outs := rfl
@[simp] theorem State.reserve_tlb1 (q t id : Nat) : (s.reserve q t id).tlb1 = s.tlb1 := rfl
@[simp] theorem State.reserve_tlb2 (q t id : Nat) : (s.reserve q t id).tlb2 = s.tlb2 := rfl
@[simp] theorem State.reserve_tlbi (q t id : Nat) : (s.reserve q t id).tlbi = s.tlbi := rfl
@[simp] theorem State.reserve_inputs (q t id : Nat) : (s.reserve q t id).inputs = s.inputs := rfl
@[simp] theorem State.reserve_timers (q t id : Nat) : (s.reserve q t id).timers = s.timers := rfl
@[simp] theorem State.reserve_free (q t id : Nat) : (s.reserve q t id).free = s.free := rfl
@[simp] theorem State.reserve_uid (q t id : Nat) : (s.reserve q t id).uid = s.uid := rfl
@[simp] theorem State.reserve_done (q t id : Nat) : (s.reserve q t id).done = s.done := rfl
@[simp] theorem State.reserve_plat (q t id : Nat) : (s.reserve q t id).plat = s.plat := rfl
@[simp] theorem State.reserve_slot (q t id : Nat) (a : Nat) : (s.reserve q t id).slot a = s.slot a := rfl

/-! ## `reserveZero` -/

@[simp] theorem State.reserveZero_clock (q t : Nat) : (s.reserveZero q t).clock = s.clock := rfl
@[simp] theorem State.reserveZero_ns (q t : Nat) : (s.reserveZero q t).ns = s.ns := rfl
@[simp] theorem State.reserveZero_frac (q t : Nat) : (s.reserveZero q t).frac = s.frac := rfl
@[simp] theorem State.reserveZero_cur (q t : Nat) : (s.reserveZero q t).cur = s.cur := rfl
@[simp] theorem State.reserveZero_slots (q t : Nat) : (s.reserveZero q t).slots = s.slots := rfl
@[simp] theorem State.reserveZero_qs (q t : Nat) : (s.reserveZero q t).qs = s.qs := rfl
@[simp] theorem State.reserveZero_dev (q t : Nat) : (s.reserveZero q t).dev = s.dev := rfl
@[simp] theorem State.reserveZero_outs (q t : Nat) : (s.reserveZero q t).outs = s.outs := rfl
@[simp] theorem State.reserveZero_tlb1 (q t : Nat) : (s.reserveZero q t).tlb1 = s.tlb1 := rfl
@[simp] theorem State.reserveZero_tlb2 (q t : Nat) : (s.reserveZero q t).tlb2 = s.tlb2 := rfl
@[simp] theorem State.reserveZero_tlbi (q t : Nat) : (s.reserveZero q t).tlbi = s.tlbi := rfl
@[simp] theorem State.reserveZero_inputs (q t : Nat) : (s.reserveZero q t).inputs = s.inputs := rfl
@[simp] theorem State.reserveZero_timers (q t : Nat) : (s.reserveZero q t).timers = s.timers := rfl
@[simp] theorem State.reserveZero_free (q t : Nat) : (s.reserveZero q t).free = s.free := rfl
@[simp] theorem State.reserveZero_uid (q t : Nat) : (s.reserveZero q t).uid = s.uid := rfl
@[simp] theorem State.reserveZero_done (q t : Nat) : (s.reserveZero q t).done = s.done := rfl
@[simp] theorem State.reserveZero_plat (q t : Nat) : (s.reserveZero q t).plat = s.plat := rfl
@[simp] theorem State.reserveZero_slot (q t : Nat) (a : Nat) : (s.reserveZero q t).slot a = s.slot a := rfl

/-! ## `fill` -/

@[simp] theorem State.fill_clock (c id : Nat) (e : Entry) : (s.fill c id e).clock = s.clock := rfl
@[simp] theorem State.fill_ns (c id : Nat) (e : Entry) : (s.fill c id e).ns = s.ns := rfl
@[simp] theorem State.fill_frac (c id : Nat) (e : Entry) : (s.fill c id e).frac = s.frac := rfl
@[simp] theorem State.fill_cur (c id : Nat) (e : Entry) : (s.fill c id e).cur = s.cur := rfl
@[simp] theorem State.fill_slots (c id : Nat) (e : Entry) : (s.fill c id e).slots = s.slots := rfl
@[simp] theorem State.fill_qs (c id : Nat) (e : Entry) : (s.fill c id e).qs = s.qs := rfl
@[simp] theorem State.fill_dev (c id : Nat) (e : Entry) : (s.fill c id e).dev = s.dev := rfl
@[simp] theorem State.fill_outs (c id : Nat) (e : Entry) : (s.fill c id e).outs = s.outs := rfl
@[simp] theorem State.fill_tlb1 (c id : Nat) (e : Entry) : (s.fill c id e).tlb1 = s.tlb1 := rfl
@[simp] theorem State.fill_tlb2 (c id : Nat) (e : Entry) : (s.fill c id e).tlb2 = s.tlb2 := rfl
@[simp] theorem State.fill_tlbi (c id : Nat) (e : Entry) : (s.fill c id e).tlbi = s.tlbi := rfl
@[simp] theorem State.fill_inputs (c id : Nat) (e : Entry) : (s.fill c id e).inputs = s.inputs := rfl
@[simp] theorem State.fill_timers (c id : Nat) (e : Entry) : (s.fill c id e).timers = s.timers := rfl
@[simp] theorem State.fill_free (c id : Nat) (e : Entry) : (s.fill c id e).free = s.free := rfl
@[simp] theorem State.fill_uid (c id : Nat) (e : Entry) : (s.fill c id e).uid = s.uid := rfl
@[simp] theorem State.fill_done (c id : Nat) (e : Entry) : (s.fill c id e).done = s.done := rfl
@[simp] theorem State.fill_plat (c id : Nat) (e : Entry) : (s.fill c id e).plat = s.plat := rfl
@[simp] theorem State.fill_slot (c id : Nat) (e : Entry) (a : Nat) : (s.fill c id e).slot a = s.slot a := rfl

/-! ## `event` -/

@[simp] theorem State.event_clock (c cause : Nat) (info : Word) : (s.event c cause info).clock = s.clock := rfl
@[simp] theorem State.event_ns (c cause : Nat) (info : Word) : (s.event c cause info).ns = s.ns := rfl
@[simp] theorem State.event_frac (c cause : Nat) (info : Word) : (s.event c cause info).frac = s.frac := rfl
@[simp] theorem State.event_cur (c cause : Nat) (info : Word) : (s.event c cause info).cur = s.cur := rfl
@[simp] theorem State.event_slots (c cause : Nat) (info : Word) : (s.event c cause info).slots = s.slots := rfl
@[simp] theorem State.event_qs (c cause : Nat) (info : Word) : (s.event c cause info).qs = s.qs := rfl
@[simp] theorem State.event_dev (c cause : Nat) (info : Word) : (s.event c cause info).dev = s.dev := rfl
@[simp] theorem State.event_outs (c cause : Nat) (info : Word) : (s.event c cause info).outs = s.outs := rfl
@[simp] theorem State.event_tlb1 (c cause : Nat) (info : Word) : (s.event c cause info).tlb1 = s.tlb1 := rfl
@[simp] theorem State.event_tlb2 (c cause : Nat) (info : Word) : (s.event c cause info).tlb2 = s.tlb2 := rfl
@[simp] theorem State.event_tlbi (c cause : Nat) (info : Word) : (s.event c cause info).tlbi = s.tlbi := rfl
@[simp] theorem State.event_inputs (c cause : Nat) (info : Word) : (s.event c cause info).inputs = s.inputs := rfl
@[simp] theorem State.event_timers (c cause : Nat) (info : Word) : (s.event c cause info).timers = s.timers := rfl
@[simp] theorem State.event_free (c cause : Nat) (info : Word) : (s.event c cause info).free = s.free := rfl
@[simp] theorem State.event_uid (c cause : Nat) (info : Word) : (s.event c cause info).uid = s.uid := rfl
@[simp] theorem State.event_done (c cause : Nat) (info : Word) : (s.event c cause info).done = s.done := rfl
@[simp] theorem State.event_plat (c cause : Nat) (info : Word) : (s.event c cause info).plat = s.plat := rfl
@[simp] theorem State.event_slot (c cause : Nat) (info : Word) (a : Nat) : (s.event c cause info).slot a = s.slot a := rfl

/-! ## `misuse` -/

@[simp] theorem State.misuse_clock : s.misuse.clock = s.clock := rfl
@[simp] theorem State.misuse_ns : s.misuse.ns = s.ns := rfl
@[simp] theorem State.misuse_frac : s.misuse.frac = s.frac := rfl
@[simp] theorem State.misuse_cur : s.misuse.cur = s.cur := rfl
@[simp] theorem State.misuse_slots : s.misuse.slots = s.slots := rfl
@[simp] theorem State.misuse_qs : s.misuse.qs = s.qs := rfl
@[simp] theorem State.misuse_dev : s.misuse.dev = s.dev := rfl
@[simp] theorem State.misuse_outs : s.misuse.outs = s.outs := rfl
@[simp] theorem State.misuse_tlb1 : s.misuse.tlb1 = s.tlb1 := rfl
@[simp] theorem State.misuse_tlb2 : s.misuse.tlb2 = s.tlb2 := rfl
@[simp] theorem State.misuse_tlbi : s.misuse.tlbi = s.tlbi := rfl
@[simp] theorem State.misuse_inputs : s.misuse.inputs = s.inputs := rfl
@[simp] theorem State.misuse_timers : s.misuse.timers = s.timers := rfl
@[simp] theorem State.misuse_free : s.misuse.free = s.free := rfl
@[simp] theorem State.misuse_uid : s.misuse.uid = s.uid := rfl
@[simp] theorem State.misuse_done : s.misuse.done = s.done := rfl
@[simp] theorem State.misuse_plat : s.misuse.plat = s.plat := rfl
@[simp] theorem State.misuse_slot (a : Nat) : s.misuse.slot a = s.slot a := rfl

/-! ## `addFault` -/

@[simp] theorem State.addFault_clock (n : Nat) (r : FaultRec) : (s.addFault n r).clock = s.clock := rfl
@[simp] theorem State.addFault_ns (n : Nat) (r : FaultRec) : (s.addFault n r).ns = s.ns := rfl
@[simp] theorem State.addFault_frac (n : Nat) (r : FaultRec) : (s.addFault n r).frac = s.frac := rfl
@[simp] theorem State.addFault_cur (n : Nat) (r : FaultRec) : (s.addFault n r).cur = s.cur := rfl
@[simp] theorem State.addFault_qs (n : Nat) (r : FaultRec) : (s.addFault n r).qs = s.qs := rfl
@[simp] theorem State.addFault_dev (n : Nat) (r : FaultRec) : (s.addFault n r).dev = s.dev := rfl
@[simp] theorem State.addFault_outs (n : Nat) (r : FaultRec) : (s.addFault n r).outs = s.outs := rfl
@[simp] theorem State.addFault_tlb1 (n : Nat) (r : FaultRec) : (s.addFault n r).tlb1 = s.tlb1 := rfl
@[simp] theorem State.addFault_tlb2 (n : Nat) (r : FaultRec) : (s.addFault n r).tlb2 = s.tlb2 := rfl
@[simp] theorem State.addFault_tlbi (n : Nat) (r : FaultRec) : (s.addFault n r).tlbi = s.tlbi := rfl
@[simp] theorem State.addFault_inputs (n : Nat) (r : FaultRec) : (s.addFault n r).inputs = s.inputs := rfl
@[simp] theorem State.addFault_timers (n : Nat) (r : FaultRec) : (s.addFault n r).timers = s.timers := rfl
@[simp] theorem State.addFault_free (n : Nat) (r : FaultRec) : (s.addFault n r).free = s.free := rfl
@[simp] theorem State.addFault_uid (n : Nat) (r : FaultRec) : (s.addFault n r).uid = s.uid := rfl
@[simp] theorem State.addFault_done (n : Nat) (r : FaultRec) : (s.addFault n r).done = s.done := rfl
@[simp] theorem State.addFault_plat (n : Nat) (r : FaultRec) : (s.addFault n r).plat = s.plat := rfl

/-! ## `faultAt` -/

@[simp] theorem State.faultAt_clock (c st : Nat) (k : FaultKind) (d : Nat) (addr : Word) (space : Nat) : (s.faultAt c st k d addr space).clock = s.clock := rfl
@[simp] theorem State.faultAt_ns (c st : Nat) (k : FaultKind) (d : Nat) (addr : Word) (space : Nat) : (s.faultAt c st k d addr space).ns = s.ns := rfl
@[simp] theorem State.faultAt_frac (c st : Nat) (k : FaultKind) (d : Nat) (addr : Word) (space : Nat) : (s.faultAt c st k d addr space).frac = s.frac := rfl
@[simp] theorem State.faultAt_cur (c st : Nat) (k : FaultKind) (d : Nat) (addr : Word) (space : Nat) : (s.faultAt c st k d addr space).cur = s.cur := rfl
@[simp] theorem State.faultAt_qs (c st : Nat) (k : FaultKind) (d : Nat) (addr : Word) (space : Nat) : (s.faultAt c st k d addr space).qs = s.qs := rfl
@[simp] theorem State.faultAt_dev (c st : Nat) (k : FaultKind) (d : Nat) (addr : Word) (space : Nat) : (s.faultAt c st k d addr space).dev = s.dev := rfl
@[simp] theorem State.faultAt_outs (c st : Nat) (k : FaultKind) (d : Nat) (addr : Word) (space : Nat) : (s.faultAt c st k d addr space).outs = s.outs := rfl
@[simp] theorem State.faultAt_tlb1 (c st : Nat) (k : FaultKind) (d : Nat) (addr : Word) (space : Nat) : (s.faultAt c st k d addr space).tlb1 = s.tlb1 := rfl
@[simp] theorem State.faultAt_tlb2 (c st : Nat) (k : FaultKind) (d : Nat) (addr : Word) (space : Nat) : (s.faultAt c st k d addr space).tlb2 = s.tlb2 := rfl
@[simp] theorem State.faultAt_tlbi (c st : Nat) (k : FaultKind) (d : Nat) (addr : Word) (space : Nat) : (s.faultAt c st k d addr space).tlbi = s.tlbi := rfl
@[simp] theorem State.faultAt_inputs (c st : Nat) (k : FaultKind) (d : Nat) (addr : Word) (space : Nat) : (s.faultAt c st k d addr space).inputs = s.inputs := rfl
@[simp] theorem State.faultAt_timers (c st : Nat) (k : FaultKind) (d : Nat) (addr : Word) (space : Nat) : (s.faultAt c st k d addr space).timers = s.timers := rfl
@[simp] theorem State.faultAt_free (c st : Nat) (k : FaultKind) (d : Nat) (addr : Word) (space : Nat) : (s.faultAt c st k d addr space).free = s.free := rfl
@[simp] theorem State.faultAt_uid (c st : Nat) (k : FaultKind) (d : Nat) (addr : Word) (space : Nat) : (s.faultAt c st k d addr space).uid = s.uid := rfl
@[simp] theorem State.faultAt_done (c st : Nat) (k : FaultKind) (d : Nat) (addr : Word) (space : Nat) : (s.faultAt c st k d addr space).done = s.done := rfl
@[simp] theorem State.faultAt_plat (c st : Nat) (k : FaultKind) (d : Nat) (addr : Word) (space : Nat) : (s.faultAt c st k d addr space).plat = s.plat := rfl

/-! ## `occupy` -/

@[simp] theorem State.occupy_clock (n : Nat) : (s.occupy n).clock = s.clock := rfl
@[simp] theorem State.occupy_ns (n : Nat) : (s.occupy n).ns = s.ns := rfl
@[simp] theorem State.occupy_frac (n : Nat) : (s.occupy n).frac = s.frac := rfl
@[simp] theorem State.occupy_cur (n : Nat) : (s.occupy n).cur = s.cur := rfl
@[simp] theorem State.occupy_slots (n : Nat) : (s.occupy n).slots = s.slots := rfl
@[simp] theorem State.occupy_qs (n : Nat) : (s.occupy n).qs = s.qs := rfl
@[simp] theorem State.occupy_dev (n : Nat) : (s.occupy n).dev = s.dev := rfl
@[simp] theorem State.occupy_outs (n : Nat) : (s.occupy n).outs = s.outs := rfl
@[simp] theorem State.occupy_tlb1 (n : Nat) : (s.occupy n).tlb1 = s.tlb1 := rfl
@[simp] theorem State.occupy_tlb2 (n : Nat) : (s.occupy n).tlb2 = s.tlb2 := rfl
@[simp] theorem State.occupy_tlbi (n : Nat) : (s.occupy n).tlbi = s.tlbi := rfl
@[simp] theorem State.occupy_inputs (n : Nat) : (s.occupy n).inputs = s.inputs := rfl
@[simp] theorem State.occupy_timers (n : Nat) : (s.occupy n).timers = s.timers := rfl
@[simp] theorem State.occupy_free (n : Nat) : (s.occupy n).free = s.free := rfl
@[simp] theorem State.occupy_uid (n : Nat) : (s.occupy n).uid = s.uid := rfl
@[simp] theorem State.occupy_done (n : Nat) : (s.occupy n).done = s.done := rfl
@[simp] theorem State.occupy_plat (n : Nat) : (s.occupy n).plat = s.plat := rfl
@[simp] theorem State.occupy_slot (n : Nat) (a : Nat) : (s.occupy n).slot a = s.slot a := rfl

/-! ## `joinAt` -/

@[simp] theorem State.joinAt_clock (op arg : Nat) : (s.joinAt op arg).clock = s.clock := rfl
@[simp] theorem State.joinAt_ns (op arg : Nat) : (s.joinAt op arg).ns = s.ns := rfl
@[simp] theorem State.joinAt_frac (op arg : Nat) : (s.joinAt op arg).frac = s.frac := rfl
@[simp] theorem State.joinAt_cur (op arg : Nat) : (s.joinAt op arg).cur = s.cur := rfl
@[simp] theorem State.joinAt_slots (op arg : Nat) : (s.joinAt op arg).slots = s.slots := rfl
@[simp] theorem State.joinAt_qs (op arg : Nat) : (s.joinAt op arg).qs = s.qs := rfl
@[simp] theorem State.joinAt_dev (op arg : Nat) : (s.joinAt op arg).dev = s.dev := rfl
@[simp] theorem State.joinAt_outs (op arg : Nat) : (s.joinAt op arg).outs = s.outs := rfl
@[simp] theorem State.joinAt_tlb1 (op arg : Nat) : (s.joinAt op arg).tlb1 = s.tlb1 := rfl
@[simp] theorem State.joinAt_tlb2 (op arg : Nat) : (s.joinAt op arg).tlb2 = s.tlb2 := rfl
@[simp] theorem State.joinAt_tlbi (op arg : Nat) : (s.joinAt op arg).tlbi = s.tlbi := rfl
@[simp] theorem State.joinAt_inputs (op arg : Nat) : (s.joinAt op arg).inputs = s.inputs := rfl
@[simp] theorem State.joinAt_timers (op arg : Nat) : (s.joinAt op arg).timers = s.timers := rfl
@[simp] theorem State.joinAt_free (op arg : Nat) : (s.joinAt op arg).free = s.free := rfl
@[simp] theorem State.joinAt_uid (op arg : Nat) : (s.joinAt op arg).uid = s.uid := rfl
@[simp] theorem State.joinAt_done (op arg : Nat) : (s.joinAt op arg).done = s.done := rfl
@[simp] theorem State.joinAt_plat (op arg : Nat) : (s.joinAt op arg).plat = s.plat := rfl
@[simp] theorem State.joinAt_slot (op arg : Nat) (a : Nat) : (s.joinAt op arg).slot a = s.slot a := rfl

/-! ## Reading after an update -/

@[simp] theorem State.core_setCore (c : Nat) (x : Core) : (s.setCore c x).core c = x := Tbl.get_set_self _ _ _ _

theorem State.core_setCore_ne (x : Core) {a c : Nat} (h : a ≠ c) : (s.setCore c x).core a = s.core a :=
  Tbl.get_set_ne _ _ _ h

@[simp] theorem State.core_modCore (c : Nat) (f : Core → Core) : (s.modCore c f).core c = f (s.core c) :=
  Tbl.get_set_self _ _ _ _

theorem State.core_modCore_ne (f : Core → Core) {a c : Nat} (h : a ≠ c) : (s.modCore c f).core a = s.core a :=
  Tbl.get_set_ne _ _ _ h

@[simp] theorem State.slot_modSlot (n : Nat) (f : Slot → Slot) : (s.modSlot n f).slot n = f (s.slot n) :=
  Tbl.get_set_self _ _ _ _

theorem State.slot_modSlot_ne (f : Slot → Slot) {a n : Nat} (h : a ≠ n) : (s.modSlot n f).slot a = s.slot a :=
  Tbl.get_set_ne _ _ _ h

@[simp] theorem State.me_modMe (f : Core → Core) : (s.modMe f).me = f s.me := State.core_modCore _ _ _

@[simp] theorem State.my_modMy (f : Slot → Slot) : (s.modMy f).my = f s.my := State.slot_modSlot _ _ _

@[simp] theorem Core.stream_modStream (x : Core) (st : Nat) (f : Stream → Stream) :
    (x.modStream st f).stream st = f (x.stream st) := Tbl.get_set_self _ _ _ _

theorem Core.stream_modStream_ne (x : Core) (f : Stream → Stream) {a st : Nat} (h : a ≠ st) :
    (x.modStream st f).stream a = x.stream a := Tbl.get_set_ne _ _ _ h

@[simp] theorem State.str_modStr (f : Stream → Stream) : (s.modStr f).str = f s.str := by
  simp [State.str, State.modStr, State.modStreamAt, State.me]

/-- A stream's change leaves every other field of its core alone. -/
@[simp] theorem State.me_modStr_slot (f : Stream → Stream) : (s.modStr f).me.slot = s.me.slot := by
  simp [State.modStr, State.modStreamAt, State.me, Core.modStream]

@[simp] theorem State.my_modStr (f : Stream → Stream) : (s.modStr f).my = s.my := by
  simp [State.my]

@[simp] theorem State.tc_modStr (f : Stream → Stream) : (s.modStr f).tc = s.tc := by
  simp [State.tc]

/-! ## Scalar registers -/

/-- `s0` reads zero whatever was written (R139). -/
@[simp] theorem Core.sGet_zero (x : Core) : x.sGet 0 = 0 := rfl

/-- A write of `s0` does nothing (R139). -/
@[simp] theorem Core.sSet_zero (x : Core) (t : Nat) (m v : Word) : x.sSet t 0 m v = x := rfl

/-- A register reads the bits of the mask from the write, and the others as before. -/
theorem Core.sGet_sSet (x : Core) (t : Nat) {n : Nat} (m v : Word) (h : n ≠ 0) (hw : Map.wf x.s = true) :
    (x.sSet t n m v).sGet n = x.sGet n &&& ~~~m ||| v &&& m := by
  simp [Core.sSet, Core.sGet, h, Map.get_set hw]

/-- A write of one register leaves the others alone. -/
theorem Core.sGet_sSet_ne (x : Core) (t : Nat) {n a : Nat} (m v : Word) (h : a ≠ n) (hw : Map.wf x.s = true) :
    (x.sSet t n m v).sGet a = x.sGet a := by
  by_cases hn : n = 0
  · subst hn; rfl
  · simp [Core.sSet, Core.sGet, hn, Map.get_set hw, h]

/-! ## Pending writes -/

/-- On a cohort's stream a timed write only joins the pending ones of its slot. -/
theorem State.landOn_eq (h : isSup s.cur.1 = false) (c t : Nat) (e : Eff) :
    s.landOn c t e = s.modMy fun x => { x with lands := x.lands ++ [⟨t, s.me.rank, s.cur.2, s.str.landSeq, c, e⟩] } := by
  simp [State.landOn, h]

/-- On a supervisor core a timed write is done at once (R329). -/
theorem State.landOn_sup (h : isSup s.cur.1 = true) (c t : Nat) (e : Eff) : s.landOn c t e = s.apply 0 c e := by
  simp [State.landOn, h]

theorem State.land_eq (h : isSup s.cur.1 = false) (t : Nat) (e : Eff) :
    s.land t e = s.modMy fun x => { x with lands := x.lands ++ [⟨t, s.me.rank, s.cur.2, s.str.landSeq, s.cur.1, e⟩] } :=
  s.landOn_eq h _ t e

end Sys2Proof.Machine
end

