-- ==== Sys2Proof/Laws/Files.lean ====
section
/-! SUPPORT. What the operations over register files and memories do: each keeps the canonical form, a read of the bytes just written gives
them back, and every other byte and every other store keeps its value. -/

namespace Sys2Proof.Machine

/-! ## One core's stores -/

/-- A core's files stay canonical when another core changes. -/
theorem State.filesOk_modCore {s : State} (h : s.filesOk) (c : Nat) (f : Core → Core) (hf : (s.core c).filesOk → (f (s.core c)).filesOk) :
    (s.modCore c f).filesOk := by
  refine ⟨h.1, h.2.1, fun d => ?_⟩
  by_cases hd : d = c
  · subst hd
    have : (s.modCore d f).core d = f (s.core d) := by simp [State.modCore, State.setCore, State.core, Tbl.get_set_self]
    rw [this]
    exact hf (h.2.2 d)
  · have : (s.modCore c f).core d = s.core d := by simp [State.modCore, State.setCore, State.core, Tbl.get_set_ne _ _ _ hd]
    rw [this]
    exact h.2.2 d

/-- Every store of a core is canonical where the files are. -/
theorem State.file_wf {s : State} (h : s.filesOk) (c : Nat) (f : File) : Map.wf (s.file c f) = true := by
  obtain ⟨-, hq, hc⟩ := h
  obtain ⟨-, -, -, hv, ht, hwb, hcb, hsp, hpr, -, -, -⟩ := hc c
  cases f <;> assumption

/-- Writing bytes keeps every file canonical. -/
theorem State.filesOk_setFile {s : State} (h : s.filesOk) (c : Nat) (f : File) (key : Nat) (bs : List Byte) : (s.setFile c f key bs).filesOk := by
  have w := Map.wf_setRun (State.file_wf h c f) (fileBase c f + key) bs
  cases f
  case qs => exact ⟨h.1, w, h.2.2⟩
  all_goals
    refine State.filesOk_modCore h c _ fun hx => ?_
    obtain ⟨h1, h2, h3, h4, h5, h6, h7, h8, h9, h10⟩ := hx
    refine ⟨h1, h2, h3, ?_, ?_, ?_, ?_, ?_, ?_, h10⟩ <;> assumption

/-- The store that `setFile` writes. -/
theorem State.file_setFile_self (s : State) (c : Nat) (f : File) (key : Nat) (bs : List Byte) :
    (s.setFile c f key bs).file c f = Map.setRun (s.file c f) (fileBase c f + key) bs := by
  cases f <;> simp [State.setFile, State.file, State.modCore, State.setCore, State.core, Tbl.get_set_self]

/-- The bytes just written are read back. -/
theorem State.getFile_setFile_self {s : State} (h : s.filesOk) (c : Nat) (f : File) (key : Nat) (bs : List Byte) :
    (s.setFile c f key bs).getFile c f key bs.length = bs := by
  have w := Map.wf_setRun (State.file_wf h c f) (fileBase c f + key) bs
  rw [State.getFile, State.file_setFile_self, Map.getRun_eq w]
  apply List.ext_getElem
  · simp
  · intro i h1 h2
    simp [Map.get_setRun (State.file_wf h c f), h2]

/-- A byte outside those written keeps its value. -/
theorem State.get_setFile_other {s : State} (h : s.filesOk) (c : Nat) (f : File) (key : Nat) (bs : List Byte) (a : Nat)
    (ha : a < fileBase c f + key ∨ fileBase c f + key + bs.length ≤ a) :
    Map.get ((s.setFile c f key bs).file c f) a = Map.get (s.file c f) a := by
  rw [State.file_setFile_self, Map.get_setRun (State.file_wf h c f), if_neg (by omega)]

/-! ## Home memory -/

/-- Cohorts that look at a line do not change what lies in memory. -/
theorem State.dev_devWrites (s : State) (by_ : Option Nat) (key : Nat) (bs : List Byte) : (s.devWrites by_ key bs).dev = Map.setRun s.dev key bs := rfl

/-- A write at a home keeps home memory canonical. -/
theorem State.wf_devWrites {s : State} (h : Memory.wf s.dev = true) (by_ : Option Nat) (key : Nat) (bs : List Byte) :
    Memory.wf (s.devWrites by_ key bs).dev = true := Map.wf_setRun h key bs

/-- A byte of home memory after a write. -/
theorem State.get_devWrites {s : State} (h : Memory.wf s.dev = true) (by_ : Option Nat) (key : Nat) (bs : List Byte) (a : Nat) :
    Map.get (s.devWrites by_ key bs).dev a =
      if key ≤ a ∧ a < key + bs.length then bs.getD (a - key) 0 else Map.get s.dev a := by
  rw [State.dev_devWrites, Map.get_setRun h]

/-- The run of zeroes that a release or a migration leaves keeps the form. -/
theorem Memory.wf_clear {m : Memory} (h : Memory.wf m = true) (a n : Nat) : Memory.wf (Map.clearRun m a n) = true := Map.wf_clearRun h a n

/-- Reset's memories are canonical. -/
theorem State.reset_memories : Memory.wf State.reset.dev = true ∧ Memory.wf State.reset.qs = true := ⟨rfl, rfl⟩

end Sys2Proof.Machine
end

