-- ==== Sys2Proof/Laws/Operations.lean ====
section
/-! SUPPORT. What each shared operation of a meaning can do: the checks and the way on where they pass, what a queue gives and takes, what a
request, an event or a planned act adds, what the caps and the protection engine let through, and the order of moments. A proof cites these and leaves the operations folded. -/

namespace Sys2Proof.Machine

variable (s : State)

/-! ## Checks -/

/-- A pointer either passes R83 and the instruction goes on, or its fault is taken. -/
theorem State.withPtr_cases (p : Word) (n : Nat) (ok : Nat → Bool) (al : Nat) (k : State → State) :
    (s.ptrCheck p n ok al = none ∧ s.withPtr p n ok al k = k s) ∨
      ∃ kd d, s.ptrCheck p n ok al = some (kd, d) ∧ s.withPtr p n ok al k = s.faultPtr kd d p := by
  unfold State.withPtr
  cases h : s.ptrCheck p n ok al with
  | none => exact .inl ⟨rfl, rfl⟩
  | some e => exact .inr ⟨e.1, e.2, rfl, rfl⟩

theorem State.withPtr_ok {p : Word} {n : Nat} {ok : Nat → Bool} {al : Nat} (h : s.ptrCheck p n ok al = none) (k : State → State) :
    s.withPtr p n ok al k = k s := by simp [State.withPtr, h]

theorem State.withPtr_bad {p : Word} {n : Nat} {ok : Nat → Bool} {al : Nat} {kd : FaultKind} {d : Nat}
    (h : s.ptrCheck p n ok al = some (kd, d)) (k : State → State) : s.withPtr p n ok al k = s.faultPtr kd d p := by
  simp [State.withPtr, h]

/-- A handle either passes R89 and the instruction goes on, or its fault is taken. -/
theorem State.withHandle_cases (h : Handle) (wr : Bool) (cu : List Nat) (k : State → State) :
    (s.handleCheck h wr cu = none ∧ s.withHandle h wr cu k = k s) ∨
      ∃ kd d, s.handleCheck h wr cu = some (kd, d) ∧ s.withHandle h wr cu k = s.fault kd d := by
  unfold State.withHandle
  cases e : s.handleCheck h wr cu with
  | none => exact .inl ⟨rfl, rfl⟩
  | some r => exact .inr ⟨r.1, r.2, rfl, rfl⟩

theorem State.withHandle_ok {h : Handle} {wr : Bool} {cu : List Nat} (e : s.handleCheck h wr cu = none) (k : State → State) :
    s.withHandle h wr cu k = k s := by simp [State.withHandle, e]

/-- A privileged word on a cohort's stream is the fault 0x11 (R144, R334). -/
theorem State.privileged_cohort (h : isSup s.cur.1 = false) (f : Sys) (ok : Bool) (k : State → State) :
    s.privileged f ok k = s.fault .illegal 0x11 := by simp [State.privileged, h]

/-- On a supervisor core an accepted word goes on (R334). -/
theorem State.privileged_ok (h : isSup s.cur.1 = true) {f : Sys} (hg : f.stg = 0) (hs : f.scope = 0) (k : State → State) :
    s.privileged f true k = k s := by simp [State.privileged, h, hg, hs]

/-- A fault of a cohort's stream, and the misuse event of a supervisor core (R329). -/
theorem State.fault_cohort (h : isSup s.cur.1 = false) (kd : FaultKind) (d : Nat) : s.fault kd d = s.faultAt s.cur.1 s.cur.2 kd d 0 0 := by
  simp [State.fault, h]

theorem State.fault_sup (h : isSup s.cur.1 = true) (kd : FaultKind) (d : Nat) : s.fault kd d = s.misuse := by simp [State.fault, h]

/-! ## Queues -/

/-- A pop of a ready head goes on with its data and without it (R94). -/
theorem State.pop_ready {q : Nat} {e : QEntry} {es : List QEntry} (h : s.me.queue q = e :: es) (hr : e.ready ≤ s.tc) (k : Entry → State → State) :
    s.pop q k = k e.data (s.modMe fun x => x.setQueue q es) := by
  simp [State.pop, h, Nat.not_lt.mpr hr]

/-- A pop of an empty queue is the deviation 0x04 (R94). -/
theorem State.pop_empty {q : Nat} (h : s.me.queue q = []) (k : Entry → State → State) : s.pop q k = s.fault .deviation 0x04 := by
  simp [State.pop, h]

/-- A pop before the entry's tc is the deviation of its kind (R94). -/
theorem State.pop_early {q : Nat} {e : QEntry} {es : List QEntry} (h : s.me.queue q = e :: es) (hr : s.tc < e.ready) (k : Entry → State → State) :
    s.pop q k = s.fault .deviation (if e.phased then 0x05 else 0x04) := by simp [State.pop, h, hr]

/-! ## Slots, groups and events -/

@[simp] theorem State.group_modGroup (g : Nat) (f : Group → Group) : (s.modGroup g f).group g = f (s.group g) := Tbl.get_set_self _ _ _ _

theorem State.group_modGroup_ne (f : Group → Group) {a g : Nat} (h : a ≠ g) : (s.modGroup g f).group a = s.group a := Tbl.get_set_ne _ _ _ h

@[simp] theorem State.round_modRound (n gs : Nat) (f : Round → Round) :
    ((s.modRound n gs f).slot n).round gs = f ((s.slot n).round gs) := by
  simp [State.modRound, Slot.round, Tbl.get_set_self]

/-- A request joins those of its slot, or stands there already (R35). -/
theorem State.request_cases (n x : Nat) (c : Cause) :
    ((s.request n x c).slot n).reqs = (s.slot n).reqs ∨ ((s.request n x c).slot n).reqs = (s.slot n).reqs ++ [⟨x, c, none⟩] := by
  simp only [State.request, State.slot_modSlot]
  split
  · exact .inl rfl
  · exact .inr rfl

/-- An event queues on its supervisor core, or the core notes that one is lost (R342). -/
theorem State.event_room {c : Nat} (h : (s.core c).sup.events.length < 32) (cause : Nat) (info : Word) :
    ((s.event c cause info).core c).sup = { (s.core c).sup with events := (s.core c).sup.events ++ [(cause, info)] } := by
  simp [State.event, h]

theorem State.event_full {c : Nat} (h : 32 ≤ (s.core c).sup.events.length) (cause : Nat) (info : Word) :
    ((s.event c cause info).core c).sup = { (s.core c).sup with lost := true } := by
  simp [State.event, Nat.not_lt.mpr h]

/-- A planned act joins the timers and nothing else but the count of free values changes. -/
theorem State.later_eq (i : Instr) :
    s.later i = { s with timers := s.timers ++ [(s.clock + 1 + Config.delay s.free, i)], free := s.free + 1 } := rfl

/-! ## Caps -/

/-- A frozen master reaches nothing, and nothing changes (R390). -/
theorem State.capAccess_frozen {m : Nat} (h : s.plat.frozen.contains m = true) (die key n : Nat) (w : Bool) :
    s.capAccess m die key n w = .error s := by
  unfold State.capAccess; rw [if_pos h]

/-- Before a configuration is loaded a master that is not frozen reaches everything (R389). -/
theorem State.capAccess_uncapped {m : Nat} (h : s.plat.frozen.contains m = false) (hc : s.plat.caps = false) (die key n : Nat) (w : Bool) :
    s.capAccess m die key n w = .ok s := by
  unfold State.capAccess; dsimp only; rw [h, hc]; rfl

/-- What a freeze leaves alone: home memory, slots and what is under way (R390). -/
theorem State.freeze_keeps (m cap addr : Nat) :
    (s.freeze m cap addr).dev = s.dev ∧ (s.freeze m cap addr).slots = s.slots ∧ (s.freeze m cap addr).outs = s.outs := by
  unfold State.freeze
  split <;> exact ⟨rfl, rfl, rfl⟩

/-- A cap that sends or counts leaves home memory and slots alone, whether it lets the access through or not (R390). -/
theorem State.capSend_keeps {m die lane pkg addr n : Nat} {t : State}
    (h : s.capSend m die lane pkg addr n = .ok t ∨ s.capSend m die lane pkg addr n = .error t) : t.dev = s.dev ∧ t.slots = s.slots := by
  unfold State.capSend at h
  dsimp only at h
  repeat' split at h
  all_goals rcases h with h | h <;> cases h
  all_goals first | exact ⟨rfl, rfl⟩ | exact ⟨(s.freeze_keeps _ _ _).1, (s.freeze_keeps _ _ _).2.1⟩

/-! ## The protection engine -/

/-- A write that touches no marked sector changes only its bytes (R376). -/
theorem State.engineWrite_plain (n : Nat) (by_ : Option Nat) (runs : List (Nat × List Byte)) (r : FaultRec) :
    s.engineWrite n by_ [] runs r = some (runs.foldl (fun (t : State) w => t.devWrites by_ w.1 w.2) s) := rfl

/-- A log without a free place takes no entry (R377). -/
theorem State.appendRound_full (h : freePlace s.plat.plog (s.plat.rlog.map (·.at_)) = none) (e : LogEntry) : s.appendRound e = none := by
  simp [State.appendRound, h]

/-! ## Moments -/

/-- Outside a wind-up stub the moment of a tc is that tc (R322). -/
theorem Slot.writeTc_plain {x : Slot} (h : x.stubOf = none) (t : Nat) : x.writeTc t = ⟨t, 0⟩ := by simp [Slot.writeTc, h]

/-- Inside one the moments of its tcs lie at the curtain's tc, in the stub's order (R322). -/
theorem Slot.writeTc_stub {x : Slot} {u : Nat} (h : x.stubOf = some u) (t : Nat) : x.writeTc t = ⟨u, t + 1⟩ := by simp [Slot.writeTc, h]

/-- Moments are ordered: none lies before itself, and of two different ones one lies before the other. -/
theorem Moment.not_before_self (a : Moment) : a.before a = false := by simp [Moment.before]

theorem Moment.before_or (a b : Moment) : a = b ∨ a.before b = true ∨ b.before a = true := by
  obtain ⟨ta, sa⟩ := a
  obtain ⟨tb, sb⟩ := b
  simp only [Moment.before, Moment.mk.injEq, Bool.or_eq_true, Bool.and_eq_true, decide_eq_true_eq, beq_iff_eq]
  omega

end Sys2Proof.Machine
end

