-- ==== Sys2Proof/Laws/PerInstr.lean ====
section
/-! SUPPORT. A family of statements made instruction by instruction: the word of every term, well-formed or not, carries an assigned
opcode, and what it decodes to has the term's token bits and IDLE (spec/07_encoding.md R137, R142). -/

namespace Sys2Proof

/-- A word whose opcode names an instruction decodes to it. -/
theorem decodeWord_of (w : Word) (op : BitVec 8) (i : Instr) (ho : opOf w = op) (hd : decodeOp op.toNat w = some i) :
    decodeWord w = .ok i := by
  unfold decodeWord
  rw [ho, hd]

/-- The word of the term decodes, with the term's header. -/
def Laws.WordDecodes.Statement (i : Instr) : Prop :=
  ∀ w, encode i = some w → ∃ j, decodeWord w = .ok j ∧ hdr j = hdr i

theorem Laws.WordDecodes.holdRelease (x0 : Nat) : Laws.WordDecodes.Statement (.holdRelease x0) := by
  intro w hw; cases hw
theorem Laws.WordDecodes.holdWatchdogExpiry (x0 : Nat) : Laws.WordDecodes.Statement (.holdWatchdogExpiry x0) := by
  intro w hw; cases hw
theorem Laws.WordDecodes.curtainDistanceFault (x0 : Nat) : Laws.WordDecodes.Statement (.curtainDistanceFault x0) := by
  intro w hw; cases hw
theorem Laws.WordDecodes.fatalStop (x0 : Nat) : Laws.WordDecodes.Statement (.fatalStop x0) := by
  intro w hw; cases hw
theorem Laws.WordDecodes.phasedReplyArrival (x0 : Nat) : Laws.WordDecodes.Statement (.phasedReplyArrival x0) := by
  intro w hw; cases hw
theorem Laws.WordDecodes.storePerformed (x0 : HomeStore) : Laws.WordDecodes.Statement (.storePerformed x0) := by
  intro w hw; cases hw
theorem Laws.WordDecodes.atomPerformed (x0 : Nat) : Laws.WordDecodes.Statement (.atomPerformed x0) := by
  intro w hw; cases hw
theorem Laws.WordDecodes.updatePacket (x0 : Nat) (x1 : Nat) (x2 : Nat) : Laws.WordDecodes.Statement (.updatePacket x0 x1 x2) := by
  intro w hw; cases hw
theorem Laws.WordDecodes.sealedViewArrival (x0 : Nat) : Laws.WordDecodes.Statement (.sealedViewArrival x0) := by
  intro w hw; cases hw
theorem Laws.WordDecodes.bobjByteCount (x0 : Nat) (x1 : Nat) (x2 : Nat) : Laws.WordDecodes.Statement (.bobjByteCount x0 x1 x2) := by
  intro w hw; cases hw
theorem Laws.WordDecodes.saveComplete (x0 : Nat) : Laws.WordDecodes.Statement (.saveComplete x0) := by
  intro w hw; cases hw
theorem Laws.WordDecodes.restoreComplete (x0 : Nat) : Laws.WordDecodes.Statement (.restoreComplete x0) := by
  intro w hw; cases hw
theorem Laws.WordDecodes.yieldDeadlineExpiry (x0 : Nat) : Laws.WordDecodes.Statement (.yieldDeadlineExpiry x0) := by
  intro w hw; cases hw
theorem Laws.WordDecodes.leaseExpiry (x0 : Nat) (x1 : Nat) : Laws.WordDecodes.Statement (.leaseExpiry x0 x1) := by
  intro w hw; cases hw
theorem Laws.WordDecodes.packageJoinMessage (x0 : Nat) (x1 : Nat) (x2 : Nat) (x3 : Nat) : Laws.WordDecodes.Statement (.packageJoinMessage x0 x1 x2 x3) := by
  intro w hw; cases hw
theorem Laws.WordDecodes.exchangeDeadlineReport (x0 : Nat) (x1 : LateStore) : Laws.WordDecodes.Statement (.exchangeDeadlineReport x0 x1) := by
  intro w hw; cases hw
theorem Laws.WordDecodes.collComplete (x0 : Nat) (x1 : Nat) (x2 : List (List Byte)) : Laws.WordDecodes.Statement (.collComplete x0 x1 x2) := by
  intro w hw; cases hw
theorem Laws.WordDecodes.faultLogAppend (x0 : Nat) (x1 : Nat) : Laws.WordDecodes.Statement (.faultLogAppend x0 x1) := by
  intro w hw; cases hw
theorem Laws.WordDecodes.translationWalk (x0 : Nat) (x1 : Word) (x2 : Bool) : Laws.WordDecodes.Statement (.translationWalk x0 x1 x2) := by
  intro w hw; cases hw
theorem Laws.WordDecodes.migrationLinePull (x0 : Nat) (x1 : Nat) (x2 : Nat) : Laws.WordDecodes.Statement (.migrationLinePull x0 x1 x2) := by
  intro w hw; cases hw
theorem Laws.WordDecodes.migrationLineMove (x0 : Nat) (x1 : Nat) : Laws.WordDecodes.Statement (.migrationLineMove x0 x1) := by
  intro w hw; cases hw
theorem Laws.WordDecodes.uncorrectableError (x0 : UeSite) : Laws.WordDecodes.Statement (.uncorrectableError x0) := by
  intro w hw; cases hw
theorem Laws.WordDecodes.linkLoss (x0 : Nat) (x1 : Nat) : Laws.WordDecodes.Statement (.linkLoss x0 x1) := by
  intro w hw; cases hw
theorem Laws.WordDecodes.capViolation (x0 : Nat) (x1 : Nat) (x2 : Nat) : Laws.WordDecodes.Statement (.capViolation x0 x1 x2) := by
  intro w hw; cases hw
theorem Laws.WordDecodes.supervisorEvent (x0 : Nat) : Laws.WordDecodes.Statement (.supervisorEvent x0) := by
  intro w hw; cases hw
theorem Laws.WordDecodes.hostRequestSubmit (x0 : Nat) (x1 : List Byte) : Laws.WordDecodes.Statement (.hostRequestSubmit x0 x1) := by
  intro w hw; cases hw
theorem Laws.WordDecodes.ttStartAtTime (x0 : Nat) : Laws.WordDecodes.Statement (.ttStartAtTime x0) := by
  intro w hw; cases hw
theorem Laws.WordDecodes.rattle (x0 : Nat) (x1 : BitVec 4) : Laws.WordDecodes.Statement (.rattle x0 x1) := by
  intro w hw; cases hw
theorem Laws.WordDecodes.afenceRetestDone (x0 : Nat) (x1 : Nat) (x2 : Bool) : Laws.WordDecodes.Statement (.afenceRetestDone x0 x1 x2) := by
  intro w hw; cases hw
theorem Laws.WordDecodes.groupConfig (x0 : Nat) (x1 : Nat) (x2 : GroupCfg) : Laws.WordDecodes.Statement (.groupConfig x0 x1 x2) := by
  intro w hw; cases hw
theorem Laws.WordDecodes.delta (x0 : Nat) (x1 : Nat) (x2 : Nat) (x3 : Nat) (x4 : BitVec 512) : Laws.WordDecodes.Statement (.delta x0 x1 x2 x3 x4) := by
  intro w hw; cases hw
theorem Laws.WordDecodes.deltaAck (x0 : GroupHdr) (x1 : DeltaAck) : Laws.WordDecodes.Statement (.deltaAck x0 x1) := by
  intro w hw; cases hw
theorem Laws.WordDecodes.prep (x0 : Nat) (x1 : Nat) (x2 : Nat) : Laws.WordDecodes.Statement (.prep x0 x1 x2) := by
  intro w hw; cases hw
theorem Laws.WordDecodes.dec (x0 : GroupPeer) (x1 : Nat) : Laws.WordDecodes.Statement (.dec x0 x1) := by
  intro w hw; cases hw
theorem Laws.WordDecodes.decAck (x0 : GroupPeer) (x1 : Nat) : Laws.WordDecodes.Statement (.decAck x0 x1) := by
  intro w hw; cases hw
theorem Laws.WordDecodes.out (x0 : GroupHdr) (x1 : Nat) : Laws.WordDecodes.Statement (.out x0 x1) := by
  intro w hw; cases hw
theorem Laws.WordDecodes.abt (x0 : GroupPeer) (x1 : Nat) : Laws.WordDecodes.Statement (.abt x0 x1) := by
  intro w hw; cases hw
theorem Laws.WordDecodes.qry (x0 : Nat) (x1 : Nat) (x2 : Nat) : Laws.WordDecodes.Statement (.qry x0 x1 x2) := by
  intro w hw; cases hw
theorem Laws.WordDecodes.ans (x0 : GroupPeer) (x1 : Nat) (x2 : Bool) : Laws.WordDecodes.Statement (.ans x0 x1 x2) := by
  intro w hw; cases hw
theorem Laws.WordDecodes.memberLost (x0 : Nat) (x1 : Nat) : Laws.WordDecodes.Statement (.memberLost x0 x1) := by
  intro w hw; cases hw
theorem Laws.WordDecodes.memberLinkTimeout (x0 : Nat) (x1 : Nat) : Laws.WordDecodes.Statement (.memberLinkTimeout x0 x1) := by
  intro w hw; cases hw
theorem Laws.WordDecodes.rebuildComplete (x0 : Nat) (x1 : Rebuild) : Laws.WordDecodes.Statement (.rebuildComplete x0 x1) := by
  intro w hw; cases hw
theorem Laws.WordDecodes.protectedReadRepair (x0 : Nat) (x1 : LineSums) : Laws.WordDecodes.Statement (.protectedReadRepair x0 x1) := by
  intro w hw; cases hw
theorem Laws.WordDecodes.eyeMonitorMeasure (x0 : Nat) (x1 : BitVec 24) (x2 : BitVec 8) (x3 : BitVec 8) : Laws.WordDecodes.Statement (.eyeMonitorMeasure x0 x1 x2 x3) := by
  intro w hw; cases hw
theorem Laws.WordDecodes.retrainSliceStart (x0 : Nat) (x1 : BitVec 24) : Laws.WordDecodes.Statement (.retrainSliceStart x0 x1) := by
  intro w hw; cases hw
theorem Laws.WordDecodes.retrainSliceEnd (x0 : Nat) (x1 : BitVec 24) : Laws.WordDecodes.Statement (.retrainSliceEnd x0 x1) := by
  intro w hw; cases hw
theorem Laws.WordDecodes.thermalSensorRead (x0 : Nat) (x1 : List Int) (x2 : Int) : Laws.WordDecodes.Statement (.thermalSensorRead x0 x1 x2) := by
  intro w hw; cases hw
theorem Laws.WordDecodes.zoneChange (x0 : Nat) : Laws.WordDecodes.Statement (.zoneChange x0) := by
  intro w hw; cases hw
theorem Laws.WordDecodes.droopDetect (x0 : Nat) : Laws.WordDecodes.Statement (.droopDetect x0) := by
  intro w hw; cases hw
theorem Laws.WordDecodes.droopClear (x0 : Nat) : Laws.WordDecodes.Statement (.droopClear x0) := by
  intro w hw; cases hw
theorem Laws.WordDecodes.inrushRequest (x0 : Inrush) : Laws.WordDecodes.Statement (.inrushRequest x0) := by
  intro w hw; cases hw
theorem Laws.WordDecodes.inrushComplete (x0 : Inrush) : Laws.WordDecodes.Statement (.inrushComplete x0) := by
  intro w hw; cases hw
theorem Laws.WordDecodes.frequencyChangeDone (x0 : Nat) (x1 : Nat) : Laws.WordDecodes.Statement (.frequencyChangeDone x0 x1) := by
  intro w hw; cases hw
theorem Laws.WordDecodes.privRegisterWrite (x0 : Nat) (x1 : Nat) (x2 : Nat) (x3 : Word) : Laws.WordDecodes.Statement (.privRegisterWrite x0 x1 x2 x3) := by
  intro w hw; cases hw
theorem Laws.WordDecodes.curDistWrite (x0 : Nat) (x1 : Word) : Laws.WordDecodes.Statement (.curDistWrite x0 x1) := by
  intro w hw; cases hw
theorem Laws.WordDecodes.polite (x0 : Nat) (x1 : Bool) : Laws.WordDecodes.Statement (.polite x0 x1) := by
  intro w hw; cases hw
theorem Laws.WordDecodes.kill (x0 : Nat) : Laws.WordDecodes.Statement (.kill x0) := by
  intro w hw; cases hw
theorem Laws.WordDecodes.ceilWrite (x0 : Nat) (x1 : Nat) (x2 : Word) : Laws.WordDecodes.Statement (.ceilWrite x0 x1 x2) := by
  intro w hw; cases hw
theorem Laws.WordDecodes.xlrespRetry (x0 : Nat) (x1 : Nat) : Laws.WordDecodes.Statement (.xlrespRetry x0 x1) := by
  intro w hw; cases hw
theorem Laws.WordDecodes.xlrespFail (x0 : Nat) (x1 : Nat) : Laws.WordDecodes.Statement (.xlrespFail x0 x1) := by
  intro w hw; cases hw
theorem Laws.WordDecodes.migctlStart (x0 : Nat) (x1 : Nat) (x2 : Word) : Laws.WordDecodes.Statement (.migctlStart x0 x1 x2) := by
  intro w hw; cases hw
theorem Laws.WordDecodes.eyecmdRetrain (x0 : Nat) : Laws.WordDecodes.Statement (.eyecmdRetrain x0) := by
  intro w hw; cases hw
theorem Laws.WordDecodes.eyecmdRepair (x0 : Nat) : Laws.WordDecodes.Statement (.eyecmdRepair x0) := by
  intro w hw; cases hw
theorem Laws.WordDecodes.eyecmdClear (x0 : Nat) : Laws.WordDecodes.Statement (.eyecmdClear x0) := by
  intro w hw; cases hw
theorem Laws.WordDecodes.thrmWrite (x0 : Nat) (x1 : Word) : Laws.WordDecodes.Statement (.thrmWrite x0 x1) := by
  intro w hw; cases hw
theorem Laws.WordDecodes.afenceClear (x0 : Nat) (x1 : Nat) (x2 : Word) : Laws.WordDecodes.Statement (.afenceClear x0 x1 x2) := by
  intro w hw; cases hw
theorem Laws.WordDecodes.gcfgEnable (x0 : Nat) (x1 : Nat) (x2 : Word) : Laws.WordDecodes.Statement (.gcfgEnable x0 x1 x2) := by
  intro w hw; cases hw
theorem Laws.WordDecodes.gcfgDisable (x0 : Nat) (x1 : Nat) (x2 : Word) : Laws.WordDecodes.Statement (.gcfgDisable x0 x1 x2) := by
  intro w hw; cases hw
theorem Laws.WordDecodes.add (h : Hdr) (f : Rrr) : Laws.WordDecodes.Statement (.add h f) := by
  intro w hw; obtain rfl := Option.some.inj hw
  exact ⟨_, decodeWord_of _ 0x01 _ (opOf_rrrWord ..) (decodeOp_01 _), (hdrOf_rrrWord ..).trans rfl⟩
theorem Laws.WordDecodes.sub (h : Hdr) (f : Rrr) : Laws.WordDecodes.Statement (.sub h f) := by
  intro w hw; obtain rfl := Option.some.inj hw
  exact ⟨_, decodeWord_of _ 0x02 _ (opOf_rrrWord ..) (decodeOp_02 _), (hdrOf_rrrWord ..).trans rfl⟩
theorem Laws.WordDecodes.mul (h : Hdr) (f : Rrr) : Laws.WordDecodes.Statement (.mul h f) := by
  intro w hw; obtain rfl := Option.some.inj hw
  exact ⟨_, decodeWord_of _ 0x03 _ (opOf_rrrWord ..) (decodeOp_03 _), (hdrOf_rrrWord ..).trans rfl⟩
theorem Laws.WordDecodes.mulh (h : Hdr) (f : Rrr) : Laws.WordDecodes.Statement (.mulh h f) := by
  intro w hw; obtain rfl := Option.some.inj hw
  exact ⟨_, decodeWord_of _ 0x04 _ (opOf_rrrWord ..) (decodeOp_04 _), (hdrOf_rrrWord ..).trans rfl⟩
theorem Laws.WordDecodes.div (h : Hdr) (f : Rrr) : Laws.WordDecodes.Statement (.div h f) := by
  intro w hw; obtain rfl := Option.some.inj hw
  exact ⟨_, decodeWord_of _ 0x05 _ (opOf_rrrWord ..) (decodeOp_05 _), (hdrOf_rrrWord ..).trans rfl⟩
theorem Laws.WordDecodes.rem (h : Hdr) (f : Rrr) : Laws.WordDecodes.Statement (.rem h f) := by
  intro w hw; obtain rfl := Option.some.inj hw
  exact ⟨_, decodeWord_of _ 0x06 _ (opOf_rrrWord ..) (decodeOp_06 _), (hdrOf_rrrWord ..).trans rfl⟩
theorem Laws.WordDecodes.and (h : Hdr) (f : Rrr) : Laws.WordDecodes.Statement (.and h f) := by
  intro w hw; obtain rfl := Option.some.inj hw
  exact ⟨_, decodeWord_of _ 0x07 _ (opOf_rrrWord ..) (decodeOp_07 _), (hdrOf_rrrWord ..).trans rfl⟩
theorem Laws.WordDecodes.or (h : Hdr) (f : Rrr) : Laws.WordDecodes.Statement (.or h f) := by
  intro w hw; obtain rfl := Option.some.inj hw
  exact ⟨_, decodeWord_of _ 0x08 _ (opOf_rrrWord ..) (decodeOp_08 _), (hdrOf_rrrWord ..).trans rfl⟩
theorem Laws.WordDecodes.xor (h : Hdr) (f : Rrr) : Laws.WordDecodes.Statement (.xor h f) := by
  intro w hw; obtain rfl := Option.some.inj hw
  exact ⟨_, decodeWord_of _ 0x09 _ (opOf_rrrWord ..) (decodeOp_09 _), (hdrOf_rrrWord ..).trans rfl⟩
theorem Laws.WordDecodes.andn (h : Hdr) (f : Rrr) : Laws.WordDecodes.Statement (.andn h f) := by
  intro w hw; obtain rfl := Option.some.inj hw
  exact ⟨_, decodeWord_of _ 0x0A _ (opOf_rrrWord ..) (decodeOp_0A _), (hdrOf_rrrWord ..).trans rfl⟩
theorem Laws.WordDecodes.shl (h : Hdr) (f : Rrr) : Laws.WordDecodes.Statement (.shl h f) := by
  intro w hw; obtain rfl := Option.some.inj hw
  exact ⟨_, decodeWord_of _ 0x0B _ (opOf_rrrWord ..) (decodeOp_0B _), (hdrOf_rrrWord ..).trans rfl⟩
theorem Laws.WordDecodes.shr (h : Hdr) (f : Rrr) : Laws.WordDecodes.Statement (.shr h f) := by
  intro w hw; obtain rfl := Option.some.inj hw
  exact ⟨_, decodeWord_of _ 0x0C _ (opOf_rrrWord ..) (decodeOp_0C _), (hdrOf_rrrWord ..).trans rfl⟩
theorem Laws.WordDecodes.sar (h : Hdr) (f : Rrr) : Laws.WordDecodes.Statement (.sar h f) := by
  intro w hw; obtain rfl := Option.some.inj hw
  exact ⟨_, decodeWord_of _ 0x0D _ (opOf_rrrWord ..) (decodeOp_0D _), (hdrOf_rrrWord ..).trans rfl⟩
theorem Laws.WordDecodes.min (h : Hdr) (f : Rrr) : Laws.WordDecodes.Statement (.min h f) := by
  intro w hw; obtain rfl := Option.some.inj hw
  exact ⟨_, decodeWord_of _ 0x0E _ (opOf_rrrWord ..) (decodeOp_0E _), (hdrOf_rrrWord ..).trans rfl⟩
theorem Laws.WordDecodes.max (h : Hdr) (f : Rrr) : Laws.WordDecodes.Statement (.max h f) := by
  intro w hw; obtain rfl := Option.some.inj hw
  exact ⟨_, decodeWord_of _ 0x0F _ (opOf_rrrWord ..) (decodeOp_0F _), (hdrOf_rrrWord ..).trans rfl⟩
theorem Laws.WordDecodes.cmp (h : Hdr) (f : Rrr) : Laws.WordDecodes.Statement (.cmp h f) := by
  intro w hw; obtain rfl := Option.some.inj hw
  exact ⟨_, decodeWord_of _ 0x10 _ (opOf_rrrWord ..) (decodeOp_10 _), (hdrOf_rrrWord ..).trans rfl⟩
theorem Laws.WordDecodes.sel (h : Hdr) (f : Rrr) : Laws.WordDecodes.Statement (.sel h f) := by
  intro w hw; obtain rfl := Option.some.inj hw
  exact ⟨_, decodeWord_of _ 0x11 _ (opOf_rrrWord ..) (decodeOp_11 _), (hdrOf_rrrWord ..).trans rfl⟩
theorem Laws.WordDecodes.clz (h : Hdr) (f : Rrr) : Laws.WordDecodes.Statement (.clz h f) := by
  intro w hw; obtain rfl := Option.some.inj hw
  exact ⟨_, decodeWord_of _ 0x12 _ (opOf_rrrWord ..) (decodeOp_12 _), (hdrOf_rrrWord ..).trans rfl⟩
theorem Laws.WordDecodes.popc (h : Hdr) (f : Rrr) : Laws.WordDecodes.Statement (.popc h f) := by
  intro w hw; obtain rfl := Option.some.inj hw
  exact ⟨_, decodeWord_of _ 0x13 _ (opOf_rrrWord ..) (decodeOp_13 _), (hdrOf_rrrWord ..).trans rfl⟩
theorem Laws.WordDecodes.addi (h : Hdr) (f : Rri) : Laws.WordDecodes.Statement (.addi h f) := by
  intro w hw; obtain rfl := Option.some.inj hw
  exact ⟨_, decodeWord_of _ 0x14 _ (opOf_rriWord ..) (decodeOp_14 _), (hdrOf_rriWord ..).trans rfl⟩
theorem Laws.WordDecodes.li (h : Hdr) (f : Rriw) : Laws.WordDecodes.Statement (.li h f) := by
  intro w hw; obtain rfl := Option.some.inj hw
  exact ⟨_, decodeWord_of _ 0x15 _ (opOf_rriwWord ..) (decodeOp_15 _), (hdrOf_rriwWord ..).trans rfl⟩
theorem Laws.WordDecodes.lih (h : Hdr) (f : Rriw) : Laws.WordDecodes.Statement (.lih h f) := by
  intro w hw; obtain rfl := Option.some.inj hw
  exact ⟨_, decodeWord_of _ 0x16 _ (opOf_rriwWord ..) (decodeOp_16 _), (hdrOf_rriwWord ..).trans rfl⟩
theorem Laws.WordDecodes.ext (h : Hdr) (f : Rri) : Laws.WordDecodes.Statement (.ext h f) := by
  intro w hw; obtain rfl := Option.some.inj hw
  exact ⟨_, decodeWord_of _ 0x17 _ (opOf_rriWord ..) (decodeOp_17 _), (hdrOf_rriWord ..).trans rfl⟩
theorem Laws.WordDecodes.ins (h : Hdr) (f : Rri) : Laws.WordDecodes.Statement (.ins h f) := by
  intro w hw; obtain rfl := Option.some.inj hw
  exact ⟨_, decodeWord_of _ 0x18 _ (opOf_rriWord ..) (decodeOp_18 _), (hdrOf_rriWord ..).trans rfl⟩
theorem Laws.WordDecodes.jmp (h : Hdr) (f : Jmp) : Laws.WordDecodes.Statement (.jmp h f) := by
  intro w hw; obtain rfl := Option.some.inj hw
  exact ⟨_, decodeWord_of _ 0x20 _ (opOf_jmpWord ..) (decodeOp_20 _), (hdrOf_jmpWord ..).trans rfl⟩
theorem Laws.WordDecodes.call (h : Hdr) (f : Jmp) : Laws.WordDecodes.Statement (.call h f) := by
  intro w hw; obtain rfl := Option.some.inj hw
  exact ⟨_, decodeWord_of _ 0x21 _ (opOf_jmpWord ..) (decodeOp_21 _), (hdrOf_jmpWord ..).trans rfl⟩
theorem Laws.WordDecodes.ret (h : Hdr) (f : Ret) : Laws.WordDecodes.Statement (.ret h f) := by
  intro w hw; obtain rfl := Option.some.inj hw
  exact ⟨_, decodeWord_of _ 0x22 _ (opOf_retWord ..) (decodeOp_22 _), (hdrOf_retWord ..).trans rfl⟩
theorem Laws.WordDecodes.loop (h : Hdr) (f : Loop) : Laws.WordDecodes.Statement (.loop h f) := by
  intro w hw; obtain rfl := Option.some.inj hw
  exact ⟨_, decodeWord_of _ 0x23 _ (opOf_loopWord ..) (decodeOp_23 _), (hdrOf_loopWord ..).trans rfl⟩
theorem Laws.WordDecodes.lring (h : Hdr) (f : Lring) : Laws.WordDecodes.Statement (.lring h f) := by
  intro w hw; obtain rfl := Option.some.inj hw
  exact ⟨_, decodeWord_of _ 0x24 _ (opOf_lringWord ..) (decodeOp_24 _), (hdrOf_lringWord ..).trans rfl⟩
theorem Laws.WordDecodes.sptest (h : Hdr) (f : Rrr) : Laws.WordDecodes.Statement (.sptest h f) := by
  intro w hw; obtain rfl := Option.some.inj hw
  exact ⟨_, decodeWord_of _ 0x28 _ (opOf_rrrWord ..) (decodeOp_28 _), (hdrOf_rrrWord ..).trans rfl⟩
theorem Laws.WordDecodes.spcastS (h : Hdr) (f : Rrr) : Laws.WordDecodes.Statement (.spcastS h f) := by
  intro w hw; obtain rfl := Option.some.inj hw
  have d := decodeOp_29 (rrrWord h 0x29 f)
  dsimp only at d; repeat' split at d
  all_goals exact ⟨_, decodeWord_of _ 0x29 _ (opOf_rrrWord ..) d, (hdrOf_rrrWord ..).trans rfl⟩
theorem Laws.WordDecodes.spcastG (h : Hdr) (f : Rrr) : Laws.WordDecodes.Statement (.spcastG h f) := by
  intro w hw; obtain rfl := Option.some.inj hw
  have d := decodeOp_29 (rrrWord h 0x29 f)
  dsimp only at d; repeat' split at d
  all_goals exact ⟨_, decodeWord_of _ 0x29 _ (opOf_rrrWord ..) d, (hdrOf_rrrWord ..).trans rfl⟩
theorem Laws.WordDecodes.padd (h : Hdr) (f : Rrr) : Laws.WordDecodes.Statement (.padd h f) := by
  intro w hw; obtain rfl := Option.some.inj hw
  exact ⟨_, decodeWord_of _ 0x2A _ (opOf_rrrWord ..) (decodeOp_2A _), (hdrOf_rrrWord ..).trans rfl⟩
theorem Laws.WordDecodes.hld (h : Hdr) (f : Mem) : Laws.WordDecodes.Statement (.hld h f) := by
  intro w hw; obtain rfl := Option.some.inj hw
  exact ⟨_, decodeWord_of _ 0x30 _ (opOf_memWord ..) (decodeOp_30 _), (hdrOf_memWord ..).trans rfl⟩
theorem Laws.WordDecodes.hst (h : Hdr) (f : Mem) : Laws.WordDecodes.Statement (.hst h f) := by
  intro w hw; obtain rfl := Option.some.inj hw
  exact ⟨_, decodeWord_of _ 0x31 _ (opOf_memWord ..) (decodeOp_31 _), (hdrOf_memWord ..).trans rfl⟩
theorem Laws.WordDecodes.hset (h : Hdr) (f : Rrr) : Laws.WordDecodes.Statement (.hset h f) := by
  intro w hw; obtain rfl := Option.some.inj hw
  exact ⟨_, decodeWord_of _ 0x32 _ (opOf_rrrWord ..) (decodeOp_32 _), (hdrOf_rrrWord ..).trans rfl⟩
theorem Laws.WordDecodes.hget (h : Hdr) (f : Rrr) : Laws.WordDecodes.Statement (.hget h f) := by
  intro w hw; obtain rfl := Option.some.inj hw
  exact ⟨_, decodeWord_of _ 0x33 _ (opOf_rrrWord ..) (decodeOp_33 _), (hdrOf_rrrWord ..).trans rfl⟩
theorem Laws.WordDecodes.hstat (h : Hdr) (f : Rri) : Laws.WordDecodes.Statement (.hstat h f) := by
  intro w hw; obtain rfl := Option.some.inj hw
  have d := decodeOp_34 (rriWord h 0x34 f)
  dsimp only at d; repeat' split at d
  all_goals exact ⟨_, decodeWord_of _ 0x34 _ (opOf_rriWord ..) d, (hdrOf_rriWord ..).trans rfl⟩
theorem Laws.WordDecodes.hstatOff (h : Hdr) (f : Rri) : Laws.WordDecodes.Statement (.hstatOff h f) := by
  intro w hw; obtain rfl := Option.some.inj hw
  have d := decodeOp_34 (rriWord h 0x34 f)
  dsimp only at d; repeat' split at d
  all_goals exact ⟨_, decodeWord_of _ 0x34 _ (opOf_rriWord ..) d, (hdrOf_rriWord ..).trans rfl⟩
theorem Laws.WordDecodes.hcpy (h : Hdr) (f : Rrr) : Laws.WordDecodes.Statement (.hcpy h f) := by
  intro w hw; obtain rfl := Option.some.inj hw
  exact ⟨_, decodeWord_of _ 0x35 _ (opOf_rrrWord ..) (decodeOp_35 _), (hdrOf_rrrWord ..).trans rfl⟩
theorem Laws.WordDecodes.lds (h : Hdr) (f : Mem) : Laws.WordDecodes.Statement (.lds h f) := by
  intro w hw; obtain rfl := Option.some.inj hw
  exact ⟨_, decodeWord_of _ 0x38 _ (opOf_memWord ..) (decodeOp_38 _), (hdrOf_memWord ..).trans rfl⟩
theorem Laws.WordDecodes.sts (h : Hdr) (f : Mem) : Laws.WordDecodes.Statement (.sts h f) := by
  intro w hw; obtain rfl := Option.some.inj hw
  exact ⟨_, decodeWord_of _ 0x39 _ (opOf_memWord ..) (decodeOp_39 _), (hdrOf_memWord ..).trans rfl⟩
theorem Laws.WordDecodes.fpush (h : Hdr) (f : Rrr) : Laws.WordDecodes.Statement (.fpush h f) := by
  intro w hw; obtain rfl := Option.some.inj hw
  exact ⟨_, decodeWord_of _ 0x3A _ (opOf_rrrWord ..) (decodeOp_3A _), (hdrOf_rrrWord ..).trans rfl⟩
theorem Laws.WordDecodes.rdctr (h : Hdr) (f : Rri) : Laws.WordDecodes.Statement (.rdctr h f) := by
  intro w hw; obtain rfl := Option.some.inj hw
  exact ⟨_, decodeWord_of _ 0x3C _ (opOf_rriWord ..) (decodeOp_3C _), (hdrOf_rriWord ..).trans rfl⟩
theorem Laws.WordDecodes.csrr (h : Hdr) (f : Rri) : Laws.WordDecodes.Statement (.csrr h f) := by
  intro w hw; obtain rfl := Option.some.inj hw
  exact ⟨_, decodeWord_of _ 0x3D _ (opOf_rriWord ..) (decodeOp_3D _), (hdrOf_rriWord ..).trans rfl⟩
theorem Laws.WordDecodes.csrw (h : Hdr) (f : Rri) : Laws.WordDecodes.Statement (.csrw h f) := by
  intro w hw; obtain rfl := Option.some.inj hw
  have d := decodeOp_3E (rriWord h 0x3E f)
  dsimp only at d; repeat' split at d
  all_goals exact ⟨_, decodeWord_of _ 0x3E _ (opOf_rriWord ..) d, (hdrOf_rriWord ..).trans rfl⟩
theorem Laws.WordDecodes.flagsClear (h : Hdr) (f : Rri) : Laws.WordDecodes.Statement (.flagsClear h f) := by
  intro w hw; obtain rfl := Option.some.inj hw
  have d := decodeOp_3E (rriWord h 0x3E f)
  dsimp only at d; repeat' split at d
  all_goals exact ⟨_, decodeWord_of _ 0x3E _ (opOf_rriWord ..) d, (hdrOf_rriWord ..).trans rfl⟩
theorem Laws.WordDecodes.selWrite (h : Hdr) (f : Rri) : Laws.WordDecodes.Statement (.selWrite h f) := by
  intro w hw; obtain rfl := Option.some.inj hw
  have d := decodeOp_3E (rriWord h 0x3E f)
  dsimp only at d; repeat' split at d
  all_goals exact ⟨_, decodeWord_of _ 0x3E _ (opOf_rriWord ..) d, (hdrOf_rriWord ..).trans rfl⟩
theorem Laws.WordDecodes.ldQ (h : Hdr) (f : Mem) : Laws.WordDecodes.Statement (.ldQ h f) := by
  intro w hw; obtain rfl := Option.some.inj hw
  exact ⟨_, decodeWord_of _ 0x40 _ (opOf_memWord ..) (decodeOp_40 _), (hdrOf_memWord ..).trans rfl⟩
theorem Laws.WordDecodes.ldV (h : Hdr) (f : Mem) : Laws.WordDecodes.Statement (.ldV h f) := by
  intro w hw; obtain rfl := Option.some.inj hw
  exact ⟨_, decodeWord_of _ 0x41 _ (opOf_memWord ..) (decodeOp_41 _), (hdrOf_memWord ..).trans rfl⟩
theorem Laws.WordDecodes.ldT (h : Hdr) (f : Mem) : Laws.WordDecodes.Statement (.ldT h f) := by
  intro w hw; obtain rfl := Option.some.inj hw
  exact ⟨_, decodeWord_of _ 0x42 _ (opOf_memWord ..) (decodeOp_42 _), (hdrOf_memWord ..).trans rfl⟩
theorem Laws.WordDecodes.ldTr (h : Hdr) (f : Mem) : Laws.WordDecodes.Statement (.ldTr h f) := by
  intro w hw; obtain rfl := Option.some.inj hw
  exact ⟨_, decodeWord_of _ 0x43 _ (opOf_memWord ..) (decodeOp_43 _), (hdrOf_memWord ..).trans rfl⟩
theorem Laws.WordDecodes.ldG (h : Hdr) (f : Mem) : Laws.WordDecodes.Statement (.ldG h f) := by
  intro w hw; obtain rfl := Option.some.inj hw
  exact ⟨_, decodeWord_of _ 0x44 _ (opOf_memWord ..) (decodeOp_44 _), (hdrOf_memWord ..).trans rfl⟩
theorem Laws.WordDecodes.ldW (h : Hdr) (f : Mem) : Laws.WordDecodes.Statement (.ldW h f) := by
  intro w hw; obtain rfl := Option.some.inj hw
  exact ⟨_, decodeWord_of _ 0x45 _ (opOf_memWord ..) (decodeOp_45 _), (hdrOf_memWord ..).trans rfl⟩
theorem Laws.WordDecodes.ldCb (h : Hdr) (f : Mem) : Laws.WordDecodes.Statement (.ldCb h f) := by
  intro w hw; obtain rfl := Option.some.inj hw
  exact ⟨_, decodeWord_of _ 0x46 _ (opOf_memWord ..) (decodeOp_46 _), (hdrOf_memWord ..).trans rfl⟩
theorem Laws.WordDecodes.ldBc (h : Hdr) (f : Mem) : Laws.WordDecodes.Statement (.ldBc h f) := by
  intro w hw; obtain rfl := Option.some.inj hw
  exact ⟨_, decodeWord_of _ 0x47 _ (opOf_memWord ..) (decodeOp_47 _), (hdrOf_memWord ..).trans rfl⟩
theorem Laws.WordDecodes.stV (h : Hdr) (f : Mem) : Laws.WordDecodes.Statement (.stV h f) := by
  intro w hw; obtain rfl := Option.some.inj hw
  exact ⟨_, decodeWord_of _ 0x60 _ (opOf_memWord ..) (decodeOp_60 _), (hdrOf_memWord ..).trans rfl⟩
theorem Laws.WordDecodes.stQ (h : Hdr) (f : Mem) : Laws.WordDecodes.Statement (.stQ h f) := by
  intro w hw; obtain rfl := Option.some.inj hw
  exact ⟨_, decodeWord_of _ 0x61 _ (opOf_memWord ..) (decodeOp_61 _), (hdrOf_memWord ..).trans rfl⟩
theorem Laws.WordDecodes.stT (h : Hdr) (f : Mem) : Laws.WordDecodes.Statement (.stT h f) := by
  intro w hw; obtain rfl := Option.some.inj hw
  exact ⟨_, decodeWord_of _ 0x62 _ (opOf_memWord ..) (decodeOp_62 _), (hdrOf_memWord ..).trans rfl⟩
theorem Laws.WordDecodes.stS (h : Hdr) (f : Mem) : Laws.WordDecodes.Statement (.stS h f) := by
  intro w hw; obtain rfl := Option.some.inj hw
  exact ⟨_, decodeWord_of _ 0x63 _ (opOf_memWord ..) (decodeOp_63 _), (hdrOf_memWord ..).trans rfl⟩
theorem Laws.WordDecodes.stQnt (h : Hdr) (f : Mem) : Laws.WordDecodes.Statement (.stQnt h f) := by
  intro w hw; obtain rfl := Option.some.inj hw
  exact ⟨_, decodeWord_of _ 0x64 _ (opOf_memWord ..) (decodeOp_64 _), (hdrOf_memWord ..).trans rfl⟩
theorem Laws.WordDecodes.stUpd (h : Hdr) (f : Mem) : Laws.WordDecodes.Statement (.stUpd h f) := by
  intro w hw; obtain rfl := Option.some.inj hw
  exact ⟨_, decodeWord_of _ 0x65 _ (opOf_memWord ..) (decodeOp_65 _), (hdrOf_memWord ..).trans rfl⟩
theorem Laws.WordDecodes.stX (h : Hdr) (f : Mem) : Laws.WordDecodes.Statement (.stX h f) := by
  intro w hw; obtain rfl := Option.some.inj hw
  exact ⟨_, decodeWord_of _ 0x66 _ (opOf_memWord ..) (decodeOp_66 _), (hdrOf_memWord ..).trans rfl⟩
theorem Laws.WordDecodes.stMc (h : Hdr) (f : Mem) : Laws.WordDecodes.Statement (.stMc h f) := by
  intro w hw; obtain rfl := Option.some.inj hw
  exact ⟨_, decodeWord_of _ 0x67 _ (opOf_memWord ..) (decodeOp_67 _), (hdrOf_memWord ..).trans rfl⟩
theorem Laws.WordDecodes.atom (h : Hdr) (f : Mem) : Laws.WordDecodes.Statement (.atom h f) := by
  intro w hw; obtain rfl := Option.some.inj hw
  exact ⟨_, decodeWord_of _ 0x68 _ (opOf_memWord ..) (decodeOp_68 _), (hdrOf_memWord ..).trans rfl⟩
theorem Laws.WordDecodes.bobjArm (h : Hdr) (f : Mem) : Laws.WordDecodes.Statement (.bobjArm h f) := by
  intro w hw; obtain rfl := Option.some.inj hw
  exact ⟨_, decodeWord_of _ 0x69 _ (opOf_memWord ..) (decodeOp_69 _), (hdrOf_memWord ..).trans rfl⟩
theorem Laws.WordDecodes.bobjWait (h : Hdr) (f : Mem) : Laws.WordDecodes.Statement (.bobjWait h f) := by
  intro w hw; obtain rfl := Option.some.inj hw
  exact ⟨_, decodeWord_of _ 0x6A _ (opOf_memWord ..) (decodeOp_6A _), (hdrOf_memWord ..).trans rfl⟩
theorem Laws.WordDecodes.vadd (h : Hdr) (f : Rrr) : Laws.WordDecodes.Statement (.vadd h f) := by
  intro w hw; obtain rfl := Option.some.inj hw
  exact ⟨_, decodeWord_of _ 0x80 _ (opOf_rrrWord ..) (decodeOp_80 _), (hdrOf_rrrWord ..).trans rfl⟩
theorem Laws.WordDecodes.vsub (h : Hdr) (f : Rrr) : Laws.WordDecodes.Statement (.vsub h f) := by
  intro w hw; obtain rfl := Option.some.inj hw
  exact ⟨_, decodeWord_of _ 0x81 _ (opOf_rrrWord ..) (decodeOp_81 _), (hdrOf_rrrWord ..).trans rfl⟩
theorem Laws.WordDecodes.vmul (h : Hdr) (f : Rrr) : Laws.WordDecodes.Statement (.vmul h f) := by
  intro w hw; obtain rfl := Option.some.inj hw
  exact ⟨_, decodeWord_of _ 0x82 _ (opOf_rrrWord ..) (decodeOp_82 _), (hdrOf_rrrWord ..).trans rfl⟩
theorem Laws.WordDecodes.vfma (h : Hdr) (f : Rrr) : Laws.WordDecodes.Statement (.vfma h f) := by
  intro w hw; obtain rfl := Option.some.inj hw
  exact ⟨_, decodeWord_of _ 0x83 _ (opOf_rrrWord ..) (decodeOp_83 _), (hdrOf_rrrWord ..).trans rfl⟩
theorem Laws.WordDecodes.vmin (h : Hdr) (f : Rrr) : Laws.WordDecodes.Statement (.vmin h f) := by
  intro w hw; obtain rfl := Option.some.inj hw
  exact ⟨_, decodeWord_of _ 0x84 _ (opOf_rrrWord ..) (decodeOp_84 _), (hdrOf_rrrWord ..).trans rfl⟩
theorem Laws.WordDecodes.vmax (h : Hdr) (f : Rrr) : Laws.WordDecodes.Statement (.vmax h f) := by
  intro w hw; obtain rfl := Option.some.inj hw
  exact ⟨_, decodeWord_of _ 0x85 _ (opOf_rrrWord ..) (decodeOp_85 _), (hdrOf_rrrWord ..).trans rfl⟩
theorem Laws.WordDecodes.vabs (h : Hdr) (f : Rrr) : Laws.WordDecodes.Statement (.vabs h f) := by
  intro w hw; obtain rfl := Option.some.inj hw
  exact ⟨_, decodeWord_of _ 0x86 _ (opOf_rrrWord ..) (decodeOp_86 _), (hdrOf_rrrWord ..).trans rfl⟩
theorem Laws.WordDecodes.vneg (h : Hdr) (f : Rrr) : Laws.WordDecodes.Statement (.vneg h f) := by
  intro w hw; obtain rfl := Option.some.inj hw
  exact ⟨_, decodeWord_of _ 0x87 _ (opOf_rrrWord ..) (decodeOp_87 _), (hdrOf_rrrWord ..).trans rfl⟩
theorem Laws.WordDecodes.vcmp (h : Hdr) (f : Rrr) : Laws.WordDecodes.Statement (.vcmp h f) := by
  intro w hw; obtain rfl := Option.some.inj hw
  exact ⟨_, decodeWord_of _ 0x88 _ (opOf_rrrWord ..) (decodeOp_88 _), (hdrOf_rrrWord ..).trans rfl⟩
theorem Laws.WordDecodes.vsel (h : Hdr) (f : Rrr) : Laws.WordDecodes.Statement (.vsel h f) := by
  intro w hw; obtain rfl := Option.some.inj hw
  exact ⟨_, decodeWord_of _ 0x89 _ (opOf_rrrWord ..) (decodeOp_89 _), (hdrOf_rrrWord ..).trans rfl⟩
theorem Laws.WordDecodes.vcvt (h : Hdr) (f : Rrr) : Laws.WordDecodes.Statement (.vcvt h f) := by
  intro w hw; obtain rfl := Option.some.inj hw
  exact ⟨_, decodeWord_of _ 0x8A _ (opOf_rrrWord ..) (decodeOp_8A _), (hdrOf_rrrWord ..).trans rfl⟩
theorem Laws.WordDecodes.vqnt (h : Hdr) (f : Rrr) : Laws.WordDecodes.Statement (.vqnt h f) := by
  intro w hw; obtain rfl := Option.some.inj hw
  exact ⟨_, decodeWord_of _ 0x8B _ (opOf_rrrWord ..) (decodeOp_8B _), (hdrOf_rrrWord ..).trans rfl⟩
theorem Laws.WordDecodes.kop (h : Hdr) (f : Rrr) : Laws.WordDecodes.Statement (.kop h f) := by
  intro w hw; obtain rfl := Option.some.inj hw
  exact ⟨_, decodeWord_of _ 0x8D _ (opOf_rrrWord ..) (decodeOp_8D _), (hdrOf_rrrWord ..).trans rfl⟩
theorem Laws.WordDecodes.kset (h : Hdr) (f : Rrr) : Laws.WordDecodes.Statement (.kset h f) := by
  intro w hw; obtain rfl := Option.some.inj hw
  exact ⟨_, decodeWord_of _ 0x8E _ (opOf_rrrWord ..) (decodeOp_8E _), (hdrOf_rrrWord ..).trans rfl⟩
theorem Laws.WordDecodes.kmov (h : Hdr) (f : Rrr) : Laws.WordDecodes.Statement (.kmov h f) := by
  intro w hw; obtain rfl := Option.some.inj hw
  exact ⟨_, decodeWord_of _ 0x8F _ (opOf_rrrWord ..) (decodeOp_8F _), (hdrOf_rrrWord ..).trans rfl⟩
theorem Laws.WordDecodes.viadd (h : Hdr) (f : Rrr) : Laws.WordDecodes.Statement (.viadd h f) := by
  intro w hw; obtain rfl := Option.some.inj hw
  exact ⟨_, decodeWord_of _ 0x90 _ (opOf_rrrWord ..) (decodeOp_90 _), (hdrOf_rrrWord ..).trans rfl⟩
theorem Laws.WordDecodes.visub (h : Hdr) (f : Rrr) : Laws.WordDecodes.Statement (.visub h f) := by
  intro w hw; obtain rfl := Option.some.inj hw
  exact ⟨_, decodeWord_of _ 0x91 _ (opOf_rrrWord ..) (decodeOp_91 _), (hdrOf_rrrWord ..).trans rfl⟩
theorem Laws.WordDecodes.vimul (h : Hdr) (f : Rrr) : Laws.WordDecodes.Statement (.vimul h f) := by
  intro w hw; obtain rfl := Option.some.inj hw
  exact ⟨_, decodeWord_of _ 0x92 _ (opOf_rrrWord ..) (decodeOp_92 _), (hdrOf_rrrWord ..).trans rfl⟩
theorem Laws.WordDecodes.vand (h : Hdr) (f : Rrr) : Laws.WordDecodes.Statement (.vand h f) := by
  intro w hw; obtain rfl := Option.some.inj hw
  exact ⟨_, decodeWord_of _ 0x93 _ (opOf_rrrWord ..) (decodeOp_93 _), (hdrOf_rrrWord ..).trans rfl⟩
theorem Laws.WordDecodes.vor (h : Hdr) (f : Rrr) : Laws.WordDecodes.Statement (.vor h f) := by
  intro w hw; obtain rfl := Option.some.inj hw
  exact ⟨_, decodeWord_of _ 0x94 _ (opOf_rrrWord ..) (decodeOp_94 _), (hdrOf_rrrWord ..).trans rfl⟩
theorem Laws.WordDecodes.vxor (h : Hdr) (f : Rrr) : Laws.WordDecodes.Statement (.vxor h f) := by
  intro w hw; obtain rfl := Option.some.inj hw
  exact ⟨_, decodeWord_of _ 0x95 _ (opOf_rrrWord ..) (decodeOp_95 _), (hdrOf_rrrWord ..).trans rfl⟩
theorem Laws.WordDecodes.vshl (h : Hdr) (f : Rrr) : Laws.WordDecodes.Statement (.vshl h f) := by
  intro w hw; obtain rfl := Option.some.inj hw
  exact ⟨_, decodeWord_of _ 0x96 _ (opOf_rrrWord ..) (decodeOp_96 _), (hdrOf_rrrWord ..).trans rfl⟩
theorem Laws.WordDecodes.vshr (h : Hdr) (f : Rrr) : Laws.WordDecodes.Statement (.vshr h f) := by
  intro w hw; obtain rfl := Option.some.inj hw
  exact ⟨_, decodeWord_of _ 0x97 _ (opOf_rrrWord ..) (decodeOp_97 _), (hdrOf_rrrWord ..).trans rfl⟩
theorem Laws.WordDecodes.vsar (h : Hdr) (f : Rrr) : Laws.WordDecodes.Statement (.vsar h f) := by
  intro w hw; obtain rfl := Option.some.inj hw
  exact ⟨_, decodeWord_of _ 0x98 _ (opOf_rrrWord ..) (decodeOp_98 _), (hdrOf_rrrWord ..).trans rfl⟩
theorem Laws.WordDecodes.vimin (h : Hdr) (f : Rrr) : Laws.WordDecodes.Statement (.vimin h f) := by
  intro w hw; obtain rfl := Option.some.inj hw
  exact ⟨_, decodeWord_of _ 0x99 _ (opOf_rrrWord ..) (decodeOp_99 _), (hdrOf_rrrWord ..).trans rfl⟩
theorem Laws.WordDecodes.vimax (h : Hdr) (f : Rrr) : Laws.WordDecodes.Statement (.vimax h f) := by
  intro w hw; obtain rfl := Option.some.inj hw
  exact ⟨_, decodeWord_of _ 0x9A _ (opOf_rrrWord ..) (decodeOp_9A _), (hdrOf_rrrWord ..).trans rfl⟩
theorem Laws.WordDecodes.vrcp (h : Hdr) (f : Rrr) : Laws.WordDecodes.Statement (.vrcp h f) := by
  intro w hw; obtain rfl := Option.some.inj hw
  exact ⟨_, decodeWord_of _ 0xA0 _ (opOf_rrrWord ..) (decodeOp_A0 _), (hdrOf_rrrWord ..).trans rfl⟩
theorem Laws.WordDecodes.vrsq (h : Hdr) (f : Rrr) : Laws.WordDecodes.Statement (.vrsq h f) := by
  intro w hw; obtain rfl := Option.some.inj hw
  exact ⟨_, decodeWord_of _ 0xA1 _ (opOf_rrrWord ..) (decodeOp_A1 _), (hdrOf_rrrWord ..).trans rfl⟩
theorem Laws.WordDecodes.vsqrt (h : Hdr) (f : Rrr) : Laws.WordDecodes.Statement (.vsqrt h f) := by
  intro w hw; obtain rfl := Option.some.inj hw
  exact ⟨_, decodeWord_of _ 0xA2 _ (opOf_rrrWord ..) (decodeOp_A2 _), (hdrOf_rrrWord ..).trans rfl⟩
theorem Laws.WordDecodes.vexp2 (h : Hdr) (f : Rrr) : Laws.WordDecodes.Statement (.vexp2 h f) := by
  intro w hw; obtain rfl := Option.some.inj hw
  exact ⟨_, decodeWord_of _ 0xA3 _ (opOf_rrrWord ..) (decodeOp_A3 _), (hdrOf_rrrWord ..).trans rfl⟩
theorem Laws.WordDecodes.vlog2 (h : Hdr) (f : Rrr) : Laws.WordDecodes.Statement (.vlog2 h f) := by
  intro w hw; obtain rfl := Option.some.inj hw
  exact ⟨_, decodeWord_of _ 0xA4 _ (opOf_rrrWord ..) (decodeOp_A4 _), (hdrOf_rrrWord ..).trans rfl⟩
theorem Laws.WordDecodes.vsin (h : Hdr) (f : Rrr) : Laws.WordDecodes.Statement (.vsin h f) := by
  intro w hw; obtain rfl := Option.some.inj hw
  exact ⟨_, decodeWord_of _ 0xA5 _ (opOf_rrrWord ..) (decodeOp_A5 _), (hdrOf_rrrWord ..).trans rfl⟩
theorem Laws.WordDecodes.vcos (h : Hdr) (f : Rrr) : Laws.WordDecodes.Statement (.vcos h f) := by
  intro w hw; obtain rfl := Option.some.inj hw
  exact ⟨_, decodeWord_of _ 0xA6 _ (opOf_rrrWord ..) (decodeOp_A6 _), (hdrOf_rrrWord ..).trans rfl⟩
theorem Laws.WordDecodes.vtanh (h : Hdr) (f : Rrr) : Laws.WordDecodes.Statement (.vtanh h f) := by
  intro w hw; obtain rfl := Option.some.inj hw
  exact ⟨_, decodeWord_of _ 0xA7 _ (opOf_rrrWord ..) (decodeOp_A7 _), (hdrOf_rrrWord ..).trans rfl⟩
theorem Laws.WordDecodes.vsigm (h : Hdr) (f : Rrr) : Laws.WordDecodes.Statement (.vsigm h f) := by
  intro w hw; obtain rfl := Option.some.inj hw
  exact ⟨_, decodeWord_of _ 0xA8 _ (opOf_rrrWord ..) (decodeOp_A8 _), (hdrOf_rrrWord ..).trans rfl⟩
theorem Laws.WordDecodes.vrsum (h : Hdr) (f : Rrr) : Laws.WordDecodes.Statement (.vrsum h f) := by
  intro w hw; obtain rfl := Option.some.inj hw
  exact ⟨_, decodeWord_of _ 0xB0 _ (opOf_rrrWord ..) (decodeOp_B0 _), (hdrOf_rrrWord ..).trans rfl⟩
theorem Laws.WordDecodes.vrmax (h : Hdr) (f : Rrr) : Laws.WordDecodes.Statement (.vrmax h f) := by
  intro w hw; obtain rfl := Option.some.inj hw
  exact ⟨_, decodeWord_of _ 0xB1 _ (opOf_rrrWord ..) (decodeOp_B1 _), (hdrOf_rrrWord ..).trans rfl⟩
theorem Laws.WordDecodes.vcsum (h : Hdr) (f : Rrr) : Laws.WordDecodes.Statement (.vcsum h f) := by
  intro w hw; obtain rfl := Option.some.inj hw
  exact ⟨_, decodeWord_of _ 0xB2 _ (opOf_rrrWord ..) (decodeOp_B2 _), (hdrOf_rrrWord ..).trans rfl⟩
theorem Laws.WordDecodes.vcmax (h : Hdr) (f : Rrr) : Laws.WordDecodes.Statement (.vcmax h f) := by
  intro w hw; obtain rfl := Option.some.inj hw
  exact ⟨_, decodeWord_of _ 0xB3 _ (opOf_rrrWord ..) (decodeOp_B3 _), (hdrOf_rrrWord ..).trans rfl⟩
theorem Laws.WordDecodes.vbcast (h : Hdr) (f : Rrr) : Laws.WordDecodes.Statement (.vbcast h f) := by
  intro w hw; obtain rfl := Option.some.inj hw
  exact ⟨_, decodeWord_of _ 0xB4 _ (opOf_rrrWord ..) (decodeOp_B4 _), (hdrOf_rrrWord ..).trans rfl⟩
theorem Laws.WordDecodes.vmov (h : Hdr) (f : Rrr) : Laws.WordDecodes.Statement (.vmov h f) := by
  intro w hw; obtain rfl := Option.some.inj hw
  exact ⟨_, decodeWord_of _ 0xB5 _ (opOf_rrrWord ..) (decodeOp_B5 _), (hdrOf_rrrWord ..).trans rfl⟩
theorem Laws.WordDecodes.vqpop (h : Hdr) (f : Rrr) : Laws.WordDecodes.Statement (.vqpop h f) := by
  intro w hw; obtain rfl := Option.some.inj hw
  exact ⟨_, decodeWord_of _ 0xB6 _ (opOf_rrrWord ..) (decodeOp_B6 _), (hdrOf_rrrWord ..).trans rfl⟩
theorem Laws.WordDecodes.vqpush (h : Hdr) (f : Rrr) : Laws.WordDecodes.Statement (.vqpush h f) := by
  intro w hw; obtain rfl := Option.some.inj hw
  exact ⟨_, decodeWord_of _ 0xB7 _ (opOf_rrrWord ..) (decodeOp_B7 _), (hdrOf_rrrWord ..).trans rfl⟩
theorem Laws.WordDecodes.tmovR (h : Hdr) (f : Rrr) : Laws.WordDecodes.Statement (.tmovR h f) := by
  intro w hw; obtain rfl := Option.some.inj hw
  exact ⟨_, decodeWord_of _ 0xB8 _ (opOf_rrrWord ..) (decodeOp_B8 _), (hdrOf_rrrWord ..).trans rfl⟩
theorem Laws.WordDecodes.tmovC (h : Hdr) (f : Rrr) : Laws.WordDecodes.Statement (.tmovC h f) := by
  intro w hw; obtain rfl := Option.some.inj hw
  exact ⟨_, decodeWord_of _ 0xB9 _ (opOf_rrrWord ..) (decodeOp_B9 _), (hdrOf_rrrWord ..).trans rfl⟩
theorem Laws.WordDecodes.vrng (h : Hdr) (f : Rrr) : Laws.WordDecodes.Statement (.vrng h f) := by
  intro w hw; obtain rfl := Option.some.inj hw
  exact ⟨_, decodeWord_of _ 0xBA _ (opOf_rrrWord ..) (decodeOp_BA _), (hdrOf_rrrWord ..).trans rfl⟩
theorem Laws.WordDecodes.viota (h : Hdr) (f : Rrr) : Laws.WordDecodes.Statement (.viota h f) := by
  intro w hw; obtain rfl := Option.some.inj hw
  exact ⟨_, decodeWord_of _ 0xBB _ (opOf_rrrWord ..) (decodeOp_BB _), (hdrOf_rrrWord ..).trans rfl⟩
theorem Laws.WordDecodes.vshape (h : Hdr) (f : Rri) : Laws.WordDecodes.Statement (.vshape h f) := by
  intro w hw; obtain rfl := Option.some.inj hw
  exact ⟨_, decodeWord_of _ 0xBC _ (opOf_rriWord ..) (decodeOp_BC _), (hdrOf_rriWord ..).trans rfl⟩
theorem Laws.WordDecodes.valloc (h : Hdr) (f : Rri) : Laws.WordDecodes.Statement (.valloc h f) := by
  intro w hw; obtain rfl := Option.some.inj hw
  have d := decodeOp_BD (rriWord h 0xBD f)
  dsimp only at d; repeat' split at d
  all_goals exact ⟨_, decodeWord_of _ 0xBD _ (opOf_rriWord ..) d, (hdrOf_rriWord ..).trans rfl⟩
theorem Laws.WordDecodes.vshrink (h : Hdr) (f : Rri) : Laws.WordDecodes.Statement (.vshrink h f) := by
  intro w hw; obtain rfl := Option.some.inj hw
  have d := decodeOp_BD (rriWord h 0xBD f)
  dsimp only at d; repeat' split at d
  all_goals exact ⟨_, decodeWord_of _ 0xBD _ (opOf_rriWord ..) d, (hdrOf_rriWord ..).trans rfl⟩
theorem Laws.WordDecodes.vgate (h : Hdr) (f : Rri) : Laws.WordDecodes.Statement (.vgate h f) := by
  intro w hw; obtain rfl := Option.some.inj hw
  exact ⟨_, decodeWord_of _ 0xBE _ (opOf_rriWord ..) (decodeOp_BE _), (hdrOf_rriWord ..).trans rfl⟩
theorem Laws.WordDecodes.mxLdw (h : Hdr) (f : Mx) : Laws.WordDecodes.Statement (.mxLdw h f) := by
  intro w hw; obtain rfl := Option.some.inj hw
  exact ⟨_, decodeWord_of _ 0xC0 _ (opOf_mxWord ..) (decodeOp_C0 _), (hdrOf_mxWord ..).trans rfl⟩
theorem Laws.WordDecodes.mxMac (h : Hdr) (f : Mx) : Laws.WordDecodes.Statement (.mxMac h f) := by
  intro w hw; obtain rfl := Option.some.inj hw
  exact ⟨_, decodeWord_of _ 0xC1 _ (opOf_mxWord ..) (decodeOp_C1 _), (hdrOf_mxWord ..).trans rfl⟩
theorem Laws.WordDecodes.mxZero (h : Hdr) (f : Mx) : Laws.WordDecodes.Statement (.mxZero h f) := by
  intro w hw; obtain rfl := Option.some.inj hw
  exact ⟨_, decodeWord_of _ 0xC2 _ (opOf_mxWord ..) (decodeOp_C2 _), (hdrOf_mxWord ..).trans rfl⟩
theorem Laws.WordDecodes.mxDrain (h : Hdr) (f : Mx) : Laws.WordDecodes.Statement (.mxDrain h f) := by
  intro w hw; obtain rfl := Option.some.inj hw
  exact ⟨_, decodeWord_of _ 0xC3 _ (opOf_mxWord ..) (decodeOp_C3 _), (hdrOf_mxWord ..).trans rfl⟩
theorem Laws.WordDecodes.mxSwap (h : Hdr) (f : Mx) : Laws.WordDecodes.Statement (.mxSwap h f) := by
  intro w hw; obtain rfl := Option.some.inj hw
  exact ⟨_, decodeWord_of _ 0xC4 _ (opOf_mxWord ..) (decodeOp_C4 _), (hdrOf_mxWord ..).trans rfl⟩
theorem Laws.WordDecodes.mxFuseOn (h : Hdr) (f : Mx) : Laws.WordDecodes.Statement (.mxFuseOn h f) := by
  intro w hw; obtain rfl := Option.some.inj hw
  have d := decodeOp_C5 (mxWord h 0xC5 f)
  dsimp only at d; repeat' split at d
  all_goals exact ⟨_, decodeWord_of _ 0xC5 _ (opOf_mxWord ..) d, (hdrOf_mxWord ..).trans rfl⟩
theorem Laws.WordDecodes.mxFuseOff (h : Hdr) (f : Mx) : Laws.WordDecodes.Statement (.mxFuseOff h f) := by
  intro w hw; obtain rfl := Option.some.inj hw
  have d := decodeOp_C5 (mxWord h 0xC5 f)
  dsimp only at d; repeat' split at d
  all_goals exact ⟨_, decodeWord_of _ 0xC5 _ (opOf_mxWord ..) d, (hdrOf_mxWord ..).trans rfl⟩
theorem Laws.WordDecodes.mxTestRun (h : Hdr) (f : Mx) : Laws.WordDecodes.Statement (.mxTestRun h f) := by
  intro w hw; obtain rfl := Option.some.inj hw
  have d := decodeOp_C6 (mxWord h 0xC6 f)
  dsimp only at d; repeat' split at d
  all_goals exact ⟨_, decodeWord_of _ 0xC6 _ (opOf_mxWord ..) d, (hdrOf_mxWord ..).trans rfl⟩
theorem Laws.WordDecodes.mxTestFatal (h : Hdr) (f : Mx) : Laws.WordDecodes.Statement (.mxTestFatal h f) := by
  intro w hw; obtain rfl := Option.some.inj hw
  have d := decodeOp_C6 (mxWord h 0xC6 f)
  dsimp only at d; repeat' split at d
  all_goals exact ⟨_, decodeWord_of _ 0xC6 _ (opOf_mxWord ..) d, (hdrOf_mxWord ..).trans rfl⟩
theorem Laws.WordDecodes.mxTestReport (h : Hdr) (f : Mx) : Laws.WordDecodes.Statement (.mxTestReport h f) := by
  intro w hw; obtain rfl := Option.some.inj hw
  have d := decodeOp_C6 (mxWord h 0xC6 f)
  dsimp only at d; repeat' split at d
  all_goals exact ⟨_, decodeWord_of _ 0xC6 _ (opOf_mxWord ..) d, (hdrOf_mxWord ..).trans rfl⟩
theorem Laws.WordDecodes.mxEvt (h : Hdr) (f : Mx) : Laws.WordDecodes.Statement (.mxEvt h f) := by
  intro w hw; obtain rfl := Option.some.inj hw
  exact ⟨_, decodeWord_of _ 0xC7 _ (opOf_mxWord ..) (decodeOp_C7 _), (hdrOf_mxWord ..).trans rfl⟩
theorem Laws.WordDecodes.mxCb (h : Hdr) (f : Mx) : Laws.WordDecodes.Statement (.mxCb h f) := by
  intro w hw; obtain rfl := Option.some.inj hw
  exact ⟨_, decodeWord_of _ 0xC8 _ (opOf_mxWord ..) (decodeOp_C8 _), (hdrOf_mxWord ..).trans rfl⟩
theorem Laws.WordDecodes.mxFill (h : Hdr) (f : Mx) : Laws.WordDecodes.Statement (.mxFill h f) := by
  intro w hw; obtain rfl := Option.some.inj hw
  exact ⟨_, decodeWord_of _ 0xC9 _ (opOf_mxWord ..) (decodeOp_C9 _), (hdrOf_mxWord ..).trans rfl⟩
theorem Laws.WordDecodes.nop (h : Hdr) (f : Sys) : Laws.WordDecodes.Statement (.nop h f) := by
  intro w hw; obtain rfl := Option.some.inj hw
  exact ⟨_, decodeWord_of _ 0xE0 _ (opOf_sysWord ..) (decodeOp_E0 _), (hdrOf_sysWord ..).trans rfl⟩
theorem Laws.WordDecodes.waitCy (h : Hdr) (f : Sys) : Laws.WordDecodes.Statement (.waitCy h f) := by
  intro w hw; obtain rfl := Option.some.inj hw
  exact ⟨_, decodeWord_of _ 0xE1 _ (opOf_sysWord ..) (decodeOp_E1 _), (hdrOf_sysWord ..).trans rfl⟩
theorem Laws.WordDecodes.waitTime (h : Hdr) (f : Sys) : Laws.WordDecodes.Statement (.waitTime h f) := by
  intro w hw; obtain rfl := Option.some.inj hw
  exact ⟨_, decodeWord_of _ 0xE2 _ (opOf_sysWord ..) (decodeOp_E2 _), (hdrOf_sysWord ..).trans rfl⟩
theorem Laws.WordDecodes.rdv (h : Hdr) (f : Sys) : Laws.WordDecodes.Statement (.rdv h f) := by
  intro w hw; obtain rfl := Option.some.inj hw
  have d := decodeOp_E3 (sysWord h 0xE3 f)
  dsimp only at d; repeat' split at d
  all_goals exact ⟨_, decodeWord_of _ 0xE3 _ (opOf_sysWord ..) d, (hdrOf_sysWord ..).trans rfl⟩
theorem Laws.WordDecodes.rdvEnd (h : Hdr) (f : Sys) : Laws.WordDecodes.Statement (.rdvEnd h f) := by
  intro w hw; obtain rfl := Option.some.inj hw
  have d := decodeOp_E3 (sysWord h 0xE3 f)
  dsimp only at d; repeat' split at d
  all_goals exact ⟨_, decodeWord_of _ 0xE3 _ (opOf_sysWord ..) d, (hdrOf_sysWord ..).trans rfl⟩
theorem Laws.WordDecodes.phase (h : Hdr) (f : Sys) : Laws.WordDecodes.Statement (.phase h f) := by
  intro w hw; obtain rfl := Option.some.inj hw
  exact ⟨_, decodeWord_of _ 0xE4 _ (opOf_sysWord ..) (decodeOp_E4 _), (hdrOf_sysWord ..).trans rfl⟩
theorem Laws.WordDecodes.fence (h : Hdr) (f : Sys) : Laws.WordDecodes.Statement (.fence h f) := by
  intro w hw; obtain rfl := Option.some.inj hw
  exact ⟨_, decodeWord_of _ 0xE5 _ (opOf_sysWord ..) (decodeOp_E5 _), (hdrOf_sysWord ..).trans rfl⟩
theorem Laws.WordDecodes.bar (h : Hdr) (f : Sys) : Laws.WordDecodes.Statement (.bar h f) := by
  intro w hw; obtain rfl := Option.some.inj hw
  exact ⟨_, decodeWord_of _ 0xE6 _ (opOf_sysWord ..) (decodeOp_E6 _), (hdrOf_sysWord ..).trans rfl⟩
theorem Laws.WordDecodes.curtain (h : Hdr) (f : Sys) : Laws.WordDecodes.Statement (.curtain h f) := by
  intro w hw; obtain rfl := Option.some.inj hw
  exact ⟨_, decodeWord_of _ 0xE7 _ (opOf_sysWord ..) (decodeOp_E7 _), (hdrOf_sysWord ..).trans rfl⟩
theorem Laws.WordDecodes.yield (h : Hdr) (f : Sys) : Laws.WordDecodes.Statement (.yield h f) := by
  intro w hw; obtain rfl := Option.some.inj hw
  exact ⟨_, decodeWord_of _ 0xE8 _ (opOf_sysWord ..) (decodeOp_E8 _), (hdrOf_sysWord ..).trans rfl⟩
theorem Laws.WordDecodes.curSet (h : Hdr) (f : Sys) : Laws.WordDecodes.Statement (.curSet h f) := by
  intro w hw; obtain rfl := Option.some.inj hw
  exact ⟨_, decodeWord_of _ 0xE9 _ (opOf_sysWord ..) (decodeOp_E9 _), (hdrOf_sysWord ..).trans rfl⟩
theorem Laws.WordDecodes.curGetCur (h : Hdr) (f : Sys) : Laws.WordDecodes.Statement (.curGetCur h f) := by
  intro w hw; obtain rfl := Option.some.inj hw
  have d := decodeOp_EA (sysWord h 0xEA f)
  dsimp only at d; repeat' split at d
  all_goals exact ⟨_, decodeWord_of _ 0xEA _ (opOf_sysWord ..) d, (hdrOf_sysWord ..).trans rfl⟩
theorem Laws.WordDecodes.curGetTrap (h : Hdr) (f : Sys) : Laws.WordDecodes.Statement (.curGetTrap h f) := by
  intro w hw; obtain rfl := Option.some.inj hw
  have d := decodeOp_EA (sysWord h 0xEA f)
  dsimp only at d; repeat' split at d
  all_goals exact ⟨_, decodeWord_of _ 0xEA _ (opOf_sysWord ..) d, (hdrOf_sysWord ..).trans rfl⟩
theorem Laws.WordDecodes.rndOpen (h : Hdr) (f : Sys) : Laws.WordDecodes.Statement (.rndOpen h f) := by
  intro w hw; obtain rfl := Option.some.inj hw
  exact ⟨_, decodeWord_of _ 0xEB _ (opOf_sysWord ..) (decodeOp_EB _), (hdrOf_sysWord ..).trans rfl⟩
theorem Laws.WordDecodes.rndPrep (h : Hdr) (f : Sys) : Laws.WordDecodes.Statement (.rndPrep h f) := by
  intro w hw; obtain rfl := Option.some.inj hw
  exact ⟨_, decodeWord_of _ 0xEC _ (opOf_sysWord ..) (decodeOp_EC _), (hdrOf_sysWord ..).trans rfl⟩
theorem Laws.WordDecodes.rndCommit (h : Hdr) (f : Sys) : Laws.WordDecodes.Statement (.rndCommit h f) := by
  intro w hw; obtain rfl := Option.some.inj hw
  exact ⟨_, decodeWord_of _ 0xED _ (opOf_sysWord ..) (decodeOp_ED _), (hdrOf_sysWord ..).trans rfl⟩
theorem Laws.WordDecodes.rndAbort (h : Hdr) (f : Sys) : Laws.WordDecodes.Statement (.rndAbort h f) := by
  intro w hw; obtain rfl := Option.some.inj hw
  exact ⟨_, decodeWord_of _ 0xEE _ (opOf_sysWord ..) (decodeOp_EE _), (hdrOf_sysWord ..).trans rfl⟩
theorem Laws.WordDecodes.protMark (h : Hdr) (f : Sys) : Laws.WordDecodes.Statement (.protMark h f) := by
  intro w hw; obtain rfl := Option.some.inj hw
  exact ⟨_, decodeWord_of _ 0xEF _ (opOf_sysWord ..) (decodeOp_EF _), (hdrOf_sysWord ..).trans rfl⟩
theorem Laws.WordDecodes.statSeal (h : Hdr) (f : Sys) : Laws.WordDecodes.Statement (.statSeal h f) := by
  intro w hw; obtain rfl := Option.some.inj hw
  exact ⟨_, decodeWord_of _ 0xF0 _ (opOf_sysWord ..) (decodeOp_F0 _), (hdrOf_sysWord ..).trans rfl⟩
theorem Laws.WordDecodes.statRd (h : Hdr) (f : Sys) : Laws.WordDecodes.Statement (.statRd h f) := by
  intro w hw; obtain rfl := Option.some.inj hw
  exact ⟨_, decodeWord_of _ 0xF1 _ (opOf_sysWord ..) (decodeOp_F1 _), (hdrOf_sysWord ..).trans rfl⟩
theorem Laws.WordDecodes.statClr (h : Hdr) (f : Sys) : Laws.WordDecodes.Statement (.statClr h f) := by
  intro w hw; obtain rfl := Option.some.inj hw
  exact ⟨_, decodeWord_of _ 0xF2 _ (opOf_sysWord ..) (decodeOp_F2 _), (hdrOf_sysWord ..).trans rfl⟩
theorem Laws.WordDecodes.pwrAcq (h : Hdr) (f : Sys) : Laws.WordDecodes.Statement (.pwrAcq h f) := by
  intro w hw; obtain rfl := Option.some.inj hw
  exact ⟨_, decodeWord_of _ 0xF3 _ (opOf_sysWord ..) (decodeOp_F3 _), (hdrOf_sysWord ..).trans rfl⟩
theorem Laws.WordDecodes.pwrRel (h : Hdr) (f : Sys) : Laws.WordDecodes.Statement (.pwrRel h f) := by
  intro w hw; obtain rfl := Option.some.inj hw
  exact ⟨_, decodeWord_of _ 0xF4 _ (opOf_sysWord ..) (decodeOp_F4 _), (hdrOf_sysWord ..).trans rfl⟩
theorem Laws.WordDecodes.coll (h : Hdr) (f : Sys) : Laws.WordDecodes.Statement (.coll h f) := by
  intro w hw; obtain rfl := Option.some.inj hw
  exact ⟨_, decodeWord_of _ 0xF5 _ (opOf_sysWord ..) (decodeOp_F5 _), (hdrOf_sysWord ..).trans rfl⟩
theorem Laws.WordDecodes.collWait (h : Hdr) (f : Sys) : Laws.WordDecodes.Statement (.collWait h f) := by
  intro w hw; obtain rfl := Option.some.inj hw
  exact ⟨_, decodeWord_of _ 0xF6 _ (opOf_sysWord ..) (decodeOp_F6 _), (hdrOf_sysWord ..).trans rfl⟩
theorem Laws.WordDecodes.trap (h : Hdr) (f : Sys) : Laws.WordDecodes.Statement (.trap h f) := by
  intro w hw; obtain rfl := Option.some.inj hw
  exact ⟨_, decodeWord_of _ 0xF7 _ (opOf_sysWord ..) (decodeOp_F7 _), (hdrOf_sysWord ..).trans rfl⟩
theorem Laws.WordDecodes.launch (h : Hdr) (f : Sys) : Laws.WordDecodes.Statement (.launch h f) := by
  intro w hw; obtain rfl := Option.some.inj hw
  have d := decodeOp_F8 (sysWord h 0xF8 f)
  dsimp only at d; repeat' split at d
  all_goals exact ⟨_, decodeWord_of _ 0xF8 _ (opOf_sysWord ..) d, (hdrOf_sysWord ..).trans rfl⟩
theorem Laws.WordDecodes.launchResume (h : Hdr) (f : Sys) : Laws.WordDecodes.Statement (.launchResume h f) := by
  intro w hw; obtain rfl := Option.some.inj hw
  have d := decodeOp_F8 (sysWord h 0xF8 f)
  dsimp only at d; repeat' split at d
  all_goals exact ⟨_, decodeWord_of _ 0xF8 _ (opOf_sysWord ..) d, (hdrOf_sysWord ..).trans rfl⟩
theorem Laws.WordDecodes.ttStart (h : Hdr) (f : Sys) : Laws.WordDecodes.Statement (.ttStart h f) := by
  intro w hw; obtain rfl := Option.some.inj hw
  have d := decodeOp_F9 (sysWord h 0xF9 f)
  dsimp only at d; repeat' split at d
  all_goals exact ⟨_, decodeWord_of _ 0xF9 _ (opOf_sysWord ..) d, (hdrOf_sysWord ..).trans rfl⟩
theorem Laws.WordDecodes.ttStartAt (h : Hdr) (f : Sys) : Laws.WordDecodes.Statement (.ttStartAt h f) := by
  intro w hw; obtain rfl := Option.some.inj hw
  have d := decodeOp_F9 (sysWord h 0xF9 f)
  dsimp only at d; repeat' split at d
  all_goals exact ⟨_, decodeWord_of _ 0xF9 _ (opOf_sysWord ..) d, (hdrOf_sysWord ..).trans rfl⟩
theorem Laws.WordDecodes.tlbi (h : Hdr) (f : Sys) : Laws.WordDecodes.Statement (.tlbi h f) := by
  intro w hw; obtain rfl := Option.some.inj hw
  have d := decodeOp_FA (sysWord h 0xFA f)
  dsimp only at d; repeat' split at d
  all_goals exact ⟨_, decodeWord_of _ 0xFA _ (opOf_sysWord ..) d, (hdrOf_sysWord ..).trans rfl⟩
theorem Laws.WordDecodes.tlbiAsid (h : Hdr) (f : Sys) : Laws.WordDecodes.Statement (.tlbiAsid h f) := by
  intro w hw; obtain rfl := Option.some.inj hw
  have d := decodeOp_FA (sysWord h 0xFA f)
  dsimp only at d; repeat' split at d
  all_goals exact ⟨_, decodeWord_of _ 0xFA _ (opOf_sysWord ..) d, (hdrOf_sysWord ..).trans rfl⟩
theorem Laws.WordDecodes.tlbiAll (h : Hdr) (f : Sys) : Laws.WordDecodes.Statement (.tlbiAll h f) := by
  intro w hw; obtain rfl := Option.some.inj hw
  have d := decodeOp_FA (sysWord h 0xFA f)
  dsimp only at d; repeat' split at d
  all_goals exact ⟨_, decodeWord_of _ 0xFA _ (opOf_sysWord ..) d, (hdrOf_sysWord ..).trans rfl⟩
theorem Laws.WordDecodes.tlbiComplete (x0 : Nat) (x1 : Nat) (x2 : TlbScope) : Laws.WordDecodes.Statement (.tlbiComplete x0 x1 x2) := by
  intro w hw; cases hw
theorem Laws.WordDecodes.pcsrRead (h : Hdr) (f : Sys) : Laws.WordDecodes.Statement (.pcsrRead h f) := by
  intro w hw; obtain rfl := Option.some.inj hw
  have d := decodeOp_FB (sysWord h 0xFB f)
  dsimp only at d; repeat' split at d
  all_goals exact ⟨_, decodeWord_of _ 0xFB _ (opOf_sysWord ..) d, (hdrOf_sysWord ..).trans rfl⟩
theorem Laws.WordDecodes.pcsrWrite (h : Hdr) (f : Sys) : Laws.WordDecodes.Statement (.pcsrWrite h f) := by
  intro w hw; obtain rfl := Option.some.inj hw
  have d := decodeOp_FB (sysWord h 0xFB f)
  dsimp only at d; repeat' split at d
  all_goals exact ⟨_, decodeWord_of _ 0xFB _ (opOf_sysWord ..) d, (hdrOf_sysWord ..).trans rfl⟩
theorem Laws.WordDecodes.holdRequest (h : Hdr) (f : Sys) : Laws.WordDecodes.Statement (.holdRequest h f) := by
  intro w hw; obtain rfl := Option.some.inj hw
  have d := decodeOp_FC (sysWord h 0xFC f)
  dsimp only at d; repeat' split at d
  all_goals exact ⟨_, decodeWord_of _ 0xFC _ (opOf_sysWord ..) d, (hdrOf_sysWord ..).trans rfl⟩
theorem Laws.WordDecodes.holdRel (h : Hdr) (f : Sys) : Laws.WordDecodes.Statement (.holdRel h f) := by
  intro w hw; obtain rfl := Option.some.inj hw
  have d := decodeOp_FC (sysWord h 0xFC f)
  dsimp only at d; repeat' split at d
  all_goals exact ⟨_, decodeWord_of _ 0xFC _ (opOf_sysWord ..) d, (hdrOf_sysWord ..).trans rfl⟩
theorem Laws.WordDecodes.svret (h : Hdr) (f : Sys) : Laws.WordDecodes.Statement (.svret h f) := by
  intro w hw; obtain rfl := Option.some.inj hw
  exact ⟨_, decodeWord_of _ 0xFD _ (opOf_sysWord ..) (decodeOp_FD _), (hdrOf_sysWord ..).trans rfl⟩
theorem Laws.WordDecodes.launchComplete (x0 : Nat) : Laws.WordDecodes.Statement (.launchComplete x0) := by
  intro w hw; cases hw
theorem Laws.WordDecodes.leaseGrant (x0 : Nat) : Laws.WordDecodes.Statement (.leaseGrant x0) := by
  intro w hw; cases hw
theorem Laws.WordDecodes.adaptiveClockHoldTick (x0 : Nat) : Laws.WordDecodes.Statement (.adaptiveClockHoldTick x0) := by
  intro w hw; cases hw
theorem Laws.WordDecodes.partitionReset (x0 : Nat) : Laws.WordDecodes.Statement (.partitionReset x0) := by
  intro w hw; cases hw
theorem Laws.WordDecodes.slotRelease (x0 : Nat) : Laws.WordDecodes.Statement (.slotRelease x0) := by
  intro w hw; cases hw
theorem Laws.WordDecodes.cxlMemHostWrite (x0 : HostTarget) (x1 : List Byte) : Laws.WordDecodes.Statement (.cxlMemHostWrite x0 x1) := by
  intro w hw; cases hw
theorem Laws.WordDecodes.tcAdvance : Laws.WordDecodes.Statement .tcAdvance := by
  intro w hw; cases hw
theorem Laws.WordDecodes.powerWindow : Laws.WordDecodes.Statement .powerWindow := by
  intro w hw; cases hw
theorem Laws.WordDecodes.reset : Laws.WordDecodes.Statement .reset := by
  intro w hw; cases hw
theorem Laws.WordDecodes.selfHeatTimeout : Laws.WordDecodes.Statement .selfHeatTimeout := by
  intro w hw; cases hw
theorem Laws.WordDecodes.bootokTimeout : Laws.WordDecodes.Statement .bootokTimeout := by
  intro w hw; cases hw
theorem Laws.WordDecodes.image : Laws.WordDecodes.Statement .image := by
  intro w hw; cases hw
theorem Laws.WordDecodes.restart : Laws.WordDecodes.Statement .restart := by
  intro w hw; cases hw
theorem Laws.WordDecodes.attest : Laws.WordDecodes.Statement .attest := by
  intro w hw; cases hw
theorem Laws.WordDecodes.status : Laws.WordDecodes.Statement .status := by
  intro w hw; cases hw
theorem Laws.WordDecodes.unfreeze : Laws.WordDecodes.Statement .unfreeze := by
  intro w hw; cases hw
theorem Laws.WordDecodes.config : Laws.WordDecodes.Statement .config := by
  intro w hw; cases hw
theorem Laws.WordDecodes.mailboxUnsupported : Laws.WordDecodes.Statement .mailboxUnsupported := by
  intro w hw; cases hw
theorem Laws.WordDecodes.bootok : Laws.WordDecodes.Statement .bootok := by
  intro w hw; cases hw

end Sys2Proof
end

