-- ==== Sys2Proof/Laws/Still.lean ====
section
/-! SUPPORT. The frame of the clock, the in-rush arbiter and the caps: every shared operation leaves the parts of `State.still` alone. A new
operation needs one lemma here; later proofs cite these and unfold nothing. -/

set_option linter.all false

namespace Sys2Proof.Machine

/-! ## Building blocks -/

@[simp] theorem State.still_mk (clock ns frac : Nat) (cur : Nat × Nat) (cores : Tbl Core) (slots : Tbl Slot) (qs dev : Map 8)
    (outs : List Access) (tlb1 tlb2 : Tbl (List TlbEntry)) (tlbi : List (Nat × Instr)) (inputs : List Instr)
    (timers : List (Nat × Instr)) (free uid done : Nat) (plat : Plat) :
    (State.mk clock ns frac cur cores slots qs dev outs tlb1 tlb2 tlbi inputs timers free uid done plat).still =
      (clock, ns, frac, plat.units, plat.fifo, plat.waking, plat.partcfg, plat.capegr, plat.caplim, plat.capwin) := rfl

/-- The parts of `still` read one by one. -/
@[simp] theorem State.still_eta (s : State) :
    (s.clock, s.ns, s.frac, s.plat.units, s.plat.fifo, s.plat.waking, s.plat.partcfg, s.plat.capegr, s.plat.caplim,
      s.plat.capwin) = s.still := rfl

@[simp] theorem State.still_ite (c : Prop) [Decidable c] (a b : State) :
    (if c then a else b).still = if c then a.still else b.still := apply_ite State.still c a b

/-- A fold of steps that change nothing of these parts changes nothing. -/
@[simp] theorem State.still_foldl {α : Type} (f : State → α → State) (h : ∀ s x, (f s x).still = s.still) (l : List α)
    (s : State) : (l.foldl f s).still = s.still := by
  induction l generalizing s with
  | nil => rfl
  | cons x l ih => rw [List.foldl_cons, ih, h]

@[simp] theorem State.still_foldr {α : Type} (f : α → State → State) (h : ∀ x s, (f x s).still = s.still) (l : List α)
    (s : State) : (l.foldr f s).still = s.still := by
  induction l with
  | nil => rfl
  | cons x l ih => rw [List.foldr_cons, h, ih]

@[simp] theorem State.still_foldl_snd {α β : Type} (f : α × State → β → α × State) (h : ∀ r x, (f r x).2.still = r.2.still)
    (l : List β) (r : α × State) : (l.foldl f r).2.still = r.2.still := by
  induction l generalizing r with
  | nil => rfl
  | cons x l ih => rw [List.foldl_cons, ih, h]

@[simp] theorem State.still_modPlat (s : State) (f : Plat → Plat) (h1 : (f s.plat).units = s.plat.units)
    (h2 : (f s.plat).fifo = s.plat.fifo) (h3 : (f s.plat).waking = s.plat.waking) (h4 : (f s.plat).partcfg = s.plat.partcfg)
    (h5 : (f s.plat).capegr = s.plat.capegr) (h6 : (f s.plat).caplim = s.plat.caplim)
    (h7 : (f s.plat).capwin = s.plat.capwin) : (s.modPlat f).still = s.still := by
  change (s.clock, s.ns, s.frac, (f s.plat).units, (f s.plat).fifo, (f s.plat).waking, (f s.plat).partcfg, (f s.plat).capegr,
    (f s.plat).caplim, (f s.plat).capwin) = _
  rw [h1, h2, h3, h4, h5, h6, h7]
  rfl

/-- The state of a check's answer, whether it lets the access through or not. -/
def eitherOf : Except State State → State
  | .ok t => t
  | .error t => t

@[simp] theorem eitherOf_ok (t : State) : eitherOf (.ok t) = t := rfl
@[simp] theorem eitherOf_error (t : State) : eitherOf (.error t) = t := rfl
@[simp] theorem eitherOf_pure (t : State) : eitherOf (pure t) = t := rfl

/-- Checks one after the other, none of which changes these parts, change nothing of them. -/
@[simp] theorem State.still_foldlM {α : Type} (f : State → α → Except State State) (h : ∀ s x, (eitherOf (f s x)).still = s.still)
    (l : List α) (s : State) : (eitherOf (l.foldlM f s)).still = s.still := by
  induction l generalizing s with
  | nil => rfl
  | cons x l ih =>
    rw [List.foldlM_cons]
    have e := h s x
    cases hx : f s x with
    | error t => rw [hx] at e; exact e
    | ok t => rw [hx] at e; exact (ih t).trans e

/-- Steps that may find no room, none of which changes these parts, change nothing of them. -/
theorem State.still_foldlM_some {α : Type} (f : State → α → Option State) (h : ∀ s x t, f s x = some t → t.still = s.still) (l : List α)
    (s t : State) (e : l.foldlM f s = some t) : t.still = s.still := by
  induction l generalizing s with
  | nil => cases e; rfl
  | cons x l ih =>
    rw [List.foldlM_cons] at e
    cases hx : f s x with
    | none => rw [hx] at e; exact absurd e (by simp)
    | some u => rw [hx] at e; exact (ih u e).trans (h s x u hx)

/-! ## Operations -/

@[simp] theorem State.still_setCore (s : State) (c : Nat) (x : Core) :
    (State.setCore s c x).still = s.still := by
  unfold State.setCore
  repeat' first | (simp [*]; done) | split | simp [*] |
    refine (State.still_foldl _ (fun _ _ => ?_) _ _).trans ?_

@[simp] theorem State.still_modCore (s : State) (c : Nat) (f : Core → Core) :
    (State.modCore s c f).still = s.still := by
  unfold State.modCore
  repeat' first | (simp [*]; done) | split | simp [*] |
    refine (State.still_foldl _ (fun _ _ => ?_) _ _).trans ?_

@[simp] theorem State.still_modSlot (s : State) (n : Nat) (f : Slot → Slot) :
    (State.modSlot s n f).still = s.still := by
  unfold State.modSlot
  repeat' first | (simp [*]; done) | split | simp [*] |
    refine (State.still_foldl _ (fun _ _ => ?_) _ _).trans ?_

@[simp] theorem State.still_modStreamAt (s : State) (c : Nat) (st : Nat) (f : Stream → Stream) :
    (State.modStreamAt s c st f).still = s.still := by
  unfold State.modStreamAt
  repeat' first | (simp [*]; done) | split | simp [*] |
    refine (State.still_foldl _ (fun _ _ => ?_) _ _).trans ?_

@[simp] theorem State.still_modMe (s : State) (f : Core → Core) :
    (State.modMe s f).still = s.still := by
  unfold State.modMe
  repeat' first | (simp [*]; done) | split | simp [*] |
    refine (State.still_foldl _ (fun _ _ => ?_) _ _).trans ?_

@[simp] theorem State.still_modStr (s : State) (f : Stream → Stream) :
    (State.modStr s f).still = s.still := by
  unfold State.modStr
  repeat' first | (simp [*]; done) | split | simp [*] |
    refine (State.still_foldl _ (fun _ _ => ?_) _ _).trans ?_

@[simp] theorem State.still_modMy (s : State) (f : Slot → Slot) :
    (State.modMy s f).still = s.still := by
  unfold State.modMy
  repeat' first | (simp [*]; done) | split | simp [*] |
    refine (State.still_foldl _ (fun _ _ => ?_) _ _).trans ?_

@[simp] theorem State.still_setFile (s : State) (c : Nat) (f : File) (key : Nat) (bs : List Byte) :
    (State.setFile s c f key bs).still = s.still := by
  unfold State.setFile
  repeat' first | (simp [*]; done) | split | simp [*] |
    refine (State.still_foldl _ (fun _ _ => ?_) _ _).trans ?_

@[simp] theorem State.still_addFault (s : State) (n : Nat) (r : FaultRec) :
    (State.addFault s n r).still = s.still := by
  unfold State.addFault
  repeat' first | (simp [*]; done) | split | simp [*] |
    refine (State.still_foldl _ (fun _ _ => ?_) _ _).trans ?_

@[simp] theorem State.still_faultAt (s : State) (c : Nat) (st : Nat) (k : FaultKind) (d : Nat) (addr : Word) (space : Nat) :
    (State.faultAt s c st k d addr space).still = s.still := by
  unfold State.faultAt
  repeat' first | (simp [*]; done) | split | simp [*] |
    refine (State.still_foldl _ (fun _ _ => ?_) _ _).trans ?_

@[simp] theorem State.still_offerTo (s : State) (sender : Nat) (stream : Nat) (pc : Nat) (word : Word) (o : Nat) (p : Word) (len : Nat) (wr : Nat) (c : Nat) :
    (State.offerTo s sender stream pc word o p len wr c).still = s.still := by
  unfold State.offerTo
  repeat' first | (simp [*]; done) | split | simp [*] |
    refine (State.still_foldl _ (fun _ _ => ?_) _ _).trans ?_

@[simp] theorem State.still_offer (s : State) (sender : Nat) (stream : Nat) (pc : Nat) (word : Word) (o : Nat) (p : Word) (len : Nat) (wr : Nat) :
    (State.offer s sender stream pc word o p len wr).still = s.still := by
  unfold State.offer
  repeat' first | (simp [*]; done) | split | simp [*] |
    refine (State.still_foldl _ (fun _ _ => ?_) _ _).trans ?_ |
    refine (State.still_foldl_snd _ (fun _ _ => ?_) _ _).trans ?_

@[simp] theorem State.still_accLand (s : State) (tc : Nat) (c : Nat) (bank : Nat) (key : Nat) (v : BitVec 32) (ev : BitVec 3) :
    (State.accLand s tc c bank key v ev).still = s.still := by
  unfold State.accLand
  repeat' first | (simp [*]; done) | split | simp [*] |
    refine (State.still_foldl _ (fun _ _ => ?_) _ _).trans ?_

@[simp] theorem State.still_stain (s : State) (c : Nat) (bank : Nat) (key : Nat) (keep : Bool) (bits : BitVec 4) :
    (State.stain s c bank key keep bits).still = s.still := by
  unfold State.stain
  repeat' first | (simp [*]; done) | split | simp [*] |
    refine (State.still_foldl _ (fun _ _ => ?_) _ _).trans ?_

@[simp] theorem State.still_apply (s : State) (tc : Nat) (c : Nat) (e : Eff) :
    (State.apply s tc c e).still = s.still := by
  unfold State.apply
  repeat' first | (simp [*]; done) | split | simp [*] |
    refine (State.still_foldl _ (fun _ _ => ?_) _ _).trans ?_ |
    refine (State.still_foldl_snd _ (fun _ _ => ?_) _ _).trans ?_

@[simp] theorem State.still_landOn (s : State) (c : Nat) (t : Nat) (e : Eff) :
    (State.landOn s c t e).still = s.still := by
  unfold State.landOn
  repeat' first | (simp [*]; done) | split | simp [*] |
    refine (State.still_foldl _ (fun _ _ => ?_) _ _).trans ?_

@[simp] theorem State.still_land (s : State) (t : Nat) (e : Eff) :
    (State.land s t e).still = s.still := by
  unfold State.land
  repeat' first | (simp [*]; done) | split | simp [*] |
    refine (State.still_foldl _ (fun _ _ => ?_) _ _).trans ?_

@[simp] theorem State.still_landS (s : State) (f : BitVec 7) (t : Nat) (v : Word) :
    (State.landS s f t v).still = s.still := by
  unfold State.landS
  repeat' first | (simp [*]; done) | split | simp [*] |
    refine (State.still_foldl _ (fun _ _ => ?_) _ _).trans ?_

@[simp] theorem State.still_setFlags (s : State) (t : Nat) (fl : BitVec 6) :
    (State.setFlags s t fl).still = s.still := by
  unfold State.setFlags
  repeat' first | (simp [*]; done) | split | simp [*] |
    refine (State.still_foldl _ (fun _ _ => ?_) _ _).trans ?_

@[simp] theorem State.still_overDrained (s : State) (n : Nat) (l : Land) :
    (State.overDrained s n l).still = s.still := by
  unfold State.overDrained
  repeat' first | (simp [*]; done) | split | simp [*] |
    refine (State.still_foldl _ (fun _ _ => ?_) _ _).trans ?_ |
    refine (State.still_foldl_snd _ (fun _ _ => ?_) _ _).trans ?_

@[simp] theorem State.still_landDue (s : State) (n : Nat) :
    (State.landDue s n).still = s.still := by
  unfold State.landDue
  repeat' first | (simp [*]; done) | split | simp [*] |
    refine (State.still_foldl _ (fun _ _ => ?_) _ _).trans ?_ |
    refine (State.still_foldl_snd _ (fun _ _ => ?_) _ _).trans ?_

@[simp] theorem State.still_event (s : State) (c : Nat) (cause : Nat) (info : Word) :
    (State.event s c cause info).still = s.still := by
  unfold State.event
  repeat' first | (simp [*]; done) | split | simp [*] |
    refine (State.still_foldl _ (fun _ _ => ?_) _ _).trans ?_

@[simp] theorem State.still_misuse (s : State) :
    (State.misuse s).still = s.still := by
  unfold State.misuse
  repeat' first | (simp [*]; done) | split | simp [*] |
    refine (State.still_foldl _ (fun _ _ => ?_) _ _).trans ?_

@[simp] theorem State.still_faultPtr (s : State) (k : FaultKind) (d : Nat) (addr : Word) :
    (State.faultPtr s k d addr).still = s.still := by
  unfold State.faultPtr
  repeat' first | (simp [*]; done) | split | simp [*] |
    refine (State.still_foldl _ (fun _ _ => ?_) _ _).trans ?_

@[simp] theorem State.still_fault (s : State) (k : FaultKind) (d : Nat) :
    (State.fault s k d).still = s.still := by
  unfold State.fault
  repeat' first | (simp [*]; done) | split | simp [*] |
    refine (State.still_foldl _ (fun _ _ => ?_) _ _).trans ?_

@[simp] theorem State.still_addTrap (s : State) (t : Trap) :
    (State.addTrap s t).still = s.still := by
  unfold State.addTrap
  repeat' first | (simp [*]; done) | split | simp [*] |
    refine (State.still_foldl _ (fun _ _ => ?_) _ _).trans ?_

@[simp] theorem State.still_pop (s : State) (q : Nat) (k : Entry → State → State) (hk : ∀ a0 a1, (k a0 a1).still = a1.still) :
    (State.pop s q k).still = s.still := by
  unfold State.pop
  repeat' first | (simp [*]; done) | split | simp [*] |
    refine (State.still_foldl _ (fun _ _ => ?_) _ _).trans ?_

@[simp] theorem State.still_pushTo (s : State) (c : Nat) (order : Nat) (q : Nat) (e : QEntry) :
    (State.pushTo s c order q e).still = s.still := by
  unfold State.pushTo
  repeat' first | (simp [*]; done) | split | simp [*] |
    refine (State.still_foldl _ (fun _ _ => ?_) _ _).trans ?_

@[simp] theorem State.still_push (s : State) (q : Nat) (e : Entry) (t : Nat) :
    (State.push s q e t).still = s.still := by
  unfold State.push
  repeat' first | (simp [*]; done) | split | simp [*] |
    refine (State.still_foldl _ (fun _ _ => ?_) _ _).trans ?_

@[simp] theorem State.still_reserve (s : State) (q : Nat) (t : Nat) (id : Nat) :
    (State.reserve s q t id).still = s.still := by
  unfold State.reserve
  repeat' first | (simp [*]; done) | split | simp [*] |
    refine (State.still_foldl _ (fun _ _ => ?_) _ _).trans ?_

@[simp] theorem State.still_reserveZero (s : State) (q : Nat) (t : Nat) :
    (State.reserveZero s q t).still = s.still := by
  unfold State.reserveZero
  repeat' first | (simp [*]; done) | split | simp [*] |
    refine (State.still_foldl _ (fun _ _ => ?_) _ _).trans ?_

@[simp] theorem State.still_fill (s : State) (c : Nat) (id : Nat) (e : Entry) :
    (State.fill s c id e).still = s.still := by
  unfold State.fill
  repeat' first | (simp [*]; done) | split | simp [*] |
    refine (State.still_foldl _ (fun _ _ => ?_) _ _).trans ?_

@[simp] theorem State.still_endPushes (s : State) (c : Nat) :
    (State.endPushes s c).still = s.still := by
  unfold State.endPushes
  repeat' first | (simp [*]; done) | split | simp [*] |
    refine (State.still_foldl _ (fun _ _ => ?_) _ _).trans ?_ |
    refine (State.still_foldl_snd _ (fun _ _ => ?_) _ _).trans ?_

@[simp] theorem State.still_endFpushes (s : State) (c : Nat) :
    (State.endFpushes s c).still = s.still := by
  unfold State.endFpushes
  repeat' first | (simp [*]; done) | split | simp [*] |
    refine (State.still_foldl _ (fun _ _ => ?_) _ _).trans ?_

@[simp] theorem State.still_endToken (s : State) (c : Nat) (n : Nat) :
    (State.endToken s c n).still = s.still := by
  unfold State.endToken
  repeat' first | (simp [*]; done) | split | simp [*] |
    refine (State.still_foldl _ (fun _ _ => ?_) _ _).trans ?_

@[simp] theorem State.still_endTokens (s : State) (c : Nat) :
    (State.endTokens s c).still = s.still := by
  unfold State.endTokens
  repeat' first | (simp [*]; done) | split | simp [*] |
    refine (State.still_foldl _ (fun _ _ => ?_) _ _).trans ?_ |
    refine (State.still_foldl_snd _ (fun _ _ => ?_) _ _).trans ?_

@[simp] theorem State.still_freeByte (s : State) :
    (State.freeByte s).2.still = s.still := by
  unfold State.freeByte
  repeat' first | (simp [*]; done) | split | simp [*] |
    refine (State.still_foldl _ (fun _ _ => ?_) _ _).trans ?_

theorem State.still_freeByte_of {s : State}  {r : Byte} {t : State} (heq : State.freeByte s = (r, t)) :
    t.still = s.still := by
  rw [← State.still_freeByte s , heq]

@[simp] theorem State.still_freeBytes (s : State) (n : Nat) :
    (State.freeBytes s n).2.still = s.still := by
  unfold State.freeBytes
  repeat' first | (simp [*]; done) | split | simp [*] |
    refine (State.still_foldl _ (fun _ _ => ?_) _ _).trans ?_ |
    refine (State.still_freeByte_of ‹_›).trans ?_

theorem State.still_freeBytes_of {s : State} {n : Nat} {r : List Byte} {t : State} (heq : State.freeBytes s n = (r, t)) :
    t.still = s.still := by
  rw [← State.still_freeBytes s n , heq]

@[simp] theorem State.still_freeWord (s : State) :
    (State.freeWord s).2.still = s.still := by
  unfold State.freeWord
  repeat' first | (simp [*]; done) | split | simp [*] |
    refine (State.still_foldl _ (fun _ _ => ?_) _ _).trans ?_

theorem State.still_freeWord_of {s : State}  {r : Word} {t : State} (heq : State.freeWord s = (r, t)) :
    t.still = s.still := by
  rw [← State.still_freeWord s , heq]

@[simp] theorem State.still_later (s : State) (i : Instr) :
    (State.later s i).still = s.still := by
  unfold State.later
  repeat' first | (simp [*]; done) | split | simp [*] |
    refine (State.still_foldl _ (fun _ _ => ?_) _ _).trans ?_

@[simp] theorem State.still_inClocks (s : State) (n : Nat) (i : Instr) :
    (State.inClocks s n i).still = s.still := by
  unfold State.inClocks
  repeat' first | (simp [*]; done) | split | simp [*] |
    refine (State.still_foldl _ (fun _ _ => ?_) _ _).trans ?_

@[simp] theorem State.still_unblock (s : State) (c : Nat) :
    (State.unblock s c).still = s.still := by
  unfold State.unblock
  repeat' first | (simp [*]; done) | split | simp [*] |
    refine (State.still_foldl _ (fun _ _ => ?_) _ _).trans ?_

@[simp] theorem State.still_unplan (s : State) (p : Instr → Bool) :
    (State.unplan s p).still = s.still := by
  unfold State.unplan
  repeat' first | (simp [*]; done) | split | simp [*] |
    refine (State.still_foldl _ (fun _ _ => ?_) _ _).trans ?_

@[simp] theorem State.still_send (s : State) (m : Msg) :
    (State.send s m).still = s.still := by
  unfold State.send
  repeat' first | (simp [*]; done) | split | simp [*] |
    refine (State.still_foldl _ (fun _ _ => ?_) _ _).trans ?_

@[simp] theorem State.still_request (s : State) (n : Nat) (x : Nat) (c : Cause) :
    (State.request s n x c).still = s.still := by
  unfold State.request
  repeat' first | (simp [*]; done) | split | simp [*] |
    refine (State.still_foldl _ (fun _ _ => ?_) _ _).trans ?_

@[simp] theorem State.still_clearCause (s : State) (n : Nat) (c : Cause) :
    (State.clearCause s n c).still = s.still := by
  unfold State.clearCause
  repeat' first | (simp [*]; done) | split | simp [*] |
    refine (State.still_foldl _ (fun _ _ => ?_) _ _).trans ?_

@[simp] theorem State.still_dropQuads (s : State) (x : Slot) :
    (State.dropQuads s x).still = s.still := by
  unfold State.dropQuads
  repeat' first | (simp [*]; done) | split | simp [*] |
    refine (State.still_foldl _ (fun _ _ => ?_) _ _).trans ?_ |
    refine (State.still_foldl_snd _ (fun _ _ => ?_) _ _).trans ?_

@[simp] theorem State.still_platformHold (s : State) (n : Nat) (tag : Nat) :
    (State.platformHold s n tag).still = s.still := by
  unfold State.platformHold
  repeat' first | (simp [*]; done) | split | simp [*] |
    refine (State.still_foldl _ (fun _ _ => ?_) _ _).trans ?_

@[simp] theorem State.still_clearPlatform (s : State) (tag : Nat) :
    (State.clearPlatform s tag).still = s.still := by
  unfold State.clearPlatform
  repeat' first | (simp [*]; done) | split | simp [*] |
    refine (State.still_foldl _ (fun _ _ => ?_) _ _).trans ?_ |
    refine (State.still_foldl_snd _ (fun _ _ => ?_) _ _).trans ?_

@[simp] theorem State.still_withPtr (s : State) (p : Word) (n : Nat) (spaceOk : Nat → Bool) (align : Nat) (k : State → State) (hk : ∀ a0, (k a0).still = a0.still) :
    (State.withPtr s p n spaceOk align k).still = s.still := by
  unfold State.withPtr
  repeat' first | (simp [*]; done) | split | simp [*] |
    refine (State.still_foldl _ (fun _ _ => ?_) _ _).trans ?_

@[simp] theorem State.still_timedWrite (s : State) (p : Word) (bs : List Byte) (t : Nat) :
    (State.timedWrite s p bs t).still = s.still := by
  unfold State.timedWrite
  repeat' first | (simp [*]; done) | split | simp [*] |
    refine (State.still_foldl _ (fun _ _ => ?_) _ _).trans ?_

@[simp] theorem State.still_withHandle (s : State) (h : Handle) (write : Bool) (cu : List Nat) (k : State → State) (hk : ∀ a0, (k a0).still = a0.still) :
    (State.withHandle s h write cu k).still = s.still := by
  unfold State.withHandle
  repeat' first | (simp [*]; done) | split | simp [*] |
    refine (State.still_foldl _ (fun _ _ => ?_) _ _).trans ?_

@[simp] theorem State.still_devWrites (s : State) (by_ : Option Nat) (key : Nat) (bs : List Byte) :
    (State.devWrites s by_ key bs).still = s.still := by
  unfold State.devWrites
  repeat' first | (simp [*]; done) | split | simp [*] |
    refine (State.still_foldl _ (fun _ _ => ?_) _ _).trans ?_ |
    refine (State.still_foldl_snd _ (fun _ _ => ?_) _ _).trans ?_

@[simp] theorem State.still_freeze (s : State) (master : Nat) (cap : Nat) (addr : Nat) :
    (State.freeze s master cap addr).still = s.still := by
  unfold State.freeze
  repeat' first | (simp [*]; done) | split | simp [*] |
    refine (State.still_foldl _ (fun _ _ => ?_) _ _).trans ?_

@[simp] theorem State.still_capHost (s : State) (master : Nat) (addr : Nat) (n : Nat) :
    (eitherOf (State.capHost s master addr n)).still = s.still := by
  unfold State.capHost
  repeat' first | (simp [*]; done) | split | simp [*] |
    refine (State.still_foldl _ (fun _ _ => ?_) _ _).trans ?_

theorem State.still_capHost_ok {s : State} {master : Nat} {addr : Nat} {n : Nat} {t : State} (heq : State.capHost s master addr n = .ok t) :
    t.still = s.still := by
  rw [← State.still_capHost s master addr n, heq]
  rfl

theorem State.still_capHost_error {s : State} {master : Nat} {addr : Nat} {n : Nat} {t : State} (heq : State.capHost s master addr n = .error t) :
    t.still = s.still := by
  rw [← State.still_capHost s master addr n, heq]
  rfl

@[simp] theorem State.still_capSend (s : State) (master : Nat) (die : Nat) (lane : Nat) (pkg : Nat) (addr : Nat) (n : Nat) :
    (eitherOf (State.capSend s master die lane pkg addr n)).still = s.still := by
  unfold State.capSend
  repeat' first | (simp [*]; done) | split | simp [*] |
    refine (State.still_foldl _ (fun _ _ => ?_) _ _).trans ?_

theorem State.still_capSend_ok {s : State} {master : Nat} {die : Nat} {lane : Nat} {pkg : Nat} {addr : Nat} {n : Nat} {t : State} (heq : State.capSend s master die lane pkg addr n = .ok t) :
    t.still = s.still := by
  rw [← State.still_capSend s master die lane pkg addr n, heq]
  rfl

theorem State.still_capSend_error {s : State} {master : Nat} {die : Nat} {lane : Nat} {pkg : Nat} {addr : Nat} {n : Nat} {t : State} (heq : State.capSend s master die lane pkg addr n = .error t) :
    t.still = s.still := by
  rw [← State.still_capSend s master die lane pkg addr n, heq]
  rfl

@[simp] theorem State.still_capAccess (s : State) (master : Nat) (die : Nat) (key : Nat) (n : Nat) (write : Bool) :
    (eitherOf (State.capAccess s master die key n write)).still = s.still := by
  unfold State.capAccess
  repeat' first | (simp [*]; done) | split | simp [*] |
    refine (State.still_foldl _ (fun _ _ => ?_) _ _).trans ?_ |
    refine (State.still_capHost_ok ‹_›).trans ?_ |
    refine (State.still_capHost_error ‹_›).trans ?_ |
    refine (State.still_capSend_ok ‹_›).trans ?_ |
    refine (State.still_capSend_error ‹_›).trans ?_

theorem State.still_capAccess_ok {s : State} {master : Nat} {die : Nat} {key : Nat} {n : Nat} {write : Bool} {t : State} (heq : State.capAccess s master die key n write = .ok t) :
    t.still = s.still := by
  rw [← State.still_capAccess s master die key n write, heq]
  rfl

theorem State.still_capAccess_error {s : State} {master : Nat} {die : Nat} {key : Nat} {n : Nat} {write : Bool} {t : State} (heq : State.capAccess s master die key n write = .error t) :
    t.still = s.still := by
  rw [← State.still_capAccess s master die key n write, heq]
  rfl

@[simp] theorem State.still_fromPackage (s : State) (die : Nat) (pkg : Nat) (k : State → State) (hk : ∀ a0, (k a0).still = a0.still) :
    (State.fromPackage s die pkg k).still = s.still := by
  unfold State.fromPackage
  repeat' first | (simp [*]; done) | split | simp [*] |
    refine (State.still_foldl _ (fun _ _ => ?_) _ _).trans ?_

@[simp] theorem State.still_lookup (s : State) (c : Nat) (asid : Nat) (p : Word) :
    (State.lookup s c asid p).2.still = s.still := by
  unfold State.lookup
  repeat' first | (simp [*]; done) | split | simp [*] |
    refine (State.still_foldl _ (fun _ _ => ?_) _ _).trans ?_

theorem State.still_lookup_of {s : State} {c : Nat} {asid : Nat} {p : Word} {r : Walk} {t : State} (heq : State.lookup s c asid p = (r, t)) :
    t.still = s.still := by
  rw [← State.still_lookup s c asid p , heq]

@[simp] theorem State.still_pickBytes (s : State) (cs : List (List Byte)) :
    (State.pickBytes s cs).2.still = s.still := by
  unfold State.pickBytes
  repeat' first | (simp [*]; done) | split | simp [*] |
    refine (State.still_foldl _ (fun _ _ => ?_) _ _).trans ?_

theorem State.still_pickBytes_of {s : State} {cs : List (List Byte)} {r : List Byte} {t : State} (heq : State.pickBytes s cs = (r, t)) :
    t.still = s.still := by
  rw [← State.still_pickBytes s cs , heq]

@[simp] theorem State.still_dropUnusable (s : State) (c : Nat) (asid : Nat) (p : Word) (k : AccKind) :
    (State.dropUnusable s c asid p k).still = s.still := by
  unfold State.dropUnusable
  repeat' first | (simp [*]; done) | split | simp [*] |
    refine (State.still_foldl _ (fun _ _ => ?_) _ _).trans ?_

@[simp] theorem State.still_pageCheck (s : State) (c : Nat) (asid : Nat) (p : Word) (k : AccKind) :
    (State.pageCheck s c asid p k).2.still = s.still := by
  unfold State.pageCheck
  repeat' first | (simp [*]; done) | split | simp [*] |
    refine (State.still_foldl _ (fun _ _ => ?_) _ _).trans ?_ |
    refine (State.still_lookup_of ‹_›).trans ?_

theorem State.still_pageCheck_of {s : State} {c : Nat} {asid : Nat} {p : Word} {k : AccKind} {r : Option PageFault} {t : State} (heq : State.pageCheck s c asid p k = (r, t)) :
    t.still = s.still := by
  rw [← State.still_pageCheck s c asid p k , heq]

@[simp] theorem State.still_pagesCheck (s : State) (c : Nat) (asid : Nat) (k : AccKind) (x4 : List Word) :
    (State.pagesCheck s c asid k x4).2.still = s.still := by
  induction x4 generalizing s with
  | nil => rfl
  | cons p ps ih =>
    unfold State.pagesCheck
    repeat' first | (simp [*]; done) | split | simp [*] |
      refine (State.still_pageCheck_of ‹_›).trans ?_

theorem State.still_pagesCheck_of {s : State} {c : Nat} {asid : Nat} {k : AccKind} {x4 : List Word} {r : Option (Word × PageFault)} {t : State} (heq : State.pagesCheck s c asid k x4 = (r, t)) :
    t.still = s.still := by
  rw [← State.still_pagesCheck s c asid k x4 , heq]

@[simp] theorem State.still_newId (s : State) :
    (State.newId s).2.still = s.still := by
  unfold State.newId
  repeat' first | (simp [*]; done) | split | simp [*] |
    refine (State.still_foldl _ (fun _ _ => ?_) _ _).trans ?_

theorem State.still_newId_of {s : State}  {r : Nat} {t : State} (heq : State.newId s = (r, t)) :
    t.still = s.still := by
  rw [← State.still_newId s , heq]

@[simp] theorem State.still_modAccess (s : State) (id : Nat) (f : Access → Access) :
    (State.modAccess s id f).still = s.still := by
  unfold State.modAccess
  repeat' first | (simp [*]; done) | split | simp [*] |
    refine (State.still_foldl _ (fun _ _ => ?_) _ _).trans ?_

@[simp] theorem State.still_endAccess (s : State) (a : Access) :
    (State.endAccess s a).still = s.still := by
  unfold State.endAccess
  repeat' first | (simp [*]; done) | split | simp [*] |
    refine (State.still_foldl _ (fun _ _ => ?_) _ _).trans ?_

@[simp] theorem State.still_dueFault (s : State) (n : Nat) (r : FaultRec) :
    (State.dueFault s n r).still = s.still := by
  unfold State.dueFault
  repeat' first | (simp [*]; done) | split | simp [*] |
    refine (State.still_foldl _ (fun _ _ => ?_) _ _).trans ?_

@[simp] theorem State.still_modColl (s : State) (n : Nat) (id : Nat) (f : Coll → Coll) :
    (State.modColl s n id f).still = s.still := by
  unfold State.modColl
  repeat' first | (simp [*]; done) | split | simp [*] |
    refine (State.still_foldl _ (fun _ _ => ?_) _ _).trans ?_

@[simp] theorem State.still_failWith (s : State) (a : Access) (r : FaultRec) :
    (State.failWith s a r).still = s.still := by
  unfold State.failWith
  repeat' first | (simp [*]; done) | split | simp [*] |
    refine (State.still_foldl _ (fun _ _ => ?_) _ _).trans ?_

@[simp] theorem State.still_watchHit (s : State) (addr : Nat) :
    (State.watchHit s addr).still = s.still := by
  unfold State.watchHit
  repeat' first | (simp [*]; done) | split | simp [*] |
    refine (State.still_foldl _ (fun _ _ => ?_) _ _).trans ?_ |
    refine (State.still_foldl_snd _ (fun _ _ => ?_) _ _).trans ?_

@[simp] theorem State.still_appendLog (s : State) (v : Nat) (bytes : Nat → List Byte) :
    (State.appendLog s v bytes).still = s.still := by
  unfold State.appendLog
  repeat' first | (simp [*]; done) | split | simp [*] |
    refine (State.still_foldl _ (fun _ _ => ?_) _ _).trans ?_

@[simp] theorem State.still_appendNats (s : State) (v : Nat) (r : List Nat) :
    (State.appendNats s v r).still = s.still := by
  unfold State.appendNats
  repeat' first | (simp [*]; done) | split | simp [*] |
    refine (State.still_foldl _ (fun _ _ => ?_) _ _).trans ?_

@[simp] theorem State.still_logOrWait (s : State) (v : Nat) (r : List Nat) :
    (State.logOrWait s v r).still = s.still := by
  unfold State.logOrWait
  repeat' first | (simp [*]; done) | split | simp [*] |
    refine (State.still_foldl _ (fun _ _ => ?_) _ _).trans ?_

@[simp] theorem State.still_flushLog (s : State) (v : Nat) (x2 : Nat) :
    (State.flushLog s v x2).still = s.still := by
  induction x2 generalizing s with
  | zero => rfl
  | succ n ih =>
    unfold State.flushLog
    repeat' first | (simp [*]; done) | split | simp [*]

@[simp] theorem State.still_migDone (s : State) (v : Nat) (m : Nat) :
    (State.migDone s v m).still = s.still := by
  unfold State.migDone
  repeat' first | (simp [*]; done) | split | simp [*] |
    refine (State.still_foldl _ (fun _ _ => ?_) _ _).trans ?_

@[simp] theorem State.still_moveLine (s : State) (v : Nat) (m : Nat) (line : Nat) :
    (State.moveLine s v m line).still = s.still := by
  unfold State.moveLine
  dsimp only
  exact (State.still_migDone _ _ _).trans rfl

@[simp] theorem State.still_migReach (s : State) (v : Nat) (m : Nat) (line : Nat) :
    (eitherOf (State.migReach s v m line)).still = s.still := by
  unfold State.migReach
  repeat' first | (simp [*]; done) | split | simp [*] |
    refine (State.still_foldl _ (fun _ _ => ?_) _ _).trans ?_ |
    refine (State.still_capAccess_ok ‹_›).trans ?_ |
    refine (State.still_capAccess_error ‹_›).trans ?_

theorem State.still_migReach_ok {s : State} {v : Nat} {m : Nat} {line : Nat} {t : State} (heq : State.migReach s v m line = .ok t) :
    t.still = s.still := by
  rw [← State.still_migReach s v m line, heq]
  rfl

theorem State.still_migReach_error {s : State} {v : Nat} {m : Nat} {line : Nat} {t : State} (heq : State.migReach s v m line = .error t) :
    t.still = s.still := by
  rw [← State.still_migReach s v m line, heq]
  rfl

@[simp] theorem State.still_loseLine (s : State) (v : Nat) (m : Nat) (line : Nat) :
    (State.loseLine s v m line).still = s.still := by
  unfold State.loseLine
  repeat' first | (simp [*]; done) | split | simp [*] |
    refine (State.still_foldl _ (fun _ _ => ?_) _ _).trans ?_

@[simp] theorem State.still_pullLine (s : State) (v : Nat) (m : Nat) (line : Nat) :
    (State.pullLine s v m line).1.still = s.still := by
  unfold State.pullLine
  repeat' first | (simp [*]; done) | split | simp [*] |
    refine (State.still_foldl _ (fun _ _ => ?_) _ _).trans ?_ |
    refine (State.still_migReach_ok ‹_›).trans ?_ |
    refine (State.still_migReach_error ‹_›).trans ?_

theorem State.still_pullLine_of {s : State} {v : Nat} {m : Nat} {line : Nat} {r : Pulled} {t : State} (heq : State.pullLine s v m line = (t, r)) :
    t.still = s.still := by
  rw [← State.still_pullLine s v m line, heq]

@[simp] theorem State.still_pagesPull (s : State) (c : Nat) (asid : Nat) (k : AccKind) (pts : List Word) (x5 : Nat) :
    (State.pagesPull s c asid k pts x5).2.still = s.still := by
  induction x5 generalizing s with
  | zero =>
    unfold State.pagesPull
    repeat' first | (simp [*]; done) | split | simp [*] |
      refine (State.still_pagesCheck_of ‹_›).trans ?_
  | succ n ih =>
    unfold State.pagesPull
    repeat' first | (simp [*]; done) | split | simp [*] |
      refine (State.still_pagesCheck_of ‹_›).trans ?_ |
      refine (State.still_pullLine_of ‹_›).trans ?_

theorem State.still_pagesPull_of {s : State} {c : Nat} {asid : Nat} {k : AccKind} {pts : List Word} {x5 : Nat} {r : Option (Word × PageFault)} {t : State} (heq : State.pagesPull s c asid k pts x5 = (r, t)) :
    t.still = s.still := by
  rw [← State.still_pagesPull s c asid k pts x5 , heq]

@[simp] theorem State.still_reportError (s : State) (n : Nat) (kind : Nat) (phys : Nat) (tc : Nat) (rank : Nat) (stream : Nat) :
    (State.reportError s n kind phys tc rank stream).still = s.still := by
  unfold State.reportError
  repeat' first | (simp [*]; done) | split | simp [*] |
    refine (State.still_foldl _ (fun _ _ => ?_) _ _).trans ?_

@[simp] theorem State.still_failAccess (s : State) (a : Access) (r : FaultRec) (phys : Nat) :
    (State.failAccess s a r phys).still = s.still := by
  unfold State.failAccess
  repeat' first | (simp [*]; done) | split | simp [*] |
    refine (State.still_foldl _ (fun _ _ => ?_) _ _).trans ?_

@[simp] theorem State.still_translate (s : State) (a : Access) :
    (State.translate s a).still = s.still := by
  unfold State.translate
  repeat' first | (simp [*]; done) | split | simp [*] |
    refine (State.still_foldl _ (fun _ _ => ?_) _ _).trans ?_ |
    refine (State.still_pagesPull_of ‹_›).trans ?_

@[simp] theorem State.still_startAs (s : State) (id : Nat) (k : AccKind) (ins : Instr) (arr : Nat) (piece : Nat) (hnd : Handle) (cu : List Nat) (aux : List Nat) (els : List Elem) (d : List (Word × List Byte)) (offer : Option Nat) :
    (State.startAs s id k ins arr piece hnd cu aux els d offer).still = s.still := by
  unfold State.startAs
  repeat' first | (simp [*]; done) | split | simp [*] |
    refine (State.still_foldl _ (fun _ _ => ?_) _ _).trans ?_

@[simp] theorem State.still_start (s : State) (k : AccKind) (ins : Instr) (arr : Nat) (piece : Nat) (hnd : Handle) (cu : List Nat) (aux : List Nat) (els : List Elem) (d : List (Word × List Byte)) (offer : Option Nat) :
    (State.start s k ins arr piece hnd cu aux els d offer).still = s.still := by
  unfold State.start
  repeat' first | (simp [*]; done) | split | simp [*] |
    refine (State.still_foldl _ (fun _ _ => ?_) _ _).trans ?_ |
    refine (State.still_newId_of ‹_›).trans ?_

@[simp] theorem State.still_withMarks (s : State) (p : Word) (n : Nat) (k : State → State) (hk : ∀ a0, (k a0).still = a0.still) :
    (State.withMarks s p n k).still = s.still := by
  unfold State.withMarks
  repeat' first | (simp [*]; done) | split | simp [*] |
    refine (State.still_foldl _ (fun _ _ => ?_) _ _).trans ?_

@[simp] theorem State.still_enter (s : State) (c : Nat) (st : Nat) :
    (State.enter s c st).still = s.still := by
  unfold State.enter
  repeat' first | (simp [*]; done) | split | simp [*] |
    refine (State.still_foldl _ (fun _ _ => ?_) _ _).trans ?_

@[simp] theorem State.still_tokens (s : State) (tok : BitVec 4) :
    (State.tokens s tok).still = s.still := by
  unfold State.tokens
  repeat' first | (simp [*]; done) | split | simp [*] |
    refine (State.still_foldl _ (fun _ _ => ?_) _ _).trans ?_

@[simp] theorem State.still_occupy (s : State) (n : Nat) :
    (State.occupy s n).still = s.still := by
  unfold State.occupy
  repeat' first | (simp [*]; done) | split | simp [*] |
    refine (State.still_foldl _ (fun _ _ => ?_) _ _).trans ?_

@[simp] theorem State.still_alu (s : State) (f : Rrr) (lat : Nat) (op : Word → Word → Word) :
    (State.alu s f lat op).still = s.still := by
  unfold State.alu
  repeat' first | (simp [*]; done) | split | simp [*] |
    refine (State.still_foldl _ (fun _ _ => ?_) _ _).trans ?_

@[simp] theorem State.still_withReach (s : State) (rs : List (Nat × Nat)) (k : State → State) (hk : ∀ a0, (k a0).still = a0.still) :
    (State.withReach s rs k).still = s.still := by
  unfold State.withReach
  have e := State.still_foldlM (fun (s : State) (r : Nat × Nat) => s.capAccess (s.cur.1 - 768) (dieOf s.cur.1) r.1 r.2 true)
    (fun _ _ => State.still_capAccess _ _ _ _ _ _) rs s
  split <;> rename_i h <;> rw [h] at e
  · exact (hk _).trans e
  · exact e

@[simp] theorem State.still_withCap (s : State) (p : Word) (n : Nat) (k : State → State) (hk : ∀ a0, (k a0).still = a0.still) :
    (State.withCap s p n k).still = s.still := by
  unfold State.withCap
  repeat' first | (simp [*]; done) | split | simp [*] |
    refine (State.still_foldl _ (fun _ _ => ?_) _ _).trans ?_ |
    refine (State.still_withReach _ _ _ (fun _ => ?_)).trans ?_

@[simp] theorem State.still_supStore (s : State) (p : Word) (bs : List Byte) :
    (State.supStore s p bs).still = s.still := by
  unfold State.supStore
  repeat' first | (simp [*]; done) | split | simp [*] |
    refine (State.still_foldl _ (fun _ _ => ?_) _ _).trans ?_

@[simp] theorem State.still_deliver (s : State) (rd : BitVec 7) (v : Word) :
    (State.deliver s rd v).still = s.still := by
  unfold State.deliver
  repeat' first | (simp [*]; done) | split | simp [*] |
    refine (State.still_foldl _ (fun _ _ => ?_) _ _).trans ?_

@[simp] theorem State.still_csrwVal (s : State) (f : Rri) (k : Word → State → State) (hk : ∀ a0 a1, (k a0 a1).still = a1.still) :
    (State.csrwVal s f k).still = s.still := by
  unfold State.csrwVal
  repeat' first | (simp [*]; done) | split | simp [*] |
    refine (State.still_foldl _ (fun _ _ => ?_) _ _).trans ?_ |
    refine (State.still_pop _ _ _ (fun _ _ => ?_)).trans ?_

@[simp] theorem State.still_modRecord (s : State) (n : Nat) (i : Nat) (f : Record → Record) :
    (State.modRecord s n i f).still = s.still := by
  unfold State.modRecord
  repeat' first | (simp [*]; done) | split | simp [*] |
    refine (State.still_foldl _ (fun _ _ => ?_) _ _).trans ?_

@[simp] theorem State.still_stat (s : State) (h : Handle) (v : Option Val) (elem : Nat) (ovf : Bool) (evt : BitVec 8) (report : Nat) :
    (State.stat s h v elem ovf evt report).still = s.still := by
  unfold State.stat
  repeat' first | (simp [*]; done) | split | simp [*] |
    refine (State.still_foldl _ (fun _ _ => ?_) _ _).trans ?_

@[simp] theorem State.still_recordRescale (s : State) (n : Nat) (i : Nat) (t : Trap) :
    (State.recordRescale s n i t).still = s.still := by
  unfold State.recordRescale
  repeat' first | (simp [*]; done) | split | simp [*] |
    refine (State.still_foldl _ (fun _ _ => ?_) _ _).trans ?_

@[simp] theorem State.still_rescaleTraps (s : State) (n : Nat) (d : Nat) :
    (State.rescaleTraps s n d).still = s.still := by
  unfold State.rescaleTraps
  repeat' first | (simp [*]; done) | split | simp [*] |
    refine (State.still_foldl _ (fun _ _ => ?_) _ _).trans ?_ |
    refine (State.still_foldl_snd _ (fun _ _ => ?_) _ _).trans ?_

@[simp] theorem State.still_sealPoint (s : State) (n : Nat) (units : List (Nat × List Nat)) :
    (State.sealPoint s n units).still = s.still := by
  unfold State.sealPoint
  repeat' first | (simp [*]; done) | split | simp [*] |
    refine (State.still_foldl _ (fun _ _ => ?_) _ _).trans ?_ |
    refine (State.still_foldl_snd _ (fun _ _ => ?_) _ _).trans ?_

@[simp] theorem State.still_stale (s : State) (idx : Nat) (sl : BitVec 32) (xseal : BitVec 8) (on : Bool) :
    (State.stale s idx sl xseal on).still = s.still := by
  unfold State.stale
  repeat' first | (simp [*]; done) | split | simp [*] |
    refine (State.still_foldl _ (fun _ _ => ?_) _ _).trans ?_

@[simp] theorem State.still_freeEntries (s : State) (es : List (Nat × Nat)) :
    (State.freeEntries s es).still = s.still := by
  unfold State.freeEntries
  repeat' first | (simp [*]; done) | split | simp [*] |
    refine (State.still_foldl _ (fun _ _ => ?_) _ _).trans ?_ |
    refine (State.still_freeBytes_of ‹_›).trans ?_ |
    refine (State.still_foldl_snd _ (fun _ _ => ?_) _ _).trans ?_

@[simp] theorem State.still_pieceFault (s : State) (arr : Option Nat) (k : FaultKind) (d : Nat) (p : Word) (i : List Nat) :
    (State.pieceFault s arr k d p i).still = s.still := by
  unfold State.pieceFault
  repeat' first | (simp [*]; done) | split | simp [*] |
    refine (State.still_foldl _ (fun _ _ => ?_) _ _).trans ?_

@[simp] theorem State.still_writeOwn (s : State) (ins : Instr) (h : Handle) (piece : Nat) (cu : List Nat) (els : List Elem) (ps : List (Word × List Byte)) (offer : Option Nat) :
    (State.writeOwn s ins h piece cu els ps offer).still = s.still := by
  unfold State.writeOwn
  repeat' first | (simp [*]; done) | split | simp [*] |
    refine (State.still_foldl _ (fun _ _ => ?_) _ _).trans ?_ |
    refine (State.still_foldl_snd _ (fun _ _ => ?_) _ _).trans ?_

@[simp] theorem State.still_begin (s : State) (ins : Instr) (id : Nat) (n : Nat) (hnd : Handle) (cu : List Nat) (aux : List Nat) (buf : List Byte) :
    (State.begin s ins id n hnd cu aux buf).still = s.still := by
  unfold State.begin
  repeat' first | (simp [*]; done) | split | simp [*] |
    refine (State.still_foldl _ (fun _ _ => ?_) _ _).trans ?_

@[simp] theorem State.still_pieceWith (s : State) (f : Act → State → State) (hf : ∀ a0 a1, (f a0 a1).still = a1.still) :
    (State.pieceWith s f).still = s.still := by
  unfold State.pieceWith
  repeat' first | (simp [*]; done) | split | simp [*] |
    refine (State.still_foldl _ (fun _ _ => ?_) _ _).trans ?_

@[simp] theorem State.still_newIds (s : State) (n : Nat) :
    (State.newIds s n).2.still = s.still := by
  unfold State.newIds
  repeat' first | (simp [*]; done) | split | simp [*] |
    refine (State.still_foldl _ (fun _ _ => ?_) _ _).trans ?_

theorem State.still_newIds_of {s : State} {n : Nat} {r : Nat} {t : State} (heq : State.newIds s n = (r, t)) :
    t.still = s.still := by
  rw [← State.still_newIds s n , heq]

@[simp] theorem State.still_place (s : State) (ins : Instr) (h : Handle) (aux : List Nat) (id : Nat) (j : Nat) (t : Nat) (xs : List (Elem × List Byte)) :
    (State.place s ins h aux id j t xs).still = s.still := by
  unfold State.place
  repeat' first | (simp [*]; done) | split | simp [*] |
    refine (State.still_foldl _ (fun _ _ => ?_) _ _).trans ?_

@[simp] theorem State.still_loadFlags (s : State) (ins : Instr) (h : Handle) (t : Nat) (xs : List (Elem × List Byte)) :
    (State.loadFlags s ins h t xs).still = s.still := by
  unfold State.loadFlags
  repeat' first | (simp [*]; done) | split | simp [*] |
    refine (State.still_foldl _ (fun _ _ => ?_) _ _).trans ?_

@[simp] theorem State.still_startLoad (s : State) (a : Act) (id : Nat) (j : Nat) (arr : Nat) (cu : List Nat) (aux : List Nat) (els : List Elem) :
    (State.startLoad s a id j arr cu aux els).still = s.still := by
  unfold State.startLoad
  repeat' first | (simp [*]; done) | split | simp [*] |
    refine (State.still_foldl _ (fun _ _ => ?_) _ _).trans ?_

@[simp] theorem State.still_loadPiece (s : State) (a : Act) (j : Nat) (id : Nat) (cu : List Nat) (slots : List (Nat × List Nat)) :
    (State.loadPiece s a j id cu slots).still = s.still := by
  unfold State.loadPiece
  repeat' first | (simp [*]; done) | split | simp [*] |
    refine (State.still_foldl _ (fun _ _ => ?_) _ _).trans ?_

@[simp] theorem State.still_walkFault (s : State) (a : Act) (cu : List Nat) :
    (State.walkFault s a cu).still = s.still := by
  unfold State.walkFault
  repeat' first | (simp [*]; done) | split | simp [*] |
    refine (State.still_foldl _ (fun _ _ => ?_) _ _).trans ?_

@[simp] theorem State.still_reserveLoad (s : State) (q : Nat) (h : Handle) (lcl : Nat) (n : Nat) (live : Bool) :
    (State.reserveLoad s q h lcl n live).2.still = s.still := by
  unfold State.reserveLoad
  repeat' first | (simp [*]; done) | split | simp [*] |
    refine (State.still_foldl _ (fun _ _ => ?_) _ _).trans ?_ |
    refine (State.still_newIds_of ‹_›).trans ?_ |
    refine (State.still_foldl_snd _ (fun _ _ => ?_) _ _).trans ?_

theorem State.still_reserveLoad_of {s : State} {q : Nat} {h : Handle} {lcl : Nat} {n : Nat} {live : Bool} {r : Nat} {t : State} (heq : State.reserveLoad s q h lcl n live = (r, t)) :
    t.still = s.still := by
  rw [← State.still_reserveLoad s q h lcl n live , heq]

@[simp] theorem still_loadStep (a : Act) (s : State) :
    (loadStep a s).still = s.still := by
  unfold loadStep
  repeat' first | (simp [*]; done) | split | simp [*] |
    refine (State.still_foldl _ (fun _ _ => ?_) _ _).trans ?_ |
    refine (State.still_newId_of ‹_›).trans ?_ |
    refine (State.still_foldl_snd _ (fun _ _ => ?_) _ _).trans ?_

@[simp] theorem State.still_tileLoad (s : State) (ins : Instr) (f : Mem) :
    (State.tileLoad s ins f).still = s.still := by
  unfold State.tileLoad
  repeat' first | (simp [*]; done) | split | simp [*] |
    refine (State.still_foldl _ (fun _ _ => ?_) _ _).trans ?_ |
    refine (State.still_withHandle _ _ _ _ _ (fun _ => ?_)).trans ?_ |
    refine (State.still_pieceWith _ _ (fun _ _ => ?_)).trans ?_

@[simp] theorem still_ldwStep (a : Act) (s : State) :
    (ldwStep a s).still = s.still := by
  unfold ldwStep
  repeat' first | (simp [*]; done) | split | simp [*] |
    refine (State.still_foldl _ (fun _ _ => ?_) _ _).trans ?_ |
    refine (State.still_newId_of ‹_›).trans ?_

@[simp] theorem still_ldgStep (a : Act) (s : State) :
    (ldgStep a s).still = s.still := by
  unfold ldgStep
  repeat' first | (simp [*]; done) | split | simp [*] |
    refine (State.still_foldl _ (fun _ _ => ?_) _ _).trans ?_

@[simp] theorem State.still_modGroup (s : State) (g : Nat) (f : Group → Group) :
    (State.modGroup s g f).still = s.still := by
  unfold State.modGroup
  repeat' first | (simp [*]; done) | split | simp [*] |
    refine (State.still_foldl _ (fun _ _ => ?_) _ _).trans ?_

@[simp] theorem State.still_groupEvent (s : State) (g : Nat) (ev : Nat) (member : Nat) :
    (State.groupEvent s g ev member).still = s.still := by
  unfold State.groupEvent
  repeat' first | (simp [*]; done) | split | simp [*] |
    refine (State.still_foldl _ (fun _ _ => ?_) _ _).trans ?_

@[simp] theorem State.still_tell (s : State) (g : Nat) (j : Nat) (round : Nat) (m : GroupMsg) :
    (State.tell s g j round m).still = s.still := by
  unfold State.tell
  repeat' first | (simp [*]; done) | split | simp [*] |
    refine (State.still_foldl _ (fun _ _ => ?_) _ _).trans ?_ |
    refine (State.still_capSend_ok ‹_›).trans ?_ |
    refine (State.still_capSend_error ‹_›).trans ?_

@[simp] theorem State.still_tellAll (s : State) (g : Nat) (round : Nat) (m : GroupMsg) (js : List Nat) :
    (State.tellAll s g round m js).still = s.still := by
  unfold State.tellAll
  repeat' first | (simp [*]; done) | split | simp [*] |
    refine (State.still_foldl _ (fun _ _ => ?_) _ _).trans ?_ |
    refine (State.still_foldl_snd _ (fun _ _ => ?_) _ _).trans ?_

@[simp] theorem State.still_modRound (s : State) (n : Nat) (gs : Nat) (f : Round → Round) :
    (State.modRound s n gs f).still = s.still := by
  unfold State.modRound
  repeat' first | (simp [*]; done) | split | simp [*] |
    refine (State.still_foldl _ (fun _ _ => ?_) _ _).trans ?_

@[simp] theorem State.still_modHeldRound (s : State) (g : Nat) (f : Round → Round) :
    (State.modHeldRound s g f).still = s.still := by
  unfold State.modHeldRound
  repeat' first | (simp [*]; done) | split | simp [*] |
    refine (State.still_foldl _ (fun _ _ => ?_) _ _).trans ?_

@[simp] theorem State.still_writeLog (s : State) (reg : Word) (i : Nat) (bs : List Byte) :
    (State.writeLog s reg i bs).still = s.still := by
  unfold State.writeLog
  repeat' first | (simp [*]; done) | split | simp [*] |
    refine (State.still_foldl _ (fun _ _ => ?_) _ _).trans ?_

@[simp] theorem State.still_logReach (s : State) (die : Nat) (reg : Word) (used : List Nat) :
    (eitherOf (State.logReach s die reg used)).still = s.still := by
  unfold State.logReach
  repeat' first | (simp [*]; done) | split | simp [*] |
    refine (State.still_foldl _ (fun _ _ => ?_) _ _).trans ?_ |
    refine (State.still_capAccess_ok ‹_›).trans ?_ |
    refine (State.still_capAccess_error ‹_›).trans ?_

theorem State.still_logReach_ok {s : State} {die : Nat} {reg : Word} {used : List Nat} {t : State} (heq : State.logReach s die reg used = .ok t) :
    t.still = s.still := by
  rw [← State.still_logReach s die reg used, heq]
  rfl

theorem State.still_logReach_error {s : State} {die : Nat} {reg : Word} {used : List Nat} {t : State} (heq : State.logReach s die reg used = .error t) :
    t.still = s.still := by
  rw [← State.still_logReach s die reg used, heq]
  rfl

theorem State.still_appendRound (s : State) (e : LogEntry) :
    ∀ t, State.appendRound s e = some t → t.still = s.still := by
  intro t h
  unfold State.appendRound at h
  obtain ⟨i, -, rfl⟩ := Option.map_eq_some_iff.mp h
  simp

theorem State.still_appendRound_of {s : State} {e : LogEntry} {t : State} (heq : State.appendRound s e = some t) :
    t.still = s.still := State.still_appendRound s e t heq

@[simp] theorem State.still_appendRound_getD (s : State) (e : LogEntry) : ((State.appendRound s e).getD s).still = s.still := by
  cases e : State.appendRound s e with
  | none => rfl
  | some t => exact State.still_appendRound_of e

theorem State.still_appendPend (s : State) (e : PendEntry) :
    ∀ t, State.appendPend s e = some t → t.still = s.still := by
  intro t h
  unfold State.appendPend at h
  obtain ⟨i, -, rfl⟩ := Option.map_eq_some_iff.mp h
  simp

theorem State.still_appendPend_of {s : State} {e : PendEntry} {t : State} (heq : State.appendPend s e = some t) :
    t.still = s.still := State.still_appendPend s e t heq

@[simp] theorem State.still_appendPend_getD (s : State) (e : PendEntry) : ((State.appendPend s e).getD s).still = s.still := by
  cases e : State.appendPend s e with
  | none => rfl
  | some t => exact State.still_appendPend_of e

@[simp] theorem State.still_sendDelta (s : State) (g : Nat) (j : Nat) (round : Nat) (off : Nat) (d : BitVec 512) (r : FaultRec) :
    (State.sendDelta s g j round off d r).still = s.still := by
  unfold State.sendDelta
  repeat' first | (simp [*]; done) | split | simp [*] |
    refine (State.still_foldl _ (fun _ _ => ?_) _ _).trans ?_

theorem State.still_logSector (s : State) (n : Nat) (e : MarkedSector) :
    ∀ t, State.logSector s n e = some t → t.still = s.still := by
  intro t h
  unfold State.logSector at h
  split at h
  · cases h; rfl
  · dsimp only at h
    split at h
    · cases h; rfl
    · exact State.still_appendRound_of h

theorem State.still_logSector_of {s : State} {n : Nat} {e : MarkedSector} {t : State} (heq : State.logSector s n e = some t) :
    t.still = s.still := State.still_logSector s n e t heq

@[simp] theorem State.still_logSector_getD (s : State) (n : Nat) (e : MarkedSector) : ((State.logSector s n e).getD s).still = s.still := by
  cases e : State.logSector s n e with
  | none => rfl
  | some t => exact State.still_logSector_of e

@[simp] theorem State.still_sendSector (s : State) (n : Nat) (e : MarkedSector) (old : BitVec 512) (r : FaultRec) :
    (State.sendSector s n e old r).still = s.still := by
  unfold State.sendSector
  repeat' first | (simp [*]; done) | split | simp [*] |
    refine (State.still_foldl _ (fun _ _ => ?_) _ _).trans ?_ |
    refine (State.still_foldl_snd _ (fun _ _ => ?_) _ _).trans ?_

@[simp] theorem State.still_engineReach (s : State) (n : Nat) (secs : List MarkedSector) :
    (eitherOf (State.engineReach s n secs)).still = s.still := by
  unfold State.engineReach
  repeat' first | (simp [*]; done) | split | simp [*] |
    refine (State.still_foldl _ (fun _ _ => ?_) _ _).trans ?_ |
    refine (State.still_capAccess_ok ‹_›).trans ?_ |
    refine (State.still_capAccess_error ‹_›).trans ?_ |
    refine (State.still_logReach_ok ‹_›).trans ?_ |
    refine (State.still_logReach_error ‹_›).trans ?_ |
    refine (State.still_foldlM _ (fun _ _ => ?_) _ _).trans ?_ |
    refine (State.still_foldl_snd _ (fun _ _ => ?_) _ _).trans ?_

theorem State.still_engineReach_ok {s : State} {n : Nat} {secs : List MarkedSector} {t : State} (heq : State.engineReach s n secs = .ok t) :
    t.still = s.still := by
  rw [← State.still_engineReach s n secs, heq]
  rfl

theorem State.still_engineReach_error {s : State} {n : Nat} {secs : List MarkedSector} {t : State} (heq : State.engineReach s n secs = .error t) :
    t.still = s.still := by
  rw [← State.still_engineReach s n secs, heq]
  rfl

theorem State.still_engineWrite (s : State) (n : Nat) (by_ : Option Nat) (secs : List MarkedSector) (runs : List (Nat × List Byte)) (r : FaultRec) :
    ∀ t, State.engineWrite s n by_ secs runs r = some t → t.still = s.still := by
  intro t h
  unfold State.engineWrite at h
  obtain ⟨u, hu, rfl⟩ := Option.map_eq_some_iff.mp h
  have e : u.still = s.still := State.still_foldlM_some _ (fun _ _ _ h => State.still_logSector_of h) _ _ _ hu
  refine (State.still_foldl _ (fun _ _ => by simp) _ _).trans ((State.still_foldl _ (fun _ _ => by simp) _ _).trans e)

theorem State.still_engineWrite_of {s : State} {n : Nat} {by_ : Option Nat} {secs : List MarkedSector} {runs : List (Nat × List Byte)} {r : FaultRec} {t : State} (heq : State.engineWrite s n by_ secs runs r = some t) :
    t.still = s.still := State.still_engineWrite s n by_ secs runs r t heq

@[simp] theorem State.still_engineWrite_getD (s : State) (n : Nat) (by_ : Option Nat) (secs : List MarkedSector) (runs : List (Nat × List Byte)) (r : FaultRec) : ((State.engineWrite s n by_ secs runs r).getD s).still = s.still := by
  cases e : State.engineWrite s n by_ secs runs r with
  | none => rfl
  | some t => exact State.still_engineWrite_of e

@[simp] theorem State.still_homeWrite (s : State) (pages : List TlbEntry) (n : Nat) (w : PWrite) (r : FaultRec) :
    (State.homeWrite s pages n w r).still = s.still := by
  unfold State.homeWrite
  repeat' first | (simp [*]; done) | split | simp [*] |
    refine (State.still_foldl _ (fun _ _ => ?_) _ _).trans ?_ |
    refine (State.still_engineWrite_of ‹_›).trans ?_

@[simp] theorem State.still_release (s : State) (g : Nat) :
    (State.release s g).still = s.still := by
  unfold State.release
  repeat' first | (simp [*]; done) | split | simp [*] |
    refine (State.still_foldl _ (fun _ _ => ?_) _ _).trans ?_

@[simp] theorem State.still_restore (s : State) (n : Nat) (gs : Nat) (g : Nat) (c : Nat) :
    (State.restore s n gs g c).still = s.still := by
  unfold State.restore
  repeat' first | (simp [*]; done) | split | simp [*] |
    refine (State.still_foldl _ (fun _ _ => ?_) _ _).trans ?_ |
    refine (State.still_foldl_snd _ (fun _ _ => ?_) _ _).trans ?_

@[simp] theorem State.still_startRebuild (s : State) (g : Nat) :
    (State.startRebuild s g).still = s.still := by
  unfold State.startRebuild
  repeat' first | (simp [*]; done) | split | simp [*] |
    refine (State.still_foldl _ (fun _ _ => ?_) _ _).trans ?_

@[simp] theorem State.still_closeRound (s : State) (g : Nat) :
    (State.closeRound s g).still = s.still := by
  unfold State.closeRound
  repeat' first | (simp [*]; done) | split | simp [*] |
    refine (State.still_foldl _ (fun _ _ => ?_) _ _).trans ?_

@[simp] theorem State.still_commitRound (s : State) (g : Nat) (r : Nat) :
    (State.commitRound s g r).still = s.still := by
  unfold State.commitRound
  repeat' first | (simp [*]; done) | split | simp [*] |
    refine (State.still_foldl _ (fun _ _ => ?_) _ _).trans ?_

@[simp] theorem State.still_undoRound (s : State) (g : Nat) :
    (State.undoRound s g).still = s.still := by
  unfold State.undoRound
  repeat' first | (simp [*]; done) | split | simp [*] |
    refine (State.still_foldl _ (fun _ _ => ?_) _ _).trans ?_ |
    refine (State.still_foldl_snd _ (fun _ _ => ?_) _ _).trans ?_

@[simp] theorem State.still_doom (s : State) (g : Nat) :
    (State.doom s g).still = s.still := by
  unfold State.doom
  repeat' first | (simp [*]; done) | split | simp [*] |
    refine (State.still_foldl _ (fun _ _ => ?_) _ _).trans ?_

@[simp] theorem State.still_abandon (s : State) (g : Nat) :
    (State.abandon s g).still = s.still := by
  unfold State.abandon
  repeat' first | (simp [*]; done) | split | simp [*] |
    refine (State.still_foldl _ (fun _ _ => ?_) _ _).trans ?_

@[simp] theorem State.still_decide (s : State) (g : Nat) :
    (State.decide s g).still = s.still := by
  unfold State.decide
  repeat' first | (simp [*]; done) | split | simp [*] |
    refine (State.still_foldl _ (fun _ _ => ?_) _ _).trans ?_ |
    refine (State.still_appendRound_of ‹_›).trans ?_

@[simp] theorem State.still_giveOutcome (s : State) (g : Nat) :
    (State.giveOutcome s g).still = s.still := by
  unfold State.giveOutcome
  repeat' first | (simp [*]; done) | split | simp [*] |
    refine (State.still_foldl _ (fun _ _ => ?_) _ _).trans ?_

@[simp] theorem State.still_coordinate (s : State) (g : Nat) :
    (State.coordinate s g).still = s.still := by
  unfold State.coordinate
  repeat' first | (simp [*]; done) | split | simp [*] |
    refine (State.still_foldl _ (fun _ _ => ?_) _ _).trans ?_

@[simp] theorem State.still_withGroup (s : State) (gs : Nat) (k : Nat → Option Word × State) (hk : ∀ a0, (k a0).2.still = s.still) :
    (State.withGroup s gs k).2.still = s.still := by
  unfold State.withGroup
  repeat' first | (simp [*]; done) | split | simp [*] |
    refine (State.still_foldl _ (fun _ _ => ?_) _ _).trans ?_

theorem State.still_withGroup_of {s : State} {gs : Nat} {k : Nat → Option Word × State} {r : Option Word} {t : State} (hk : ∀ a0, (k a0).2.still = s.still) (heq : State.withGroup s gs k = (r, t)) :
    t.still = s.still := by
  rw [← State.still_withGroup s gs k hk, heq]

@[simp] theorem State.still_once (s : State) (code : Nat) (gs : Nat) (detail : Nat) (val : Word) (arg : Nat) (give : State → Word → State) (act : Option Word × State) (hgive : ∀ a0 a1, (give a0 a1).still = a0.still) (hact : act.2.still = s.still) :
    (State.once s code gs detail val arg give act).still = s.still := by
  unfold State.once
  repeat' first | (simp [*]; done) | split | simp [*] |
    refine (State.still_foldl _ (fun _ _ => ?_) _ _).trans ?_

@[simp] theorem State.still_openRound (s : State) (gs : Nat) (g : Nat) :
    (State.openRound s gs g).2.still = s.still := by
  unfold State.openRound
  repeat' first | (simp [*]; done) | split | simp [*] |
    refine (State.still_foldl _ (fun _ _ => ?_) _ _).trans ?_

theorem State.still_openRound_of {s : State} {gs : Nat} {g : Nat} {r : Option Word} {t : State} (heq : State.openRound s gs g = (r, t)) :
    t.still = s.still := by
  rw [← State.still_openRound s gs g , heq]

@[simp] theorem State.still_prepareRound (s : State) (gs : Nat) (g : Nat) :
    (State.prepareRound s gs g).2.still = s.still := by
  unfold State.prepareRound
  dsimp only
  split
  · simp
  · split
    · simp
    · split
      · split <;> simp
      · rename_i t h
        have e : t.still = s.still := by
          split at h
          · exact absurd h (by simp)
          · exact State.still_appendRound_of h
        split <;> simp [e]

theorem State.still_prepareRound_of {s : State} {gs : Nat} {g : Nat} {r : Option Word} {t : State} (heq : State.prepareRound s gs g = (r, t)) :
    t.still = s.still := by
  rw [← State.still_prepareRound s gs g , heq]

@[simp] theorem State.still_takeOutcome (s : State) (gs : Nat) (g : Nat) :
    (State.takeOutcome s gs g).2.still = s.still := by
  unfold State.takeOutcome
  repeat' first | (simp [*]; done) | split | simp [*] |
    refine (State.still_foldl _ (fun _ _ => ?_) _ _).trans ?_

theorem State.still_takeOutcome_of {s : State} {gs : Nat} {g : Nat} {r : Option Word} {t : State} (heq : State.takeOutcome s gs g = (r, t)) :
    t.still = s.still := by
  rw [← State.still_takeOutcome s gs g , heq]

@[simp] theorem State.still_abortRound (s : State) (gs : Nat) (g : Nat) :
    (State.abortRound s gs g).2.still = s.still := by
  unfold State.abortRound
  repeat' first | (simp [*]; done) | split | simp [*] |
    refine (State.still_foldl _ (fun _ _ => ?_) _ _).trans ?_

theorem State.still_abortRound_of {s : State} {gs : Nat} {g : Nat} {r : Option Word} {t : State} (heq : State.abortRound s gs g = (r, t)) :
    t.still = s.still := by
  rw [← State.still_abortRound s gs g , heq]

@[simp] theorem State.still_protect (s : State) (p : Word) (len : Nat) (gs : Nat) (g : Nat) (fn : BitVec 2) :
    (State.protect s p len gs g fn).still = s.still := by
  unfold State.protect
  repeat' first | (simp [*]; done) | split | simp [*] |
    refine (State.still_foldl _ (fun _ _ => ?_) _ _).trans ?_ |
    refine (State.still_foldl_snd _ (fun _ _ => ?_) _ _).trans ?_

@[simp] theorem State.still_observeAll (s : State) (h : Handle) (w : Written) (ev : BitVec 8) (rep : Nat) :
    (State.observeAll s h w ev rep).still = s.still := by
  unfold State.observeAll
  repeat' first | (simp [*]; done) | split | simp [*] |
    refine (State.still_foldl _ (fun _ _ => ?_) _ _).trans ?_ |
    refine (State.still_foldl_snd _ (fun _ _ => ?_) _ _).trans ?_

@[simp] theorem State.still_writePieceEv (s : State) (ins : Instr) (h : Handle) (piece : Nat) (cu : List Nat) (w : Written) (ev : BitVec 8) (rep : Nat) :
    (State.writePieceEv s ins h piece cu w ev rep).still = s.still := by
  unfold State.writePieceEv
  repeat' first | (simp [*]; done) | split | simp [*] |
    refine (State.still_foldl _ (fun _ _ => ?_) _ _).trans ?_

@[simp] theorem State.still_writePiece (s : State) (ins : Instr) (h : Handle) (piece : Nat) (cu : List Nat) (w : Written) (rep : Nat) :
    (State.writePiece s ins h piece cu w rep).still = s.still := by
  unfold State.writePiece
  repeat' first | (simp [*]; done) | split | simp [*] |
    refine (State.still_foldl _ (fun _ _ => ?_) _ _).trans ?_

@[simp] theorem State.still_moveCursors (s : State) (cu : List Nat) :
    (State.moveCursors s cu).still = s.still := by
  unfold State.moveCursors
  repeat' first | (simp [*]; done) | split | simp [*] |
    refine (State.still_foldl _ (fun _ _ => ?_) _ _).trans ?_

@[simp] theorem still_storeStep (a : Act) (s : State) :
    (storeStep a s).still = s.still := by
  unfold storeStep
  repeat' first | (simp [*]; done) | split | simp [*] |
    refine (State.still_foldl _ (fun _ _ => ?_) _ _).trans ?_ |
    refine (State.still_pop _ _ _ (fun _ _ => ?_)).trans ?_ |
    refine (State.still_foldl_snd _ (fun _ _ => ?_) _ _).trans ?_

@[simp] theorem still_scatterStep (a : Act) (s : State) :
    (scatterStep a s).still = s.still := by
  unfold scatterStep
  repeat' first | (simp [*]; done) | split | simp [*] |
    refine (State.still_foldl _ (fun _ _ => ?_) _ _).trans ?_ |
    refine (State.still_pop _ _ _ (fun _ _ => ?_)).trans ?_

@[simp] theorem State.still_withScale (s : State) (h : Handle) (qmode : Nat) (qexp : Int) (xseal : BitVec 8) (stale : Bool) (k : Int → State → State) (hk : ∀ a0 a1, (k a0 a1).still = a1.still) :
    (State.withScale s h qmode qexp xseal stale k).still = s.still := by
  unfold State.withScale
  repeat' first | (simp [*]; done) | split | simp [*] |
    refine (State.still_foldl _ (fun _ _ => ?_) _ _).trans ?_

@[simp] theorem still_stqntStep (a : Act) (s : State) :
    (stqntStep a s).still = s.still := by
  unfold stqntStep
  repeat' first | (simp [*]; done) | split | simp [*] |
    refine (State.still_foldl _ (fun _ _ => ?_) _ _).trans ?_ |
    refine (State.still_pop _ _ _ (fun _ _ => ?_)).trans ?_

@[simp] theorem still_stupdStep (a : Act) (s : State) :
    (stupdStep a s).still = s.still := by
  unfold stupdStep
  repeat' first | (simp [*]; done) | split | simp [*] |
    refine (State.still_foldl _ (fun _ _ => ?_) _ _).trans ?_ |
    refine (State.still_pop _ _ _ (fun _ _ => ?_)).trans ?_ |
    refine (State.still_foldl_snd _ (fun _ _ => ?_) _ _).trans ?_

@[simp] theorem State.still_joinAt (s : State) (op : Nat) (arg : Nat) :
    (State.joinAt s op arg).still = s.still := by
  unfold State.joinAt
  repeat' first | (simp [*]; done) | split | simp [*] |
    refine (State.still_foldl _ (fun _ _ => ?_) _ _).trans ?_

@[simp] theorem State.still_schedule (s : State) (f : Sys) (isClear : Bool) (all : Bool) :
    (State.schedule s f isClear all).still = s.still := by
  unfold State.schedule
  repeat' first | (simp [*]; done) | split | simp [*] |
    refine (State.still_foldl _ (fun _ _ => ?_) _ _).trans ?_

@[simp] theorem State.still_retune (s : State) (n : Nat) :
    (State.retune s n).still = s.still := by
  unfold State.retune
  repeat' first | (simp [*]; done) | split | simp [*] |
    refine (State.still_foldl _ (fun _ _ => ?_) _ _).trans ?_

@[simp] theorem State.still_stir (s : State) (n : Nat) (c : Nat) (i : Instr) :
    (State.stir s n c i).still = s.still := by
  unfold State.stir
  repeat' first | (simp [*]; done) | split | simp [*] |
    refine (State.still_foldl _ (fun _ _ => ?_) _ _).trans ?_

@[simp] theorem State.still_useLinks (s : State) (ls : List (Nat × Nat)) :
    (State.useLinks s ls).still = s.still := by
  unfold State.useLinks
  repeat' first | (simp [*]; done) | split | simp [*] |
    refine (State.still_foldl _ (fun _ _ => ?_) _ _).trans ?_ |
    refine (State.still_foldl_snd _ (fun _ _ => ?_) _ _).trans ?_

@[simp] theorem State.still_sendTimed (s : State) (ps : List (Word × List Byte)) (offer : Option Nat) :
    (State.sendTimed s ps offer).still = s.still := by
  unfold State.sendTimed
  repeat' first | (simp [*]; done) | split | simp [*] |
    refine (State.still_foldl _ (fun _ _ => ?_) _ _).trans ?_ |
    refine (State.still_foldl_snd _ (fun _ _ => ?_) _ _).trans ?_

@[simp] theorem still_stxStep (a : Act) (s : State) :
    (stxStep a s).still = s.still := by
  unfold stxStep
  repeat' first | (simp [*]; done) | split | simp [*] |
    refine (State.still_foldl _ (fun _ _ => ?_) _ _).trans ?_ |
    refine (State.still_pop _ _ _ (fun _ _ => ?_)).trans ?_

@[simp] theorem still_ldbcStep (a : Act) (s : State) :
    (ldbcStep a s).still = s.still := by
  unfold ldbcStep
  repeat' first | (simp [*]; done) | split | simp [*] |
    refine (State.still_foldl _ (fun _ _ => ?_) _ _).trans ?_ |
    refine (State.still_foldl_snd _ (fun _ _ => ?_) _ _).trans ?_

@[simp] theorem State.still_reserveBc (s : State) (f : Mem) (n : Nat) (live : Bool) :
    (State.reserveBc s f n live).2.still = s.still := by
  unfold State.reserveBc
  repeat' first | (simp [*]; done) | split | simp [*] |
    refine (State.still_foldl _ (fun _ _ => ?_) _ _).trans ?_ |
    refine (State.still_newIds_of ‹_›).trans ?_ |
    refine (State.still_foldl_snd _ (fun _ _ => ?_) _ _).trans ?_

theorem State.still_reserveBc_of {s : State} {f : Mem} {n : Nat} {live : Bool} {r : Nat} {t : State} (heq : State.reserveBc s f n live = (r, t)) :
    t.still = s.still := by
  rw [← State.still_reserveBc s f n live , heq]

@[simp] theorem still_stmcStep (a : Act) (s : State) :
    (stmcStep a s).still = s.still := by
  unfold stmcStep
  repeat' first | (simp [*]; done) | split | simp [*] |
    refine (State.still_foldl _ (fun _ _ => ?_) _ _).trans ?_ |
    refine (State.still_pop _ _ _ (fun _ _ => ?_)).trans ?_ |
    refine (State.still_foldl_snd _ (fun _ _ => ?_) _ _).trans ?_

@[simp] theorem State.still_source (s : State) (j : Nat) (n : Nat) (k : Entry → State → State) (hk : ∀ a0 a1, (k a0 a1).still = a1.still) :
    (State.source s j n k).still = s.still := by
  unfold State.source
  repeat' first | (simp [*]; done) | split | simp [*] |
    refine (State.still_foldl _ (fun _ _ => ?_) _ _).trans ?_ |
    refine (State.still_pop _ _ _ (fun _ _ => ?_)).trans ?_

@[simp] theorem State.still_sources (s : State) (j : Nat) (x2 : List Nat) (x3 : List Entry → State → State) (hx3 : ∀ a0 a1, (x3 a0 a1).still = a1.still) :
    (State.sources s j x2 x3).still = s.still := by
  induction x2 generalizing s x3 with
  | nil => unfold State.sources; simp [hx3]
  | cons n ns ih =>
    unfold State.sources
    repeat' first | (simp [*]; done) | split | simp [*] |
      refine (State.still_source _ _ _ _ (fun _ _ => ?_)).trans ?_ | refine (ih _ _ (fun _ _ => ?_)).trans ?_

@[simp] theorem State.still_landElems (s : State) (r : Nat) (at_ : Nat) (sz : Nat) (t : Nat) (rs : List (Option Nat)) :
    (State.landElems s r at_ sz t rs).still = s.still := by
  unfold State.landElems
  repeat' first | (simp [*]; done) | split | simp [*] |
    refine (State.still_foldl _ (fun _ _ => ?_) _ _).trans ?_ |
    refine (State.still_foldl_snd _ (fun _ _ => ?_) _ _).trans ?_

@[simp] theorem State.still_keepBuf (s : State) (bs : List Byte) :
    (State.keepBuf s bs).still = s.still := by
  unfold State.keepBuf
  repeat' first | (simp [*]; done) | split | simp [*] |
    refine (State.still_foldl _ (fun _ _ => ?_) _ _).trans ?_

@[simp] theorem State.still_vecOut (s : State) (a : Act) (j : Nat) (at_ : Nat) (sz : Nat) (t : Nat) (rs : List (Option Nat)) :
    (State.vecOut s a j at_ sz t rs).still = s.still := by
  unfold State.vecOut
  repeat' first | (simp [*]; done) | split | simp [*] |
    refine (State.still_foldl _ (fun _ _ => ?_) _ _).trans ?_

@[simp] theorem still_shapedStep (a : Act) (s : State) :
    (shapedStep a s).still = s.still := by
  unfold shapedStep
  repeat' first | (simp [*]; done) | split | simp [*] |
    refine (State.still_foldl _ (fun _ _ => ?_) _ _).trans ?_ |
    refine (State.still_sources _ _ _ _ (fun _ _ => ?_)).trans ?_

@[simp] theorem still_cvtStep (a : Act) (s : State) :
    (cvtStep a s).still = s.still := by
  unfold cvtStep
  repeat' first | (simp [*]; done) | split | simp [*] |
    refine (State.still_foldl _ (fun _ _ => ?_) _ _).trans ?_ |
    refine (State.still_pop _ _ _ (fun _ _ => ?_)).trans ?_

@[simp] theorem still_vqntStep (a : Act) (s : State) :
    (vqntStep a s).still = s.still := by
  unfold vqntStep
  repeat' first | (simp [*]; done) | split | simp [*] |
    refine (State.still_foldl _ (fun _ _ => ?_) _ _).trans ?_ |
    refine (State.still_source _ _ _ _ (fun _ _ => ?_)).trans ?_ |
    refine (State.still_foldl_snd _ (fun _ _ => ?_) _ _).trans ?_

@[simp] theorem still_reduceStep (a : Act) (s : State) :
    (reduceStep a s).still = s.still := by
  unfold reduceStep
  repeat' first | (simp [*]; done) | split | simp [*] |
    refine (State.still_foldl _ (fun _ _ => ?_) _ _).trans ?_ |
    refine (State.still_source _ _ _ _ (fun _ _ => ?_)).trans ?_ |
    refine (State.still_foldl_snd _ (fun _ _ => ?_) _ _).trans ?_

@[simp] theorem still_tmovRStep (a : Act) (s : State) :
    (tmovRStep a s).still = s.still := by
  unfold tmovRStep
  repeat' first | (simp [*]; done) | split | simp [*] |
    refine (State.still_foldl _ (fun _ _ => ?_) _ _).trans ?_ |
    refine (State.still_source _ _ _ _ (fun _ _ => ?_)).trans ?_ |
    refine (State.still_foldl_snd _ (fun _ _ => ?_) _ _).trans ?_

@[simp] theorem still_tmovCStep (a : Act) (s : State) :
    (tmovCStep a s).still = s.still := by
  unfold tmovCStep
  repeat' first | (simp [*]; done) | split | simp [*] |
    refine (State.still_foldl _ (fun _ _ => ?_) _ _).trans ?_

@[simp] theorem still_kmovStep (a : Act) (s : State) :
    (kmovStep a s).still = s.still := by
  unfold kmovStep
  repeat' first | (simp [*]; done) | split | simp [*] |
    refine (State.still_foldl _ (fun _ _ => ?_) _ _).trans ?_ |
    refine (State.still_source _ _ _ _ (fun _ _ => ?_)).trans ?_

@[simp] theorem still_vecStep (a : Act) (s : State) :
    (vecStep a s).still = s.still := by
  unfold vecStep
  repeat' first | (simp [*]; done) | split | simp [*] |
    refine (State.still_foldl _ (fun _ _ => ?_) _ _).trans ?_

@[simp] theorem State.still_vecChecked (s : State) (i : Instr) (bad : Bool) (k : State → State) (hk : ∀ a0, (k a0).still = a0.still) :
    (State.vecChecked s i bad k).still = s.still := by
  unfold State.vecChecked
  repeat' first | (simp [*]; done) | split | simp [*] |
    refine (State.still_foldl _ (fun _ _ => ?_) _ _).trans ?_

@[simp] theorem State.still_vecBegin (s : State) (i : Instr) (aux : List Nat) (n : Nat) (m : Nat) (ready : Nat → Nat) (h : Handle) (cu : List Nat) (buf : List Byte) :
    (State.vecBegin s i aux n m ready h cu buf).still = s.still := by
  unfold State.vecBegin
  repeat' first | (simp [*]; done) | split | simp [*] |
    refine (State.still_foldl _ (fun _ _ => ?_) _ _).trans ?_ |
    refine (State.still_newIds_of ‹_›).trans ?_ |
    refine (State.still_pieceWith _ _ (fun _ _ => ?_)).trans ?_ |
    refine (State.still_foldl_snd _ (fun _ _ => ?_) _ _).trans ?_

@[simp] theorem State.still_shaped (s : State) (i : Instr) (f : Rrr) (accepts : List Nat) (rd : Space) (rc : Space) (relBad : Bool) (buf : List Byte) :
    (State.shaped s i f accepts rd rc relBad buf).still = s.still := by
  unfold State.shaped
  repeat' first | (simp [*]; done) | split | simp [*] |
    refine (State.still_foldl _ (fun _ _ => ?_) _ _).trans ?_ |
    refine (State.still_vecChecked _ _ _ _ (fun _ => ?_)).trans ?_

@[simp] theorem State.still_reduce (s : State) (i : Instr) (f : Rrr) :
    (State.reduce s i f).still = s.still := by
  unfold State.reduce
  repeat' first | (simp [*]; done) | split | simp [*] |
    refine (State.still_foldl _ (fun _ _ => ?_) _ _).trans ?_ |
    refine (State.still_vecChecked _ _ _ _ (fun _ => ?_)).trans ?_

@[simp] theorem State.still_popFmt (s : State) (k : Word → State → State) (hk : ∀ a0 a1, (k a0 a1).still = a1.still) :
    (State.popFmt s k).still = s.still := by
  unfold State.popFmt
  repeat' first | (simp [*]; done) | split | simp [*] |
    refine (State.still_foldl _ (fun _ _ => ?_) _ _).trans ?_

@[simp] theorem State.still_fmtOk (s : State) (w : Word) (ok : Bool) (k : State → State) (hk : ∀ a0, (k a0).still = a0.still) :
    (State.fmtOk s w ok k).still = s.still := by
  unfold State.fmtOk
  repeat' first | (simp [*]; done) | split | simp [*] |
    refine (State.still_foldl _ (fun _ _ => ?_) _ _).trans ?_

@[simp] theorem State.still_modArr (s : State) (f : Array → Array) :
    (State.modArr s f).still = s.still := by
  unfold State.modArr
  repeat' first | (simp [*]; done) | split | simp [*] |
    refine (State.still_foldl _ (fun _ _ => ?_) _ _).trans ?_

@[simp] theorem State.still_holdCmd (s : State) (completion : Nat) (set : Option Nat) :
    (State.holdCmd s completion set).still = s.still := by
  unfold State.holdCmd
  repeat' first | (simp [*]; done) | split | simp [*] |
    refine (State.still_foldl _ (fun _ _ => ?_) _ _).trans ?_

@[simp] theorem still_mxLdwStep (a : Act) (s : State) :
    (mxLdwStep a s).still = s.still := by
  unfold mxLdwStep
  repeat' first | (simp [*]; done) | split | simp [*] |
    refine (State.still_foldl _ (fun _ _ => ?_) _ _).trans ?_ |
    refine (State.still_foldl_snd _ (fun _ _ => ?_) _ _).trans ?_

@[simp] theorem still_mxMacStep (a : Act) (s : State) :
    (mxMacStep a s).still = s.still := by
  unfold mxMacStep
  repeat' first | (simp [*]; done) | split | simp [*] |
    refine (State.still_foldl _ (fun _ _ => ?_) _ _).trans ?_ |
    refine (State.still_pop _ _ _ (fun _ _ => ?_)).trans ?_

@[simp] theorem still_mxFillStep (a : Act) (s : State) :
    (mxFillStep a s).still = s.still := by
  unfold mxFillStep
  repeat' first | (simp [*]; done) | split | simp [*] |
    refine (State.still_foldl _ (fun _ _ => ?_) _ _).trans ?_ |
    refine (State.still_pop _ _ _ (fun _ _ => ?_)).trans ?_

@[simp] theorem still_mxCbStep (a : Act) (s : State) :
    (mxCbStep a s).still = s.still := by
  unfold mxCbStep
  repeat' first | (simp [*]; done) | split | simp [*] |
    refine (State.still_foldl _ (fun _ _ => ?_) _ _).trans ?_ |
    refine (State.still_pop _ _ _ (fun _ _ => ?_)).trans ?_

@[simp] theorem State.still_noteDrain (s : State) (bits : BitVec 4) (from_ : Nat) (h : Handle) (slots : List (Nat × List Nat)) (entry : Option (Nat × Nat)) :
    (State.noteDrain s bits from_ h slots entry).still = s.still := by
  unfold State.noteDrain
  repeat' first | (simp [*]; done) | split | simp [*] |
    refine (State.still_foldl _ (fun _ _ => ?_) _ _).trans ?_

@[simp] theorem still_drainQueue (a : Act) (s : State) :
    (drainQueue a s).still = s.still := by
  unfold drainQueue
  repeat' first | (simp [*]; done) | split | simp [*] |
    refine (State.still_foldl _ (fun _ _ => ?_) _ _).trans ?_ |
    refine (State.still_foldl_snd _ (fun _ _ => ?_) _ _).trans ?_

@[simp] theorem still_drainElems (a : Act) (h : Handle) (k : Nat) (cu : List Nat) (t : Int) (xs : List (BitVec 32)) (used : BitVec 4) (ev : BitVec 8) (copy : Bool) (s : State) :
    (drainElems a h k cu t xs used ev copy s).still = s.still := by
  unfold drainElems
  repeat' first | (simp [*]; done) | split | simp [*] |
    refine (State.still_foldl _ (fun _ _ => ?_) _ _).trans ?_

@[simp] theorem still_drainBlocks (a : Act) (h : Handle) (t : Int) (rows : List Byte) (used : BitVec 4) (s : State) :
    (drainBlocks a h t rows used s).still = s.still := by
  unfold drainBlocks
  repeat' first | (simp [*]; done) | split | simp [*] |
    refine (State.still_foldl _ (fun _ _ => ?_) _ _).trans ?_ |
    refine (State.still_foldl_snd _ (fun _ _ => ?_) _ _).trans ?_

@[simp] theorem still_drainCopy (a : Act) (xs : List (BitVec 32)) (used : BitVec 4) (s : State) :
    (drainCopy a xs used s).still = s.still := by
  unfold drainCopy
  repeat' first | (simp [*]; done) | split | simp [*] |
    refine (State.still_foldl _ (fun _ _ => ?_) _ _).trans ?_

@[simp] theorem still_drainZero (a : Act) (s : State) :
    (drainZero a s).still = s.still := by
  unfold drainZero
  repeat' first | (simp [*]; done) | split | simp [*] |
    refine (State.still_foldl _ (fun _ _ => ?_) _ _).trans ?_

@[simp] theorem still_mxDrainStep (a : Act) (s : State) :
    (mxDrainStep a s).still = s.still := by
  unfold mxDrainStep
  repeat' first | (simp [*]; done) | split | simp [*] |
    refine (State.still_foldl _ (fun _ _ => ?_) _ _).trans ?_

@[simp] theorem still_matStep (a : Act) (s : State) :
    (matStep a s).still = s.still := by
  unfold matStep
  repeat' first | (simp [*]; done) | split | simp [*] |
    refine (State.still_foldl _ (fun _ _ => ?_) _ _).trans ?_

@[simp] theorem State.still_startDrain (s : State) (hd : Hdr) (f : Mx) (h : Handle) (h2 : Handle) (b : Nat) (last : Nat) (q : Bool) (two : Bool) (t : Int) (t2 : Int) :
    (State.startDrain s hd f h h2 b last q two t t2).still = s.still := by
  unfold State.startDrain
  repeat' first | (simp [*]; done) | split | simp [*] |
    refine (State.still_foldl _ (fun _ _ => ?_) _ _).trans ?_ |
    refine (State.still_pieceWith _ _ (fun _ _ => ?_)).trans ?_

@[simp] theorem State.still_setFuse (s : State) (on : Bool) :
    (State.setFuse s on).still = s.still := by
  unfold State.setFuse
  repeat' first | (simp [*]; done) | split | simp [*] |
    refine (State.still_foldl _ (fun _ _ => ?_) _ _).trans ?_

@[simp] theorem State.still_setPolicy (s : State) (report : Bool) :
    (State.setPolicy s report).still = s.still := by
  unfold State.setPolicy
  repeat' first | (simp [*]; done) | split | simp [*] |
    refine (State.still_foldl _ (fun _ _ => ?_) _ _).trans ?_

@[simp] theorem State.still_fuseCheck (s : State) (n : Nat) :
    (State.fuseCheck s n).still = s.still := by
  unfold State.fuseCheck
  repeat' first | (simp [*]; done) | split | simp [*] |
    refine (State.still_foldl _ (fun _ _ => ?_) _ _).trans ?_

@[simp] theorem State.still_badEntry (s : State) (a : Access) :
    (State.badEntry s a).still = s.still := by
  unfold State.badEntry
  repeat' first | (simp [*]; done) | split | simp [*] |
    refine (State.still_foldl _ (fun _ _ => ?_) _ _).trans ?_

@[simp] theorem State.still_collReach (s : State) (a : Access) (write : Bool) :
    (eitherOf (State.collReach s a write)).still = s.still := by
  unfold State.collReach
  repeat' first | (simp [*]; done) | split | simp [*] |
    refine (State.still_foldl _ (fun _ _ => ?_) _ _).trans ?_ |
    refine (State.still_capAccess_ok ‹_›).trans ?_ |
    refine (State.still_capAccess_error ‹_›).trans ?_ |
    refine (State.still_foldlM _ (fun _ _ => ?_) _ _).trans ?_ |
    refine (State.still_foldl_snd _ (fun _ _ => ?_) _ _).trans ?_

theorem State.still_collReach_ok {s : State} {a : Access} {write : Bool} {t : State} (heq : State.collReach s a write = .ok t) :
    t.still = s.still := by
  rw [← State.still_collReach s a write, heq]
  rfl

theorem State.still_collReach_error {s : State} {a : Access} {write : Bool} {t : State} (heq : State.collReach s a write = .error t) :
    t.still = s.still := by
  rw [← State.still_collReach s a write, heq]
  rfl

@[simp] theorem State.still_asAccess (s : State) (a : Access) :
    (State.asAccess s a).still = s.still := by
  unfold State.asAccess
  repeat' first | (simp [*]; done) | split | simp [*] |
    refine (State.still_foldl _ (fun _ _ => ?_) _ _).trans ?_

@[simp] theorem State.still_withSource (s : State) (a : Access) :
    (State.withSource s a).still = s.still := by
  unfold State.withSource
  repeat' first | (simp [*]; done) | split | simp [*] |
    refine (State.still_foldl _ (fun _ _ => ?_) _ _).trans ?_

@[simp] theorem State.still_collSource (s : State) (n : Nat) (id : Nat) (bs : List Byte) :
    (State.collSource s n id bs).still = s.still := by
  unfold State.collSource
  repeat' first | (simp [*]; done) | split | simp [*] |
    refine (State.still_foldl _ (fun _ _ => ?_) _ _).trans ?_

@[simp] theorem State.still_lateFlags (s : State) (a : Access) (t : Nat) (cleared : BitVec 6) (xs : List (Elem × List Byte)) :
    (State.lateFlags s a t cleared xs).still = s.still := by
  unfold State.lateFlags
  repeat' first | (simp [*]; done) | split | simp [*] |
    refine (State.still_foldl _ (fun _ _ => ?_) _ _).trans ?_

@[simp] theorem State.still_bringReply (s : State) (a : Access) :
    (State.bringReply s a).still = s.still := by
  unfold State.bringReply
  repeat' first | (simp [*]; done) | split | simp [*] |
    refine (State.still_foldl _ (fun _ _ => ?_) _ _).trans ?_ |
    refine (State.still_pickBytes_of ‹_›).trans ?_

@[simp] theorem State.still_deliverReply (s : State) (a : Access) :
    (State.deliverReply s a).still = s.still := by
  unfold State.deliverReply
  repeat' first | (simp [*]; done) | split | simp [*] |
    refine (State.still_foldl _ (fun _ _ => ?_) _ _).trans ?_

@[simp] theorem State.still_storePart (s : State) (a : Access) (p : Word × List Byte) :
    (State.storePart s a p).still = s.still := by
  unfold State.storePart
  repeat' first | (simp [*]; done) | split | simp [*] |
    refine (State.still_foldl _ (fun _ _ => ?_) _ _).trans ?_

@[simp] theorem State.still_crossRun (s : State) (a : Access) (p : Word × List Byte) :
    (State.crossRun s a p).still = s.still := by
  unfold State.crossRun
  repeat' first | (simp [*]; done) | split | simp [*] |
    refine (State.still_foldl _ (fun _ _ => ?_) _ _).trans ?_

@[simp] theorem State.still_crossPart (s : State) (a : Access) (p : Word × List Byte) :
    (State.crossPart s a p).still = s.still := by
  unfold State.crossPart
  repeat' first | (simp [*]; done) | split | simp [*] |
    refine (State.still_foldl _ (fun _ _ => ?_) _ _).trans ?_ |
    refine (State.still_foldl_snd _ (fun _ _ => ?_) _ _).trans ?_

@[simp] theorem State.still_performStore (s : State) (a : Access) :
    (State.performStore s a).still = s.still := by
  unfold State.performStore
  repeat' first | (simp [*]; done) | split | simp [*] |
    refine (State.still_foldl _ (fun _ _ => ?_) _ _).trans ?_ |
    refine (State.still_foldl_snd _ (fun _ _ => ?_) _ _).trans ?_

@[simp] theorem State.still_performColl (s : State) (a : Access) :
    (State.performColl s a).still = s.still := by
  unfold State.performColl
  repeat' first | (simp [*]; done) | split | simp [*] |
    refine (State.still_foldl _ (fun _ _ => ?_) _ _).trans ?_

@[simp] theorem State.still_peerStore (s : State) (w : PeerStore) :
    (State.peerStore s w).still = s.still := by
  unfold State.peerStore
  repeat' first | (simp [*]; done) | split | simp [*] |
    refine (State.still_foldl _ (fun _ _ => ?_) _ _).trans ?_ |
    refine (State.still_engineWrite_of ‹_›).trans ?_ |
    refine (State.still_foldl_snd _ (fun _ _ => ?_) _ _).trans ?_

@[simp] theorem State.still_enginesReach (s : State) (a : Access) :
    (eitherOf (State.enginesReach s a)).still = s.still := by
  unfold State.enginesReach
  repeat' first | (simp [*]; done) | split | simp [*] |
    refine (State.still_foldl _ (fun _ _ => ?_) _ _).trans ?_ |
    refine (State.still_collReach_ok ‹_›).trans ?_ |
    refine (State.still_collReach_error ‹_›).trans ?_ |
    refine (State.still_engineReach_ok ‹_›).trans ?_ |
    refine (State.still_engineReach_error ‹_›).trans ?_

theorem State.still_enginesReach_ok {s : State} {a : Access} {t : State} (heq : State.enginesReach s a = .ok t) :
    t.still = s.still := by
  rw [← State.still_enginesReach s a, heq]
  rfl

theorem State.still_enginesReach_error {s : State} {a : Access} {t : State} (heq : State.enginesReach s a = .error t) :
    t.still = s.still := by
  rw [← State.still_enginesReach s a, heq]
  rfl

@[simp] theorem State.still_ownStore (s : State) (id : Nat) :
    (State.ownStore s id).still = s.still := by
  unfold State.ownStore
  repeat' first | (simp [*]; done) | split | simp [*] |
    refine (State.still_foldl _ (fun _ _ => ?_) _ _).trans ?_ |
    refine (State.still_enginesReach_ok ‹_›).trans ?_ |
    refine (State.still_enginesReach_error ‹_›).trans ?_

@[simp] theorem State.still_performAtomic (s : State) (a : Access) :
    (State.performAtomic s a).still = s.still := by
  unfold State.performAtomic
  repeat' first | (simp [*]; done) | split | simp [*] |
    refine (State.still_foldl _ (fun _ _ => ?_) _ _).trans ?_ |
    refine (State.still_engineWrite_of ‹_›).trans ?_

@[simp] theorem State.still_rewalk (s : State) (n : Nat) (p : Access → Bool) :
    (State.rewalk s n p).still = s.still := by
  unfold State.rewalk
  repeat' first | (simp [*]; done) | split | simp [*] |
    refine (State.still_foldl _ (fun _ _ => ?_) _ _).trans ?_ |
    refine (State.still_foldl_snd _ (fun _ _ => ?_) _ _).trans ?_

@[simp] theorem State.still_takeRecord (s : State) (n : Nat) (seq : Nat) :
    (State.takeRecord s n seq).2.still = s.still := by
  unfold State.takeRecord
  repeat' first | (simp [*]; done) | split | simp [*] |
    refine (State.still_foldl _ (fun _ _ => ?_) _ _).trans ?_

theorem State.still_takeRecord_of {s : State} {n : Nat} {seq : Nat} {r : List Access} {t : State} (heq : State.takeRecord s n seq = (r, t)) :
    t.still = s.still := by
  rw [← State.still_takeRecord s n seq , heq]

@[simp] theorem State.still_engineLine (s : State) (v : Nat) (m : Nat) (line : Nat) :
    (State.engineLine s v m line).still = s.still := by
  unfold State.engineLine
  repeat' first | (simp [*]; done) | split | simp [*] |
    refine (State.still_foldl _ (fun _ _ => ?_) _ _).trans ?_

@[simp] theorem State.still_collAccess (s : State) (hd : Hdr) (f : Sys) (k : AccKind) (role : Nat) (id : Nat) (p : Word) (bs : List Byte) :
    (State.collAccess s hd f k role id p bs).still = s.still := by
  unfold State.collAccess
  repeat' first | (simp [*]; done) | split | simp [*] |
    refine (State.still_foldl _ (fun _ _ => ?_) _ _).trans ?_ |
    refine (State.still_newId_of ‹_›).trans ?_

@[simp] theorem State.still_endBuffer (s : State) (k : Coll) (p : Word) (own : List (List Byte)) :
    (State.endBuffer s k p own).still = s.still := by
  unfold State.endBuffer
  repeat' first | (simp [*]; done) | split | simp [*] |
    refine (State.still_foldl _ (fun _ _ => ?_) _ _).trans ?_ |
    refine (State.still_pickBytes_of ‹_›).trans ?_ |
    refine (State.still_foldl_snd _ (fun _ _ => ?_) _ _).trans ?_

@[simp] theorem State.still_endBuffers (s : State) (k : Coll) (bs : List Byte) :
    (State.endBuffers s k bs).still = s.still := by
  unfold State.endBuffers
  repeat' first | (simp [*]; done) | split | simp [*] |
    refine (State.still_foldl _ (fun _ _ => ?_) _ _).trans ?_

@[simp] theorem State.still_wakeBanks (s : State) (c : Nat) (w : Issue) (i : Instr) (reached : Bool) :
    (State.wakeBanks s c w i reached).still = s.still := by
  unfold State.wakeBanks
  repeat' first | (simp [*]; done) | split | simp [*] |
    refine (State.still_foldl _ (fun _ _ => ?_) _ _).trans ?_ |
    refine (State.still_foldl_snd _ (fun _ _ => ?_) _ _).trans ?_

@[simp] theorem State.still_early (s : State) (n : Nat) (v : Coming) :
    (State.early s n v).still = s.still := by
  unfold State.early
  repeat' first | (simp [*]; done) | split | simp [*] |
    refine (State.still_foldl _ (fun _ _ => ?_) _ _).trans ?_

@[simp] theorem State.still_look (s : State) (n : Nat) :
    (State.look s n).still = s.still := by
  unfold State.look
  repeat' first | (simp [*]; done) | split | simp [*] |
    refine (State.still_foldl _ (fun _ _ => ?_) _ _).trans ?_ |
    refine (State.still_foldl_snd _ (fun _ _ => ?_) _ _).trans ?_

@[simp] theorem State.still_blurRange (s : State) (r : Word × Nat) :
    (State.blurRange s r).still = s.still := by
  unfold State.blurRange
  repeat' first | (simp [*]; done) | split | simp [*] |
    refine (State.still_foldl _ (fun _ _ => ?_) _ _).trans ?_ |
    refine (State.still_freeBytes_of ‹_›).trans ?_ |
    refine (State.still_foldl_snd _ (fun _ _ => ?_) _ _).trans ?_

@[simp] theorem State.still_blur (s : State) (f : FaultRec) (gone : List (Word × Nat)) :
    (State.blur s f gone).still = s.still := by
  unfold State.blur
  repeat' first | (simp [*]; done) | split | simp [*] |
    refine (State.still_foldl _ (fun _ _ => ?_) _ _).trans ?_ |
    refine (State.still_freeBytes_of ‹_›).trans ?_ |
    refine (State.still_foldl_snd _ (fun _ _ => ?_) _ _).trans ?_

@[simp] theorem State.still_resolveFaults (s : State) (n : Nat) :
    (State.resolveFaults s n).still = s.still := by
  unfold State.resolveFaults
  repeat' first | (simp [*]; done) | split | simp [*] |
    refine (State.still_foldl _ (fun _ _ => ?_) _ _).trans ?_ |
    refine (State.still_foldl_snd _ (fun _ _ => ?_) _ _).trans ?_

@[simp] theorem State.still_takeDue (s : State) (n : Nat) (t : Nat) :
    (State.takeDue s n t).still = s.still := by
  unfold State.takeDue
  repeat' first | (simp [*]; done) | split | simp [*] |
    refine (State.still_foldl _ (fun _ _ => ?_) _ _).trans ?_ |
    refine (State.still_foldl_snd _ (fun _ _ => ?_) _ _).trans ?_

@[simp] theorem State.still_endLost (s : State) (n : Nat) :
    (State.endLost s n).still = s.still := by
  unfold State.endLost
  repeat' first | (simp [*]; done) | split | simp [*] |
    refine (State.still_foldl _ (fun _ _ => ?_) _ _).trans ?_ |
    refine (State.still_foldl_snd _ (fun _ _ => ?_) _ _).trans ?_

@[simp] theorem State.still_openTc (s : State) (n : Nat) :
    (State.openTc s n).still = s.still := by
  unfold State.openTc
  repeat' first | (simp [*]; done) | split | simp [*] |
    refine (State.still_foldl _ (fun _ _ => ?_) _ _).trans ?_

@[simp] theorem State.still_sendJoins (s : State) (n : Nat) :
    (State.sendJoins s n).still = s.still := by
  unfold State.sendJoins
  repeat' first | (simp [*]; done) | split | simp [*] |
    refine (State.still_foldl _ (fun _ _ => ?_) _ _).trans ?_ |
    refine (State.still_foldl_snd _ (fun _ _ => ?_) _ _).trans ?_

@[simp] theorem State.still_stirAll (s : State) (n : Nat) :
    (State.stirAll s n).still = s.still := by
  unfold State.stirAll
  repeat' first | (simp [*]; done) | split | simp [*] |
    refine (State.still_foldl _ (fun _ _ => ?_) _ _).trans ?_ |
    refine (State.still_foldl_snd _ (fun _ _ => ?_) _ _).trans ?_

@[simp] theorem State.still_reach (s : State) (n : Nat) :
    (State.reach s n).still = s.still := by
  unfold State.reach
  repeat' first | (simp [*]; done) | split | simp [*] |
    refine (State.still_foldl _ (fun _ _ => ?_) _ _).trans ?_ |
    refine (State.still_foldl_snd _ (fun _ _ => ?_) _ _).trans ?_

@[simp] theorem State.still_holdClock (s : State) (n : Nat) :
    (State.holdClock s n).still = s.still := by
  unfold State.holdClock
  repeat' first | (simp [*]; done) | split | simp [*] |
    refine (State.still_foldl _ (fun _ _ => ?_) _ _).trans ?_

@[simp] theorem State.still_stopAll (s : State) (n : Nat) :
    (State.stopAll s n).still = s.still := by
  unfold State.stopAll
  repeat' first | (simp [*]; done) | split | simp [*] |
    refine (State.still_foldl _ (fun _ _ => ?_) _ _).trans ?_ |
    refine (State.still_foldl_snd _ (fun _ _ => ?_) _ _).trans ?_

@[simp] theorem State.still_cohortFault (s : State) (n : Nat) (k : FaultKind) (d : Nat) :
    (State.cohortFault s n k d).still = s.still := by
  unfold State.cohortFault
  repeat' first | (simp [*]; done) | split | simp [*] |
    refine (State.still_foldl _ (fun _ _ => ?_) _ _).trans ?_

@[simp] theorem State.still_meshCheck (s : State) (n : Nat) :
    (State.meshCheck s n).still = s.still := by
  unfold State.meshCheck
  repeat' first | (simp [*]; done) | split | simp [*] |
    refine (State.still_foldl _ (fun _ _ => ?_) _ _).trans ?_ |
    refine (State.still_foldl_snd _ (fun _ _ => ?_) _ _).trans ?_

@[simp] theorem State.still_boundary (s : State) (n : Nat) (scope : Nat) (cores : List Nat) :
    (State.boundary s n scope cores).still = s.still := by
  unfold State.boundary
  repeat' first | (simp [*]; done) | split | simp [*] |
    refine (State.still_foldl _ (fun _ _ => ?_) _ _).trans ?_ |
    refine (State.still_foldl_snd _ (fun _ _ => ?_) _ _).trans ?_

@[simp] theorem State.still_seals (s : State) (n : Nat) (units : List (Nat × List Nat)) :
    (State.seals s n units).still = s.still := by
  unfold State.seals
  repeat' first | (simp [*]; done) | split | simp [*] |
    refine (State.still_foldl _ (fun _ _ => ?_) _ _).trans ?_ |
    refine (State.still_foldl_snd _ (fun _ _ => ?_) _ _).trans ?_

@[simp] theorem State.still_boundaries (s : State) (n : Nat) :
    (State.boundaries s n).still = s.still := by
  unfold State.boundaries
  repeat' first | (simp [*]; done) | split | simp [*] |
    refine (State.still_foldl _ (fun _ _ => ?_) _ _).trans ?_ |
    refine (State.still_foldl_snd _ (fun _ _ => ?_) _ _).trans ?_

@[simp] theorem State.still_vacate (s : State) (n : Nat) :
    (State.vacate s n).still = s.still := by
  unfold State.vacate
  repeat' first | (simp [*]; done) | split | simp [*] |
    refine (State.still_foldl _ (fun _ _ => ?_) _ _).trans ?_

@[simp] theorem State.still_abortRounds (s : State) (n : Nat) :
    (State.abortRounds s n).2.still = s.still := by
  unfold State.abortRounds
  repeat' first | (simp [*]; done) | split | simp [*] |
    refine (State.still_foldl _ (fun _ _ => ?_) _ _).trans ?_ |
    refine (State.still_foldl_snd _ (fun _ _ => ?_) _ _).trans ?_

theorem State.still_abortRounds_of {s : State} {n : Nat} {r : Bool} {t : State} (heq : State.abortRounds s n = (r, t)) :
    t.still = s.still := by
  rw [← State.still_abortRounds s n , heq]

@[simp] theorem State.still_clearCores (s : State) (cs : List Nat) :
    (State.clearCores s cs).still = s.still := by
  unfold State.clearCores
  repeat' first | (simp [*]; done) | split | simp [*] |
    refine (State.still_foldl _ (fun _ _ => ?_) _ _).trans ?_ |
    refine (State.still_foldl_snd _ (fun _ _ => ?_) _ _).trans ?_

@[simp] theorem State.still_finish (s : State) (n : Nat) :
    (State.finish s n).still = s.still := by
  unfold State.finish
  repeat' first | (simp [*]; done) | split | simp [*] |
    refine (State.still_foldl _ (fun _ _ => ?_) _ _).trans ?_ |
    refine (State.still_abortRounds_of ‹_›).trans ?_

@[simp] theorem State.still_dispatch (s : State) (n : Nat) (seg : Nat) (segp : BitVec 32) (trap : List Word) :
    (State.dispatch s n seg segp trap).still = s.still := by
  unfold State.dispatch
  repeat' first | (simp [*]; done) | split | simp [*] |
    refine (State.still_foldl _ (fun _ _ => ?_) _ _).trans ?_ |
    refine (State.still_foldl_snd _ (fun _ _ => ?_) _ _).trans ?_

@[simp] theorem State.still_clearSel (s : State) (n : Nat) :
    (State.clearSel s n).still = s.still := by
  unfold State.clearSel
  repeat' first | (simp [*]; done) | split | simp [*] |
    refine (State.still_foldl _ (fun _ _ => ?_) _ _).trans ?_ |
    refine (State.still_foldl_snd _ (fun _ _ => ?_) _ _).trans ?_

@[simp] theorem State.still_curtainRows (s : State) (n : Nat) (r : CurtRec) (d : Nat) (sel : Word) :
    (State.curtainRows s n r d sel).still = s.still := by
  unfold State.curtainRows
  repeat' first | (simp [*]; done) | split | simp [*] |
    refine (State.still_foldl _ (fun _ _ => ?_) _ _).trans ?_

@[simp] theorem State.still_preempt (s : State) (n : Nat) (idx : Nat) (d : Nat) (sel : Word) (coop : Bool) (savecy : Nat) :
    (State.preempt s n idx d sel coop savecy).still = s.still := by
  unfold State.preempt
  repeat' first | (simp [*]; done) | split | simp [*] |
    refine (State.still_foldl _ (fun _ _ => ?_) _ _).trans ?_

@[simp] theorem State.still_someoneWaits (s : State) (n : Nat) (polite : Bool) :
    (State.someoneWaits s n polite).2.still = s.still := by
  unfold State.someoneWaits
  repeat' first | (simp [*]; done) | split | simp [*] |
    refine (State.still_foldl _ (fun _ _ => ?_) _ _).trans ?_

theorem State.still_someoneWaits_of {s : State} {n : Nat} {polite : Bool} {r : Bool} {t : State} (heq : State.someoneWaits s n polite = (r, t)) :
    t.still = s.still := by
  rw [← State.still_someoneWaits s n polite , heq]

@[simp] theorem State.still_curtainAct (s : State) (n : Nat) (idx : Nat) :
    (State.curtainAct s n idx).still = s.still := by
  unfold State.curtainAct
  repeat' first | (simp [*]; done) | split | simp [*] |
    refine (State.still_foldl _ (fun _ _ => ?_) _ _).trans ?_ |
    refine (State.still_someoneWaits_of ‹_›).trans ?_

@[simp] theorem State.still_closeStubs (s : State) (n : Nat) :
    (State.closeStubs s n).still = s.still := by
  unfold State.closeStubs
  repeat' first | (simp [*]; done) | split | simp [*] |
    refine (State.still_foldl _ (fun _ _ => ?_) _ _).trans ?_

@[simp] theorem State.still_crossed (s : State) (n : Nat) :
    (State.crossed s n).still = s.still := by
  unfold State.crossed
  repeat' first | (simp [*]; done) | split | simp [*] |
    refine (State.still_foldl _ (fun _ _ => ?_) _ _).trans ?_

@[simp] theorem State.still_meet (s : State) (n : Nat) (p : Join) :
    (State.meet s n p).still = s.still := by
  unfold State.meet
  repeat' first | (simp [*]; done) | split | simp [*] |
    refine (State.still_foldl _ (fun _ _ => ?_) _ _).trans ?_

@[simp] theorem State.still_endJoins (s : State) (n : Nat) :
    (State.endJoins s n).still = s.still := by
  unfold State.endJoins
  repeat' first | (simp [*]; done) | split | simp [*] |
    refine (State.still_foldl _ (fun _ _ => ?_) _ _).trans ?_ |
    refine (State.still_foldl_snd _ (fun _ _ => ?_) _ _).trans ?_

@[simp] theorem State.still_endTc (s : State) (n : Nat) :
    (State.endTc s n).still = s.still := by
  unfold State.endTc
  repeat' first | (simp [*]; done) | split | simp [*] |
    refine (State.still_foldl _ (fun _ _ => ?_) _ _).trans ?_ |
    refine (State.still_foldl_snd _ (fun _ _ => ?_) _ _).trans ?_

@[simp] theorem State.still_frames (s : State) (n : Nat) (f : FaultRec) :
    (State.frames s n f).still = s.still := by
  unfold State.frames
  repeat' first | (simp [*]; done) | split | simp [*] |
    refine (State.still_foldl _ (fun _ _ => ?_) _ _).trans ?_ |
    refine (State.still_foldl_snd _ (fun _ _ => ?_) _ _).trans ?_

@[simp] theorem State.still_retractGroups (s : State) (n : Nat) (x : Slot) :
    (State.retractGroups s n x).still = s.still := by
  unfold State.retractGroups
  repeat' first | (simp [*]; done) | split | simp [*] |
    refine (State.still_foldl _ (fun _ _ => ?_) _ _).trans ?_ |
    refine (State.still_foldl_snd _ (fun _ _ => ?_) _ _).trans ?_

@[simp] theorem State.still_retract (s : State) (n : Nat) :
    (State.retract s n).still = s.still := by
  unfold State.retract
  repeat' first | (simp [*]; done) | split | simp [*] |
    refine (State.still_foldl _ (fun _ _ => ?_) _ _).trans ?_

@[simp] theorem State.still_drain (s : State) (n : Nat) :
    (State.drain s n).still = s.still := by
  unfold State.drain
  repeat' first | (simp [*]; done) | split | simp [*] |
    refine (State.still_foldl _ (fun _ _ => ?_) _ _).trans ?_ |
    refine (State.still_foldl_snd _ (fun _ _ => ?_) _ _).trans ?_

@[simp] theorem State.still_enterStopped (s : State) (n : Nat) (stop : Nat) :
    (State.enterStopped s n stop).still = s.still := by
  unfold State.enterStopped
  repeat' first | (simp [*]; done) | split | simp [*] |
    refine (State.still_foldl _ (fun _ _ => ?_) _ _).trans ?_

@[simp] theorem State.still_stopNow (s : State) (n : Nat) (f : FaultRec) :
    (State.stopNow s n f).still = s.still := by
  unfold State.stopNow
  repeat' first | (simp [*]; done) | split | simp [*] |
    refine (State.still_foldl _ (fun _ _ => ?_) _ _).trans ?_ |
    refine (State.still_abortRounds_of ‹_›).trans ?_ |
    refine (State.still_foldl_snd _ (fun _ _ => ?_) _ _).trans ?_

@[simp] theorem State.still_killSlot (s : State) (n : Nat) :
    (State.killSlot s n).still = s.still := by
  unfold State.killSlot
  repeat' first | (simp [*]; done) | split | simp [*] |
    refine (State.still_foldl _ (fun _ _ => ?_) _ _).trans ?_ |
    refine (State.still_abortRounds_of ‹_›).trans ?_

@[simp] theorem State.still_dropRounds (s : State) (n : Nat) :
    (State.dropRounds s n).still = s.still := by
  unfold State.dropRounds
  repeat' first | (simp [*]; done) | split | simp [*] |
    refine (State.still_foldl _ (fun _ _ => ?_) _ _).trans ?_ |
    refine (State.still_foldl_snd _ (fun _ _ => ?_) _ _).trans ?_

@[simp] theorem State.still_accessError (s : State) (a : Access) (p : Word) :
    (State.accessError s a p).still = s.still := by
  unfold State.accessError
  repeat' first | (simp [*]; done) | split | simp [*] |
    refine (State.still_foldl _ (fun _ _ => ?_) _ _).trans ?_

@[simp] theorem State.still_oldLineError (s : State) (v : Nat) (m : Nat) (line : Nat) :
    (State.oldLineError s v m line).still = s.still := by
  unfold State.oldLineError
  repeat' first | (simp [*]; done) | split | simp [*] |
    refine (State.still_foldl _ (fun _ _ => ?_) _ _).trans ?_

@[simp] theorem State.still_restoreError (s : State) (n : Nat) (off : Nat) :
    (State.restoreError s n off).still = s.still := by
  unfold State.restoreError
  repeat' first | (simp [*]; done) | split | simp [*] |
    refine (State.still_foldl _ (fun _ _ => ?_) _ _).trans ?_

@[simp] theorem State.still_collLost (s : State) (detail : Nat) (peer : Nat) (n : Nat) (k : Coll) :
    (State.collLost s detail peer n k).2.still = s.still := by
  unfold State.collLost
  repeat' first | (simp [*]; done) | split | simp [*] |
    refine (State.still_foldl _ (fun _ _ => ?_) _ _).trans ?_

theorem State.still_collLost_of {s : State} {detail : Nat} {peer : Nat} {n : Nat} {k : Coll} {r : Bool} {t : State} (heq : State.collLost s detail peer n k = (r, t)) :
    t.still = s.still := by
  rw [← State.still_collLost s detail peer n k , heq]

@[simp] theorem State.still_loseColl (s : State) (detail : Nat) (peer : Nat) (n : Nat) (k : Coll) :
    (State.loseColl s detail peer n k).still = s.still := by
  unfold State.loseColl
  repeat' first | (simp [*]; done) | split | simp [*] |
    refine (State.still_foldl _ (fun _ _ => ?_) _ _).trans ?_ |
    refine (State.still_collLost_of ‹_›).trans ?_

@[simp] theorem State.still_loseAccess (s : State) (a : Access) :
    (State.loseAccess s a).still = s.still := by
  unfold State.loseAccess
  repeat' first | (simp [*]; done) | split | simp [*] |
    refine (State.still_foldl _ (fun _ _ => ?_) _ _).trans ?_

@[simp] theorem State.still_lose (s : State) (detail : Nat) (peer : Nat) (n : Nat) :
    (State.lose s detail peer n).still = s.still := by
  unfold State.lose
  repeat' first | (simp [*]; done) | split | simp [*] |
    refine (State.still_foldl _ (fun _ _ => ?_) _ _).trans ?_ |
    refine (State.still_foldl_snd _ (fun _ _ => ?_) _ _).trans ?_

@[simp] theorem State.still_grant (s : State) (n : Nat) :
    (State.grant s n).still = s.still := by
  unfold State.grant
  repeat' first | (simp [*]; done) | split | simp [*] |
    refine (State.still_foldl _ (fun _ _ => ?_) _ _).trans ?_

@[simp] theorem State.still_tuned (s : State) (n : Nat) (tag : Nat) :
    (State.tuned s n tag).still = s.still := by
  unfold State.tuned
  repeat' first | (simp [*]; done) | split | simp [*] |
    refine (State.still_foldl _ (fun _ _ => ?_) _ _).trans ?_

@[simp] theorem State.still_saveCore (s : State) (n : Nat) (c : Nat) (r : CurtRec) :
    (State.saveCore s n c r).still = s.still := by
  unfold State.saveCore
  repeat' first | (simp [*]; done) | split | simp [*] |
    refine (State.still_foldl _ (fun _ _ => ?_) _ _).trans ?_ |
    refine (State.still_foldl_snd _ (fun _ _ => ?_) _ _).trans ?_

@[simp] theorem State.still_wakeQuads (s : State) (qs : List Nat) :
    (State.wakeQuads s qs).still = s.still := by
  unfold State.wakeQuads
  repeat' first | (simp [*]; done) | split | simp [*] |
    refine (State.still_foldl _ (fun _ _ => ?_) _ _).trans ?_ |
    refine (State.still_foldl_snd _ (fun _ _ => ?_) _ _).trans ?_

@[simp] theorem State.still_giveQuads (s : State) (n : Nat) (qs : List Nat) (done : Instr) :
    (State.giveQuads s n qs done).still = s.still := by
  unfold State.giveQuads
  repeat' first | (simp [*]; done) | split | simp [*] |
    refine (State.still_foldl _ (fun _ _ => ?_) _ _).trans ?_

@[simp] theorem State.still_restoreCores (s : State) (n : Nat) :
    (State.restoreCores s n).still = s.still := by
  unfold State.restoreCores
  repeat' first | (simp [*]; done) | split | simp [*] |
    refine (State.still_foldl _ (fun _ _ => ?_) _ _).trans ?_ |
    refine (State.still_foldl_snd _ (fun _ _ => ?_) _ _).trans ?_

@[simp] theorem State.still_leaveStubs (s : State) (n : Nat) :
    (State.leaveStubs s n).still = s.still := by
  unfold State.leaveStubs
  repeat' first | (simp [*]; done) | split | simp [*] |
    refine (State.still_foldl _ (fun _ _ => ?_) _ _).trans ?_ |
    refine (State.still_foldl_snd _ (fun _ _ => ?_) _ _).trans ?_

@[simp] theorem State.still_redecide (s : State) (n : Nat) :
    (State.redecide s n).still = s.still := by
  unfold State.redecide
  repeat' first | (simp [*]; done) | split | simp [*] |
    refine (State.still_foldl _ (fun _ _ => ?_) _ _).trans ?_

@[simp] theorem State.still_burn (s : State) (n : Nat) :
    (State.burn s n).still = s.still := by
  unfold State.burn
  repeat' first | (simp [*]; done) | split | simp [*] |
    refine (State.still_foldl _ (fun _ _ => ?_) _ _).trans ?_

@[simp] theorem State.still_endClock (s : State) (n : Nat) :
    (State.endClock s n).still = s.still := by
  unfold State.endClock
  repeat' first | (simp [*]; done) | split | simp [*] |
    refine (State.still_foldl _ (fun _ _ => ?_) _ _).trans ?_

@[simp] theorem State.still_beginClock (s : State) (n : Nat) :
    (State.beginClock s n).still = s.still := by
  unfold State.beginClock
  repeat' first | (simp [*]; done) | split | simp [*] |
    refine (State.still_foldl _ (fun _ _ => ?_) _ _).trans ?_

@[simp] theorem State.still_privileged (s : State) (f : Sys) (ok : Bool) (k : State → State) (hk : ∀ a0, (k a0).still = a0.still) :
    (State.privileged s f ok k).still = s.still := by
  unfold State.privileged
  repeat' first | (simp [*]; done) | split | simp [*] |
    refine (State.still_foldl _ (fun _ _ => ?_) _ _).trans ?_

@[simp] theorem State.still_loadCores (s : State) (g : Nat → Nat → Nat) (lkimg : Nat) (n : Nat) (rank0 : Nat) (cs : List Nat) :
    (State.loadCores s g lkimg n rank0 cs).still = s.still := by
  unfold State.loadCores
  repeat' first | (simp [*]; done) | split | simp [*] |
    refine (State.still_foldl _ (fun _ _ => ?_) _ _).trans ?_ |
    refine (State.still_foldl_snd _ (fun _ _ => ?_) _ _).trans ?_

@[simp] theorem State.still_withBlock (s : State) (p : Word) (k : List Byte → State → State) (hk : ∀ a0 a1, (k a0 a1).still = a1.still) :
    (State.withBlock s p k).still = s.still := by
  unfold State.withBlock
  repeat' first | (simp [*]; done) | split | simp [*] |
    refine (State.still_foldl _ (fun _ _ => ?_) _ _).trans ?_ |
    refine (State.still_withCap _ _ _ _ (fun _ => ?_)).trans ?_ |
    refine (State.still_withPtr _ _ _ _ _ _ (fun _ => ?_)).trans ?_

@[simp] theorem State.still_block (s : State) :
    (State.block s).still = s.still := by
  unfold State.block
  repeat' first | (simp [*]; done) | split | simp [*] |
    refine (State.still_foldl _ (fun _ _ => ?_) _ _).trans ?_

@[simp] theorem State.still_copyData (s : State) (n : Nat) (g : Nat → Nat → Nat) (e : Nat × Nat × Nat × Nat) :
    (State.copyData s n g e).still = s.still := by
  unfold State.copyData
  repeat' first | (simp [*]; done) | split | simp [*] |
    refine (State.still_foldl _ (fun _ _ => ?_) _ _).trans ?_ |
    refine (State.still_foldl_snd _ (fun _ _ => ?_) _ _).trans ?_

@[simp] theorem State.still_dropTlb (s : State) (p : TlbEntry → Bool) :
    (State.dropTlb s p).still = s.still := by
  unfold State.dropTlb
  repeat' first | (simp [*]; done) | split | simp [*] |
    refine (State.still_foldl _ (fun _ _ => ?_) _ _).trans ?_

@[simp] theorem State.still_setMig (s : State) (v : Nat) (m : Nat) (b : BitVec 8) :
    (State.setMig s v m b).still = s.still := by
  unfold State.setMig
  repeat' first | (simp [*]; done) | split | simp [*] |
    refine (State.still_foldl _ (fun _ _ => ?_) _ _).trans ?_

@[simp] theorem State.still_beginTlbi (s : State) (n : Nat) (sc : TlbScope) :
    (State.beginTlbi s n sc).still = s.still := by
  unfold State.beginTlbi
  repeat' first | (simp [*]; done) | split | simp [*] |
    refine (State.still_foldl _ (fun _ _ => ?_) _ _).trans ?_ |
    refine (State.still_foldl_snd _ (fun _ _ => ?_) _ _).trans ?_

@[simp] theorem State.still_rereadRoot (s : State) (n : Nat) :
    (State.rereadRoot s n).still = s.still := by
  unfold State.rereadRoot
  repeat' first | (simp [*]; done) | split | simp [*] |
    refine (State.still_foldl _ (fun _ _ => ?_) _ _).trans ?_

@[simp] theorem State.still_migGo (s : State) (v : Nat) (m : Nat) (n : Nat) (sv : Nat) :
    (State.migGo s v m n sv).still = s.still := by
  unfold State.migGo
  repeat' first | (simp [*]; done) | split | simp [*] |
    refine (State.still_foldl _ (fun _ _ => ?_) _ _).trans ?_

@[simp] theorem State.still_hostWrite (s : State) (addr : Nat) (data : List Byte) :
    (State.hostWrite s addr data).still = s.still := by
  unfold State.hostWrite
  repeat' first | (simp [*]; done) | split | simp [*] |
    refine (State.still_foldl _ (fun _ _ => ?_) _ _).trans ?_ |
    refine (State.still_foldl_snd _ (fun _ _ => ?_) _ _).trans ?_

@[simp] theorem State.still_misuseOf (s : State) (v : Nat) :
    (State.misuseOf s v).still = s.still := by
  unfold State.misuseOf
  repeat' first | (simp [*]; done) | split | simp [*] |
    refine (State.still_foldl _ (fun _ _ => ?_) _ _).trans ?_

@[simp] theorem State.still_migWrite (s : State) (c : Nat) (reg : Nat) (v : Word) :
    (State.migWrite s c reg v).still = s.still := by
  unfold State.migWrite
  repeat' first | (simp [*]; done) | split | simp [*] |
    refine (State.still_foldl _ (fun _ _ => ?_) _ _).trans ?_

@[simp] theorem State.still_groupWrite (s : State) (c : Nat) (g : Nat) (i : Nat) (v : Word) :
    (State.groupWrite s c g i v).still = s.still := by
  unfold State.groupWrite
  repeat' first | (simp [*]; done) | split | simp [*] |
    refine (State.still_foldl _ (fun _ _ => ?_) _ _).trans ?_

@[simp] theorem State.still_compare (s : State) (g : Nat) (member : Nat) (c : GroupCfg) :
    (State.compare s g member c).still = s.still := by
  unfold State.compare
  repeat' first | (simp [*]; done) | split | simp [*] |
    refine (State.still_foldl _ (fun _ _ => ?_) _ _).trans ?_

@[simp] theorem State.still_fence (s : State) (q : Nat) (bits : BitVec 16) :
    (State.fence s q bits).still = s.still := by
  unfold State.fence
  repeat' first | (simp [*]; done) | split | simp [*] |
    refine (State.still_foldl _ (fun _ _ => ?_) _ _).trans ?_ |
    refine (State.still_foldl_snd _ (fun _ _ => ?_) _ _).trans ?_

@[simp] theorem State.still_blurCells (s : State) (c : Nat) (bad : BitVec 4) :
    (State.blurCells s c bad).still = s.still := by
  unfold State.blurCells
  repeat' first | (simp [*]; done) | split | simp [*] |
    refine (State.still_foldl _ (fun _ _ => ?_) _ _).trans ?_ |
    refine (State.still_foldl_snd _ (fun _ _ => ?_) _ _).trans ?_

@[simp] theorem State.still_blurStore (s : State) (n : Nat) (w : PWrite) :
    (State.blurStore s n w).still = s.still := by
  unfold State.blurStore
  repeat' first | (simp [*]; done) | split | simp [*] |
    refine (State.still_foldl _ (fun _ _ => ?_) _ _).trans ?_ |
    refine (State.still_freeBytes_of ‹_›).trans ?_ |
    refine (State.still_foldl_snd _ (fun _ _ => ?_) _ _).trans ?_

@[simp] theorem State.still_blurDrained (s : State) (c : Nat) (d : Drained) :
    (State.blurDrained s c d).still = s.still := by
  unfold State.blurDrained
  repeat' first | (simp [*]; done) | split | simp [*] |
    refine (State.still_foldl _ (fun _ _ => ?_) _ _).trans ?_ |
    refine (State.still_freeBytes_of ‹_›).trans ?_ |
    refine (State.still_foldl_snd _ (fun _ _ => ?_) _ _).trans ?_

@[simp] theorem State.still_blurArray (s : State) (c : Nat) (bad : BitVec 4) :
    (State.blurArray s c bad).still = s.still := by
  unfold State.blurArray
  repeat' first | (simp [*]; done) | split | simp [*] |
    refine (State.still_foldl _ (fun _ _ => ?_) _ _).trans ?_ |
    refine (State.still_foldl_snd _ (fun _ _ => ?_) _ _).trans ?_

@[simp] theorem State.still_modEye (s : State) (d : Nat) (l : BitVec 24) (f : Eye → Eye) :
    (State.modEye s d l f).still = s.still := by
  unfold State.modEye
  repeat' first | (simp [*]; done) | split | simp [*] |
    refine (State.still_foldl _ (fun _ _ => ?_) _ _).trans ?_

@[simp] theorem State.still_laneEvent (s : State) (d : Nat) (l : BitVec 24) (lst : Nat) :
    (State.laneEvent s d l lst).still = s.still := by
  unfold State.laneEvent
  repeat' first | (simp [*]; done) | split | simp [*] |
    refine (State.still_foldl _ (fun _ _ => ?_) _ _).trans ?_

@[simp] theorem State.still_requestSlice (s : State) (d : Nat) (l : BitVec 24) (repair : Bool) :
    (State.requestSlice s d l repair).still = s.still := by
  unfold State.requestSlice
  repeat' first | (simp [*]; done) | split | simp [*] |
    refine (State.still_foldl _ (fun _ _ => ?_) _ _).trans ?_

@[simp] theorem State.still_repairLane (s : State) (d : Nat) (l : BitVec 24) :
    (State.repairLane s d l).still = s.still := by
  unfold State.repairLane
  repeat' first | (simp [*]; done) | split | simp [*] |
    refine (State.still_foldl _ (fun _ _ => ?_) _ _).trans ?_

@[simp] theorem State.still_centreLane (s : State) (d : Nat) (l : BitVec 24) :
    (State.centreLane s d l).still = s.still := by
  unfold State.centreLane
  repeat' first | (simp [*]; done) | split | simp [*] |
    refine (State.still_foldl _ (fun _ _ => ?_) _ _).trans ?_

@[simp] theorem State.still_trainGroup (d : Nat) (kind : Nat) (idx : Nat) (g : Nat) (x4 : Nat) (x5 : State) :
    (State.trainGroup d kind idx g x4 x5).still = x5.still := by
  induction x4 generalizing x5 with
  | zero => rfl
  | succ n ih =>
    have e := State.still_foldl (fun (s : State) l => s.centreLane d l) (fun _ _ => State.still_centreLane _ _ _) (x5.carrying d kind idx g) x5
    unfold State.trainGroup
    dsimp only
    split
    · exact e
    · exact (ih _).trans ((State.still_foldl _ (fun _ _ => by simp) _ _).trans e)

@[simp] theorem State.still_trainGroups (s : State) (d : Nat) (kind : Nat) (idx : Nat) (gs : List Nat) :
    (State.trainGroups s d kind idx gs).2.still = s.still := by
  unfold State.trainGroups
  repeat' first | (simp [*]; done) | split | simp [*] |
    refine (State.still_foldl _ (fun _ _ => ?_) _ _).trans ?_ |
    refine (State.still_foldl_snd _ (fun _ _ => ?_) _ _).trans ?_

theorem State.still_trainGroups_of {s : State} {d : Nat} {kind : Nat} {idx : Nat} {gs : List Nat} {r : Bool} {t : State} (heq : State.trainGroups s d kind idx gs = (r, t)) :
    t.still = s.still := by
  rw [← State.still_trainGroups s d kind idx gs , heq]

@[simp] theorem State.still_trainLink (s : State) (d : Nat) (kind : Nat) (idx : Nat) :
    (State.trainLink s d kind idx).2.still = s.still := by
  unfold State.trainLink
  repeat' first | (simp [*]; done) | split | simp [*] |
    refine (State.still_foldl _ (fun _ _ => ?_) _ _).trans ?_ |
    refine (State.still_trainGroups_of ‹_›).trans ?_

theorem State.still_trainLink_of {s : State} {d : Nat} {kind : Nat} {idx : Nat} {r : Bool} {t : State} (heq : State.trainLink s d kind idx = (r, t)) :
    t.still = s.still := by
  rw [← State.still_trainLink s d kind idx , heq]

@[simp] theorem State.still_trainSlice (s : State) (d : Nat) (l : BitVec 24) :
    (State.trainSlice s d l).still = s.still := by
  unfold State.trainSlice
  repeat' first | (simp [*]; done) | split | simp [*] |
    refine (State.still_foldl _ (fun _ _ => ?_) _ _).trans ?_ |
    refine (State.still_trainGroups_of ‹_›).trans ?_

@[simp] theorem State.still_repairAsked (s : State) (d : Nat) (l : BitVec 24) :
    (State.repairAsked s d l).still = s.still := by
  unfold State.repairAsked
  repeat' first | (simp [*]; done) | split | simp [*] |
    refine (State.still_foldl _ (fun _ _ => ?_) _ _).trans ?_ |
    refine (State.still_foldl_snd _ (fun _ _ => ?_) _ _).trans ?_

@[simp] theorem State.still_turnOn (s : State) (r : Inrush) :
    (State.turnOn s r).still = s.still := by
  unfold State.turnOn
  repeat' first | (simp [*]; done) | split | simp [*] |
    refine (State.still_foldl _ (fun _ _ => ?_) _ _).trans ?_

@[simp] theorem State.still_powerCheck (s : State) (n : Nat) :
    (State.powerCheck s n).still = s.still := by
  unfold State.powerCheck
  repeat' first | (simp [*]; done) | split | simp [*] |
    refine (State.still_foldl _ (fun _ _ => ?_) _ _).trans ?_ |
    refine (State.still_foldl_snd _ (fun _ _ => ?_) _ _).trans ?_

@[simp] theorem State.still_modBoot (s : State) (f : Boot → Boot) :
    (State.modBoot s f).still = s.still := by
  unfold State.modBoot
  repeat' first | (simp [*]; done) | split | simp [*] |
    refine (State.still_foldl _ (fun _ _ => ?_) _ _).trans ?_

@[simp] theorem State.still_failStart (s : State) (reason : Nat) :
    (State.failStart s reason).still = s.still := by
  unfold State.failStart
  repeat' first | (simp [*]; done) | split | simp [*] |
    refine (State.still_foldl _ (fun _ _ => ?_) _ _).trans ?_

@[simp] theorem State.still_startFirmware (s : State) :
    (State.startFirmware s).still = s.still := by
  unfold State.startFirmware
  repeat' first | (simp [*]; done) | split | simp [*] |
    refine (State.still_foldl _ (fun _ _ => ?_) _ _).trans ?_ |
    refine (State.still_foldl_snd _ (fun _ _ => ?_) _ _).trans ?_

@[simp] theorem State.still_modBox (s : State) (fn : Nat) (f : Mailbox → Mailbox) :
    (State.modBox s fn f).still = s.still := by
  unfold State.modBox
  repeat' first | (simp [*]; done) | split | simp [*] |
    refine (State.still_foldl _ (fun _ _ => ?_) _ _).trans ?_

@[simp] theorem State.still_measure (s : State) (i : Nat) (digest : BitVec 256) :
    (State.measure s i digest).still = s.still := by
  unfold State.measure
  repeat' first | (simp [*]; done) | split | simp [*] |
    refine (State.still_foldl _ (fun _ _ => ?_) _ _).trans ?_

@[simp] theorem State.still_command (s : State) (opcode : Nat) (k : Nat → State) (hk : ∀ a0, (k a0).still = s.still) :
    (State.command s opcode k).still = s.still := by
  unfold State.command
  repeat' first | (simp [*]; done) | split | simp [*] |
    refine (State.still_foldl _ (fun _ _ => ?_) _ _).trans ?_

@[simp] theorem State.still_answer (s : State) (fn : Nat) (status : Nat) (reply : List Byte) :
    (State.answer s fn status reply).still = s.still := by
  unfold State.answer
  repeat' first | (simp [*]; done) | split | simp [*] |
    refine (State.still_foldl _ (fun _ _ => ?_) _ _).trans ?_

@[simp] theorem State.still_thaw (s : State) (master : Nat) :
    (State.thaw s master).still = s.still := by
  unfold State.thaw
  repeat' first | (simp [*]; done) | split | simp [*] |
    refine (State.still_foldl _ (fun _ _ => ?_) _ _).trans ?_

@[simp] theorem State.still_setCold (s : State) (d : Nat) (x : Cold) :
    (State.setCold s d x).still = s.still := by
  unfold State.setCold
  repeat' first | (simp [*]; done) | split | simp [*] |
    refine (State.still_foldl _ (fun _ _ => ?_) _ _).trans ?_

@[simp] theorem State.still_powerQuads (s : State) (d : Nat) :
    (State.powerQuads s d).still = s.still := by
  unfold State.powerQuads
  repeat' first | (simp [*]; done) | split | simp [*] |
    refine (State.still_foldl _ (fun _ _ => ?_) _ _).trans ?_ |
    refine (State.still_foldl_snd _ (fun _ _ => ?_) _ _).trans ?_

@[simp] theorem State.still_powerStack (s : State) (d : Nat) (k : Nat) :
    (State.powerStack s d k).still = s.still := by
  unfold State.powerStack
  repeat' first | (simp [*]; done) | split | simp [*] |
    refine (State.still_foldl _ (fun _ _ => ?_) _ _).trans ?_

@[simp] theorem State.still_quadsOff (s : State) (d : Nat) :
    (State.quadsOff s d).still = s.still := by
  unfold State.quadsOff
  repeat' first | (simp [*]; done) | split | simp [*] |
    refine (State.still_foldl _ (fun _ _ => ?_) _ _).trans ?_

@[simp] theorem State.still_stacksOff (s : State) (d : Nat) :
    (State.stacksOff s d).still = s.still := by
  unfold State.stacksOff
  repeat' first | (simp [*]; done) | split | simp [*] |
    refine (State.still_foldl _ (fun _ _ => ?_) _ _).trans ?_

@[simp] theorem State.still_bootTest (s : State) (d : Nat) :
    (State.bootTest s d).still = s.still := by
  unfold State.bootTest
  repeat' first | (simp [*]; done) | split | simp [*] |
    refine (State.still_foldl _ (fun _ _ => ?_) _ _).trans ?_ |
    refine (State.still_foldl_snd _ (fun _ _ => ?_) _ _).trans ?_

@[simp] theorem State.still_selfHeat (s : State) (d : Nat) :
    (State.selfHeat s d).still = s.still := by
  unfold State.selfHeat
  repeat' first | (simp [*]; done) | split | simp [*] |
    refine (State.still_foldl _ (fun _ _ => ?_) _ _).trans ?_

@[simp] theorem State.still_coldDone (s : State) :
    (State.coldDone s).still = s.still := by
  unfold State.coldDone
  repeat' first | (simp [*]; done) | split | simp [*] |
    refine (State.still_foldl _ (fun _ _ => ?_) _ _).trans ?_

@[simp] theorem State.still_calibrate (s : State) :
    (State.calibrate s).2.still = s.still := by
  unfold State.calibrate
  repeat' first | (simp [*]; done) | split | simp [*] |
    refine (State.still_foldl _ (fun _ _ => ?_) _ _).trans ?_

theorem State.still_calibrate_of {s : State}  {r : Bool} {t : State} (heq : State.calibrate s = (r, t)) :
    t.still = s.still := by
  rw [← State.still_calibrate s , heq]

@[simp] theorem State.still_linkUp (s : State) (l : Nat × Nat × Nat) :
    (State.linkUp s l).still = s.still := by
  unfold State.linkUp
  repeat' first | (simp [*]; done) | split | simp [*] |
    refine (State.still_foldl _ (fun _ _ => ?_) _ _).trans ?_

@[simp] theorem State.still_trainStacks (s : State) (d : Nat) :
    (State.trainStacks s d).still = s.still := by
  unfold State.trainStacks
  repeat' first | (simp [*]; done) | split | simp [*] |
    refine (State.still_foldl _ (fun _ _ => ?_) _ _).trans ?_ |
    refine (State.still_trainLink_of ‹_›).trans ?_ |
    intro _

@[simp] theorem State.still_trainBridge (s : State) (d : Nat) (edge : Nat) :
    (State.trainBridge s d edge).still = s.still := by
  unfold State.trainBridge
  repeat' first | (simp [*]; done) | split | simp [*] |
    refine (State.still_foldl _ (fun _ _ => ?_) _ _).trans ?_ |
    refine (State.still_trainLink_of ‹_›).trans ?_ |
    intro _

@[simp] theorem State.still_trainPort (s : State) (d : Nat) (port : Nat) :
    (State.trainPort s d port).still = s.still := by
  unfold State.trainPort
  repeat' first | (simp [*]; done) | split | simp [*] |
    refine (State.still_foldl _ (fun _ _ => ?_) _ _).trans ?_ |
    refine (State.still_trainLink_of ‹_›).trans ?_

@[simp] theorem State.still_coldEnd (s : State) (d : Nat) :
    (State.coldEnd s d).still = s.still := by
  unfold State.coldEnd
  repeat' first | (simp [*]; done) | split | simp [*] |
    refine (State.still_foldl _ (fun _ _ => ?_) _ _).trans ?_

@[simp] theorem State.still_trainEdges (s : State) (d : Nat) :
    (State.trainEdges s d).still = s.still := by
  unfold State.trainEdges
  repeat' first | (simp [*]; done) | split | simp [*] |
    refine (State.still_foldl _ (fun _ _ => ?_) _ _).trans ?_ |
    refine (State.still_foldl_snd _ (fun _ _ => ?_) _ _).trans ?_

@[simp] theorem State.still_train (s : State) (d : Nat) :
    (State.train s d).still = s.still := by
  unfold State.train
  repeat' first | (simp [*]; done) | split | simp [*] |
    refine (State.still_foldl _ (fun _ _ => ?_) _ _).trans ?_ |
    refine (State.still_calibrate_of ‹_›).trans ?_

@[simp] theorem State.still_coldStep (s : State) (d : Nat) (coldest : Int) :
    (State.coldStep s d coldest).still = s.still := by
  unfold State.coldStep
  repeat' first | (simp [*]; done) | split | simp [*] |
    refine (State.still_foldl _ (fun _ _ => ?_) _ _).trans ?_

@[simp] theorem State.still_modThermal (s : State) (d : Nat) (f : Thermal → Thermal) :
    (State.modThermal s d f).still = s.still := by
  unfold State.modThermal
  repeat' first | (simp [*]; done) | split | simp [*] |
    refine (State.still_foldl _ (fun _ _ => ?_) _ _).trans ?_

@[simp] theorem State.still_planZone (s : State) (d : Nat) :
    (State.planZone s d).still = s.still := by
  unfold State.planZone
  repeat' first | (simp [*]; done) | split | simp [*] |
    refine (State.still_foldl _ (fun _ _ => ?_) _ _).trans ?_

@[simp] theorem State.still_relevelDie (s : State) (d : Nat) (f : State → State) (hf : ∀ a0, (f a0).still = a0.still) :
    (State.relevelDie s d f).still = s.still := by
  unfold State.relevelDie
  repeat' first | (simp [*]; done) | split | simp [*] |
    refine (State.still_foldl _ (fun _ _ => ?_) _ _).trans ?_ |
    refine (State.still_foldl_snd _ (fun _ _ => ?_) _ _).trans ?_

@[simp] theorem State.still_warnEvent (s : State) (d : Nat) (enter : Bool) :
    (State.warnEvent s d enter).still = s.still := by
  unfold State.warnEvent
  repeat' first | (simp [*]; done) | split | simp [*] |
    refine (State.still_foldl _ (fun _ _ => ?_) _ _).trans ?_

@[simp] theorem State.still_stopDie (s : State) (d : Nat) :
    (State.stopDie s d).still = s.still := by
  unfold State.stopDie
  repeat' first | (simp [*]; done) | split | simp [*] |
    refine (State.still_foldl _ (fun _ _ => ?_) _ _).trans ?_ |
    refine (State.still_foldl_snd _ (fun _ _ => ?_) _ _).trans ?_

@[simp] theorem State.still_enterZone (s : State) (d : Nat) (w : Nat) :
    (State.enterZone s d w).still = s.still := by
  unfold State.enterZone
  repeat' first | (simp [*]; done) | split | simp [*] |
    refine (State.still_foldl _ (fun _ _ => ?_) _ _).trans ?_ |
    refine (State.still_relevelDie _ _ _ (fun _ => ?_)).trans ?_

@[simp] theorem State.still_onGroup (s : State) (i : Instr) (h : GroupHdr) (k : State → Nat → Group → State) (hk : ∀ a0 a1 a2, (k a0 a1 a2).still = a0.still) :
    (State.onGroup s i h k).still = s.still := by
  unfold State.onGroup
  repeat' first | (simp [*]; done) | split | simp [*] |
    refine (State.still_foldl _ (fun _ _ => ?_) _ _).trans ?_ |
    refine (State.still_fromPackage _ _ _ _ (fun _ => ?_)).trans ?_

@[simp] theorem State.still_releasePend (s : State) (g : Nat) (round : Nat) :
    (State.releasePend s g round).still = s.still := by
  unfold State.releasePend
  repeat' first | (simp [*]; done) | split | simp [*] |
    refine (State.still_foldl _ (fun _ _ => ?_) _ _).trans ?_

@[simp] theorem State.still_foldRound (s : State) (g : Nat) (round : Nat) :
    (State.foldRound s g round).still = s.still := by
  unfold State.foldRound
  repeat' first | (simp [*]; done) | split | simp [*] |
    refine (State.still_foldl _ (fun _ _ => ?_) _ _).trans ?_ |
    refine (State.still_foldl_snd _ (fun _ _ => ?_) _ _).trans ?_

@[simp] theorem State.still_foldReach (s : State) (g : Nat) (round : Nat) :
    (eitherOf (State.foldReach s g round)).still = s.still := by
  unfold State.foldReach
  repeat' first | (simp [*]; done) | split | simp [*] |
    refine (State.still_foldl _ (fun _ _ => ?_) _ _).trans ?_ |
    refine (State.still_capAccess_ok ‹_›).trans ?_ |
    refine (State.still_capAccess_error ‹_›).trans ?_ |
    refine (State.still_foldlM _ (fun _ _ => ?_) _ _).trans ?_ |
    refine (State.still_foldl_snd _ (fun _ _ => ?_) _ _).trans ?_

theorem State.still_foldReach_ok {s : State} {g : Nat} {round : Nat} {t : State} (heq : State.foldReach s g round = .ok t) :
    t.still = s.still := by
  rw [← State.still_foldReach s g round, heq]
  rfl

theorem State.still_foldReach_error {s : State} {g : Nat} {round : Nat} {t : State} (heq : State.foldReach s g round = .error t) :
    t.still = s.still := by
  rw [← State.still_foldReach s g round, heq]
  rfl

@[simp] theorem State.still_settleByAnswers (s : State) (g : Nat) :
    (State.settleByAnswers s g).still = s.still := by
  unfold State.settleByAnswers
  repeat' first | (simp [*]; done) | split | simp [*] |
    refine (State.still_foldl _ (fun _ _ => ?_) _ _).trans ?_

@[simp] theorem State.still_takeOver (s : State) (g : Nat) :
    (State.takeOver s g).still = s.still := by
  unfold State.takeOver
  repeat' first | (simp [*]; done) | split | simp [*] |
    refine (State.still_foldl _ (fun _ _ => ?_) _ _).trans ?_

@[simp] theorem State.still_settleLoss (s : State) (g : Nat) (member : Nat) (before : Group) :
    (State.settleLoss s g member before).still = s.still := by
  unfold State.settleLoss
  repeat' first | (simp [*]; done) | split | simp [*] |
    refine (State.still_foldl _ (fun _ _ => ?_) _ _).trans ?_

@[simp] theorem State.still_lostMember (s : State) (g : Nat) (member : Nat) :
    (State.lostMember s g member).still = s.still := by
  unfold State.lostMember
  repeat' first | (simp [*]; done) | split | simp [*] |
    refine (State.still_foldl _ (fun _ _ => ?_) _ _).trans ?_

@[simp] theorem State.still_rebuildStripe (s : State) (g : Nat) (r : Rebuild) (p : Stripe) :
    (State.rebuildStripe s g r p).still = s.still := by
  unfold State.rebuildStripe
  repeat' first | (simp [*]; done) | split | simp [*] |
    refine (State.still_foldl _ (fun _ _ => ?_) _ _).trans ?_ |
    refine (State.still_capAccess_ok ‹_›).trans ?_ |
    refine (State.still_capAccess_error ‹_›).trans ?_

@[simp] theorem State.still_supEnter (s : State) (c : Nat) :
    (State.supEnter s c).still = s.still := by
  unfold State.supEnter
  repeat' first | (simp [*]; done) | split | simp [*] |
    refine (State.still_foldl _ (fun _ _ => ?_) _ _).trans ?_

@[simp] theorem State.still_supDone (s : State) (c : Nat) :
    (State.supDone s c).still = s.still := by
  unfold State.supDone
  repeat' first | (simp [*]; done) | split | simp [*] |
    refine (State.still_foldl _ (fun _ _ => ?_) _ _).trans ?_

@[simp] theorem State.still_fetch (s : State) (c : Nat) (st : Nat) :
    (State.fetch s c st).2.still = s.still := by
  unfold State.fetch
  repeat' first | (simp [*]; done) | split | simp [*] |
    refine (State.still_foldl _ (fun _ _ => ?_) _ _).trans ?_

theorem State.still_fetch_of {s : State} {c : Nat} {st : Nat} {r : Option Instr} {t : State} (heq : State.fetch s c st = (r, t)) :
    t.still = s.still := by
  rw [← State.still_fetch s c st , heq]

@[simp] theorem State.still_runPiece (s : State) (c : Nat) (st : Nat) :
    (State.runPiece s c st).still = s.still := by
  unfold State.runPiece
  repeat' first | (simp [*]; done) | split | simp [*] |
    refine (State.still_foldl _ (fun _ _ => ?_) _ _).trans ?_ |
    refine (State.still_pieceWith _ _ (fun _ _ => ?_)).trans ?_

end Sys2Proof.Machine
end

