-- ==== Sys2Proof/Laws/StillMeanings.lean ====
section
/-! SUPPORT. The frame of the clock, the in-rush arbiter and the caps for the meanings: all but `TC_ADVANCE`, `INRUSH_REQUEST`,
`INRUSH_COMPLETE` and `RESET` leave the parts of `State.still` alone. -/

set_option linter.all false

namespace Sys2Proof.Machine

theorem still_execJmp (h : Hdr) (f : Jmp) (s : State) :
    ∀ t, execJmp h f s = .next t → t.still = s.still := by
  intro t h
  unfold execJmp at h
  simp only [Host.Outcome.next.injEq] at h
  subst h
  repeat' first | (simp [*]; done) | split | simp [*] |
    refine (State.still_foldl _ (fun _ _ => ?_) _ _).trans ?_

theorem still_execCall (h : Hdr) (f : Jmp) (s : State) :
    ∀ t, execCall h f s = .next t → t.still = s.still := by
  intro t h
  unfold execCall at h
  simp only [Host.Outcome.next.injEq] at h
  subst h
  repeat' first | (simp [*]; done) | split | simp [*] |
    refine (State.still_foldl _ (fun _ _ => ?_) _ _).trans ?_

theorem still_execRet (h : Hdr) (f : Ret) (s : State) :
    ∀ t, execRet h f s = .next t → t.still = s.still := by
  intro t h
  unfold execRet at h
  simp only [Host.Outcome.next.injEq] at h
  subst h
  repeat' first | (simp [*]; done) | split | simp [*] |
    refine (State.still_foldl _ (fun _ _ => ?_) _ _).trans ?_

theorem still_execLoop (h : Hdr) (f : Loop) (s : State) :
    ∀ t, execLoop h f s = .next t → t.still = s.still := by
  intro t h
  unfold execLoop at h
  simp only [Host.Outcome.next.injEq] at h
  subst h
  repeat' first | (simp [*]; done) | split | simp [*] |
    refine (State.still_foldl _ (fun _ _ => ?_) _ _).trans ?_

theorem still_execLring (h : Hdr) (f : Lring) (s : State) :
    ∀ t, execLring h f s = .next t → t.still = s.still := by
  intro t h
  unfold execLring at h
  simp only [Host.Outcome.next.injEq] at h
  subst h
  repeat' first | (simp [*]; done) | split | simp [*] |
    refine (State.still_foldl _ (fun _ _ => ?_) _ _).trans ?_

theorem still_execAdd (x0 : Hdr) (f : Rrr) (s : State) :
    ∀ t, execAdd x0 f s = .next t → t.still = s.still := by
  intro t h
  unfold execAdd at h
  simp only [Host.Outcome.next.injEq] at h
  subst h
  repeat' first | (simp [*]; done) | split | simp [*] |
    refine (State.still_foldl _ (fun _ _ => ?_) _ _).trans ?_

theorem still_execSub (x0 : Hdr) (f : Rrr) (s : State) :
    ∀ t, execSub x0 f s = .next t → t.still = s.still := by
  intro t h
  unfold execSub at h
  simp only [Host.Outcome.next.injEq] at h
  subst h
  repeat' first | (simp [*]; done) | split | simp [*] |
    refine (State.still_foldl _ (fun _ _ => ?_) _ _).trans ?_

theorem still_execMul (x0 : Hdr) (f : Rrr) (s : State) :
    ∀ t, execMul x0 f s = .next t → t.still = s.still := by
  intro t h
  unfold execMul at h
  simp only [Host.Outcome.next.injEq] at h
  subst h
  repeat' first | (simp [*]; done) | split | simp [*] |
    refine (State.still_foldl _ (fun _ _ => ?_) _ _).trans ?_

theorem still_execMulh (x0 : Hdr) (f : Rrr) (s : State) :
    ∀ t, execMulh x0 f s = .next t → t.still = s.still := by
  intro t h
  unfold execMulh at h
  simp only [Host.Outcome.next.injEq] at h
  subst h
  repeat' first | (simp [*]; done) | split | simp [*] |
    refine (State.still_foldl _ (fun _ _ => ?_) _ _).trans ?_

theorem still_execDiv (x0 : Hdr) (f : Rrr) (s : State) :
    ∀ t, execDiv x0 f s = .next t → t.still = s.still := by
  intro t h
  unfold execDiv at h
  simp only [Host.Outcome.next.injEq] at h
  subst h
  repeat' first | (simp [*]; done) | split | simp [*] |
    refine (State.still_foldl _ (fun _ _ => ?_) _ _).trans ?_

theorem still_execRem (x0 : Hdr) (f : Rrr) (s : State) :
    ∀ t, execRem x0 f s = .next t → t.still = s.still := by
  intro t h
  unfold execRem at h
  simp only [Host.Outcome.next.injEq] at h
  subst h
  repeat' first | (simp [*]; done) | split | simp [*] |
    refine (State.still_foldl _ (fun _ _ => ?_) _ _).trans ?_

theorem still_execAnd (x0 : Hdr) (f : Rrr) (s : State) :
    ∀ t, execAnd x0 f s = .next t → t.still = s.still := by
  intro t h
  unfold execAnd at h
  simp only [Host.Outcome.next.injEq] at h
  subst h
  repeat' first | (simp [*]; done) | split | simp [*] |
    refine (State.still_foldl _ (fun _ _ => ?_) _ _).trans ?_

theorem still_execOr (x0 : Hdr) (f : Rrr) (s : State) :
    ∀ t, execOr x0 f s = .next t → t.still = s.still := by
  intro t h
  unfold execOr at h
  simp only [Host.Outcome.next.injEq] at h
  subst h
  repeat' first | (simp [*]; done) | split | simp [*] |
    refine (State.still_foldl _ (fun _ _ => ?_) _ _).trans ?_

theorem still_execXor (x0 : Hdr) (f : Rrr) (s : State) :
    ∀ t, execXor x0 f s = .next t → t.still = s.still := by
  intro t h
  unfold execXor at h
  simp only [Host.Outcome.next.injEq] at h
  subst h
  repeat' first | (simp [*]; done) | split | simp [*] |
    refine (State.still_foldl _ (fun _ _ => ?_) _ _).trans ?_

theorem still_execAndn (x0 : Hdr) (f : Rrr) (s : State) :
    ∀ t, execAndn x0 f s = .next t → t.still = s.still := by
  intro t h
  unfold execAndn at h
  simp only [Host.Outcome.next.injEq] at h
  subst h
  repeat' first | (simp [*]; done) | split | simp [*] |
    refine (State.still_foldl _ (fun _ _ => ?_) _ _).trans ?_

theorem still_execShl (x0 : Hdr) (f : Rrr) (s : State) :
    ∀ t, execShl x0 f s = .next t → t.still = s.still := by
  intro t h
  unfold execShl at h
  simp only [Host.Outcome.next.injEq] at h
  subst h
  repeat' first | (simp [*]; done) | split | simp [*] |
    refine (State.still_foldl _ (fun _ _ => ?_) _ _).trans ?_

theorem still_execShr (x0 : Hdr) (f : Rrr) (s : State) :
    ∀ t, execShr x0 f s = .next t → t.still = s.still := by
  intro t h
  unfold execShr at h
  simp only [Host.Outcome.next.injEq] at h
  subst h
  repeat' first | (simp [*]; done) | split | simp [*] |
    refine (State.still_foldl _ (fun _ _ => ?_) _ _).trans ?_

theorem still_execSar (x0 : Hdr) (f : Rrr) (s : State) :
    ∀ t, execSar x0 f s = .next t → t.still = s.still := by
  intro t h
  unfold execSar at h
  simp only [Host.Outcome.next.injEq] at h
  subst h
  repeat' first | (simp [*]; done) | split | simp [*] |
    refine (State.still_foldl _ (fun _ _ => ?_) _ _).trans ?_

theorem still_execMin (x0 : Hdr) (f : Rrr) (s : State) :
    ∀ t, execMin x0 f s = .next t → t.still = s.still := by
  intro t h
  unfold execMin at h
  simp only [Host.Outcome.next.injEq] at h
  subst h
  repeat' first | (simp [*]; done) | split | simp [*] |
    refine (State.still_foldl _ (fun _ _ => ?_) _ _).trans ?_

theorem still_execMax (x0 : Hdr) (f : Rrr) (s : State) :
    ∀ t, execMax x0 f s = .next t → t.still = s.still := by
  intro t h
  unfold execMax at h
  simp only [Host.Outcome.next.injEq] at h
  subst h
  repeat' first | (simp [*]; done) | split | simp [*] |
    refine (State.still_foldl _ (fun _ _ => ?_) _ _).trans ?_

theorem still_execCmp (x0 : Hdr) (f : Rrr) (s : State) :
    ∀ t, execCmp x0 f s = .next t → t.still = s.still := by
  intro t h
  unfold execCmp at h
  simp only [Host.Outcome.next.injEq] at h
  subst h
  repeat' first | (simp [*]; done) | split | simp [*] |
    refine (State.still_foldl _ (fun _ _ => ?_) _ _).trans ?_

theorem still_execSel (x0 : Hdr) (f : Rrr) (s : State) :
    ∀ t, execSel x0 f s = .next t → t.still = s.still := by
  intro t h
  unfold execSel at h
  simp only [Host.Outcome.next.injEq] at h
  subst h
  repeat' first | (simp [*]; done) | split | simp [*] |
    refine (State.still_foldl _ (fun _ _ => ?_) _ _).trans ?_

theorem still_execClz (x0 : Hdr) (f : Rrr) (s : State) :
    ∀ t, execClz x0 f s = .next t → t.still = s.still := by
  intro t h
  unfold execClz at h
  simp only [Host.Outcome.next.injEq] at h
  subst h
  repeat' first | (simp [*]; done) | split | simp [*] |
    refine (State.still_foldl _ (fun _ _ => ?_) _ _).trans ?_

theorem still_execPopc (x0 : Hdr) (f : Rrr) (s : State) :
    ∀ t, execPopc x0 f s = .next t → t.still = s.still := by
  intro t h
  unfold execPopc at h
  simp only [Host.Outcome.next.injEq] at h
  subst h
  repeat' first | (simp [*]; done) | split | simp [*] |
    refine (State.still_foldl _ (fun _ _ => ?_) _ _).trans ?_

theorem still_execAddi (x0 : Hdr) (f : Rri) (s : State) :
    ∀ t, execAddi x0 f s = .next t → t.still = s.still := by
  intro t h
  unfold execAddi at h
  simp only [Host.Outcome.next.injEq] at h
  subst h
  repeat' first | (simp [*]; done) | split | simp [*] |
    refine (State.still_foldl _ (fun _ _ => ?_) _ _).trans ?_

theorem still_execLi (x0 : Hdr) (f : Rriw) (s : State) :
    ∀ t, execLi x0 f s = .next t → t.still = s.still := by
  intro t h
  unfold execLi at h
  simp only [Host.Outcome.next.injEq] at h
  subst h
  repeat' first | (simp [*]; done) | split | simp [*] |
    refine (State.still_foldl _ (fun _ _ => ?_) _ _).trans ?_

theorem still_execLih (x0 : Hdr) (f : Rriw) (s : State) :
    ∀ t, execLih x0 f s = .next t → t.still = s.still := by
  intro t h
  unfold execLih at h
  simp only [Host.Outcome.next.injEq] at h
  subst h
  repeat' first | (simp [*]; done) | split | simp [*] |
    refine (State.still_foldl _ (fun _ _ => ?_) _ _).trans ?_

theorem still_execExt (x0 : Hdr) (f : Rri) (s : State) :
    ∀ t, execExt x0 f s = .next t → t.still = s.still := by
  intro t h
  unfold execExt at h
  simp only [Host.Outcome.next.injEq] at h
  subst h
  repeat' first | (simp [*]; done) | split | simp [*] |
    refine (State.still_foldl _ (fun _ _ => ?_) _ _).trans ?_

theorem still_execIns (x0 : Hdr) (f : Rri) (s : State) :
    ∀ t, execIns x0 f s = .next t → t.still = s.still := by
  intro t h
  unfold execIns at h
  simp only [Host.Outcome.next.injEq] at h
  subst h
  repeat' first | (simp [*]; done) | split | simp [*] |
    refine (State.still_foldl _ (fun _ _ => ?_) _ _).trans ?_

theorem still_execSptest (x0 : Hdr) (f : Rrr) (s : State) :
    ∀ t, execSptest x0 f s = .next t → t.still = s.still := by
  intro t h
  unfold execSptest at h
  simp only [Host.Outcome.next.injEq] at h
  subst h
  repeat' first | (simp [*]; done) | split | simp [*] |
    refine (State.still_foldl _ (fun _ _ => ?_) _ _).trans ?_

theorem still_execSpcastS (x0 : Hdr) (f : Rrr) (s : State) :
    ∀ t, execSpcastS x0 f s = .next t → t.still = s.still := by
  intro t h
  unfold execSpcastS at h
  simp only [Host.Outcome.next.injEq] at h
  subst h
  repeat' first | (simp [*]; done) | split | simp [*] |
    refine (State.still_foldl _ (fun _ _ => ?_) _ _).trans ?_ |
    refine (State.still_withPtr _ _ _ _ _ _ (fun _ => ?_)).trans ?_

theorem still_execSpcastG (x0 : Hdr) (f : Rrr) (s : State) :
    ∀ t, execSpcastG x0 f s = .next t → t.still = s.still := by
  intro t h
  unfold execSpcastG at h
  simp only [Host.Outcome.next.injEq] at h
  subst h
  repeat' first | (simp [*]; done) | split | simp [*] |
    refine (State.still_foldl _ (fun _ _ => ?_) _ _).trans ?_

theorem still_execPadd (x0 : Hdr) (f : Rrr) (s : State) :
    ∀ t, execPadd x0 f s = .next t → t.still = s.still := by
  intro t h
  unfold execPadd at h
  simp only [Host.Outcome.next.injEq] at h
  subst h
  repeat' first | (simp [*]; done) | split | simp [*] |
    refine (State.still_foldl _ (fun _ _ => ?_) _ _).trans ?_

theorem still_execHset (x0 : Hdr) (f : Rrr) (s : State) :
    ∀ t, execHset x0 f s = .next t → t.still = s.still := by
  intro t h
  unfold execHset at h
  simp only [Host.Outcome.next.injEq] at h
  subst h
  repeat' first | (simp [*]; done) | split | simp [*] |
    refine (State.still_foldl _ (fun _ _ => ?_) _ _).trans ?_

theorem still_execHget (x0 : Hdr) (f : Rrr) (s : State) :
    ∀ t, execHget x0 f s = .next t → t.still = s.still := by
  intro t h
  unfold execHget at h
  simp only [Host.Outcome.next.injEq] at h
  subst h
  repeat' first | (simp [*]; done) | split | simp [*] |
    refine (State.still_foldl _ (fun _ _ => ?_) _ _).trans ?_

theorem still_execHstat (x0 : Hdr) (f : Rri) (s : State) :
    ∀ t, execHstat x0 f s = .next t → t.still = s.still := by
  intro t h
  unfold execHstat at h
  simp only [Host.Outcome.next.injEq] at h
  subst h
  repeat' first | (simp [*]; done) | split | simp [*] |
    refine (State.still_foldl _ (fun _ _ => ?_) _ _).trans ?_

theorem still_execHstatOff (x0 : Hdr) (f : Rri) (s : State) :
    ∀ t, execHstatOff x0 f s = .next t → t.still = s.still := by
  intro t h
  unfold execHstatOff at h
  simp only [Host.Outcome.next.injEq] at h
  subst h
  repeat' first | (simp [*]; done) | split | simp [*] |
    refine (State.still_foldl _ (fun _ _ => ?_) _ _).trans ?_

theorem still_execHcpy (x0 : Hdr) (f : Rrr) (s : State) :
    ∀ t, execHcpy x0 f s = .next t → t.still = s.still := by
  intro t h
  unfold execHcpy at h
  simp only [Host.Outcome.next.injEq] at h
  subst h
  repeat' first | (simp [*]; done) | split | simp [*] |
    refine (State.still_foldl _ (fun _ _ => ?_) _ _).trans ?_

theorem still_execLds (h : Hdr) (f : Mem) (s : State) :
    ∀ t, execLds h f s = .next t → t.still = s.still := by
  intro t h
  unfold execLds at h
  simp only [Host.Outcome.next.injEq] at h
  subst h
  repeat' first | (simp [*]; done) | split | simp [*] |
    refine (State.still_foldl _ (fun _ _ => ?_) _ _).trans ?_ |
    refine (State.still_withCap _ _ _ _ (fun _ => ?_)).trans ?_ |
    refine (State.still_withPtr _ _ _ _ _ _ (fun _ => ?_)).trans ?_

theorem still_execSts (h : Hdr) (f : Mem) (s : State) :
    ∀ t, execSts h f s = .next t → t.still = s.still := by
  intro t h
  unfold execSts at h
  simp only [Host.Outcome.next.injEq] at h
  subst h
  repeat' first | (simp [*]; done) | split | simp [*] |
    refine (State.still_foldl _ (fun _ _ => ?_) _ _).trans ?_ |
    refine (State.still_withCap _ _ _ _ (fun _ => ?_)).trans ?_ |
    refine (State.still_withMarks _ _ _ _ (fun _ => ?_)).trans ?_ |
    refine (State.still_withPtr _ _ _ _ _ _ (fun _ => ?_)).trans ?_

theorem still_execHld (x0 : Hdr) (f : Mem) (s : State) :
    ∀ t, execHld x0 f s = .next t → t.still = s.still := by
  intro t h
  unfold execHld at h
  simp only [Host.Outcome.next.injEq] at h
  subst h
  repeat' first | (simp [*]; done) | split | simp [*] |
    refine (State.still_foldl _ (fun _ _ => ?_) _ _).trans ?_ |
    refine (State.still_withPtr _ _ _ _ _ _ (fun _ => ?_)).trans ?_

theorem still_execHst (x0 : Hdr) (f : Mem) (s : State) :
    ∀ t, execHst x0 f s = .next t → t.still = s.still := by
  intro t h
  unfold execHst at h
  simp only [Host.Outcome.next.injEq] at h
  subst h
  repeat' first | (simp [*]; done) | split | simp [*] |
    refine (State.still_foldl _ (fun _ _ => ?_) _ _).trans ?_ |
    refine (State.still_withPtr _ _ _ _ _ _ (fun _ => ?_)).trans ?_

theorem still_execFpush (x0 : Hdr) (f : Rrr) (s : State) :
    ∀ t, execFpush x0 f s = .next t → t.still = s.still := by
  intro t h
  unfold execFpush at h
  simp only [Host.Outcome.next.injEq] at h
  subst h
  repeat' first | (simp [*]; done) | split | simp [*] |
    refine (State.still_foldl _ (fun _ _ => ?_) _ _).trans ?_

theorem still_execRdctr (x0 : Hdr) (f : Rri) (s : State) :
    ∀ t, execRdctr x0 f s = .next t → t.still = s.still := by
  intro t h
  unfold execRdctr at h
  simp only [Host.Outcome.next.injEq] at h
  subst h
  repeat' first | (simp [*]; done) | split | simp [*] |
    refine (State.still_foldl _ (fun _ _ => ?_) _ _).trans ?_ |
    refine (State.still_freeWord_of ‹_›).trans ?_

theorem still_execCsrr (x0 : Hdr) (f : Rri) (s : State) :
    ∀ t, execCsrr x0 f s = .next t → t.still = s.still := by
  intro t h
  unfold execCsrr at h
  simp only [Host.Outcome.next.injEq] at h
  subst h
  repeat' first | (simp [*]; done) | split | simp [*] |
    refine (State.still_foldl _ (fun _ _ => ?_) _ _).trans ?_ |
    refine (State.still_freeWord_of ‹_›).trans ?_

theorem still_execFlagsClear (x0 : Hdr) (f : Rri) (s : State) :
    ∀ t, execFlagsClear x0 f s = .next t → t.still = s.still := by
  intro t h
  unfold execFlagsClear at h
  simp only [Host.Outcome.next.injEq] at h
  subst h
  repeat' first | (simp [*]; done) | split | simp [*] |
    refine (State.still_foldl _ (fun _ _ => ?_) _ _).trans ?_ |
    refine (State.still_csrwVal _ _ _ (fun _ _ => ?_)).trans ?_

theorem still_execSelWrite (x0 : Hdr) (f : Rri) (s : State) :
    ∀ t, execSelWrite x0 f s = .next t → t.still = s.still := by
  intro t h
  unfold execSelWrite at h
  simp only [Host.Outcome.next.injEq] at h
  subst h
  repeat' first | (simp [*]; done) | split | simp [*] |
    refine (State.still_foldl _ (fun _ _ => ?_) _ _).trans ?_ |
    refine (State.still_csrwVal _ _ _ (fun _ _ => ?_)).trans ?_

theorem still_execCsrw (x0 : Hdr) (f : Rri) (s : State) :
    ∀ t, execCsrw x0 f s = .next t → t.still = s.still := by
  intro t h
  unfold execCsrw at h
  simp only [Host.Outcome.next.injEq] at h
  subst h
  repeat' first | (simp [*]; done) | split | simp [*] |
    refine (State.still_foldl _ (fun _ _ => ?_) _ _).trans ?_ |
    refine (State.still_csrwVal _ _ _ (fun _ _ => ?_)).trans ?_

theorem still_execLdQ (hd : Hdr) (f : Mem) (s : State) :
    ∀ t, execLdQ hd f s = .next t → t.still = s.still := by
  intro t h
  unfold execLdQ at h
  simp only [Host.Outcome.next.injEq] at h
  subst h
  repeat' first | (simp [*]; done) | split | simp [*] |
    refine (State.still_foldl _ (fun _ _ => ?_) _ _).trans ?_ |
    refine (State.still_reserveLoad_of ‹_›).trans ?_ |
    refine (State.still_withHandle _ _ _ _ _ (fun _ => ?_)).trans ?_ |
    refine (State.still_pieceWith _ _ (fun _ _ => ?_)).trans ?_

theorem still_execLdV (hd : Hdr) (f : Mem) (s : State) :
    ∀ t, execLdV hd f s = .next t → t.still = s.still := by
  intro t h
  unfold execLdV at h
  simp only [Host.Outcome.next.injEq] at h
  subst h
  repeat' first | (simp [*]; done) | split | simp [*] |
    refine (State.still_foldl _ (fun _ _ => ?_) _ _).trans ?_ |
    refine (State.still_withHandle _ _ _ _ _ (fun _ => ?_)).trans ?_ |
    refine (State.still_pieceWith _ _ (fun _ _ => ?_)).trans ?_

theorem still_execLdT (hd : Hdr) (f : Mem) (s : State) :
    ∀ t, execLdT hd f s = .next t → t.still = s.still := by
  intro t h
  unfold execLdT at h
  simp only [Host.Outcome.next.injEq] at h
  subst h
  repeat' first | (simp [*]; done) | split | simp [*] |
    refine (State.still_foldl _ (fun _ _ => ?_) _ _).trans ?_

theorem still_execLdTr (hd : Hdr) (f : Mem) (s : State) :
    ∀ t, execLdTr hd f s = .next t → t.still = s.still := by
  intro t h
  unfold execLdTr at h
  simp only [Host.Outcome.next.injEq] at h
  subst h
  repeat' first | (simp [*]; done) | split | simp [*] |
    refine (State.still_foldl _ (fun _ _ => ?_) _ _).trans ?_

theorem still_execLdW (hd : Hdr) (f : Mem) (s : State) :
    ∀ t, execLdW hd f s = .next t → t.still = s.still := by
  intro t h
  unfold execLdW at h
  simp only [Host.Outcome.next.injEq] at h
  subst h
  repeat' first | (simp [*]; done) | split | simp [*] |
    refine (State.still_foldl _ (fun _ _ => ?_) _ _).trans ?_ |
    refine (State.still_withHandle _ _ _ _ _ (fun _ => ?_)).trans ?_ |
    refine (State.still_pieceWith _ _ (fun _ _ => ?_)).trans ?_

theorem still_execLdCb (hd : Hdr) (f : Mem) (s : State) :
    ∀ t, execLdCb hd f s = .next t → t.still = s.still := by
  intro t h
  unfold execLdCb at h
  simp only [Host.Outcome.next.injEq] at h
  subst h
  repeat' first | (simp [*]; done) | split | simp [*] |
    refine (State.still_foldl _ (fun _ _ => ?_) _ _).trans ?_ |
    refine (State.still_withHandle _ _ _ _ _ (fun _ => ?_)).trans ?_ |
    refine (State.still_pieceWith _ _ (fun _ _ => ?_)).trans ?_

theorem still_execLdG (hd : Hdr) (f : Mem) (s : State) :
    ∀ t, execLdG hd f s = .next t → t.still = s.still := by
  intro t h
  unfold execLdG at h
  simp only [Host.Outcome.next.injEq] at h
  subst h
  repeat' first | (simp [*]; done) | split | simp [*] |
    refine (State.still_foldl _ (fun _ _ => ?_) _ _).trans ?_ |
    refine (State.still_reserveLoad_of ‹_›).trans ?_ |
    refine (State.still_withHandle _ _ _ _ _ (fun _ => ?_)).trans ?_ |
    refine (State.still_pop _ _ _ (fun _ _ => ?_)).trans ?_ |
    refine (State.still_pieceWith _ _ (fun _ _ => ?_)).trans ?_

theorem still_execRndOpen (x0 : Hdr) (f : Sys) (s : State) :
    ∀ t, execRndOpen x0 f s = .next t → t.still = s.still := by
  intro t h
  unfold execRndOpen at h
  simp only [Host.Outcome.next.injEq] at h
  subst h
  repeat' first | (simp [*]; done) | split | simp [*] |
    refine (State.still_foldl _ (fun _ _ => ?_) _ _).trans ?_ |
    refine (State.still_withGroup_of ‹_›).trans ?_ |
    refine (State.still_openRound_of ‹_›).trans ?_ |
    refine (State.still_withGroup _ _ _ (fun _ => ?_)).trans ?_ |
    refine (State.still_once _ _ _ _ _ _ _ _ (fun _ _ => ?_) ?_).trans ?_

theorem still_execRndPrep (x0 : Hdr) (f : Sys) (s : State) :
    ∀ t, execRndPrep x0 f s = .next t → t.still = s.still := by
  intro t h
  unfold execRndPrep at h
  simp only [Host.Outcome.next.injEq] at h
  subst h
  repeat' first | (simp [*]; done) | split | simp [*] |
    refine (State.still_foldl _ (fun _ _ => ?_) _ _).trans ?_ |
    refine (State.still_withGroup_of ‹_›).trans ?_ |
    refine (State.still_prepareRound_of ‹_›).trans ?_ |
    refine (State.still_withGroup _ _ _ (fun _ => ?_)).trans ?_ |
    refine (State.still_once _ _ _ _ _ _ _ _ (fun _ _ => ?_) ?_).trans ?_

theorem still_execRndCommit (x0 : Hdr) (f : Sys) (s : State) :
    ∀ t, execRndCommit x0 f s = .next t → t.still = s.still := by
  intro t h
  unfold execRndCommit at h
  simp only [Host.Outcome.next.injEq] at h
  subst h
  repeat' first | (simp [*]; done) | split | simp [*] |
    refine (State.still_foldl _ (fun _ _ => ?_) _ _).trans ?_ |
    refine (State.still_withGroup_of ‹_›).trans ?_ |
    refine (State.still_takeOutcome_of ‹_›).trans ?_ |
    refine (State.still_withGroup _ _ _ (fun _ => ?_)).trans ?_ |
    refine (State.still_once _ _ _ _ _ _ _ _ (fun _ _ => ?_) ?_).trans ?_

theorem still_execRndAbort (x0 : Hdr) (f : Sys) (s : State) :
    ∀ t, execRndAbort x0 f s = .next t → t.still = s.still := by
  intro t h
  unfold execRndAbort at h
  simp only [Host.Outcome.next.injEq] at h
  subst h
  repeat' first | (simp [*]; done) | split | simp [*] |
    refine (State.still_foldl _ (fun _ _ => ?_) _ _).trans ?_ |
    refine (State.still_withGroup_of ‹_›).trans ?_ |
    refine (State.still_abortRound_of ‹_›).trans ?_ |
    refine (State.still_withGroup _ _ _ (fun _ => ?_)).trans ?_ |
    refine (State.still_once _ _ _ _ _ _ _ _ (fun _ _ => ?_) ?_).trans ?_

theorem still_execProtMark (x0 : Hdr) (f : Sys) (s : State) :
    ∀ t, execProtMark x0 f s = .next t → t.still = s.still := by
  intro t h
  unfold execProtMark at h
  simp only [Host.Outcome.next.injEq] at h
  subst h
  repeat' first | (simp [*]; done) | split | simp [*] |
    refine (State.still_foldl _ (fun _ _ => ?_) _ _).trans ?_ |
    refine (State.still_once _ _ _ _ _ _ _ _ (fun _ _ => ?_) ?_).trans ?_

theorem still_execStQ (hd : Hdr) (f : Mem) (s : State) :
    ∀ t, execStQ hd f s = .next t → t.still = s.still := by
  intro t h
  unfold execStQ at h
  simp only [Host.Outcome.next.injEq] at h
  subst h
  repeat' first | (simp [*]; done) | split | simp [*] |
    refine (State.still_foldl _ (fun _ _ => ?_) _ _).trans ?_ |
    refine (State.still_withHandle _ _ _ _ _ (fun _ => ?_)).trans ?_ |
    refine (State.still_pieceWith _ _ (fun _ _ => ?_)).trans ?_

theorem still_execStV (hd : Hdr) (f : Mem) (s : State) :
    ∀ t, execStV hd f s = .next t → t.still = s.still := by
  intro t h
  unfold execStV at h
  simp only [Host.Outcome.next.injEq] at h
  subst h
  repeat' first | (simp [*]; done) | split | simp [*] |
    refine (State.still_foldl _ (fun _ _ => ?_) _ _).trans ?_ |
    refine (State.still_withHandle _ _ _ _ _ (fun _ => ?_)).trans ?_ |
    refine (State.still_pieceWith _ _ (fun _ _ => ?_)).trans ?_

theorem still_execStT (hd : Hdr) (f : Mem) (s : State) :
    ∀ t, execStT hd f s = .next t → t.still = s.still := by
  intro t h
  unfold execStT at h
  simp only [Host.Outcome.next.injEq] at h
  subst h
  repeat' first | (simp [*]; done) | split | simp [*] |
    refine (State.still_foldl _ (fun _ _ => ?_) _ _).trans ?_ |
    refine (State.still_withHandle _ _ _ _ _ (fun _ => ?_)).trans ?_ |
    refine (State.still_pieceWith _ _ (fun _ _ => ?_)).trans ?_

theorem still_execStS (hd : Hdr) (f : Mem) (s : State) :
    ∀ t, execStS hd f s = .next t → t.still = s.still := by
  intro t h
  unfold execStS at h
  simp only [Host.Outcome.next.injEq] at h
  subst h
  repeat' first | (simp [*]; done) | split | simp [*] |
    refine (State.still_foldl _ (fun _ _ => ?_) _ _).trans ?_ |
    refine (State.still_withHandle _ _ _ _ _ (fun _ => ?_)).trans ?_ |
    refine (State.still_pop _ _ _ (fun _ _ => ?_)).trans ?_ |
    refine (State.still_pieceWith _ _ (fun _ _ => ?_)).trans ?_

theorem still_execStQnt (hd : Hdr) (f : Mem) (s : State) :
    ∀ t, execStQnt hd f s = .next t → t.still = s.still := by
  intro t h
  unfold execStQnt at h
  simp only [Host.Outcome.next.injEq] at h
  subst h
  repeat' first | (simp [*]; done) | split | simp [*] |
    refine (State.still_foldl _ (fun _ _ => ?_) _ _).trans ?_ |
    refine (State.still_withHandle _ _ _ _ _ (fun _ => ?_)).trans ?_ |
    refine (State.still_pieceWith _ _ (fun _ _ => ?_)).trans ?_ |
    refine (State.still_withScale _ _ _ _ _ _ _ (fun _ _ => ?_)).trans ?_

theorem still_execStUpd (hd : Hdr) (f : Mem) (s : State) :
    ∀ t, execStUpd hd f s = .next t → t.still = s.still := by
  intro t h
  unfold execStUpd at h
  simp only [Host.Outcome.next.injEq] at h
  subst h
  repeat' first | (simp [*]; done) | split | simp [*] |
    refine (State.still_foldl _ (fun _ _ => ?_) _ _).trans ?_ |
    refine (State.still_withHandle _ _ _ _ _ (fun _ => ?_)).trans ?_ |
    refine (State.still_pieceWith _ _ (fun _ _ => ?_)).trans ?_

theorem still_execNop (x0 : Hdr) (x1 : Sys) (s : State) :
    ∀ t, execNop x0 x1 s = .next t → t.still = s.still := by
  intro t h
  unfold execNop at h
  simp only [Host.Outcome.next.injEq] at h
  subst h
  repeat' first | (simp [*]; done) | split | simp [*] |
    refine (State.still_foldl _ (fun _ _ => ?_) _ _).trans ?_

theorem still_execWaitCy (x0 : Hdr) (f : Sys) (s : State) :
    ∀ t, execWaitCy x0 f s = .next t → t.still = s.still := by
  intro t h
  unfold execWaitCy at h
  simp only [Host.Outcome.next.injEq] at h
  subst h
  repeat' first | (simp [*]; done) | split | simp [*] |
    refine (State.still_foldl _ (fun _ _ => ?_) _ _).trans ?_

theorem still_execWaitTime (x0 : Hdr) (f : Sys) (s : State) :
    ∀ t, execWaitTime x0 f s = .next t → t.still = s.still := by
  intro t h
  unfold execWaitTime at h
  simp only [Host.Outcome.next.injEq] at h
  subst h
  repeat' first | (simp [*]; done) | split | simp [*] |
    refine (State.still_foldl _ (fun _ _ => ?_) _ _).trans ?_

theorem still_execRdv (x0 : Hdr) (x1 : Sys) (s : State) :
    ∀ t, execRdv x0 x1 s = .next t → t.still = s.still := by
  intro t h
  unfold execRdv at h
  simp only [Host.Outcome.next.injEq] at h
  subst h
  repeat' first | (simp [*]; done) | split | simp [*] |
    refine (State.still_foldl _ (fun _ _ => ?_) _ _).trans ?_

theorem still_execRdvEnd (x0 : Hdr) (x1 : Sys) (s : State) :
    ∀ t, execRdvEnd x0 x1 s = .next t → t.still = s.still := by
  intro t h
  unfold execRdvEnd at h
  simp only [Host.Outcome.next.injEq] at h
  subst h
  repeat' first | (simp [*]; done) | split | simp [*] |
    refine (State.still_foldl _ (fun _ _ => ?_) _ _).trans ?_

theorem still_execPhase (x0 : Hdr) (f : Sys) (s : State) :
    ∀ t, execPhase x0 f s = .next t → t.still = s.still := by
  intro t h
  unfold execPhase at h
  simp only [Host.Outcome.next.injEq] at h
  subst h
  repeat' first | (simp [*]; done) | split | simp [*] |
    refine (State.still_foldl _ (fun _ _ => ?_) _ _).trans ?_

theorem still_execBar (x0 : Hdr) (f : Sys) (s : State) :
    ∀ t, execBar x0 f s = .next t → t.still = s.still := by
  intro t h
  unfold execBar at h
  simp only [Host.Outcome.next.injEq] at h
  subst h
  repeat' first | (simp [*]; done) | split | simp [*] |
    refine (State.still_foldl _ (fun _ _ => ?_) _ _).trans ?_

theorem still_execCurtain (x0 : Hdr) (f : Sys) (s : State) :
    ∀ t, execCurtain x0 f s = .next t → t.still = s.still := by
  intro t h
  unfold execCurtain at h
  simp only [Host.Outcome.next.injEq] at h
  subst h
  repeat' first | (simp [*]; done) | split | simp [*] |
    refine (State.still_foldl _ (fun _ _ => ?_) _ _).trans ?_

theorem still_execFence (x0 : Hdr) (x1 : Sys) (s : State) :
    ∀ t, execFence x0 x1 s = .next t → t.still = s.still := by
  intro t h
  unfold execFence at h
  simp only [Host.Outcome.next.injEq] at h
  subst h
  repeat' first | (simp [*]; done) | split | simp [*] |
    refine (State.still_foldl _ (fun _ _ => ?_) _ _).trans ?_

theorem still_execYield (x0 : Hdr) (x1 : Sys) (s : State) :
    ∀ t, execYield x0 x1 s = .next t → t.still = s.still := by
  intro t h
  unfold execYield at h
  simp only [Host.Outcome.next.injEq] at h
  subst h
  repeat' first | (simp [*]; done) | split | simp [*] |
    refine (State.still_foldl _ (fun _ _ => ?_) _ _).trans ?_

theorem still_execCurSet (x0 : Hdr) (f : Sys) (s : State) :
    ∀ t, execCurSet x0 f s = .next t → t.still = s.still := by
  intro t h
  unfold execCurSet at h
  simp only [Host.Outcome.next.injEq] at h
  subst h
  repeat' first | (simp [*]; done) | split | simp [*] |
    refine (State.still_foldl _ (fun _ _ => ?_) _ _).trans ?_ |
    refine (State.still_pop _ _ _ (fun _ _ => ?_)).trans ?_

theorem still_execCurGetCur (x0 : Hdr) (f : Sys) (s : State) :
    ∀ t, execCurGetCur x0 f s = .next t → t.still = s.still := by
  intro t h
  unfold execCurGetCur at h
  simp only [Host.Outcome.next.injEq] at h
  subst h
  repeat' first | (simp [*]; done) | split | simp [*] |
    refine (State.still_foldl _ (fun _ _ => ?_) _ _).trans ?_

theorem still_execCurGetTrap (x0 : Hdr) (f : Sys) (s : State) :
    ∀ t, execCurGetTrap x0 f s = .next t → t.still = s.still := by
  intro t h
  unfold execCurGetTrap at h
  simp only [Host.Outcome.next.injEq] at h
  subst h
  repeat' first | (simp [*]; done) | split | simp [*] |
    refine (State.still_foldl _ (fun _ _ => ?_) _ _).trans ?_

theorem still_execTrap (x0 : Hdr) (f : Sys) (s : State) :
    ∀ t, execTrap x0 f s = .next t → t.still = s.still := by
  intro t h
  unfold execTrap at h
  simp only [Host.Outcome.next.injEq] at h
  subst h
  repeat' first | (simp [*]; done) | split | simp [*] |
    refine (State.still_foldl _ (fun _ _ => ?_) _ _).trans ?_

theorem still_execStatSeal (x0 : Hdr) (f : Sys) (s : State) :
    ∀ t, execStatSeal x0 f s = .next t → t.still = s.still := by
  intro t h
  unfold execStatSeal at h
  simp only [Host.Outcome.next.injEq] at h
  subst h
  repeat' first | (simp [*]; done) | split | simp [*] |
    refine (State.still_foldl _ (fun _ _ => ?_) _ _).trans ?_

theorem still_execStatClr (x0 : Hdr) (f : Sys) (s : State) :
    ∀ t, execStatClr x0 f s = .next t → t.still = s.still := by
  intro t h
  unfold execStatClr at h
  simp only [Host.Outcome.next.injEq] at h
  subst h
  repeat' first | (simp [*]; done) | split | simp [*] |
    refine (State.still_foldl _ (fun _ _ => ?_) _ _).trans ?_

theorem still_execStatRd (h : Hdr) (f : Sys) (s : State) :
    ∀ t, execStatRd h f s = .next t → t.still = s.still := by
  intro t h
  unfold execStatRd at h
  simp only [Host.Outcome.next.injEq] at h
  subst h
  repeat' first | (simp [*]; done) | split | simp [*] |
    refine (State.still_foldl _ (fun _ _ => ?_) _ _).trans ?_ |
    refine (State.still_newId_of ‹_›).trans ?_

theorem still_execPwrAcq (x0 : Hdr) (f : Sys) (s : State) :
    ∀ t, execPwrAcq x0 f s = .next t → t.still = s.still := by
  intro t h
  unfold execPwrAcq at h
  simp only [Host.Outcome.next.injEq] at h
  subst h
  repeat' first | (simp [*]; done) | split | simp [*] |
    refine (State.still_foldl _ (fun _ _ => ?_) _ _).trans ?_

theorem still_execPwrRel (x0 : Hdr) (x1 : Sys) (s : State) :
    ∀ t, execPwrRel x0 x1 s = .next t → t.still = s.still := by
  intro t h
  unfold execPwrRel at h
  simp only [Host.Outcome.next.injEq] at h
  subst h
  repeat' first | (simp [*]; done) | split | simp [*] |
    refine (State.still_foldl _ (fun _ _ => ?_) _ _).trans ?_

theorem still_execStX (hd : Hdr) (f : Mem) (s : State) :
    ∀ t, execStX hd f s = .next t → t.still = s.still := by
  intro t h
  unfold execStX at h
  simp only [Host.Outcome.next.injEq] at h
  subst h
  repeat' first | (simp [*]; done) | split | simp [*] |
    refine (State.still_foldl _ (fun _ _ => ?_) _ _).trans ?_ |
    refine (State.still_withHandle _ _ _ _ _ (fun _ => ?_)).trans ?_ |
    refine (State.still_pieceWith _ _ (fun _ _ => ?_)).trans ?_

theorem still_execLdBc (hd : Hdr) (f : Mem) (s : State) :
    ∀ t, execLdBc hd f s = .next t → t.still = s.still := by
  intro t h
  unfold execLdBc at h
  simp only [Host.Outcome.next.injEq] at h
  subst h
  repeat' first | (simp [*]; done) | split | simp [*] |
    refine (State.still_foldl _ (fun _ _ => ?_) _ _).trans ?_ |
    refine (State.still_reserveBc_of ‹_›).trans ?_ |
    refine (State.still_withHandle _ _ _ _ _ (fun _ => ?_)).trans ?_ |
    refine (State.still_pieceWith _ _ (fun _ _ => ?_)).trans ?_

theorem still_execStMc (hd : Hdr) (f : Mem) (s : State) :
    ∀ t, execStMc hd f s = .next t → t.still = s.still := by
  intro t h
  unfold execStMc at h
  simp only [Host.Outcome.next.injEq] at h
  subst h
  repeat' first | (simp [*]; done) | split | simp [*] |
    refine (State.still_foldl _ (fun _ _ => ?_) _ _).trans ?_ |
    refine (State.still_withHandle _ _ _ _ _ (fun _ => ?_)).trans ?_ |
    refine (State.still_pieceWith _ _ (fun _ _ => ?_)).trans ?_

theorem still_execAtom (hd : Hdr) (f : Mem) (s : State) :
    ∀ t, execAtom hd f s = .next t → t.still = s.still := by
  intro t h
  unfold execAtom at h
  simp only [Host.Outcome.next.injEq] at h
  subst h
  repeat' first | (simp [*]; done) | split | simp [*] |
    refine (State.still_foldl _ (fun _ _ => ?_) _ _).trans ?_ |
    refine (State.still_newId_of ‹_›).trans ?_ |
    refine (State.still_withHandle _ _ _ _ _ (fun _ => ?_)).trans ?_ |
    refine (State.still_pop _ _ _ (fun _ _ => ?_)).trans ?_

theorem still_execBobjArm (x0 : Hdr) (f : Mem) (s : State) :
    ∀ t, execBobjArm x0 f s = .next t → t.still = s.still := by
  intro t h
  unfold execBobjArm at h
  simp only [Host.Outcome.next.injEq] at h
  subst h
  repeat' first | (simp [*]; done) | split | simp [*] |
    refine (State.still_foldl _ (fun _ _ => ?_) _ _).trans ?_ |
    refine (State.still_withHandle _ _ _ _ _ (fun _ => ?_)).trans ?_

theorem still_execBobjWait (x0 : Hdr) (f : Mem) (s : State) :
    ∀ t, execBobjWait x0 f s = .next t → t.still = s.still := by
  intro t h
  unfold execBobjWait at h
  simp only [Host.Outcome.next.injEq] at h
  subst h
  repeat' first | (simp [*]; done) | split | simp [*] |
    refine (State.still_foldl _ (fun _ _ => ?_) _ _).trans ?_

theorem still_execBobjByteCount (slot : Nat) (obj : Nat) (dest : Nat) (s : State) :
    ∀ t, execBobjByteCount slot obj dest s = .next t → t.still = s.still := by
  intro t h
  unfold execBobjByteCount at h
  dsimp only at h
  split at h
  all_goals
    simp only [Host.Outcome.next.injEq] at h
    subst h
    repeat' first | (simp [*]; done) | split | simp [*]

theorem still_execVadd (h : Hdr) (f : Rrr) (s : State) :
    ∀ t, execVadd h f s = .next t → t.still = s.still := by
  intro t h
  unfold execVadd at h
  simp only [Host.Outcome.next.injEq] at h
  subst h
  repeat' first | (simp [*]; done) | split | simp [*] |
    refine (State.still_foldl _ (fun _ _ => ?_) _ _).trans ?_

theorem still_execVsub (h : Hdr) (f : Rrr) (s : State) :
    ∀ t, execVsub h f s = .next t → t.still = s.still := by
  intro t h
  unfold execVsub at h
  simp only [Host.Outcome.next.injEq] at h
  subst h
  repeat' first | (simp [*]; done) | split | simp [*] |
    refine (State.still_foldl _ (fun _ _ => ?_) _ _).trans ?_

theorem still_execVmul (h : Hdr) (f : Rrr) (s : State) :
    ∀ t, execVmul h f s = .next t → t.still = s.still := by
  intro t h
  unfold execVmul at h
  simp only [Host.Outcome.next.injEq] at h
  subst h
  repeat' first | (simp [*]; done) | split | simp [*] |
    refine (State.still_foldl _ (fun _ _ => ?_) _ _).trans ?_

theorem still_execVfma (h : Hdr) (f : Rrr) (s : State) :
    ∀ t, execVfma h f s = .next t → t.still = s.still := by
  intro t h
  unfold execVfma at h
  simp only [Host.Outcome.next.injEq] at h
  subst h
  repeat' first | (simp [*]; done) | split | simp [*] |
    refine (State.still_foldl _ (fun _ _ => ?_) _ _).trans ?_

theorem still_execVmin (h : Hdr) (f : Rrr) (s : State) :
    ∀ t, execVmin h f s = .next t → t.still = s.still := by
  intro t h
  unfold execVmin at h
  simp only [Host.Outcome.next.injEq] at h
  subst h
  repeat' first | (simp [*]; done) | split | simp [*] |
    refine (State.still_foldl _ (fun _ _ => ?_) _ _).trans ?_

theorem still_execVmax (h : Hdr) (f : Rrr) (s : State) :
    ∀ t, execVmax h f s = .next t → t.still = s.still := by
  intro t h
  unfold execVmax at h
  simp only [Host.Outcome.next.injEq] at h
  subst h
  repeat' first | (simp [*]; done) | split | simp [*] |
    refine (State.still_foldl _ (fun _ _ => ?_) _ _).trans ?_

theorem still_execVabs (h : Hdr) (f : Rrr) (s : State) :
    ∀ t, execVabs h f s = .next t → t.still = s.still := by
  intro t h
  unfold execVabs at h
  simp only [Host.Outcome.next.injEq] at h
  subst h
  repeat' first | (simp [*]; done) | split | simp [*] |
    refine (State.still_foldl _ (fun _ _ => ?_) _ _).trans ?_

theorem still_execVneg (h : Hdr) (f : Rrr) (s : State) :
    ∀ t, execVneg h f s = .next t → t.still = s.still := by
  intro t h
  unfold execVneg at h
  simp only [Host.Outcome.next.injEq] at h
  subst h
  repeat' first | (simp [*]; done) | split | simp [*] |
    refine (State.still_foldl _ (fun _ _ => ?_) _ _).trans ?_

theorem still_execVcmp (h : Hdr) (f : Rrr) (s : State) :
    ∀ t, execVcmp h f s = .next t → t.still = s.still := by
  intro t h
  unfold execVcmp at h
  simp only [Host.Outcome.next.injEq] at h
  subst h
  repeat' first | (simp [*]; done) | split | simp [*] |
    refine (State.still_foldl _ (fun _ _ => ?_) _ _).trans ?_

theorem still_execVsel (h : Hdr) (f : Rrr) (s : State) :
    ∀ t, execVsel h f s = .next t → t.still = s.still := by
  intro t h
  unfold execVsel at h
  simp only [Host.Outcome.next.injEq] at h
  subst h
  repeat' first | (simp [*]; done) | split | simp [*] |
    refine (State.still_foldl _ (fun _ _ => ?_) _ _).trans ?_

theorem still_execViadd (h : Hdr) (f : Rrr) (s : State) :
    ∀ t, execViadd h f s = .next t → t.still = s.still := by
  intro t h
  unfold execViadd at h
  simp only [Host.Outcome.next.injEq] at h
  subst h
  repeat' first | (simp [*]; done) | split | simp [*] |
    refine (State.still_foldl _ (fun _ _ => ?_) _ _).trans ?_

theorem still_execVisub (h : Hdr) (f : Rrr) (s : State) :
    ∀ t, execVisub h f s = .next t → t.still = s.still := by
  intro t h
  unfold execVisub at h
  simp only [Host.Outcome.next.injEq] at h
  subst h
  repeat' first | (simp [*]; done) | split | simp [*] |
    refine (State.still_foldl _ (fun _ _ => ?_) _ _).trans ?_

theorem still_execVimul (h : Hdr) (f : Rrr) (s : State) :
    ∀ t, execVimul h f s = .next t → t.still = s.still := by
  intro t h
  unfold execVimul at h
  simp only [Host.Outcome.next.injEq] at h
  subst h
  repeat' first | (simp [*]; done) | split | simp [*] |
    refine (State.still_foldl _ (fun _ _ => ?_) _ _).trans ?_

theorem still_execVand (h : Hdr) (f : Rrr) (s : State) :
    ∀ t, execVand h f s = .next t → t.still = s.still := by
  intro t h
  unfold execVand at h
  simp only [Host.Outcome.next.injEq] at h
  subst h
  repeat' first | (simp [*]; done) | split | simp [*] |
    refine (State.still_foldl _ (fun _ _ => ?_) _ _).trans ?_

theorem still_execVor (h : Hdr) (f : Rrr) (s : State) :
    ∀ t, execVor h f s = .next t → t.still = s.still := by
  intro t h
  unfold execVor at h
  simp only [Host.Outcome.next.injEq] at h
  subst h
  repeat' first | (simp [*]; done) | split | simp [*] |
    refine (State.still_foldl _ (fun _ _ => ?_) _ _).trans ?_

theorem still_execVxor (h : Hdr) (f : Rrr) (s : State) :
    ∀ t, execVxor h f s = .next t → t.still = s.still := by
  intro t h
  unfold execVxor at h
  simp only [Host.Outcome.next.injEq] at h
  subst h
  repeat' first | (simp [*]; done) | split | simp [*] |
    refine (State.still_foldl _ (fun _ _ => ?_) _ _).trans ?_

theorem still_execVshl (h : Hdr) (f : Rrr) (s : State) :
    ∀ t, execVshl h f s = .next t → t.still = s.still := by
  intro t h
  unfold execVshl at h
  simp only [Host.Outcome.next.injEq] at h
  subst h
  repeat' first | (simp [*]; done) | split | simp [*] |
    refine (State.still_foldl _ (fun _ _ => ?_) _ _).trans ?_

theorem still_execVshr (h : Hdr) (f : Rrr) (s : State) :
    ∀ t, execVshr h f s = .next t → t.still = s.still := by
  intro t h
  unfold execVshr at h
  simp only [Host.Outcome.next.injEq] at h
  subst h
  repeat' first | (simp [*]; done) | split | simp [*] |
    refine (State.still_foldl _ (fun _ _ => ?_) _ _).trans ?_

theorem still_execVsar (h : Hdr) (f : Rrr) (s : State) :
    ∀ t, execVsar h f s = .next t → t.still = s.still := by
  intro t h
  unfold execVsar at h
  simp only [Host.Outcome.next.injEq] at h
  subst h
  repeat' first | (simp [*]; done) | split | simp [*] |
    refine (State.still_foldl _ (fun _ _ => ?_) _ _).trans ?_

theorem still_execVimin (h : Hdr) (f : Rrr) (s : State) :
    ∀ t, execVimin h f s = .next t → t.still = s.still := by
  intro t h
  unfold execVimin at h
  simp only [Host.Outcome.next.injEq] at h
  subst h
  repeat' first | (simp [*]; done) | split | simp [*] |
    refine (State.still_foldl _ (fun _ _ => ?_) _ _).trans ?_

theorem still_execVimax (h : Hdr) (f : Rrr) (s : State) :
    ∀ t, execVimax h f s = .next t → t.still = s.still := by
  intro t h
  unfold execVimax at h
  simp only [Host.Outcome.next.injEq] at h
  subst h
  repeat' first | (simp [*]; done) | split | simp [*] |
    refine (State.still_foldl _ (fun _ _ => ?_) _ _).trans ?_

theorem still_execVrcp (h : Hdr) (f : Rrr) (s : State) :
    ∀ t, execVrcp h f s = .next t → t.still = s.still := by
  intro t h
  unfold execVrcp at h
  simp only [Host.Outcome.next.injEq] at h
  subst h
  repeat' first | (simp [*]; done) | split | simp [*] |
    refine (State.still_foldl _ (fun _ _ => ?_) _ _).trans ?_

theorem still_execVrsq (h : Hdr) (f : Rrr) (s : State) :
    ∀ t, execVrsq h f s = .next t → t.still = s.still := by
  intro t h
  unfold execVrsq at h
  simp only [Host.Outcome.next.injEq] at h
  subst h
  repeat' first | (simp [*]; done) | split | simp [*] |
    refine (State.still_foldl _ (fun _ _ => ?_) _ _).trans ?_

theorem still_execVsqrt (h : Hdr) (f : Rrr) (s : State) :
    ∀ t, execVsqrt h f s = .next t → t.still = s.still := by
  intro t h
  unfold execVsqrt at h
  simp only [Host.Outcome.next.injEq] at h
  subst h
  repeat' first | (simp [*]; done) | split | simp [*] |
    refine (State.still_foldl _ (fun _ _ => ?_) _ _).trans ?_

theorem still_execVexp2 (h : Hdr) (f : Rrr) (s : State) :
    ∀ t, execVexp2 h f s = .next t → t.still = s.still := by
  intro t h
  unfold execVexp2 at h
  simp only [Host.Outcome.next.injEq] at h
  subst h
  repeat' first | (simp [*]; done) | split | simp [*] |
    refine (State.still_foldl _ (fun _ _ => ?_) _ _).trans ?_

theorem still_execVlog2 (h : Hdr) (f : Rrr) (s : State) :
    ∀ t, execVlog2 h f s = .next t → t.still = s.still := by
  intro t h
  unfold execVlog2 at h
  simp only [Host.Outcome.next.injEq] at h
  subst h
  repeat' first | (simp [*]; done) | split | simp [*] |
    refine (State.still_foldl _ (fun _ _ => ?_) _ _).trans ?_

theorem still_execVsin (h : Hdr) (f : Rrr) (s : State) :
    ∀ t, execVsin h f s = .next t → t.still = s.still := by
  intro t h
  unfold execVsin at h
  simp only [Host.Outcome.next.injEq] at h
  subst h
  repeat' first | (simp [*]; done) | split | simp [*] |
    refine (State.still_foldl _ (fun _ _ => ?_) _ _).trans ?_

theorem still_execVcos (h : Hdr) (f : Rrr) (s : State) :
    ∀ t, execVcos h f s = .next t → t.still = s.still := by
  intro t h
  unfold execVcos at h
  simp only [Host.Outcome.next.injEq] at h
  subst h
  repeat' first | (simp [*]; done) | split | simp [*] |
    refine (State.still_foldl _ (fun _ _ => ?_) _ _).trans ?_

theorem still_execVtanh (h : Hdr) (f : Rrr) (s : State) :
    ∀ t, execVtanh h f s = .next t → t.still = s.still := by
  intro t h
  unfold execVtanh at h
  simp only [Host.Outcome.next.injEq] at h
  subst h
  repeat' first | (simp [*]; done) | split | simp [*] |
    refine (State.still_foldl _ (fun _ _ => ?_) _ _).trans ?_

theorem still_execVsigm (h : Hdr) (f : Rrr) (s : State) :
    ∀ t, execVsigm h f s = .next t → t.still = s.still := by
  intro t h
  unfold execVsigm at h
  simp only [Host.Outcome.next.injEq] at h
  subst h
  repeat' first | (simp [*]; done) | split | simp [*] |
    refine (State.still_foldl _ (fun _ _ => ?_) _ _).trans ?_

theorem still_execVmov (h : Hdr) (f : Rrr) (s : State) :
    ∀ t, execVmov h f s = .next t → t.still = s.still := by
  intro t h
  unfold execVmov at h
  simp only [Host.Outcome.next.injEq] at h
  subst h
  repeat' first | (simp [*]; done) | split | simp [*] |
    refine (State.still_foldl _ (fun _ _ => ?_) _ _).trans ?_

theorem still_execVbcast (h : Hdr) (f : Rrr) (s : State) :
    ∀ t, execVbcast h f s = .next t → t.still = s.still := by
  intro t h
  unfold execVbcast at h
  simp only [Host.Outcome.next.injEq] at h
  subst h
  repeat' first | (simp [*]; done) | split | simp [*] |
    refine (State.still_foldl _ (fun _ _ => ?_) _ _).trans ?_

theorem still_execViota (h : Hdr) (f : Rrr) (s : State) :
    ∀ t, execViota h f s = .next t → t.still = s.still := by
  intro t h
  unfold execViota at h
  simp only [Host.Outcome.next.injEq] at h
  subst h
  repeat' first | (simp [*]; done) | split | simp [*] |
    refine (State.still_foldl _ (fun _ _ => ?_) _ _).trans ?_

theorem still_execVrng (h : Hdr) (f : Rrr) (s : State) :
    ∀ t, execVrng h f s = .next t → t.still = s.still := by
  intro t h
  unfold execVrng at h
  simp only [Host.Outcome.next.injEq] at h
  subst h
  repeat' first | (simp [*]; done) | split | simp [*] |
    refine (State.still_foldl _ (fun _ _ => ?_) _ _).trans ?_

theorem still_execVcvt (h : Hdr) (f : Rrr) (s : State) :
    ∀ t, execVcvt h f s = .next t → t.still = s.still := by
  intro t h
  unfold execVcvt at h
  simp only [Host.Outcome.next.injEq] at h
  subst h
  repeat' first | (simp [*]; done) | split | simp [*] |
    refine (State.still_foldl _ (fun _ _ => ?_) _ _).trans ?_ |
    refine (State.still_vecChecked _ _ _ _ (fun _ => ?_)).trans ?_

theorem still_execVqnt (hd : Hdr) (f : Rrr) (s : State) :
    ∀ t, execVqnt hd f s = .next t → t.still = s.still := by
  intro t h
  unfold execVqnt at h
  simp only [Host.Outcome.next.injEq] at h
  subst h
  repeat' first | (simp [*]; done) | split | simp [*] |
    refine (State.still_foldl _ (fun _ _ => ?_) _ _).trans ?_ |
    refine (State.still_withScale _ _ _ _ _ _ _ (fun _ _ => ?_)).trans ?_ |
    refine (State.still_vecChecked _ _ _ _ (fun _ => ?_)).trans ?_

theorem still_execVrsum (h : Hdr) (f : Rrr) (s : State) :
    ∀ t, execVrsum h f s = .next t → t.still = s.still := by
  intro t h
  unfold execVrsum at h
  simp only [Host.Outcome.next.injEq] at h
  subst h
  repeat' first | (simp [*]; done) | split | simp [*] |
    refine (State.still_foldl _ (fun _ _ => ?_) _ _).trans ?_

theorem still_execVrmax (h : Hdr) (f : Rrr) (s : State) :
    ∀ t, execVrmax h f s = .next t → t.still = s.still := by
  intro t h
  unfold execVrmax at h
  simp only [Host.Outcome.next.injEq] at h
  subst h
  repeat' first | (simp [*]; done) | split | simp [*] |
    refine (State.still_foldl _ (fun _ _ => ?_) _ _).trans ?_

theorem still_execVcsum (h : Hdr) (f : Rrr) (s : State) :
    ∀ t, execVcsum h f s = .next t → t.still = s.still := by
  intro t h
  unfold execVcsum at h
  simp only [Host.Outcome.next.injEq] at h
  subst h
  repeat' first | (simp [*]; done) | split | simp [*] |
    refine (State.still_foldl _ (fun _ _ => ?_) _ _).trans ?_

theorem still_execVcmax (h : Hdr) (f : Rrr) (s : State) :
    ∀ t, execVcmax h f s = .next t → t.still = s.still := by
  intro t h
  unfold execVcmax at h
  simp only [Host.Outcome.next.injEq] at h
  subst h
  repeat' first | (simp [*]; done) | split | simp [*] |
    refine (State.still_foldl _ (fun _ _ => ?_) _ _).trans ?_

theorem still_execVqpop (h : Hdr) (f : Rrr) (s : State) :
    ∀ t, execVqpop h f s = .next t → t.still = s.still := by
  intro t h
  unfold execVqpop at h
  simp only [Host.Outcome.next.injEq] at h
  subst h
  repeat' first | (simp [*]; done) | split | simp [*] |
    refine (State.still_foldl _ (fun _ _ => ?_) _ _).trans ?_ |
    refine (State.still_pop _ _ _ (fun _ _ => ?_)).trans ?_ |
    refine (State.still_vecChecked _ _ _ _ (fun _ => ?_)).trans ?_

theorem still_execVqpush (h : Hdr) (f : Rrr) (s : State) :
    ∀ t, execVqpush h f s = .next t → t.still = s.still := by
  intro t h
  unfold execVqpush at h
  simp only [Host.Outcome.next.injEq] at h
  subst h
  repeat' first | (simp [*]; done) | split | simp [*] |
    refine (State.still_foldl _ (fun _ _ => ?_) _ _).trans ?_ |
    refine (State.still_vecChecked _ _ _ _ (fun _ => ?_)).trans ?_

theorem still_execTmovR (h : Hdr) (f : Rrr) (s : State) :
    ∀ t, execTmovR h f s = .next t → t.still = s.still := by
  intro t h
  unfold execTmovR at h
  simp only [Host.Outcome.next.injEq] at h
  subst h
  repeat' first | (simp [*]; done) | split | simp [*] |
    refine (State.still_foldl _ (fun _ _ => ?_) _ _).trans ?_ |
    refine (State.still_vecChecked _ _ _ _ (fun _ => ?_)).trans ?_

theorem still_execTmovC (h : Hdr) (f : Rrr) (s : State) :
    ∀ t, execTmovC h f s = .next t → t.still = s.still := by
  intro t h
  unfold execTmovC at h
  simp only [Host.Outcome.next.injEq] at h
  subst h
  repeat' first | (simp [*]; done) | split | simp [*] |
    refine (State.still_foldl _ (fun _ _ => ?_) _ _).trans ?_ |
    refine (State.still_vecChecked _ _ _ _ (fun _ => ?_)).trans ?_

theorem still_execMxLdw (h : Hdr) (f : Mx) (s : State) :
    ∀ t, execMxLdw h f s = .next t → t.still = s.still := by
  intro t h
  unfold execMxLdw at h
  simp only [Host.Outcome.next.injEq] at h
  subst h
  repeat' first | (simp [*]; done) | split | simp [*] |
    refine (State.still_foldl _ (fun _ _ => ?_) _ _).trans ?_ |
    refine (State.still_popFmt _ _ (fun _ _ => ?_)).trans ?_ |
    refine (State.still_fmtOk _ _ _ _ (fun _ => ?_)).trans ?_ |
    refine (State.still_pieceWith _ _ (fun _ _ => ?_)).trans ?_

theorem still_execMxMac (h : Hdr) (f : Mx) (s : State) :
    ∀ t, execMxMac h f s = .next t → t.still = s.still := by
  intro t h
  unfold execMxMac at h
  simp only [Host.Outcome.next.injEq] at h
  subst h
  repeat' first | (simp [*]; done) | split | simp [*] |
    refine (State.still_foldl _ (fun _ _ => ?_) _ _).trans ?_ |
    refine (State.still_popFmt _ _ (fun _ _ => ?_)).trans ?_ |
    refine (State.still_fmtOk _ _ _ _ (fun _ => ?_)).trans ?_ |
    refine (State.still_pieceWith _ _ (fun _ _ => ?_)).trans ?_

theorem still_execMxZero (x0 : Hdr) (f : Mx) (s : State) :
    ∀ t, execMxZero x0 f s = .next t → t.still = s.still := by
  intro t h
  unfold execMxZero at h
  simp only [Host.Outcome.next.injEq] at h
  subst h
  repeat' first | (simp [*]; done) | split | simp [*] |
    refine (State.still_foldl _ (fun _ _ => ?_) _ _).trans ?_ |
    refine (State.still_popFmt _ _ (fun _ _ => ?_)).trans ?_ |
    refine (State.still_fmtOk _ _ _ _ (fun _ => ?_)).trans ?_

theorem still_execMxFill (h : Hdr) (f : Mx) (s : State) :
    ∀ t, execMxFill h f s = .next t → t.still = s.still := by
  intro t h
  unfold execMxFill at h
  simp only [Host.Outcome.next.injEq] at h
  subst h
  repeat' first | (simp [*]; done) | split | simp [*] |
    refine (State.still_foldl _ (fun _ _ => ?_) _ _).trans ?_ |
    refine (State.still_popFmt _ _ (fun _ _ => ?_)).trans ?_ |
    refine (State.still_fmtOk _ _ _ _ (fun _ => ?_)).trans ?_ |
    refine (State.still_pieceWith _ _ (fun _ _ => ?_)).trans ?_

theorem still_execMxDrain (hd : Hdr) (f : Mx) (s : State) :
    ∀ t, execMxDrain hd f s = .next t → t.still = s.still := by
  intro t h
  unfold execMxDrain at h
  simp only [Host.Outcome.next.injEq] at h
  subst h
  repeat' first | (simp [*]; done) | split | simp [*] |
    refine (State.still_foldl _ (fun _ _ => ?_) _ _).trans ?_ |
    refine (State.still_popFmt _ _ (fun _ _ => ?_)).trans ?_ |
    refine (State.still_fmtOk _ _ _ _ (fun _ => ?_)).trans ?_ |
    refine (State.still_withScale _ _ _ _ _ _ _ (fun _ _ => ?_)).trans ?_

theorem still_execMxSwap (x0 : Hdr) (x1 : Mx) (s : State) :
    ∀ t, execMxSwap x0 x1 s = .next t → t.still = s.still := by
  intro t h
  unfold execMxSwap at h
  simp only [Host.Outcome.next.injEq] at h
  subst h
  repeat' first | (simp [*]; done) | split | simp [*] |
    refine (State.still_foldl _ (fun _ _ => ?_) _ _).trans ?_

theorem still_execMxFuseOn (x0 : Hdr) (x1 : Mx) (s : State) :
    ∀ t, execMxFuseOn x0 x1 s = .next t → t.still = s.still := by
  intro t h
  unfold execMxFuseOn at h
  simp only [Host.Outcome.next.injEq] at h
  subst h
  repeat' first | (simp [*]; done) | split | simp [*] |
    refine (State.still_foldl _ (fun _ _ => ?_) _ _).trans ?_

theorem still_execMxFuseOff (x0 : Hdr) (x1 : Mx) (s : State) :
    ∀ t, execMxFuseOff x0 x1 s = .next t → t.still = s.still := by
  intro t h
  unfold execMxFuseOff at h
  simp only [Host.Outcome.next.injEq] at h
  subst h
  repeat' first | (simp [*]; done) | split | simp [*] |
    refine (State.still_foldl _ (fun _ _ => ?_) _ _).trans ?_

theorem still_execMxTestRun (x0 : Hdr) (f : Mx) (s : State) :
    ∀ t, execMxTestRun x0 f s = .next t → t.still = s.still := by
  intro t h
  unfold execMxTestRun at h
  simp only [Host.Outcome.next.injEq] at h
  subst h
  repeat' first | (simp [*]; done) | split | simp [*] |
    refine (State.still_foldl _ (fun _ _ => ?_) _ _).trans ?_ |
    refine (State.still_freeWord_of ‹_›).trans ?_

theorem still_execMxTestFatal (x0 : Hdr) (x1 : Mx) (s : State) :
    ∀ t, execMxTestFatal x0 x1 s = .next t → t.still = s.still := by
  intro t h
  unfold execMxTestFatal at h
  simp only [Host.Outcome.next.injEq] at h
  subst h
  repeat' first | (simp [*]; done) | split | simp [*] |
    refine (State.still_foldl _ (fun _ _ => ?_) _ _).trans ?_

theorem still_execMxTestReport (x0 : Hdr) (x1 : Mx) (s : State) :
    ∀ t, execMxTestReport x0 x1 s = .next t → t.still = s.still := by
  intro t h
  unfold execMxTestReport at h
  simp only [Host.Outcome.next.injEq] at h
  subst h
  repeat' first | (simp [*]; done) | split | simp [*] |
    refine (State.still_foldl _ (fun _ _ => ?_) _ _).trans ?_

theorem still_execMxEvt (x0 : Hdr) (f : Mx) (s : State) :
    ∀ t, execMxEvt x0 f s = .next t → t.still = s.still := by
  intro t h
  unfold execMxEvt at h
  simp only [Host.Outcome.next.injEq] at h
  subst h
  repeat' first | (simp [*]; done) | split | simp [*] |
    refine (State.still_foldl _ (fun _ _ => ?_) _ _).trans ?_

theorem still_execMxCb (h : Hdr) (f : Mx) (s : State) :
    ∀ t, execMxCb h f s = .next t → t.still = s.still := by
  intro t h
  unfold execMxCb at h
  simp only [Host.Outcome.next.injEq] at h
  subst h
  repeat' first | (simp [*]; done) | split | simp [*] |
    refine (State.still_foldl _ (fun _ _ => ?_) _ _).trans ?_ |
    refine (State.still_pieceWith _ _ (fun _ _ => ?_)).trans ?_

theorem still_execPhasedReplyArrival (id : Nat) (s : State) :
    ∀ t, execPhasedReplyArrival id s = .next t → t.still = s.still := by
  intro t h
  unfold execPhasedReplyArrival at h
  simp only [Host.Outcome.next.injEq] at h
  subst h
  repeat' first | (simp [*]; done) | split | simp [*] |
    refine (State.still_foldl _ (fun _ _ => ?_) _ _).trans ?_ |
    refine (State.still_collReach_ok ‹_›).trans ?_ |
    refine (State.still_collReach_error ‹_›).trans ?_

theorem still_execStorePerformed (w : HomeStore) (s : State) :
    ∀ t, execStorePerformed w s = .next t → t.still = s.still := by
  intro t h
  unfold execStorePerformed at h
  simp only [Host.Outcome.next.injEq] at h
  subst h
  repeat' first | (simp [*]; done) | split | simp [*] |
    refine (State.still_foldl _ (fun _ _ => ?_) _ _).trans ?_ |
    refine (State.still_engineReach_ok ‹_›).trans ?_ |
    refine (State.still_engineReach_error ‹_›).trans ?_ |
    refine (State.still_fromPackage _ _ _ _ (fun _ => ?_)).trans ?_

theorem still_execAtomPerformed (id : Nat) (s : State) :
    ∀ t, execAtomPerformed id s = .next t → t.still = s.still := by
  intro t h
  unfold execAtomPerformed at h
  simp only [Host.Outcome.next.injEq] at h
  subst h
  repeat' first | (simp [*]; done) | split | simp [*] |
    refine (State.still_foldl _ (fun _ _ => ?_) _ _).trans ?_ |
    refine (State.still_enginesReach_ok ‹_›).trans ?_ |
    refine (State.still_enginesReach_error ‹_›).trans ?_

theorem still_execUpdatePacket (x0 : Nat) (x1 : Nat) (x2 : Nat) (s : State) :
    ∀ t, execUpdatePacket x0 x1 x2 s = .next t → t.still = s.still := by
  intro t h
  unfold execUpdatePacket at h
  simp only [Host.Outcome.next.injEq] at h
  subst h
  repeat' first | (simp [*]; done) | split | simp [*] |
    refine (State.still_foldl _ (fun _ _ => ?_) _ _).trans ?_

theorem still_execSealedViewArrival (n : Nat) (s : State) :
    ∀ t, execSealedViewArrival n s = .next t → t.still = s.still := by
  intro t h
  unfold execSealedViewArrival at h
  simp only [Host.Outcome.next.injEq] at h
  subst h
  repeat' first | (simp [*]; done) | split | simp [*] |
    refine (State.still_foldl _ (fun _ _ => ?_) _ _).trans ?_

theorem still_execTranslationWalk (c : Nat) (p : Word) (store : Bool) (s : State) :
    ∀ t, execTranslationWalk c p store s = .next t → t.still = s.still := by
  intro t h
  unfold execTranslationWalk at h
  simp only [Host.Outcome.next.injEq] at h
  subst h
  repeat' first | (simp [*]; done) | split | simp [*] |
    refine (State.still_foldl _ (fun _ _ => ?_) _ _).trans ?_ |
    refine (State.still_lookup_of ‹_›).trans ?_

theorem still_execFaultLogAppend (n : Nat) (tag : Nat) (s : State) :
    ∀ t, execFaultLogAppend n tag s = .next t → t.still = s.still := by
  intro t h
  unfold execFaultLogAppend at h
  simp only [Host.Outcome.next.injEq] at h
  subst h
  repeat' first | (simp [*]; done) | split | simp [*] |
    refine (State.still_foldl _ (fun _ _ => ?_) _ _).trans ?_

theorem still_execXlrespRetry (n : Nat) (seq : Nat) (s : State) :
    ∀ t, execXlrespRetry n seq s = .next t → t.still = s.still := by
  intro t h
  unfold execXlrespRetry at h
  simp only [Host.Outcome.next.injEq] at h
  subst h
  repeat' first | (simp [*]; done) | split | simp [*] |
    refine (State.still_foldl _ (fun _ _ => ?_) _ _).trans ?_ |
    refine (State.still_takeRecord_of ‹_›).trans ?_ |
    refine (State.still_foldl_snd _ (fun _ _ => ?_) _ _).trans ?_

theorem still_execXlrespFail (n : Nat) (seq : Nat) (s : State) :
    ∀ t, execXlrespFail n seq s = .next t → t.still = s.still := by
  intro t h
  unfold execXlrespFail at h
  simp only [Host.Outcome.next.injEq] at h
  subst h
  repeat' first | (simp [*]; done) | split | simp [*] |
    refine (State.still_foldl _ (fun _ _ => ?_) _ _).trans ?_ |
    refine (State.still_takeRecord_of ‹_›).trans ?_ |
    refine (State.still_foldl_snd _ (fun _ _ => ?_) _ _).trans ?_

theorem still_execMigrationLinePull (sv : Nat) (m : Nat) (line : Nat) (s : State) :
    ∀ t, execMigrationLinePull sv m line s = .next t → t.still = s.still := by
  intro t h
  unfold execMigrationLinePull at h
  simp only [Host.Outcome.next.injEq] at h
  subst h
  repeat' first | (simp [*]; done) | split | simp [*] |
    refine (State.still_foldl _ (fun _ _ => ?_) _ _).trans ?_ |
    refine (State.still_pullLine_of ‹_›).trans ?_

theorem still_execMigrationLineMove (sv : Nat) (m : Nat) (s : State) :
    ∀ t, execMigrationLineMove sv m s = .next t → t.still = s.still := by
  intro t h
  unfold execMigrationLineMove at h
  simp only [Host.Outcome.next.injEq] at h
  subst h
  repeat' first | (simp [*]; done) | split | simp [*] |
    refine (State.still_foldl _ (fun _ _ => ?_) _ _).trans ?_ |
    refine (State.still_migReach_ok ‹_›).trans ?_ |
    refine (State.still_migReach_error ‹_›).trans ?_

@[simp] theorem still_execColl_go (hd : Hdr) (f : Sys) (d : List Byte) (gs : Nat) (np : Nat) (rank : Nat) (id : Nat) (s : State) :
    (execColl.go hd f d gs np rank id s).still = s.still := by
  unfold execColl.go
  dsimp only
  generalize collSrcN d np rank * collSize d = m
  generalize collDstN d np * collSize d = k
  repeat' first | (simp [*]; done) | split | simp [*] |
    refine (State.still_withMarks _ _ _ _ (fun _ => ?_)).trans ?_ |
    refine (State.still_withPtr _ _ _ _ _ _ (fun _ => ?_)).trans ?_

theorem still_execColl (hd : Hdr) (f : Sys) (s : State) :
    ∀ t, execColl hd f s = .next t → t.still = s.still := by
  intro t h
  unfold execColl at h
  simp only [Host.Outcome.next.injEq] at h
  subst h
  repeat' first | (simp [*]; done) | split | simp [*] |
    refine (State.still_foldl _ (fun _ _ => ?_) _ _).trans ?_ |
    refine (State.still_withMarks _ _ _ _ (fun _ => ?_)).trans ?_ |
    refine (State.still_withPtr _ _ _ _ _ _ (fun _ => ?_)).trans ?_ |
    refine (still_execColl_go _ _ _ _ _ _).trans ?_

theorem still_execCollWait (x0 : Hdr) (f : Sys) (s : State) :
    ∀ t, execCollWait x0 f s = .next t → t.still = s.still := by
  intro t h
  unfold execCollWait at h
  simp only [Host.Outcome.next.injEq] at h
  subst h
  repeat' first | (simp [*]; done) | split | simp [*] |
    refine (State.still_foldl _ (fun _ _ => ?_) _ _).trans ?_ |
    refine (State.still_foldl_snd _ (fun _ _ => ?_) _ _).trans ?_

theorem still_execCollComplete (n : Nat) (id : Nat) (parts : List (List Byte)) (s : State) :
    ∀ t, execCollComplete n id parts s = .next t → t.still = s.still := by
  intro t h
  unfold execCollComplete at h
  simp only [Host.Outcome.next.injEq] at h
  subst h
  repeat' first | (simp [*]; done) | split | simp [*] |
    refine (State.still_foldl _ (fun _ _ => ?_) _ _).trans ?_ |
    refine (State.still_newId_of ‹_›).trans ?_

theorem still_execKop (x0 : Hdr) (f : Rrr) (s : State) :
    ∀ t, execKop x0 f s = .next t → t.still = s.still := by
  intro t h
  unfold execKop at h
  simp only [Host.Outcome.next.injEq] at h
  subst h
  repeat' first | (simp [*]; done) | split | simp [*] |
    refine (State.still_foldl _ (fun _ _ => ?_) _ _).trans ?_

theorem still_execKset (x0 : Hdr) (f : Rrr) (s : State) :
    ∀ t, execKset x0 f s = .next t → t.still = s.still := by
  intro t h
  unfold execKset at h
  simp only [Host.Outcome.next.injEq] at h
  subst h
  repeat' first | (simp [*]; done) | split | simp [*] |
    refine (State.still_foldl _ (fun _ _ => ?_) _ _).trans ?_

theorem still_execKmov (h : Hdr) (f : Rrr) (s : State) :
    ∀ t, execKmov h f s = .next t → t.still = s.still := by
  intro t h
  unfold execKmov at h
  simp only [Host.Outcome.next.injEq] at h
  subst h
  repeat' first | (simp [*]; done) | split | simp [*] |
    refine (State.still_foldl _ (fun _ _ => ?_) _ _).trans ?_ |
    refine (State.still_vecChecked _ _ _ _ (fun _ => ?_)).trans ?_

theorem still_execVshape (x0 : Hdr) (f : Rri) (s : State) :
    ∀ t, execVshape x0 f s = .next t → t.still = s.still := by
  intro t h
  unfold execVshape at h
  simp only [Host.Outcome.next.injEq] at h
  subst h
  repeat' first | (simp [*]; done) | split | simp [*] |
    refine (State.still_foldl _ (fun _ _ => ?_) _ _).trans ?_

theorem still_execValloc (x0 : Hdr) (f : Rri) (s : State) :
    ∀ t, execValloc x0 f s = .next t → t.still = s.still := by
  intro t h
  unfold execValloc at h
  simp only [Host.Outcome.next.injEq] at h
  subst h
  repeat' first | (simp [*]; done) | split | simp [*] |
    refine (State.still_foldl _ (fun _ _ => ?_) _ _).trans ?_

theorem still_execVshrink (x0 : Hdr) (f : Rri) (s : State) :
    ∀ t, execVshrink x0 f s = .next t → t.still = s.still := by
  intro t h
  unfold execVshrink at h
  simp only [Host.Outcome.next.injEq] at h
  subst h
  repeat' first | (simp [*]; done) | split | simp [*] |
    refine (State.still_foldl _ (fun _ _ => ?_) _ _).trans ?_

theorem still_execVgate (x0 : Hdr) (f : Rri) (s : State) :
    ∀ t, execVgate x0 f s = .next t → t.still = s.still := by
  intro t h
  unfold execVgate at h
  simp only [Host.Outcome.next.injEq] at h
  subst h
  repeat' first | (simp [*]; done) | split | simp [*] |
    refine (State.still_foldl _ (fun _ _ => ?_) _ _).trans ?_

theorem still_execFatalStop (n : Nat) (s : State) :
    ∀ t, execFatalStop n s = .next t → t.still = s.still := by
  intro t h
  unfold execFatalStop at h
  simp only [Host.Outcome.next.injEq] at h
  subst h
  repeat' first | (simp [*]; done) | split | simp [*] |
    refine (State.still_foldl _ (fun _ _ => ?_) _ _).trans ?_

theorem still_execHoldWatchdogExpiry (n : Nat) (s : State) :
    ∀ t, execHoldWatchdogExpiry n s = .next t → t.still = s.still := by
  intro t h
  unfold execHoldWatchdogExpiry at h
  simp only [Host.Outcome.next.injEq] at h
  subst h
  repeat' first | (simp [*]; done) | split | simp [*] |
    refine (State.still_foldl _ (fun _ _ => ?_) _ _).trans ?_

theorem still_execKill (n : Nat) (s : State) :
    ∀ t, execKill n s = .next t → t.still = s.still := by
  intro t h
  unfold execKill at h
  simp only [Host.Outcome.next.injEq] at h
  subst h
  repeat' first | (simp [*]; done) | split | simp [*] |
    refine (State.still_foldl _ (fun _ _ => ?_) _ _).trans ?_

theorem still_execSlotRelease (n : Nat) (s : State) :
    ∀ t, execSlotRelease n s = .next t → t.still = s.still := by
  intro t h
  unfold execSlotRelease at h
  simp only [Host.Outcome.next.injEq] at h
  subst h
  repeat' first | (simp [*]; done) | split | simp [*] |
    refine (State.still_foldl _ (fun _ _ => ?_) _ _).trans ?_

theorem still_execUncorrectableError (site : UeSite) (s : State) :
    ∀ t, execUncorrectableError site s = .next t → t.still = s.still := by
  intro t h
  unfold execUncorrectableError at h
  simp only [Host.Outcome.next.injEq] at h
  subst h
  repeat' first | (simp [*]; done) | split | simp [*] |
    refine (State.still_foldl _ (fun _ _ => ?_) _ _).trans ?_ |
    refine (State.still_abortRounds_of ‹_›).trans ?_

theorem still_execExchangeDeadlineReport (n : Nat) (l : LateStore) (s : State) :
    ∀ t, execExchangeDeadlineReport n l s = .next t → t.still = s.still := by
  intro t h
  unfold execExchangeDeadlineReport at h
  simp only [Host.Outcome.next.injEq] at h
  subst h
  repeat' first | (simp [*]; done) | split | simp [*] |
    refine (State.still_foldl _ (fun _ _ => ?_) _ _).trans ?_

theorem still_execPackageJoinMessage (n : Nat) (peer : Nat) (seq : Nat) (kind : Nat) (s : State) :
    ∀ t, execPackageJoinMessage n peer seq kind s = .next t → t.still = s.still := by
  intro t h
  unfold execPackageJoinMessage at h
  simp only [Host.Outcome.next.injEq] at h
  subst h
  repeat' first | (simp [*]; done) | split | simp [*] |
    refine (State.still_foldl _ (fun _ _ => ?_) _ _).trans ?_ |
    refine (State.still_fromPackage _ _ _ _ (fun _ => ?_)).trans ?_

theorem still_execYieldDeadlineExpiry (n : Nat) (s : State) :
    ∀ t, execYieldDeadlineExpiry n s = .next t → t.still = s.still := by
  intro t h
  unfold execYieldDeadlineExpiry at h
  simp only [Host.Outcome.next.injEq] at h
  subst h
  repeat' first | (simp [*]; done) | split | simp [*] |
    refine (State.still_foldl _ (fun _ _ => ?_) _ _).trans ?_

theorem still_execPolite (n : Nat) (on : Bool) (s : State) :
    ∀ t, execPolite n on s = .next t → t.still = s.still := by
  intro t h
  unfold execPolite at h
  simp only [Host.Outcome.next.injEq] at h
  subst h
  repeat' first | (simp [*]; done) | split | simp [*] |
    refine (State.still_foldl _ (fun _ _ => ?_) _ _).trans ?_

theorem still_execLeaseGrant (n : Nat) (s : State) :
    ∀ t, execLeaseGrant n s = .next t → t.still = s.still := by
  intro t h
  unfold execLeaseGrant at h
  simp only [Host.Outcome.next.injEq] at h
  subst h
  repeat' first | (simp [*]; done) | split | simp [*] |
    refine (State.still_foldl _ (fun _ _ => ?_) _ _).trans ?_

theorem still_execLeaseExpiry (n : Nat) (tag : Nat) (s : State) :
    ∀ t, execLeaseExpiry n tag s = .next t → t.still = s.still := by
  intro t h
  unfold execLeaseExpiry at h
  simp only [Host.Outcome.next.injEq] at h
  subst h
  repeat' first | (simp [*]; done) | split | simp [*] |
    refine (State.still_foldl _ (fun _ _ => ?_) _ _).trans ?_

theorem still_execFrequencyChangeDone (n : Nat) (tag : Nat) (s : State) :
    ∀ t, execFrequencyChangeDone n tag s = .next t → t.still = s.still := by
  intro t h
  unfold execFrequencyChangeDone at h
  simp only [Host.Outcome.next.injEq] at h
  subst h
  repeat' first | (simp [*]; done) | split | simp [*] |
    refine (State.still_foldl _ (fun _ _ => ?_) _ _).trans ?_

theorem still_execSaveComplete (n : Nat) (s : State) :
    ∀ t, execSaveComplete n s = .next t → t.still = s.still := by
  intro t h
  unfold execSaveComplete at h
  simp only [Host.Outcome.next.injEq] at h
  subst h
  repeat' first | (simp [*]; done) | split | simp [*] |
    refine (State.still_foldl _ (fun _ _ => ?_) _ _).trans ?_ |
    refine (State.still_foldl_snd _ (fun _ _ => ?_) _ _).trans ?_

theorem still_execRestoreComplete (n : Nat) (s : State) :
    ∀ t, execRestoreComplete n s = .next t → t.still = s.still := by
  intro t h
  unfold execRestoreComplete at h
  simp only [Host.Outcome.next.injEq] at h
  subst h
  repeat' first | (simp [*]; done) | split | simp [*] |
    refine (State.still_foldl _ (fun _ _ => ?_) _ _).trans ?_

theorem still_execHoldRelease (n : Nat) (s : State) :
    ∀ t, execHoldRelease n s = .next t → t.still = s.still := by
  intro t h
  unfold execHoldRelease at h
  simp only [Host.Outcome.next.injEq] at h
  subst h
  repeat' first | (simp [*]; done) | split | simp [*] |
    refine (State.still_foldl _ (fun _ _ => ?_) _ _).trans ?_

theorem still_execCurtainDistanceFault (n : Nat) (s : State) :
    ∀ t, execCurtainDistanceFault n s = .next t → t.still = s.still := by
  intro t h
  unfold execCurtainDistanceFault at h
  simp only [Host.Outcome.next.injEq] at h
  subst h
  repeat' first | (simp [*]; done) | split | simp [*] |
    refine (State.still_foldl _ (fun _ _ => ?_) _ _).trans ?_

theorem still_execLaunch (x0 : Hdr) (f : Sys) (s : State) :
    ∀ t, execLaunch x0 f s = .next t → t.still = s.still := by
  intro t h
  unfold execLaunch at h
  simp only [Host.Outcome.next.injEq] at h
  subst h
  repeat' first | (simp [*]; done) | split | simp [*] |
    refine (State.still_foldl _ (fun _ _ => ?_) _ _).trans ?_ |
    refine (State.still_withReach _ _ _ (fun _ => ?_)).trans ?_ |
    refine (State.still_privileged _ _ _ _ (fun _ => ?_)).trans ?_ |
    refine (State.still_withBlock _ _ _ (fun _ _ => ?_)).trans ?_

theorem still_execLaunchComplete (n : Nat) (s : State) :
    ∀ t, execLaunchComplete n s = .next t → t.still = s.still := by
  intro t h
  unfold execLaunchComplete at h
  simp only [Host.Outcome.next.injEq] at h
  subst h
  repeat' first | (simp [*]; done) | split | simp [*] |
    refine (State.still_foldl _ (fun _ _ => ?_) _ _).trans ?_ |
    refine (State.still_foldl_snd _ (fun _ _ => ?_) _ _).trans ?_

theorem still_execLaunchResume (x0 : Hdr) (f : Sys) (s : State) :
    ∀ t, execLaunchResume x0 f s = .next t → t.still = s.still := by
  intro t h
  unfold execLaunchResume at h
  simp only [Host.Outcome.next.injEq] at h
  subst h
  repeat' first | (simp [*]; done) | split | simp [*] |
    refine (State.still_foldl _ (fun _ _ => ?_) _ _).trans ?_ |
    refine (State.still_withReach _ _ _ (fun _ => ?_)).trans ?_ |
    refine (State.still_privileged _ _ _ _ (fun _ => ?_)).trans ?_ |
    refine (State.still_withBlock _ _ _ (fun _ _ => ?_)).trans ?_ |
    refine (State.still_foldl_snd _ (fun _ _ => ?_) _ _).trans ?_

theorem still_execTtStart (x0 : Hdr) (f : Sys) (s : State) :
    ∀ t, execTtStart x0 f s = .next t → t.still = s.still := by
  intro t h
  unfold execTtStart at h
  simp only [Host.Outcome.next.injEq] at h
  subst h
  repeat' first | (simp [*]; done) | split | simp [*] |
    refine (State.still_foldl _ (fun _ _ => ?_) _ _).trans ?_ |
    refine (State.still_privileged _ _ _ _ (fun _ => ?_)).trans ?_

theorem still_execTtStartAt (x0 : Hdr) (f : Sys) (s : State) :
    ∀ t, execTtStartAt x0 f s = .next t → t.still = s.still := by
  intro t h
  unfold execTtStartAt at h
  simp only [Host.Outcome.next.injEq] at h
  subst h
  repeat' first | (simp [*]; done) | split | simp [*] |
    refine (State.still_foldl _ (fun _ _ => ?_) _ _).trans ?_ |
    refine (State.still_privileged _ _ _ _ (fun _ => ?_)).trans ?_

theorem still_execTtStartAtTime (n : Nat) (s : State) :
    ∀ t, execTtStartAtTime n s = .next t → t.still = s.still := by
  intro t h
  unfold execTtStartAtTime at h
  simp only [Host.Outcome.next.injEq] at h
  subst h
  repeat' first | (simp [*]; done) | split | simp [*] |
    refine (State.still_foldl _ (fun _ _ => ?_) _ _).trans ?_

theorem still_execHoldRequest (x0 : Hdr) (f : Sys) (s : State) :
    ∀ t, execHoldRequest x0 f s = .next t → t.still = s.still := by
  intro t h
  unfold execHoldRequest at h
  simp only [Host.Outcome.next.injEq] at h
  subst h
  repeat' first | (simp [*]; done) | split | simp [*] |
    refine (State.still_foldl _ (fun _ _ => ?_) _ _).trans ?_ |
    refine (State.still_privileged _ _ _ _ (fun _ => ?_)).trans ?_

theorem still_execHoldRel (x0 : Hdr) (f : Sys) (s : State) :
    ∀ t, execHoldRel x0 f s = .next t → t.still = s.still := by
  intro t h
  unfold execHoldRel at h
  simp only [Host.Outcome.next.injEq] at h
  subst h
  repeat' first | (simp [*]; done) | split | simp [*] |
    refine (State.still_foldl _ (fun _ _ => ?_) _ _).trans ?_ |
    refine (State.still_privileged _ _ _ _ (fun _ => ?_)).trans ?_

theorem still_execAdaptiveClockHoldTick (n : Nat) (s : State) :
    ∀ t, execAdaptiveClockHoldTick n s = .next t → t.still = s.still := by
  intro t h
  unfold execAdaptiveClockHoldTick at h
  simp only [Host.Outcome.next.injEq] at h
  subst h
  repeat' first | (simp [*]; done) | split | simp [*] |
    refine (State.still_foldl _ (fun _ _ => ?_) _ _).trans ?_

theorem still_execTlbi (x0 : Hdr) (f : Sys) (s : State) :
    ∀ t, execTlbi x0 f s = .next t → t.still = s.still := by
  intro t h
  unfold execTlbi at h
  simp only [Host.Outcome.next.injEq] at h
  subst h
  repeat' first | (simp [*]; done) | split | simp [*] |
    refine (State.still_foldl _ (fun _ _ => ?_) _ _).trans ?_ |
    refine (State.still_privileged _ _ _ _ (fun _ => ?_)).trans ?_

theorem still_execTlbiAsid (x0 : Hdr) (f : Sys) (s : State) :
    ∀ t, execTlbiAsid x0 f s = .next t → t.still = s.still := by
  intro t h
  unfold execTlbiAsid at h
  simp only [Host.Outcome.next.injEq] at h
  subst h
  repeat' first | (simp [*]; done) | split | simp [*] |
    refine (State.still_foldl _ (fun _ _ => ?_) _ _).trans ?_ |
    refine (State.still_privileged _ _ _ _ (fun _ => ?_)).trans ?_

theorem still_execTlbiAll (x0 : Hdr) (f : Sys) (s : State) :
    ∀ t, execTlbiAll x0 f s = .next t → t.still = s.still := by
  intro t h
  unfold execTlbiAll at h
  simp only [Host.Outcome.next.injEq] at h
  subst h
  repeat' first | (simp [*]; done) | split | simp [*] |
    refine (State.still_foldl _ (fun _ _ => ?_) _ _).trans ?_ |
    refine (State.still_privileged _ _ _ _ (fun _ => ?_)).trans ?_

theorem still_execTlbiComplete (sv : Nat) (n : Nat) (sc : TlbScope) (s : State) :
    ∀ t, execTlbiComplete sv n sc s = .next t → t.still = s.still := by
  intro t h
  unfold execTlbiComplete at h
  simp only [Host.Outcome.next.injEq] at h
  subst h
  repeat' first | (simp [*]; done) | split | simp [*] |
    refine (State.still_foldl _ (fun _ _ => ?_) _ _).trans ?_ |
    refine (State.still_foldl_snd _ (fun _ _ => ?_) _ _).trans ?_

theorem still_execSupervisorEvent (sv : Nat) (s : State) :
    ∀ t, execSupervisorEvent sv s = .next t → t.still = s.still := by
  intro t h
  unfold execSupervisorEvent at h
  simp only [Host.Outcome.next.injEq] at h
  subst h
  repeat' first | (simp [*]; done) | split | simp [*] |
    refine (State.still_foldl _ (fun _ _ => ?_) _ _).trans ?_

theorem still_execSvret (x0 : Hdr) (f : Sys) (s : State) :
    ∀ t, execSvret x0 f s = .next t → t.still = s.still := by
  intro t h
  unfold execSvret at h
  simp only [Host.Outcome.next.injEq] at h
  subst h
  repeat' first | (simp [*]; done) | split | simp [*] |
    refine (State.still_foldl _ (fun _ _ => ?_) _ _).trans ?_ |
    refine (State.still_privileged _ _ _ _ (fun _ => ?_)).trans ?_

theorem still_execHostRequestSubmit (addr : Nat) (data : List Byte) (s : State) :
    ∀ t, execHostRequestSubmit addr data s = .next t → t.still = s.still := by
  intro t h
  unfold execHostRequestSubmit at h
  simp only [Host.Outcome.next.injEq] at h
  subst h
  repeat' first | (simp [*]; done) | split | simp [*] |
    refine (State.still_foldl _ (fun _ _ => ?_) _ _).trans ?_

theorem still_execPcsrRead (x0 : Hdr) (f : Sys) (s : State) :
    ∀ t, execPcsrRead x0 f s = .next t → t.still = s.still := by
  intro t h
  unfold execPcsrRead at h
  simp only [Host.Outcome.next.injEq] at h
  subst h
  repeat' first | (simp [*]; done) | split | simp [*] |
    refine (State.still_foldl _ (fun _ _ => ?_) _ _).trans ?_ |
    refine (State.still_privileged _ _ _ _ (fun _ => ?_)).trans ?_

theorem still_execPcsrWrite (x0 : Hdr) (f : Sys) (s : State) :
    ∀ t, execPcsrWrite x0 f s = .next t → t.still = s.still := by
  intro t h
  unfold execPcsrWrite at h
  simp only [Host.Outcome.next.injEq] at h
  subst h
  repeat' first | (simp [*]; done) | split | simp [*] |
    refine (State.still_foldl _ (fun _ _ => ?_) _ _).trans ?_ |
    refine (State.still_privileged _ _ _ _ (fun _ => ?_)).trans ?_ |
    refine (State.still_foldl_snd _ (fun _ _ => ?_) _ _).trans ?_

theorem still_execPrivRegisterWrite (sv : Nat) (reg : Nat) (n : Nat) (v : Word) (s : State) :
    ∀ t, execPrivRegisterWrite sv reg n v s = .next t → t.still = s.still := by
  intro t h
  unfold execPrivRegisterWrite at h
  simp only [Host.Outcome.next.injEq] at h
  subst h
  repeat' first | (simp [*]; done) | split | simp [*] |
    refine (State.still_foldl _ (fun _ _ => ?_) _ _).trans ?_

theorem still_execCurDistWrite (n : Nat) (v : Word) (s : State) :
    ∀ t, execCurDistWrite n v s = .next t → t.still = s.still := by
  intro t h
  unfold execCurDistWrite at h
  simp only [Host.Outcome.next.injEq] at h
  subst h
  repeat' first | (simp [*]; done) | split | simp [*] |
    refine (State.still_foldl _ (fun _ _ => ?_) _ _).trans ?_

theorem still_execCeilWrite (sv : Nat) (n : Nat) (v : Word) (s : State) :
    ∀ t, execCeilWrite sv n v s = .next t → t.still = s.still := by
  intro t h
  unfold execCeilWrite at h
  simp only [Host.Outcome.next.injEq] at h
  subst h
  repeat' first | (simp [*]; done) | split | simp [*] |
    refine (State.still_foldl _ (fun _ _ => ?_) _ _).trans ?_

theorem still_execMigctlStart (sv : Nat) (m : Nat) (v : Word) (s : State) :
    ∀ t, execMigctlStart sv m v s = .next t → t.still = s.still := by
  intro t h
  unfold execMigctlStart at h
  simp only [Host.Outcome.next.injEq] at h
  subst h
  repeat' first | (simp [*]; done) | split | simp [*] |
    refine (State.still_foldl _ (fun _ _ => ?_) _ _).trans ?_

theorem still_execGcfgEnable (sv : Nat) (g : Nat) (v : Word) (s : State) :
    ∀ t, execGcfgEnable sv g v s = .next t → t.still = s.still := by
  intro t h
  unfold execGcfgEnable at h
  simp only [Host.Outcome.next.injEq] at h
  subst h
  repeat' first | (simp [*]; done) | split | simp [*] |
    refine (State.still_foldl _ (fun _ _ => ?_) _ _).trans ?_ |
    refine (State.still_foldl_snd _ (fun _ _ => ?_) _ _).trans ?_

theorem still_execGcfgDisable (sv : Nat) (g : Nat) (v : Word) (s : State) :
    ∀ t, execGcfgDisable sv g v s = .next t → t.still = s.still := by
  intro t h
  unfold execGcfgDisable at h
  simp only [Host.Outcome.next.injEq] at h
  subst h
  repeat' first | (simp [*]; done) | split | simp [*] |
    refine (State.still_foldl _ (fun _ _ => ?_) _ _).trans ?_

theorem still_execCapViolation (master : Nat) (cap : Nat) (addr : Nat) (s : State) :
    ∀ t, execCapViolation master cap addr s = .next t → t.still = s.still := by
  intro t h
  unfold execCapViolation at h
  simp only [Host.Outcome.next.injEq] at h
  subst h
  repeat' first | (simp [*]; done) | split | simp [*] |
    refine (State.still_foldl _ (fun _ _ => ?_) _ _).trans ?_

theorem still_execRattle (c : Nat) (failed : BitVec 4) (s : State) :
    ∀ t, execRattle c failed s = .next t → t.still = s.still := by
  intro t h
  unfold execRattle at h
  simp only [Host.Outcome.next.injEq] at h
  subst h
  repeat' first | (simp [*]; done) | split | simp [*] |
    refine (State.still_foldl _ (fun _ _ => ?_) _ _).trans ?_

theorem still_execAfenceRetestDone (q : Nat) (bit : Nat) (failed : Bool) (s : State) :
    ∀ t, execAfenceRetestDone q bit failed s = .next t → t.still = s.still := by
  intro t h
  unfold execAfenceRetestDone at h
  simp only [Host.Outcome.next.injEq] at h
  subst h
  repeat' first | (simp [*]; done) | split | simp [*] |
    refine (State.still_foldl _ (fun _ _ => ?_) _ _).trans ?_

theorem still_execAfenceClear (sv : Nat) (q : Nat) (v : Word) (s : State) :
    ∀ t, execAfenceClear sv q v s = .next t → t.still = s.still := by
  intro t h
  unfold execAfenceClear at h
  simp only [Host.Outcome.next.injEq] at h
  subst h
  repeat' first | (simp [*]; done) | split | simp [*] |
    refine (State.still_foldl _ (fun _ _ => ?_) _ _).trans ?_ |
    refine (State.still_foldl_snd _ (fun _ _ => ?_) _ _).trans ?_

theorem still_execEyeMonitorMeasure (d : Nat) (l : BitVec 24) (hm : BitVec 8) (vm : BitVec 8) (s : State) :
    ∀ t, execEyeMonitorMeasure d l hm vm s = .next t → t.still = s.still := by
  intro t h
  unfold execEyeMonitorMeasure at h
  simp only [Host.Outcome.next.injEq] at h
  subst h
  repeat' first | (simp [*]; done) | split | simp [*] |
    refine (State.still_foldl _ (fun _ _ => ?_) _ _).trans ?_

theorem still_execEyecmdRetrain (d : Nat) (s : State) :
    ∀ t, execEyecmdRetrain d s = .next t → t.still = s.still := by
  intro t h
  unfold execEyecmdRetrain at h
  simp only [Host.Outcome.next.injEq] at h
  subst h
  repeat' first | (simp [*]; done) | split | simp [*] |
    refine (State.still_foldl _ (fun _ _ => ?_) _ _).trans ?_

theorem still_execEyecmdRepair (d : Nat) (s : State) :
    ∀ t, execEyecmdRepair d s = .next t → t.still = s.still := by
  intro t h
  unfold execEyecmdRepair at h
  simp only [Host.Outcome.next.injEq] at h
  subst h
  repeat' first | (simp [*]; done) | split | simp [*] |
    refine (State.still_foldl _ (fun _ _ => ?_) _ _).trans ?_

theorem still_execEyecmdClear (d : Nat) (s : State) :
    ∀ t, execEyecmdClear d s = .next t → t.still = s.still := by
  intro t h
  unfold execEyecmdClear at h
  simp only [Host.Outcome.next.injEq] at h
  subst h
  repeat' first | (simp [*]; done) | split | simp [*] |
    refine (State.still_foldl _ (fun _ _ => ?_) _ _).trans ?_

theorem still_execRetrainSliceStart (d : Nat) (l : BitVec 24) (s : State) :
    ∀ t, execRetrainSliceStart d l s = .next t → t.still = s.still := by
  intro t h
  have e : ((s.sliceCohorts d l).foldl (fun s n =>
      if (s.slot n).reqs.any fun r => r.cause == Cause.platform (tagSlice d l) && r.cleared.isNone then s
      else s.platformHold n (tagSlice d l)) s).still = s.still :=
    State.still_foldl _ (fun _ _ => by split <;> simp) _ _
  have f : ∀ (u : State) (k : Nat), ({ u with free := k } : State).still = u.still := fun _ _ => rfl
  unfold execRetrainSliceStart at h
  simp only [Host.Outcome.next.injEq] at h
  subst h
  split
  · rfl
  · split
    · simp
    · split
      · exact (State.still_inClocks _ _ _).trans e
      · refine (f _ _).trans ?_
        refine (State.still_inClocks _ _ _).trans ?_
        exact ((State.still_modPlat _ _ rfl rfl rfl rfl rfl rfl rfl).trans ((State.still_repairAsked _ _ _).trans e))

theorem still_execRetrainSliceEnd (d : Nat) (l : BitVec 24) (s : State) :
    ∀ t, execRetrainSliceEnd d l s = .next t → t.still = s.still := by
  intro t h
  unfold execRetrainSliceEnd at h
  simp only [Host.Outcome.next.injEq] at h
  subst h
  repeat' first | (simp [*]; done) | split | simp [*] |
    refine (State.still_foldl _ (fun _ _ => ?_) _ _).trans ?_

theorem still_execDroopDetect (q : Nat) (s : State) :
    ∀ t, execDroopDetect q s = .next t → t.still = s.still := by
  intro t h
  unfold execDroopDetect at h
  simp only [Host.Outcome.next.injEq] at h
  subst h
  repeat' first | (simp [*]; done) | split | simp [*] | (refine (State.still_modPlat _ _ ?_ ?_ ?_ ?_ ?_ ?_ ?_).trans ?_)

theorem still_execDroopClear (q : Nat) (s : State) :
    ∀ t, execDroopClear q s = .next t → t.still = s.still := by
  intro t h
  unfold execDroopClear at h
  simp only [Host.Outcome.next.injEq] at h
  subst h
  repeat' first | (simp [*]; done) | split | simp [*] |
    refine (State.still_foldl _ (fun _ _ => ?_) _ _).trans ?_

theorem still_execPowerWindow (s : State) :
    ∀ t, execPowerWindow s = .next t → t.still = s.still := by
  intro t h
  unfold execPowerWindow at h
  simp only [Host.Outcome.next.injEq] at h
  subst h
  repeat' first | (simp [*]; done) | split | simp [*] |
    refine (State.still_foldl _ (fun _ _ => ?_) _ _).trans ?_ |
    refine (State.still_foldl_snd _ (fun _ _ => ?_) _ _).trans ?_

theorem still_execBootokTimeout (s : State) :
    ∀ t, execBootokTimeout s = .next t → t.still = s.still := by
  intro t h
  unfold execBootokTimeout at h
  simp only [Host.Outcome.next.injEq] at h
  subst h
  repeat' first | (simp [*]; done) | split | simp [*] |
    refine (State.still_foldl _ (fun _ _ => ?_) _ _).trans ?_

theorem still_execBootok (s : State) :
    ∀ t, execBootok s = .next t → t.still = s.still := by
  intro t h
  unfold execBootok at h
  simp only [Host.Outcome.next.injEq] at h
  subst h
  repeat' first | (simp [*]; done) | split | simp [*] |
    refine (State.still_foldl _ (fun _ _ => ?_) _ _).trans ?_

theorem still_execCxlMemHostWrite (target : HostTarget) (data : List Byte) (s : State) :
    ∀ t, execCxlMemHostWrite target data s = .next t → t.still = s.still := by
  intro t h
  unfold execCxlMemHostWrite at h
  simp only [Host.Outcome.next.injEq] at h
  subst h
  repeat' first | (simp [*]; done) | split | simp [*] |
    refine (State.still_foldl _ (fun _ _ => ?_) _ _).trans ?_

theorem still_execImage (s : State) :
    ∀ t, execImage s = .next t → t.still = s.still := by
  intro t h
  unfold execImage at h
  simp only [Host.Outcome.next.injEq] at h
  subst h
  repeat' first | (simp [*]; done) | split | simp [*] |
    refine (State.still_foldl _ (fun _ _ => ?_) _ _).trans ?_ |
    refine (State.still_command _ _ _ (fun _ => ?_)).trans ?_

theorem still_execConfig (s : State) :
    ∀ t, execConfig s = .next t → t.still = s.still := by
  intro t h
  unfold execConfig at h
  simp only [Host.Outcome.next.injEq] at h
  subst h
  repeat' first | (simp [*]; done) | split | simp [*] |
    refine (State.still_foldl _ (fun _ _ => ?_) _ _).trans ?_ |
    refine (State.still_command _ _ _ (fun _ => ?_)).trans ?_

theorem still_execRestart (s : State) :
    ∀ t, execRestart s = .next t → t.still = s.still := by
  intro t h
  unfold execRestart at h
  simp only [Host.Outcome.next.injEq] at h
  subst h
  repeat' first | (simp [*]; done) | split | simp [*] |
    refine (State.still_foldl _ (fun _ _ => ?_) _ _).trans ?_ |
    refine (State.still_command _ _ _ (fun _ => ?_)).trans ?_

theorem still_execAttest (s : State) :
    ∀ t, execAttest s = .next t → t.still = s.still := by
  intro t h
  unfold execAttest at h
  simp only [Host.Outcome.next.injEq] at h
  subst h
  repeat' first | (simp [*]; done) | split | simp [*] |
    refine (State.still_foldl _ (fun _ _ => ?_) _ _).trans ?_ |
    refine (State.still_command _ _ _ (fun _ => ?_)).trans ?_

theorem still_execStatus (s : State) :
    ∀ t, execStatus s = .next t → t.still = s.still := by
  intro t h
  unfold execStatus at h
  simp only [Host.Outcome.next.injEq] at h
  subst h
  repeat' first | (simp [*]; done) | split | simp [*] |
    refine (State.still_foldl _ (fun _ _ => ?_) _ _).trans ?_ |
    refine (State.still_freeBytes_of ‹_›).trans ?_ |
    refine (State.still_command _ _ _ (fun _ => ?_)).trans ?_

theorem still_execUnfreeze (s : State) :
    ∀ t, execUnfreeze s = .next t → t.still = s.still := by
  intro t h
  unfold execUnfreeze at h
  simp only [Host.Outcome.next.injEq] at h
  subst h
  repeat' first | (simp [*]; done) | split | simp [*] |
    refine (State.still_foldl _ (fun _ _ => ?_) _ _).trans ?_ |
    refine (State.still_command _ _ _ (fun _ => ?_)).trans ?_

theorem still_execMailboxUnsupported (s : State) :
    ∀ t, execMailboxUnsupported s = .next t → t.still = s.still := by
  intro t h
  unfold execMailboxUnsupported at h
  simp only [Host.Outcome.next.injEq] at h
  subst h
  repeat' first | (simp [*]; done) | split | simp [*] |
    refine (State.still_foldl _ (fun _ _ => ?_) _ _).trans ?_

theorem still_execPartitionReset (part : Nat) (s : State) :
    ∀ t, execPartitionReset part s = .next t → t.still = s.still := by
  intro t h
  unfold execPartitionReset at h
  simp only [Host.Outcome.next.injEq] at h
  subst h
  repeat' first | (simp [*]; done) | split | simp [*] |
    refine (State.still_foldl _ (fun _ _ => ?_) _ _).trans ?_ |
    refine (State.still_foldl_snd _ (fun _ _ => ?_) _ _).trans ?_

theorem still_execSelfHeatTimeout (s : State) :
    ∀ t, execSelfHeatTimeout s = .next t → t.still = s.still := by
  intro t h
  unfold execSelfHeatTimeout at h
  simp only [Host.Outcome.next.injEq] at h
  subst h
  repeat' first | (simp [*]; done) | split | simp [*] |
    refine (State.still_foldl _ (fun _ _ => ?_) _ _).trans ?_

theorem still_execZoneChange (d : Nat) (s : State) :
    ∀ t, execZoneChange d s = .next t → t.still = s.still := by
  intro t h
  unfold execZoneChange at h
  simp only [Host.Outcome.next.injEq] at h
  subst h
  repeat' first | (simp [*]; done) | split | simp [*] |
    refine (State.still_foldl _ (fun _ _ => ?_) _ _).trans ?_

theorem still_execThermalSensorRead (d : Nat) (temps : List Int) (inlet : Int) (s : State) :
    ∀ t, execThermalSensorRead d temps inlet s = .next t → t.still = s.still := by
  intro t h
  unfold execThermalSensorRead at h
  split at h
  all_goals
    simp only [Host.Outcome.next.injEq] at h
    subst h
    repeat' first | (simp [*]; done) | split | simp [*]

theorem still_execThrmWrite (sv : Nat) (v : Word) (s : State) :
    ∀ t, execThrmWrite sv v s = .next t → t.still = s.still := by
  intro t h
  unfold execThrmWrite at h
  simp only [Host.Outcome.next.injEq] at h
  subst h
  repeat' first | (simp [*]; done) | split | simp [*] |
    refine (State.still_foldl _ (fun _ _ => ?_) _ _).trans ?_ |
    refine (State.still_relevelDie _ _ _ (fun _ => ?_)).trans ?_

theorem still_execGroupConfig (gid : Nat) (sender : Nat) (c : GroupCfg) (s : State) :
    ∀ t, execGroupConfig gid sender c s = .next t → t.still = s.still := by
  intro t h
  unfold execGroupConfig at h
  simp only [Host.Outcome.next.injEq] at h
  subst h
  repeat' first | (simp [*]; done) | split | simp [*] |
    refine (State.still_foldl _ (fun _ _ => ?_) _ _).trans ?_ |
    refine (State.still_onGroup _ _ _ _ (fun _ _ _ => ?_)).trans ?_

theorem still_execDelta (gid : Nat) (sender : Nat) (round : Nat) (off : Nat) (data : BitVec 512) (s : State) :
    ∀ t, execDelta gid sender round off data s = .next t → t.still = s.still := by
  intro t h
  unfold execDelta at h
  simp only [Host.Outcome.next.injEq] at h
  subst h
  repeat' first | (simp [*]; done) | split | simp [*] |
    refine (State.still_foldl _ (fun _ _ => ?_) _ _).trans ?_ |
    refine (State.still_logReach_ok ‹_›).trans ?_ |
    refine (State.still_logReach_error ‹_›).trans ?_ |
    refine (State.still_appendPend_of ‹_›).trans ?_ |
    refine (State.still_onGroup _ _ _ _ (fun _ _ _ => ?_)).trans ?_

theorem still_execDec (p : GroupPeer) (round : Nat) (s : State) :
    ∀ t, execDec p round s = .next t → t.still = s.still := by
  intro t h
  unfold execDec at h
  simp only [Host.Outcome.next.injEq] at h
  subst h
  repeat' first | (simp [*]; done) | split | simp [*] |
    refine (State.still_foldl _ (fun _ _ => ?_) _ _).trans ?_ |
    refine (State.still_foldReach_ok ‹_›).trans ?_ |
    refine (State.still_foldReach_error ‹_›).trans ?_ |
    refine (State.still_appendRound_of ‹_›).trans ?_ |
    refine (State.still_appendPend_of ‹_›).trans ?_ |
    refine (State.still_onGroup _ _ _ _ (fun _ _ _ => ?_)).trans ?_

theorem still_execDeltaAck (h : GroupHdr) (a : DeltaAck) (s : State) :
    ∀ t, execDeltaAck h a s = .next t → t.still = s.still := by
  intro t h
  unfold execDeltaAck at h
  simp only [Host.Outcome.next.injEq] at h
  subst h
  repeat' first | (simp [*]; done) | split | simp [*] |
    refine (State.still_foldl _ (fun _ _ => ?_) _ _).trans ?_ |
    refine (State.still_onGroup _ _ _ _ (fun _ _ _ => ?_)).trans ?_

theorem still_execPrep (gid : Nat) (sender : Nat) (round : Nat) (s : State) :
    ∀ t, execPrep gid sender round s = .next t → t.still = s.still := by
  intro t h
  unfold execPrep at h
  simp only [Host.Outcome.next.injEq] at h
  subst h
  repeat' first | (simp [*]; done) | split | simp [*] |
    refine (State.still_foldl _ (fun _ _ => ?_) _ _).trans ?_ |
    refine (State.still_onGroup _ _ _ _ (fun _ _ _ => ?_)).trans ?_

theorem still_execDecAck (p : GroupPeer) (round : Nat) (s : State) :
    ∀ t, execDecAck p round s = .next t → t.still = s.still := by
  intro t h
  unfold execDecAck at h
  simp only [Host.Outcome.next.injEq] at h
  subst h
  repeat' first | (simp [*]; done) | split | simp [*] |
    refine (State.still_foldl _ (fun _ _ => ?_) _ _).trans ?_ |
    refine (State.still_onGroup _ _ _ _ (fun _ _ _ => ?_)).trans ?_

theorem still_execOut (h : GroupHdr) (outcome : Nat) (s : State) :
    ∀ t, execOut h outcome s = .next t → t.still = s.still := by
  intro t h
  unfold execOut at h
  simp only [Host.Outcome.next.injEq] at h
  subst h
  repeat' first | (simp [*]; done) | split | simp [*] |
    refine (State.still_foldl _ (fun _ _ => ?_) _ _).trans ?_ |
    refine (State.still_onGroup _ _ _ _ (fun _ _ _ => ?_)).trans ?_

theorem still_execAbt (p : GroupPeer) (round : Nat) (s : State) :
    ∀ t, execAbt p round s = .next t → t.still = s.still := by
  intro t h
  unfold execAbt at h
  simp only [Host.Outcome.next.injEq] at h
  subst h
  repeat' first | (simp [*]; done) | split | simp [*] |
    refine (State.still_foldl _ (fun _ _ => ?_) _ _).trans ?_ |
    refine (State.still_onGroup _ _ _ _ (fun _ _ _ => ?_)).trans ?_

theorem still_execQry (gid : Nat) (sender : Nat) (round : Nat) (s : State) :
    ∀ t, execQry gid sender round s = .next t → t.still = s.still := by
  intro t h
  unfold execQry at h
  simp only [Host.Outcome.next.injEq] at h
  subst h
  repeat' first | (simp [*]; done) | split | simp [*] |
    refine (State.still_foldl _ (fun _ _ => ?_) _ _).trans ?_ |
    refine (State.still_onGroup _ _ _ _ (fun _ _ _ => ?_)).trans ?_

theorem still_execAns (p : GroupPeer) (round : Nat) (committed : Bool) (s : State) :
    ∀ t, execAns p round committed s = .next t → t.still = s.still := by
  intro t h
  unfold execAns at h
  simp only [Host.Outcome.next.injEq] at h
  subst h
  repeat' first | (simp [*]; done) | split | simp [*] |
    refine (State.still_foldl _ (fun _ _ => ?_) _ _).trans ?_ |
    refine (State.still_onGroup _ _ _ _ (fun _ _ _ => ?_)).trans ?_

theorem still_execMemberLost (g : Nat) (member : Nat) (s : State) :
    ∀ t, execMemberLost g member s = .next t → t.still = s.still := by
  intro t h
  unfold execMemberLost at h
  simp only [Host.Outcome.next.injEq] at h
  subst h
  repeat' first | (simp [*]; done) | split | simp [*] |
    refine (State.still_foldl _ (fun _ _ => ?_) _ _).trans ?_

theorem still_execMemberLinkTimeout (g : Nat) (member : Nat) (s : State) :
    ∀ t, execMemberLinkTimeout g member s = .next t → t.still = s.still := by
  intro t h
  unfold execMemberLinkTimeout at h
  simp only [Host.Outcome.next.injEq] at h
  subst h
  repeat' first | (simp [*]; done) | split | simp [*] |
    refine (State.still_foldl _ (fun _ _ => ?_) _ _).trans ?_

theorem still_execLinkLoss (detail : Nat) (peer : Nat) (s : State) :
    ∀ t, execLinkLoss detail peer s = .next t → t.still = s.still := by
  intro t h
  unfold execLinkLoss at h
  simp only [Host.Outcome.next.injEq] at h
  subst h
  repeat' first | (simp [*]; done) | split | simp [*] |
    refine (State.still_foldl _ (fun _ _ => ?_) _ _).trans ?_ |
    refine (State.still_foldl_snd _ (fun _ _ => ?_) _ _).trans ?_

theorem still_execRebuildComplete (g : Nat) (r : Rebuild) (s : State) :
    ∀ t, execRebuildComplete g r s = .next t → t.still = s.still := by
  intro t h
  unfold execRebuildComplete at h
  simp only [Host.Outcome.next.injEq] at h
  subst h
  repeat' first | (simp [*]; done) | split | simp [*] |
    refine (State.still_foldl _ (fun _ _ => ?_) _ _).trans ?_ |
    refine (State.still_foldl_snd _ (fun _ _ => ?_) _ _).trans ?_

theorem still_execProtectedReadRepair (id : Nat) (l : LineSums) (s : State) :
    ∀ t, execProtectedReadRepair id l s = .next t → t.still = s.still := by
  intro t h
  unfold execProtectedReadRepair at h
  simp only [Host.Outcome.next.injEq] at h
  subst h
  repeat' first | (simp [*]; done) | split | simp [*] |
    refine (State.still_foldl _ (fun _ _ => ?_) _ _).trans ?_

end Sys2Proof.Machine
end

