-- ==== Sys2Proof/Tests/Slice0.lean ====
section
/-! SUPPORT. The model's own tests: ill-formed terms, words written out from the encoding tables, one step or meaning each on a small state,
and for every statement of Certificates/Slice0/Obligations.lean with hypotheses a state and operands that meet them, clause by clause.
Expected results are those of the rule that a test names. -/

namespace Sys2Proof.Tests

open Sys2Proof.Machine

set_option Elab.async false

/-! ## Small states -/

/-- A word without push, pop or idle bits. -/
def hd : Hdr := ⟨0, 0⟩

/-- A member core with its five streams. -/
def aCore : Core := { Core.reset with streams := (List.range 5).map fun st => (st, Stream.reset) }

/-- A cohort of quad 0 that executes tc 9. -/
def aSlot : Slot :=
  { Slot.reset with st := 2, members := [0, 1, 2, 3], splim := 16, privSz := [4, 4, 4, 4, 4], tc := 9, opened := true, ceil := 15, decl := 8 }

/-- Stream `st` of core 0 executes, with the core and the slot given. -/
def on (st : Nat) (x : Core) (y : Slot) : State := { State.reset with cur := (0, st), cores := [(0, x)], slots := [(0, y)] }

/-- The state with nothing but a running cohort. -/
def plain : State := on 0 aCore aSlot

/-- A core whose scalar registers hold some values from `s1` on. -/
def withS (vs : List Word) : Core :=
  { aCore with s := (List.range vs.length).foldl (fun m i => Map.set m (i + 1) (vs.getD i 0)) [] }

/-- A stream whose stage predicate is false. -/
def offStream : Stream := { Stream.reset with now := { Stream.reset.now with guard := false } }

/-- Supervisor core 0 executes, with its state, register `s1` and the slots given. -/
def onSup (x : Sup) (v : Word) (ys : Tbl Slot) : State :=
  { State.reset with cur := (768, 0), cores := [(768, { aCore with s := Map.set [] 1 v, sup := x })], slots := ys }

/-- RRR operands: RD `s1`, RA `s1`, RB `s2`, RC `s3`. -/
def r4 : Rrr := ⟨0, 1, 1, 2, 3, 0, 0, 0⟩

/-- A word of stream C put before the next step, as the first of its text. -/
def fetching (w : Word) : State := State.reset.withFetchWord 64 w.toNat

/-- The scalar that a meaning writes last on a cohort's stream. -/
def wrote (r : Host.Outcome State Fault Refusal) : Option (Nat × Nat × Word) :=
  match r with
  | .next t => match (t.slot 0).lands.getLast? with
    | some l => match l.eff with
      | .s n _ v => some (l.tc, n, v)
      | _ => none
    | none => none
  | _ => none

/-- The kind and detail of the fault that a meaning takes. -/
def faulted (r : Host.Outcome State Fault Refusal) : Option (FaultKind × Nat) :=
  match r with
  | .next t => ((t.slot 0).faultsNow.getLast?).map fun f => (f.kind, f.detail)
  | _ => none

/-! ## Ill-formed terms -/

theorem test_illFormed :
    [Instr.spcastS hd { r4 with md := 16 }, .spcastG hd r4, .hstat hd ⟨0, 0, 0, 4096⟩, .hstatOff hd ⟨0, 0, 0, 0⟩, .valloc hd ⟨0, 0, 0, 64⟩,
      .vshrink hd ⟨0, 0, 0, 0⟩, .mxFuseOn hd ⟨0, 0, 0, 0, 0, 0, 0, 0, 0⟩, .mxFuseOff hd ⟨0, 0, 0, 0, 0, 0, 0, 0, 1⟩, .rdvEnd hd ⟨0, 0, 0, 0, 0⟩,
      .rdv hd ⟨0, 0, 0, 1, 0⟩, .curGetTrap hd ⟨0, 0, 0, 0, 0⟩, .curGetCur hd ⟨0, 0, 0, 1, 0⟩, .launchResume hd ⟨0, 0, 0, 0, 0⟩,
      .launch hd ⟨0, 0, 0, 1, 0⟩, .ttStartAt hd ⟨0, 0, 0, 0, 0⟩, .ttStart hd ⟨0, 0, 0, 1, 0⟩, .tlbiAsid hd ⟨0, 0, 0, 0, 0⟩, .tlbiAll hd ⟨0, 0, 0, 1, 0⟩,
      .tlbi hd ⟨0, 0, 0, 2, 0⟩, .pcsrWrite hd ⟨0, 0, 0, 0, 0⟩, .pcsrRead hd ⟨0, 0, 0, 1, 0⟩, .holdRel hd ⟨0, 0, 0, 0, 0⟩,
      .holdRequest hd ⟨0, 0, 0, 1, 0⟩].all (fun i => !i.wf) = true := by decide +kernel

/-- `CSRW` names `FLAGS` and `SEL` by rows of their own, and `MX.TEST` its three ops. -/
theorem test_illFormed2 :
    (List.range 4096).all (fun n => let f : Rri := ⟨0, 0, 0, BitVec.ofNat 30 n⟩
      [Instr.flagsClear hd f, .selWrite hd f, .csrw hd f].countP (·.wf) == 1) = true ∧
    (List.range 4).all (fun n => let f : Mx := ⟨0, 0, 0, 0, 0, 0, 0, 0, BitVec.ofNat 13 n⟩
      [Instr.mxTestFatal hd f, .mxTestReport hd f, .mxTestRun hd f].countP (·.wf) == 1) = true := by decide +kernel

/-! ## Words written out from the layouts of R137 and R140 and the opcodes of R142 -/

/-- A word with push bit 3 and IDLE 5, the opcode, and the 46 bits of its format. -/
def word (op : BitVec 8) (x : BitVec 46) : Word := 0b1000#4 ++ 5#6 ++ op ++ x

/-- The common fields of such a word. -/
def hw : Hdr := ⟨0b1000, 5⟩

/-- Every listed word decodes to the instruction beside it. -/
def decodesAll (l : List (Word × Instr)) : Bool :=
  l.all fun e => match decodeWord e.1 with
    | .ok i => i == e.2
    | .error _ => false

theorem test_decode_registers :
    let f : Rrr := ⟨2, 5, 0x49, 7, 11, 6, 13, 0xa1⟩
    let x : BitVec 46 := 2#2 ++ 5#7 ++ 0x49#7 ++ 7#7 ++ 11#7 ++ 6#3 ++ 13#5 ++ 0xa1#8
    decodesAll ([(word 0x01 x, .add hw f), (word 0x02 x, .sub hw f), (word 0x03 x, .mul hw f), (word 0x04 x, .mulh hw f),
      (word 0x05 x, .div hw f), (word 0x06 x, .rem hw f), (word 0x07 x, .and hw f), (word 0x08 x, .or hw f),
      (word 0x09 x, .xor hw f), (word 0x0A x, .andn hw f), (word 0x0B x, .shl hw f), (word 0x0C x, .shr hw f),
      (word 0x0D x, .sar hw f), (word 0x0E x, .min hw f), (word 0x0F x, .max hw f), (word 0x10 x, .cmp hw f),
      (word 0x11 x, .sel hw f), (word 0x12 x, .clz hw f), (word 0x13 x, .popc hw f), (word 0x28 x, .sptest hw f),
      (word 0x2A x, .padd hw f), (word 0x32 x, .hset hw f), (word 0x33 x, .hget hw f), (word 0x35 x, .hcpy hw f)] ++
      [(word 0x3A x, .fpush hw f)] ++
      [(word 0x29 (2#2 ++ 5#7 ++ 0x49#7 ++ 7#7 ++ 11#7 ++ 6#3 ++ 13#5 ++ 10#8), .spcastS hw ⟨2, 5, 0x49, 7, 11, 6, 13, 10⟩),
      (word 0x29 (2#2 ++ 5#7 ++ 0x49#7 ++ 7#7 ++ 11#7 ++ 6#3 ++ 13#5 ++ 0x1a#8), .spcastG hw ⟨2, 5, 0x49, 7, 11, 6, 13, 0x1a⟩)]) = true := by decide +kernel

theorem test_decode_immediates :
    let f : Rri := ⟨1, 9, 0x43, 0x2aaa5041⟩
    let x : BitVec 46 := 1#2 ++ 9#7 ++ 0x43#7 ++ 0x2aaa5041#30
    decodesAll ([(word 0x14 x, .addi hw f), (word 0x17 x, .ext hw f), (word 0x18 x, .ins hw f), (word 0x3C x, .rdctr hw f),
      (word 0x3D x, .csrr hw f), (word 0xBC x, .vshape hw f), (word 0xBE x, .vgate hw f)] ++
      [(word 0x34 (1#2 ++ 9#7 ++ 0x43#7 ++ 0x123#30), .hstat hw ⟨1, 9, 0x43, 0x123⟩),
      (word 0x34 (1#2 ++ 9#7 ++ 0x43#7 ++ 0x1000#30), .hstatOff hw ⟨1, 9, 0x43, 0x1000⟩),
      (word 0x3E (1#2 ++ 9#7 ++ 0x43#7 ++ 0x2000#30), .flagsClear hw ⟨1, 9, 0x43, 0x2000⟩),
      (word 0x3E (1#2 ++ 9#7 ++ 0x43#7 ++ 0x1002#30), .selWrite hw ⟨1, 9, 0x43, 0x1002⟩),
      (word 0x3E (1#2 ++ 9#7 ++ 0x43#7 ++ 0x10#30), .csrw hw ⟨1, 9, 0x43, 0x10⟩),
      (word 0xBD (1#2 ++ 9#7 ++ 0x43#7 ++ 0x15#30), .valloc hw ⟨1, 9, 0x43, 0x15⟩),
      (word 0xBD (1#2 ++ 9#7 ++ 0x43#7 ++ 0x55#30), .vshrink hw ⟨1, 9, 0x43, 0x55⟩)]) = true := by decide +kernel

theorem test_decode_wide :
    let f : Rriw := ⟨3, 11, 0, 0x89abcdef⟩
    let x : BitVec 46 := 3#2 ++ 11#7 ++ 0#5 ++ 0x89abcdef#32
    decodesAll ([(word 0x15 x, .li hw f), (word 0x16 x, .lih hw f)]) = true := by decide +kernel

theorem test_decode_jumps :
    let f : Jmp := ⟨0, 0xfffffff0⟩
    let x : BitVec 46 := 0#14 ++ 0xfffffff0#32
    decodesAll ([(word 0x20 x, .jmp hw f), (word 0x21 x, .call hw f)]) = true := by decide +kernel

theorem test_decode_ret :
    let f : Ret := ⟨0⟩
    let x : BitVec 46 := 0#46
    decodesAll ([(word 0x22 x, .ret hw f)]) = true := by decide +kernel

theorem test_decode_loop :
    let f : Loop := ⟨0, 1, 0x9c, 0, 12⟩
    let x : BitVec 46 := 0#2 ++ 1#2 ++ 0x9c#8 ++ 0#2 ++ 12#32
    decodesAll ([(word 0x23 x, .loop hw f)]) = true := by decide +kernel

theorem test_decode_lring :
    let f : Lring := ⟨2, 0x83, 0x101, 0, 0x7ff⟩
    let x : BitVec 46 := 2#2 ++ 0x83#11 ++ 0x101#11 ++ 0#11 ++ 0x7ff#11
    decodesAll ([(word 0x24 x, .lring hw f)]) = true := by decide +kernel

theorem test_decode_transfers :
    let f : Mem := ⟨1, 6, 11, 0x25, 2, 1, 1, 5, 0x13, 0x155a⟩
    let x : BitVec 46 := 1#2 ++ 6#7 ++ 11#4 ++ 0x25#7 ++ 2#2 ++ 1#2 ++ 1#1 ++ 5#3 ++ 0x13#5 ++ 0x155a#13
    decodesAll ([(word 0x30 x, .hld hw f), (word 0x31 x, .hst hw f), (word 0x38 x, .lds hw f), (word 0x39 x, .sts hw f),
      (word 0x40 x, .ldQ hw f), (word 0x41 x, .ldV hw f), (word 0x42 x, .ldT hw f), (word 0x43 x, .ldTr hw f),
      (word 0x44 x, .ldG hw f), (word 0x45 x, .ldW hw f), (word 0x46 x, .ldCb hw f), (word 0x47 x, .ldBc hw f),
      (word 0x60 x, .stV hw f), (word 0x61 x, .stQ hw f), (word 0x62 x, .stT hw f), (word 0x63 x, .stS hw f),
      (word 0x64 x, .stQnt hw f), (word 0x65 x, .stUpd hw f), (word 0x66 x, .stX hw f), (word 0x67 x, .stMc hw f),
      (word 0x68 x, .atom hw f), (word 0x69 x, .bobjArm hw f), (word 0x6A x, .bobjWait hw f)]) = true := by decide +kernel

theorem test_decode_vectors :
    let f : Rrr := ⟨2, 5, 0x49, 7, 11, 6, 13, 0xa1⟩
    let x : BitVec 46 := 2#2 ++ 5#7 ++ 0x49#7 ++ 7#7 ++ 11#7 ++ 6#3 ++ 13#5 ++ 0xa1#8
    decodesAll ([(word 0x80 x, .vadd hw f), (word 0x81 x, .vsub hw f), (word 0x82 x, .vmul hw f), (word 0x83 x, .vfma hw f),
      (word 0x84 x, .vmin hw f), (word 0x85 x, .vmax hw f), (word 0x86 x, .vabs hw f), (word 0x87 x, .vneg hw f),
      (word 0x88 x, .vcmp hw f), (word 0x89 x, .vsel hw f), (word 0x8A x, .vcvt hw f), (word 0x8B x, .vqnt hw f),
      (word 0x8D x, .kop hw f), (word 0x8E x, .kset hw f), (word 0x8F x, .kmov hw f), (word 0x90 x, .viadd hw f),
      (word 0x91 x, .visub hw f), (word 0x92 x, .vimul hw f), (word 0x93 x, .vand hw f), (word 0x94 x, .vor hw f),
      (word 0x95 x, .vxor hw f), (word 0x96 x, .vshl hw f), (word 0x97 x, .vshr hw f), (word 0x98 x, .vsar hw f)] ++
      [(word 0x99 x, .vimin hw f), (word 0x9A x, .vimax hw f), (word 0xA0 x, .vrcp hw f), (word 0xA1 x, .vrsq hw f),
      (word 0xA2 x, .vsqrt hw f), (word 0xA3 x, .vexp2 hw f), (word 0xA4 x, .vlog2 hw f), (word 0xA5 x, .vsin hw f),
      (word 0xA6 x, .vcos hw f), (word 0xA7 x, .vtanh hw f), (word 0xA8 x, .vsigm hw f), (word 0xB0 x, .vrsum hw f),
      (word 0xB1 x, .vrmax hw f), (word 0xB2 x, .vcsum hw f), (word 0xB3 x, .vcmax hw f), (word 0xB4 x, .vbcast hw f),
      (word 0xB5 x, .vmov hw f), (word 0xB6 x, .vqpop hw f), (word 0xB7 x, .vqpush hw f), (word 0xB8 x, .tmovR hw f),
      (word 0xB9 x, .tmovC hw f), (word 0xBA x, .vrng hw f), (word 0xBB x, .viota hw f)]) = true := by decide +kernel

theorem test_decode_matrix :
    let f : Mx := ⟨2, 1, 0x21, 0x3e, 1, 2, 5, 0xc3, 0x1234⟩
    let x : BitVec 46 := 2#2 ++ 1#1 ++ 0x21#7 ++ 0x3e#7 ++ 1#2 ++ 2#2 ++ 5#4 ++ 0xc3#8 ++ 0x1234#13
    decodesAll ([(word 0xC0 x, .mxLdw hw f), (word 0xC1 x, .mxMac hw f), (word 0xC2 x, .mxZero hw f), (word 0xC3 x, .mxDrain hw f),
      (word 0xC4 x, .mxSwap hw f), (word 0xC7 x, .mxEvt hw f), (word 0xC8 x, .mxCb hw f), (word 0xC9 x, .mxFill hw f)] ++
      [(word 0xC5 (2#2 ++ 1#1 ++ 0x21#7 ++ 0x3e#7 ++ 1#2 ++ 2#2 ++ 5#4 ++ 0xc3#8 ++ 1#13), .mxFuseOn hw ⟨2, 1, 0x21, 0x3e, 1, 2, 5, 0xc3, 1⟩),
      (word 0xC5 (2#2 ++ 1#1 ++ 0x21#7 ++ 0x3e#7 ++ 1#2 ++ 2#2 ++ 5#4 ++ 0xc3#8 ++ 0#13), .mxFuseOff hw ⟨2, 1, 0x21, 0x3e, 1, 2, 5, 0xc3, 0⟩),
      (word 0xC6 (2#2 ++ 1#1 ++ 0x21#7 ++ 0x3e#7 ++ 1#2 ++ 2#2 ++ 5#4 ++ 0xc3#8 ++ 1#13), .mxTestFatal hw ⟨2, 1, 0x21, 0x3e, 1, 2, 5, 0xc3, 1⟩),
      (word 0xC6 (2#2 ++ 1#1 ++ 0x21#7 ++ 0x3e#7 ++ 1#2 ++ 2#2 ++ 5#4 ++ 0xc3#8 ++ 2#13), .mxTestReport hw ⟨2, 1, 0x21, 0x3e, 1, 2, 5, 0xc3, 2⟩),
      (word 0xC6 (2#2 ++ 1#1 ++ 0x21#7 ++ 0x3e#7 ++ 1#2 ++ 2#2 ++ 5#4 ++ 0xc3#8 ++ 0#13), .mxTestRun hw ⟨2, 1, 0x21, 0x3e, 1, 2, 5, 0xc3, 0⟩)]) = true := by decide +kernel

theorem test_decode_system :
    let f : Sys := ⟨1, 5, 0x2d, 0, 0xdeadbee4⟩
    let x : BitVec 46 := 1#2 ++ 5#3 ++ 0x2d#7 ++ 0#2 ++ 0xdeadbee4#32
    decodesAll ([(word 0xE0 x, .nop hw f), (word 0xE1 x, .waitCy hw f), (word 0xE2 x, .waitTime hw f), (word 0xE3 x, .rdv hw f),
      (word 0xE4 x, .phase hw f), (word 0xE5 x, .fence hw f), (word 0xE6 x, .bar hw f), (word 0xE7 x, .curtain hw f),
      (word 0xE8 x, .yield hw f), (word 0xE9 x, .curSet hw f), (word 0xEA x, .curGetCur hw f), (word 0xEB x, .rndOpen hw f),
      (word 0xEC x, .rndPrep hw f), (word 0xED x, .rndCommit hw f), (word 0xEE x, .rndAbort hw f), (word 0xEF x, .protMark hw f),
      (word 0xF0 x, .statSeal hw f), (word 0xF1 x, .statRd hw f), (word 0xF2 x, .statClr hw f), (word 0xF3 x, .pwrAcq hw f),
      (word 0xF4 x, .pwrRel hw f), (word 0xF5 x, .coll hw f), (word 0xF6 x, .collWait hw f), (word 0xF7 x, .trap hw f)] ++
      [(word 0xF8 x, .launch hw f), (word 0xF9 x, .ttStart hw f), (word 0xFA x, .tlbi hw f), (word 0xFB x, .pcsrRead hw f),
      (word 0xFC x, .holdRequest hw f), (word 0xFD x, .svret hw f)] ++
      [(word 0xE3 (1#2 ++ 5#3 ++ 0x2d#7 ++ 1#2 ++ 0xdeadbee4#32), .rdvEnd hw ⟨1, 5, 0x2d, 1, 0xdeadbee4⟩),
      (word 0xEA (1#2 ++ 5#3 ++ 0x2d#7 ++ 1#2 ++ 0xdeadbee4#32), .curGetTrap hw ⟨1, 5, 0x2d, 1, 0xdeadbee4⟩),
      (word 0xF8 (1#2 ++ 5#3 ++ 0x2d#7 ++ 1#2 ++ 0xdeadbee4#32), .launchResume hw ⟨1, 5, 0x2d, 1, 0xdeadbee4⟩),
      (word 0xF9 (1#2 ++ 5#3 ++ 0x2d#7 ++ 1#2 ++ 0xdeadbee4#32), .ttStartAt hw ⟨1, 5, 0x2d, 1, 0xdeadbee4⟩),
      (word 0xFA (1#2 ++ 5#3 ++ 0x2d#7 ++ 1#2 ++ 0xdeadbee4#32), .tlbiAsid hw ⟨1, 5, 0x2d, 1, 0xdeadbee4⟩),
      (word 0xFA (1#2 ++ 5#3 ++ 0x2d#7 ++ 2#2 ++ 0xdeadbee4#32), .tlbiAll hw ⟨1, 5, 0x2d, 2, 0xdeadbee4⟩),
      (word 0xFB (1#2 ++ 5#3 ++ 0x2d#7 ++ 1#2 ++ 0xdeadbee4#32), .pcsrWrite hw ⟨1, 5, 0x2d, 1, 0xdeadbee4⟩),
      (word 0xFC (1#2 ++ 5#3 ++ 0x2d#7 ++ 1#2 ++ 0xdeadbee4#32), .holdRel hw ⟨1, 5, 0x2d, 1, 0xdeadbee4⟩)]) = true := by decide +kernel

/-! ## What the statements suppose: encoding, steps, registers, scalars -/

/-- The state of `fetching` a `NOP`, with another word in its place: a word that no stream would be chosen for. -/
def texted (w : Word) : State :=
  { fetching (0xE0 <<< 46) with cur := (0, 0) }.modStr fun x => { x with text := Map.set [] 0 w }

/-- The state in which the checks of the first word of a step are made. -/
def checked (s : State) : State := { s.agenda.2 with cur := (0, 0) }

/-- The instruction that passes the checks. -/
def passing (s : State) : Option Instr :=
  let u := checked s
  match u.wordCheck (streamId 0) u.str (u.str.issueOf false u.tc) with
  | .ok i => some i
  | .error _ => none

theorem wit_DecodeEncode : (Instr.spcastG hd { r4 with md := 16 }).wf = true ∧ (encode (.spcastG hd { r4 with md := 16 })).isSome = true ∧
    (Instr.mxTestRun hw ⟨3, 1, 127, 127, 3, 3, 15, 255, 8191⟩).wf = true ∧
    (encode (.mxTestRun hw ⟨3, 1, 127, 127, 3, 3, 15, 255, 8188⟩)).isSome = true ∧ (encode .tcAdvance).isNone = true := by decide +kernel

theorem wit_EncodeDecode : (match decodeWord (0x23 <<< 46) with | .ok i => i == .loop hd ⟨0, 0, 0, 0, 0⟩ | .error _ => false) = true := by
  decide +kernel

theorem wit_UnassignedOpcodes :
    ([0x00, 0x19, 0x1F, 0x25, 0x27, 0x2B, 0x2F, 0x36, 0x37, 0x3B, 0x3F, 0x48, 0x5F, 0x6B, 0x7F, 0x8C, 0x9B, 0x9F, 0xA9, 0xAF, 0xBF, 0xCA, 0xDF, 0xFE,
      0xFF] : List Nat).all (fun n => (decodeWord (BitVec.ofNat 64 (n * 2 ^ 46))).toOption.isNone) = true ∧
    ([0x01, 0x18, 0x20, 0x24, 0x28, 0x2A, 0x30, 0x35, 0x38, 0x3A, 0x3C, 0x3E, 0x40, 0x47, 0x60, 0x6A, 0x80, 0x8B, 0x8D, 0x9A, 0xA0, 0xA8, 0xB0, 0xBE,
      0xC0, 0xC9, 0xE0, 0xFD] : List Nat).all (fun n => (decodeWord (BitVec.ofNat 64 (n * 2 ^ 46))).toOption.isSome) = true := by decide +kernel

theorem wit_StepRunsWord :
    (fetching (0x01 <<< 46)).agenda.1 = .word 0 0 ∧ passing (fetching (0x01 <<< 46)) = some (.add hd ⟨0, 0, 0, 0, 0, 0, 0, 0⟩) ∧
    (texted 0).agenda.1 = .word 0 0 ∧ (decodeWord ((texted 0).agenda.2.core 0 |>.stream 0).next).toOption = none ∧
    (texted (0xFD <<< 46)).agenda.1 = .word 0 0 ∧
    ((decodeWord ((texted (0xFD <<< 46)).agenda.2.core 0 |>.stream 0).next).toOption.map isPrivileged) = some true ∧
    (texted (0x80 <<< 46)).agenda.1 = .word 0 0 ∧
    ((decodeWord ((texted (0x80 <<< 46)).agenda.2.core 0 |>.stream 0).next).toOption.map fun i => isPrivileged i || streamOk .C i) = some false := by
  decide +kernel

/-- The text of `texted`, with the stream changed: the step's act is its word, which passes the checks of R144's table and meets a condition. -/
def meets (w : Word) (f : Stream → Stream) (p : Instr → Stream → Bool) : Bool :=
  let s := (texted w).modStr f
  let u := checked s
  s.agenda.1 == .word 0 0 && match decodeWord u.str.next with
    | .ok i => !isPrivileged i && streamOk .C i && fieldDetail .C i == 0 && p i u.str
    | .error _ => false

/-- A loop level over words 0 to 4, ringed or not. -/
def levelTo4 (ringed : Bool) : Level := ⟨0, 32, 2, 0, 2, 0, ringed, []⟩

/-- A word that fails the field table with a detail. -/
def failsWith (w : Word) (d : Nat) : Bool :=
  (texted w).agenda.1 == .word 0 0 && match decodeWord w with
    | .ok i => !isPrivileged i && streamOk .C i && (fieldDetail .C i).toNat == d
    | .error _ => false

theorem wit_StepRunsWord_fields : failsWith (0x01 <<< 46 ||| 1) 0x15 = true ∧ failsWith (0x01 <<< 46 ||| 64 <<< 37) 0x14 = true ∧
    failsWith (0x01 <<< 46 ||| 64 <<< 30) 0x14 = true ∧ failsWith (0x01 <<< 46 ||| 1 <<< 8) 0x13 = true ∧ failsWith (0x38 <<< 46 ||| 7 <<< 13) 0x15 = true := by
  decide +kernel

theorem wit_StepRunsWord_structure :
    let l := levelTo4 false
    meets (0x23 <<< 46) (fun x => { x with loops := [l, l, l] }) (fun i x => (match i with | .loop _ _ => true | _ => false) && 3 ≤ x.loops.length) = true ∧
    meets (0x23 <<< 46 ||| 4 <<< 34) (fun x => { x with loops := [l] })
      (fun i x => match i with | .loop _ f => l.last < x.pc + 8 * (f.blen.toNat + 1) | _ => false) = true ∧
    meets (0x20 <<< 46) (fun x => { x with loops := [l] }) (fun i _ => match i with | .jmp _ _ => true | _ => false) = true ∧
    meets (0x21 <<< 46) (fun x => { x with loops := [l] }) (fun i _ => match i with | .call _ _ => true | _ => false) = true ∧
    meets (0x22 <<< 46) (fun x => { x with loops := [l] }) (fun i _ => match i with | .ret _ _ => true | _ => false) = true ∧
    meets (0x24 <<< 46) id (fun i x => (match i with | .lring _ _ => true | _ => false) && (opOf (x.wordAt (x.pc + 8))).toNat != 0x23) = true ∧
    meets (0x24 <<< 46) (fun x => { x with text := Map.set x.text 1 (0x23 <<< 46), loops := [levelTo4 true] })
      (fun i x => (match i with | .lring _ _ => true | _ => false) && x.loops.any (·.ringed)) = true ∧
    meets (0x21 <<< 46) (fun x => { x with ret := List.replicate 8 0 }) (fun i x => (match i with | .call _ _ => true | _ => false) && x.loops == [] && 8 ≤ x.ret.length) = true ∧
    meets (0x22 <<< 46) id (fun i x => (match i with | .ret _ _ => true | _ => false) && x.loops == [] && x.ret == []) = true ∧
    meets (0xE3 <<< 46 ||| 1 <<< 32) (fun x => { x with ret := [8] }) (fun i x => (match i with | .rdvEnd _ _ => true | _ => false) && x.ret != []) = true ∧
    meets (0x01 <<< 46 ||| 65 <<< 37) id (fun i x => (match i with | .add _ f => f.rd.getLsbD 6 | _ => false) && x.loops.all fun l => !l.ringed) = true := by
  decide +kernel

theorem wit_StepRunsWord_curtain :
    let s := ((texted (0xE7 <<< 46)).modStr fun x => { x with ret := [8] }).modMy fun x => { x with curts := [bareCurtain] }
    s.agenda.1 = .word 0 0 ∧ (checked s).my.resume ≠ .stubs ∧ (0 : Nat) < (checked s).my.curts.length ∧ (checked s).str.ret ≠ [] ∧
      (match decodeWord (checked s).str.next with | .ok (.curtain h f) => fieldDetail .C (.curtain h f) == 0 && f.imm == 0 | _ => false) = true := by
  decide +kernel

theorem wit_StepRunsOthers :
    (let s := fetching (0xFD <<< 46); s.agenda.1 = .sup 768 ∧ (s.agenda.2.supEnter 768).supInstr = some (.svret hd ⟨0, 0, 0, 0, 0⟩)) ∧
    (let s := fetching (0xFD <<< 46)
     let s := { s with dev := [] }
     s.agenda.1 = .sup 768 ∧ (s.agenda.2.supEnter 768).supInstr = none) ∧
    State.reset.agenda.1 = .event .tcAdvance ∧
    ({ fetching (0xE0 <<< 46) with cur := (0, 0) }.modStr fun x => { x with
      act := some ⟨.ldQ hd ⟨0, 0, 0, 0, 0, 0, 0, 0, 0, 1⟩, 0, 0, 0, 2, 0, [0, 0, 0, 0], [], []⟩ }).agenda.1 = .piece 0 0 := by decide +kernel

theorem wit_ScalarWrite : Map.wf ((plain).core 0).s = true ∧ (5 : Nat) ≠ 0 ∧ ((plain.apply 9 0 (.s 5 (0xFF : Word) (0x12 : Word))).core 0).sGet 5 = 0x12 ∧
    ((plain.apply 9 0 (.s 0 (BitVec.allOnes 64) 7)).core 0).sGet 0 = 0 := by decide +kernel

/-- Each clause of the frame, at writes of its own kind on another core and of other kinds on this one. -/
theorem wit_LandingFrame :
    let s := on 0 (withS [1, 2]) aSlot
    (∀ m v, Eff.h 1 m v ≠ Eff.s 1 (1 : Word) (0 : Word)) ∧ (1 : Nat) ≠ 0 ∧ Map.wf (s.file 0 .sp) = true ∧
      (fileBase 0 .sp + 64 < fileBase 0 .sp + 65 ∧ ¬(fileBase 0 .sp + 65 + 8 ≤ fileBase 0 .sp + 64)) := by
  refine ⟨fun m v => by simp, by decide, by decide +kernel, by decide +kernel⟩

theorem wit_FilesKept_v : Memory.wf (plain.dev) = true ∧ Memory.wf plain.qs = true ∧ Memory.wf ((plain).core 0).sp = true := by decide +kernel

theorem wit_FilesKept : plain.filesOk := by
  refine ⟨by decide +kernel, by decide +kernel, fun c => ?_⟩
  have h : ∀ c, plain.core c = if 0 = c then aCore else Core.reset := fun c => by
    simp [plain, on, State.core, State.reset, Tbl.get]
    rcases Nat.eq_zero_or_pos c with rfl | h
    · rfl
    · rw [if_neg (by omega), if_neg (by omega)]
  rw [h]
  split <;> (unfold Core.filesOk; decide +kernel)

theorem wit_ResultsLand :
    let s := on 0 (withS [1, 2, 3]) aSlot
    isSup s.cur.1 = false ∧ s.guard = true ∧ s.my.lands = [] ∧ s.my.landed = [] ∧ Map.wf s.me.s = true ∧ (0 : Nat) < 3 ∧ s.reg .S r4.rd ≠ 0 ∧ (2 : Nat) ≠ s.reg .S r4.rd ∧
      (1 : Nat) ≠ s.cur.1 := by decide +kernel

theorem wit_guard : (on 0 (withS [1, 2, 3]) aSlot).guard = true ∧ (on 0 { aCore with streams := [(0, offStream)] } aSlot).guard = false := by
  decide +kernel

theorem wit_Division :
    (on 0 (withS [5, 0]) aSlot).guard = true ∧ (on 0 (withS [5, 0]) aSlot).rs 2 = 0 ∧
    (let s := on 0 (withS [0x8000000000000000, -1]) aSlot; (s.rs 1).toInt = -2 ^ 63 ∧ (s.rs 2).toInt = -1) ∧
    (let s := on 0 (withS [0x8000000000000000, 1]) aSlot; s.rs 2 ≠ 0 ∧ ¬((s.rs 1).toInt = -2 ^ 63 ∧ (s.rs 2).toInt = -1)) := by decide +kernel

/-- The example of R162: −7 by 2. -/
theorem test_division :
    let s := on 0 (withS [-7, 2]) aSlot
    wrote (execDiv hd { r4 with md := 1 } s) = some (29, 1, -3) ∧ wrote (execRem hd { r4 with md := 1 } s) = some (29, 1, -1) ∧
      wrote (execDiv hd r4 s) = some (29, 1, 0x7FFFFFFFFFFFFFFC) := by decide +kernel

/-- R161 at wraps and signs. -/
theorem test_arithmetic :
    let s := on 0 (withS [0xFFFFFFFFFFFFFFFF, 2, 0]) aSlot
    [wrote (execAdd hd r4 s), wrote (execSub hd r4 s), wrote (execMul hd r4 s),
      wrote (execMulh hd r4 s), wrote (execMulh hd { r4 with md := 1 } s), wrote (execMulh hd { r4 with md := 2 } s),
      wrote (execShl hd r4 s), wrote (execShr hd r4 s), wrote (execSar hd r4 s),
      wrote (execMin hd r4 s), wrote (execMax hd { r4 with md := 1 } s), wrote (execCmp hd { r4 with md := 2 } s),
      wrote (execCmp hd { r4 with md := 4 } s), wrote (execSel hd r4 s), wrote (execClz hd { r4 with ra := 2 } s),
      wrote (execPopc hd r4 s), wrote (execAndn hd r4 s)] =
    [some (10, 1, 1), some (10, 1, 0xFFFFFFFFFFFFFFFD), some (12, 1, 0xFFFFFFFFFFFFFFFE), some (12, 1, 1), some (12, 1, 0xFFFFFFFFFFFFFFFF), some (12, 1, 0xFFFFFFFFFFFFFFFF), some (10, 1, 0xFFFFFFFFFFFFFFFC), some (10, 1, 0x3FFFFFFFFFFFFFFF), some (10, 1, 0xFFFFFFFFFFFFFFFF),
      some (10, 1, 2), some (10, 1, 2), some (10, 1, 1), some (10, 1, 0), some (10, 1, 2), some (10, 1, 62), some (10, 1, 64), some (10, 1, 0xFFFFFFFFFFFFFFFD)] := by decide +kernel

/-- R163 and R164: sign extension, a field of the top bits. -/
theorem test_immediates :
    let s := on 0 (withS [0xF000000000000001]) aSlot
    wrote (execAddi hd ⟨0, 1, 1, 0x3FFFFFFF⟩ s) = some (10, 1, 0xF000000000000000) ∧
      wrote (execLi hd ⟨0, 1, 0, 0x80000000⟩ s) = some (10, 1, 0xFFFFFFFF80000000) ∧
      wrote (execExt hd ⟨0, 1, 1, 0x10FC⟩ s) = some (10, 1, 0xFFFFFFFFFFFFFFFF) ∧
      wrote (execExt hd ⟨0, 1, 1, 0x00FC⟩ s) = some (10, 1, 0xF) := by decide +kernel

theorem wit_JumpsAndLoops :
    let s := on 0 { aCore with streams := [(0, { Stream.reset with ret := [8], lk := Map.set [] 3 4, segp := 0x20001 })] } aSlot
    (0 ≤ (s.str.now.pc : Int) + 8 * (0 : BitVec 32).toInt) ∧ (let t := s.modStr fun x => { x with now := { x.now with pc := 8 } }
      0 ≤ (t.str.now.pc : Int) + 8 * (0xFFFFFFFF : BitVec 32).toInt) ∧ s.str.ret = [8] ∧
      (0 : Nat) = (s.str.lring.map (·.1)).getD 0 ∧ (Map.get s.str.lk 3).toNat = 4 ∧ s.str.segp.toNat / 65536 = 2 := by decide +kernel

/-! ## What the statements suppose: pointers, handles, scalar memory -/

/-- A pointer into stream-private memory, into the quad-shared SRAM of quad 0, and a global one. -/
def pPriv (off : Nat) : Word := BitVec.ofNat 64 (8 * 2 ^ 60 + off)
def pQuad (off : Nat) : Word := BitVec.ofNat 64 (10 * 2 ^ 60 + off)
def pGlob (off : Nat) : Word := BitVec.ofNat 64 off

/-- A small running cohort with RA, RB and RC as given. -/
def regs (vs : List Word) : State := on 0 (withS vs) aSlot

/-- No check turns a pointer away. -/
def ptrFine (s : State) (p : Word) (n al : Nat) : Bool := s.ptrCheck p n (fun _ => true) al == none

theorem wit_PointerInstructions :
    (let s := regs [pPriv 8]
     ptrTag (s.rs 1) = (0x08 : BitVec 8).toNat % 16 ∧ s.ptrCheck (s.rs 1) 1 (fun _ => true) 1 = none) ∧
    (let s := regs [16, 191]
     (10 : Nat) = (0x1A : BitVec 8).toNat % 16 ∧ (191 : Nat) = (if (0x1A : BitVec 8).getLsbD 5 then ownNum s.cur.1 10 else (s.rs 2).toNat) ∧
       (s.rs 1).toNat < s.ptrLimit (castPtr 10 191 0) ∧ (s.rs 1).toNat < 2 ^ offWidth 10) ∧
    (let s := regs [0x7FF, 191]
     (s.rs 1).toNat < s.ptrLimit (castPtr 11 7 0) ∧ (s.rs 1).toNat < s.ptrLimit (castPtr 8 0 0) ∧ (s.rs 1).toNat < s.ptrLimit (castPtr 9 0 0)) := by
  decide +kernel

/-- R169 and R171: the fields of an `SPTEST` word, an offset that wraps in its field. -/
theorem test_pointers :
    let s := regs [pPriv 8, -1]
    [wrote (execSptest hd r4 s), wrote (execPadd hd { r4 with md := 4 } s), wrote (execSpcastS hd { r4 with md := 8 } s),
      wrote (execSptest hd { r4 with ra := 2 } s)] =
    [some (10, 1, 0x700000008), some (10, 1, 0x8000000000FFFFF8), some (10, 1, 8), some (10, 1, 0xF)] := by decide +kernel

theorem wit_CastFaults :
    let s := regs [pPriv 8, pPriv 0xFFFFFF]
    isSup s.cur.1 = false ∧ s.guard = true ∧ ptrTag (s.rs 1) ≠ (0x09 : BitVec 8).toNat % 16 ∧ ptrTag (s.rs 2) = (0x08 : BitVec 8).toNat % 16 ∧
      (s.ptrCheck (s.rs 2) 1 (fun _ => true) 1).isSome = true := by decide +kernel

/-- One pointer for each check of R83 that a scalar word of core 0 can fail, and for each number that `SPCAST.G` cannot place. -/
theorem wit_CastFaults_checks :
    let s := regs []
    let p := fun (t num off : Nat) => BitVec.ofNat 64 (t * 2 ^ 60) ||| castPtr t num off
    (ptrTag (0x5000000000000000 : Word) = 5 ∧ ptrTag (p 11 0 0) = 11) ∧
      (ptrTag (0x8100000000000000 : Word) = 8 ∧ ptrZeroOk 0x8100000000000000 = false) ∧
      (ptrZeroOk (pPriv 0x4000) = true ∧ s.ptrLimit (pPriv 0x4000) < ptrOff (pPriv 0x4000) + 1) ∧
      (ptrZeroOk (p 9 1 0) = true ∧ ptrOff (p 9 1 0) + 8 ≤ s.ptrLimit (p 9 1 0) ∧ ptrNum (p 9 1 0) ≠ s.cur.1) ∧
      (ptrZeroOk (p 10 1 0) = true ∧ ptrOff (p 10 1 0) + 8 ≤ s.ptrLimit (p 10 1 0) ∧ ptrNum (p 10 1 0) ≠ s.cur.1 / 4) ∧
      (ptrZeroOk (pPriv 4) = true ∧ ptrOff (pPriv 4) + 8 ≤ s.ptrLimit (pPriv 4) ∧ ptrOff (pPriv 4) % 8 ≠ 0) ∧
      (767 : Nat) < 768 ∧ (191 : Nat) < 192 ∧ (7 : Nat) < 8 ∧
      s.ptrLimit (castPtr 10 191 0) ≤ (0x800000 : Word).toNat ∧ s.ptrLimit (castPtr 11 7 0) ≤ (0x10000000 : Word).toNat := by decide +kernel

theorem wit_HandleInstructions :
    (regs [3]).guard = true ∧ (11 : BitVec 8).toNat = 11 ∧
      (11, 221, 34) ∈ [(0, 0, 64), (1, 64, 16), (2, 80, 16), (3, 96, 16), (4, 112, 16), (5, 128, 20), (6, 148, 20), (7, 168, 20), (8, 188, 4),
        (9, 192, 4), (10, 213, 8), (11, 221, 34), (12, 0, 64), (13, 64, 64), (14, 128, 64), (15, 192, 64)] := by decide +kernel

theorem wit_ScalarLoads :
    (let s := regs [pPriv 8, pGlob 0x1000]
     timedTag (ptrTag (ptrAdd (s.rs 1) ((0x1FF8 : BitVec 13).signExtend 64))) = true ∧ ptrFine s (ptrAdd (s.rs 1) ((0x1FF8 : BitVec 13).signExtend 64)) 8 8 = true ∧
      timedTag (ptrTag (s.rs 2)) = false ∧ ptrFine s (s.rs 2) 8 8 = true ∧ isSup s.cur.1 = false) ∧
    (let s := regs [pPriv 0x40]
     s.ptrCheck (ptrAdd (s.rs 1) ((1 : BitVec 13).zeroExtend 64 * 32)) 32 timedTag 8 = none) := by decide +kernel

theorem wit_TimedScalarStores :
    let s := regs [pPriv 8, 0x11223344]
    s.guard = true ∧ isSup s.cur.1 = false ∧ ptrFine s (s.rs 1) 4 4 = true ∧ timedTag (ptrTag (s.rs 1)) = true ∧
      s.ptrCheck (s.rs 1) 32 timedTag 8 = none := by decide +kernel

theorem wit_TimedScalarStores_after : plain.filesOk := wit_FilesKept

theorem wit_PhasedScalarStore :
    let s := regs [pGlob 0x1000, 7]
    s.guard = true ∧ isSup s.cur.1 = false ∧ ptrFine s (s.rs 1) 8 8 = true ∧ timedTag (ptrTag (s.rs 1)) = false ∧
      s.my.markFault (s.rs 1) 8 (s.my.writeTc s.tc) = none := by decide +kernel

/-- The executing stream's queue `q` holds an entry that can be popped. -/
def queued (st q : Nat) (e : Entry) : State := on st (aCore.setQueue q [⟨e, 0, false, none, (0, 0)⟩]) aSlot

theorem wit_CountersAndControl :
    (regs [5]).guard = true ∧ isSup (regs [5]).cur.1 = false ∧ (regs [5]).sid = .C ∧
      (3 : BitVec 30).toNat < 4 ∧ (0x1002 : BitVec 30).getLsbD 12 = true ∧ (2 : BitVec 30).getLsbD 12 = false ∧
    (let s := queued 1 3 7
     s.sid ≠ .C ∧ s.guard = true ∧ s.me.queue (s.reg .Q 3) = [⟨7, 0, false, none, (0, 0)⟩] ∧ (0 : Nat) ≤ s.tc) ∧
    (let s := regs [5]
     let u := { s with outs := [⟨1, 0, 0, 0, 0, .read, .nop hd ⟨0, 0, 0, 0, 0⟩, Stream.reset.now, 5, 50, 0, 0, [], [], [], [], 0, 0, .sent, some (6, 0x3C), [], none⟩] }
     s.openFlags = 0 ∧ u.openFlags = 0x03 ∧ u.openFlags.getLsbD 2 = false) := by decide +kernel

theorem wit_FalseGuard : (on 0 { aCore with streams := [(0, offStream)] } aSlot).guard = false := by decide +kernel

/-! ## What the statements suppose: transfers, atomics, barrier objects -/

/-- A handle of one dimension: BASE, FMT and EXT0; the other extents are one and the strides zero (R88). -/
def tensor (base : Word) (fmt n : Nat) : Handle :=
  BitVec.ofNat 256 (base.toNat + 2 ^ 64 * (n + 2 ^ 16 + 2 ^ 32 + 2 ^ 48) + 2 ^ 192 * fmt)

/-- Stream `st` of core 0 with a handle in `h1` and a ready entry in `q2`. -/
def holding (st : Nat) (h : Handle) : State :=
  on st ({ aCore with h := Map.set (Map.set [] 1 h) 2 h }.setQueue 2 [⟨1, 0, false, none, (0, 0)⟩]) aSlot

/-- MEM operands: queue or register 3, handle `h1`, queue `q2`. -/
def memOf (fn : BitVec 5) (imm : BitVec 13) : Sys2Proof.Mem := ⟨0, 3, 1, 2, 0, 0, 0, 0, fn, imm⟩

/-- What every load through a handle supposes. -/
def loadable (s : State) (h : Handle) : Bool :=
  s.guard && !isSup s.cur.1 && s.memHandle (memOf 0 0) == h && s.handleCheck h false s.str.cu == none && !hEmpty h

theorem wit_HandleLoads :
    (let h := tensor (pPriv 0) 0 64
     loadable (holding 1 h) h = true ∧ (holding 1 h).me.shape = (64, 16, 4) ∧ (holding 1 h).me.vregFault ((holding 1 h).reg .V 3) = none ∧
      (false = false → hFmt h < 5 ∧ fmtSize (hFmt h) = 4) ∧ (holding 1 h).me.queue ((holding 1 h).reg .Q 2) = [⟨1, 0, false, none, (0, 0)⟩]) ∧
    (let h := tensor (pGlob 0) 1 64; loadable (holding 1 h) h = true ∧ (hFmt h, 32) ∈ [(1, 32), (3, 16), (4, 16), (5, 13), (6, 4)]) ∧
    (let h := tensor (pQuad 0) 6 64; loadable (holding 1 h) h = true ∧ ¬(hFmt h = 6 ∧ false = true)) ∧
    (let h := tensor (pQuad 0) 3 64; loadable (holding 1 h) h = true ∧ hFmt h ≠ 6 ∧ true = true) := by decide +kernel

theorem wit_LoadPieces :
    (let h := tensor (pPriv 0) 0 64
     timedSrc h = true ∧ ((holding 1 h).resolve h (fun _ => true) false [(0, [0, 0, 0, 0]), (1, [1, 0, 0, 0])]).toOption.isSome = true) ∧
    (let h := tensor (pGlob 0x1000) 0 64
     timedSrc h = false ∧ ((holding 1 h).resolve h (fun _ => true) false [(0, [0, 0, 0, 0])]).toOption = some [⟨0, [0, 0, 0, 0], [(0x1000, 4)]⟩] ∧
       (holding 1 h).settledRead [⟨0, [0, 0, 0, 0], [(0x1000, 4)]⟩] = false) := by decide +kernel

theorem wit_HandleStores :
    (let s := holding 4 (tensor (pPriv 0) 0 64)
     let h := s.memHandle (memOf 0 0)
     s.guard = true ∧ s.handleCheck h true s.str.cu = none ∧ hEmpty h = false ∧ hFmt h < 5 ∧ fmtSize (hFmt h) = 4 ∧ s.me.shape = (64, 16, 4) ∧
      s.me.vregFault (s.reg .V 3) = none ∧ s.me.queue (s.reg .Q 2) = [⟨1, 0, false, none, (0, 0)⟩]) ∧
    (let s := holding 4 (tensor (pPriv 0) 1 64)
     let M := Map.get s.me.h ((1 : BitVec 4).toNat + 1)
     convOf (memOf 1 0) ≠ 0 ∧ s.handleCheck M true s.str.cu = none ∧ (hFmt M = 0 ∨ hFmt M = 1) ∧ ∀ d < 4, hExt (s.memHandle (memOf 0 0)) d = hExt M d) ∧
    (let s := holding 4 (tensor (pPriv 0) 5 64)
     s.handleCheck (s.memHandle (memOf 0 0)) true s.str.cu = none ∧ hFmt (s.memHandle (memOf 0 0)) ≠ 6 ∧
      ¬(convOf (memOf 0 0) ≠ 0 ∧ 5 ≤ hFmt (s.memHandle (memOf 0 0)))) := by decide +kernel

/-- Two raw elements to store. -/
def twoElems : Written :=
  { slots := [(0, [0, 0, 0, 0]), (1, [1, 0, 0, 0])], code := fun j => j + 7, scale := fun _ => 0, seen := fun _ => none, flags := fun _ => 0,
    quantising := false }

theorem wit_StorePieces :
    (let h := tensor (pPriv 0) 0 64
     timedTag (ptrTag (hBase h)) = true ∧ isSup (holding 4 h).cur.1 = false ∧ (holding 4 h).str.stopped = false ∧
      ((holding 4 h).resolve h (fun _ => true) false twoElems.slots).toOption.isSome = true) ∧
    (let h := tensor (pGlob 0x1000) 0 64
     let s := holding 4 h
     let els : List Elem := [⟨0, [0, 0, 0, 0], [(0x1000, 4)]⟩, ⟨1, [1, 0, 0, 0], [(0x1004, 4)]⟩]
     (s.resolve h (fun _ => true) false twoElems.slots).toOption = some els ∧ timedTag (ptrTag (hBase h)) = false ∧
      writeParts (hFmt h) els twoElems.code twoElems.scale = [(0x1000, leBytes 4 7 ++ leBytes 4 8)] ∧ s.my.markFault 0x1000 8 (s.my.writeTc s.tc) = none ∧
      (s.start .store (.stQ hd (memOf 0 0)) s.tc 0 h s.str.cu [] els [(0x1000, leBytes 4 7 ++ leBytes 4 8)] none).str.stopped = false) := by
  decide +kernel

theorem wit_BroadcastLoad :
    let h := tensor (pQuad 0) 0 64
    let s := holding 1 h
    s.guard = true ∧ s.handleCheck h false s.str.cu = none ∧ hEmpty h = false ∧ ¬(hFmt h = 6 ∧ (5 : BitVec 5).getLsbD 4 = true) ∧
      walkOk h s.str.cu = true ∧ (s.resolve h (fun p => ptrTag p == 10) false (pieceWalk h (entryCap (hFmt h) false) s.str.cu).1).toOption.isSome = true ∧
      s.bcCores (memOf 5 0) = [0, 2] := by decide +kernel

theorem wit_MeshRoutes : (767 : Nat) < 768 ∧ (0 : Nat) < 768 ∧ (route 0 767).1[0]? ≠ none ∧ (route 0 767).1[1]? ≠ none := by decide +kernel

/-- `ATOM` operands: old value to `q3`, `h1`, operand in `q2`, 32 or 64 bits. -/
theorem wit_Atomics :
    let h := tensor (pGlob 0x1000) 2 64
    let s := holding 4 h
    let e : QEntry := ⟨1, 0, false, none, (0, 0)⟩
    s.guard = true ∧ s.me.queue (s.reg .Q 2) = [e] ∧ e.ready ≤ s.tc ∧ s.handleCheck h true s.str.cu = none ∧ hEmpty h = false ∧
      atomFmtOk 10 (hFmt h) false = true ∧
      (s.rangeCheck h (fun p => !timedTag (ptrTag p)) false ((ptrOff (hBase h) : Int) + 4 * elemOff h s.str.cu) 4).toOption = some (0x1000, 4) ∧
      ptrOff 0x1000 % 4 = 0 ∧ s.my.markFault 0x1000 4 (s.my.writeTc s.tc) = none := by decide +kernel

theorem wit_MemoryArithmetic : (0xFFFFFFFF : Nat) < 2 ^ 32 ∧ (0xFFFFFFFFFFFFFFFF : Nat) < 2 ^ 64 ∧ (10 : Nat) ≤ 10 := by decide

/-- The update of R200 on exact numbers: w = 4, g = 1, m = 2, with μ = s = 1, λ = 0, η = 1. -/
theorem test_update : updSlot 0x3F80000000000000 0x3F8000003F800000 false 0x3F800000 0x40800000 0x40000000 = (0x3F800000, 0x40400000, 0) := by
  decide +kernel

theorem wit_BarrierObjects :
    (let h := tensor (pPriv 0) 0 4
     let s := holding 0 h
     let u := s.modMe fun x => { x with bobj := [(1, ⟨.armed, 16, 8, h, coverOf h, 1⟩), (2, ⟨.opened, 0, 0, h, [], 1⟩)] }
     s.handleCheck h false s.str.cu = none ∧ (∀ d < 4, hBcast h d = false) ∧ (s.me.obj 0).st = .idle ∧ coverSize (coverOf h) = 16 ∧
      (u.me.obj 1).st ≠ .idle ∧ (u.me.obj 2).st = .opened ∧ (u.me.obj 1).st ≠ .opened ∧
      (let k := coveredBytes ((u.core 0).obj 1).cover (pPriv 8) 8; ((u.core 0).obj 1).count + k ≤ ((u.core 0).obj 1).total ∧ 0 < k) ∧
      (let u := u.modMe fun x => { x with bobj := [(2, ⟨.opened, 16, 16, h, coverOf h, 1⟩)] }
       ((u.core 0).obj 2).st = .opened ∧ 0 < coveredBytes ((u.core 0).obj 2).cover (pPriv 15) 1)) ∧
    (let h := tensor (pPriv 0) 0 4
     let s := holding 0 h
     let u := s.modMe fun x => { x with bobj := [(1, ⟨.armed, 16, 8, h, coverOf h, 1⟩)] }
     (s.me.obj 0).st = .idle ∧ (u.me.obj 1).st = .armed) ∧
    (let h := tensor (pPriv 0) 0 4 ||| BitVec.ofNat 256 (2 ^ 188)
     (holding 0 h).handleCheck h false (holding 0 h).str.cu = none ∧ hBcast h 0 = true) ∧
    (let y : Slot := { aSlot with log := [⟨0, 0, ⟨9, 0⟩, 0, 4, 0, 0x1000, leBytes 8 5, false, some 2, [], none, 1, 0, none⟩] }
     (y.log.find? fun w => w.offer == some 2 && w.done != 0 && w.addr.toNat ≤ 0x1007 && 0x1007 < w.addr.toNat + w.data.length).isSome = true ∧
       (aSlot.log.find? fun w => w.offer == some 2 && w.done != 0) = none) := by decide +kernel

/-! ## What the statements suppose: vectors and the matrix unit -/

/-- A running cohort's V stream, with queue 0 and handle `h3` ready. -/
def onV (x : Core) : State := on 3 ({ x with h := Map.set [] 3 (tensor (pPriv 0) 3 1024) }.setQueue 0 [⟨1, 0, false, none, (0, 0)⟩]) aSlot

/-- RRR operands on registers 1, 1, 2 and 3 with element type `ty`. -/
def vr (ty : BitVec 8) : Rrr := { r4 with md := ty }

theorem wit_ShapedVectors :
    (let s := onV aCore
     [Instr.vadd hd (vr 0), .vcmp hd (vr 0), .vsel hd (vr 2), .vimul hd (vr 2), .vexp2 hd (vr 0), .vbcast hd (vr 0), .viota hd (vr 2), .vrng hd (vr 2)].all
       fun i => s.me.vregsFault (vregs s.str.now i) == none) = true ∧
    fmtSize 0 = (onV aCore).me.shape.2.2 ∧ fmtSize 2 = (onV aCore).me.shape.2.2 ∧
    fmtSize 1 = (onV { aCore with vshape := 0x403FF }).me.shape.2.2 ∧ fmtSize 3 = (onV { aCore with vshape := 0x3FF }).me.shape.2.2 ∧
    (onV { aCore with streams := [(3, { Stream.reset with now := { Stream.reset.now with stages := 6 } })] }).str.now.deadFor 1 = true := by
  decide +kernel

/-- The addition of `v1` and `v2` into `v1` or `q0`, piece 15, under `k0` or a false stage predicate. -/
def vAct (rd dead : Nat) : Act := ⟨.vadd hd (vr 0), 0, 0, 15, 16, 0, [], [rd, 1, 2, 3, 64, 16, 4, dead, 0, 0, 0, 0], []⟩

theorem wit_ShapedPieces :
    (∀ r ∈ pieceSources (vAct 1 0), r < 32) ∧ (vAct 1 1).x 7 = 1 ∧ (vAct 1 0).x 7 ≠ 1 ∧ (vAct 1 0).x 0 < 32 ∧ 32 ≤ (vAct 32 0).x 0 ∧
      256 * (vAct 1 0).j / (vAct 1 0).x 6 + min 256 (64 * 16 * 4 - 256 * 15) / 4 ≤ 4096 ∧ (15 : Nat) < min 256 (64 * 16 * 4 - 256 * 15) / 4 := by
  decide +kernel

theorem wit_ShapedPieces_ins : (∀ h f, (vAct 1 0).ins ≠ .viota h f ∧ (vAct 1 0).ins ≠ .vrng h f) ∧ ∀ h f, (vAct 1 0).ins ≠ .vcmp h f :=
  ⟨fun _ _ => ⟨nofun, nofun⟩, fun _ _ => nofun⟩

theorem wit_IntegerElements :
    (let a := { vAct 1 0 with aux := [1, 1, 2, 3, 64, 16, 1, 0, 4, 0, 0x14, 0] }
     (a.x 8, a.x 6) ∈ [(2, 4), (3, 1), (4, 1)] ∧ a.x 10 / 16 % 2 = 1 ∧ (255 : Nat) < 2 ^ (8 * a.x 6)) ∧
    (let a := { vAct 1 0 with aux := [1, 1, 2, 3, 64, 16, 4, 0, 2, 0, 2, 0] }
     (a.x 8, a.x 6) ∈ [(2, 4), (3, 1), (4, 1)] ∧ a.x 10 / 16 % 2 = 0 ∧ (0xFFFFFFFF : Nat) < 2 ^ (8 * a.x 6)) ∧
    ((vAct 1 0).x 8, (vAct 1 0).x 6) ∈ [(0, 4), (1, 2)] := by decide +kernel

theorem wit_LongVectors :
    let s := onV aCore
    s.str.now.deadFor 0 = false ∧ s.me.vregsFault (vregs s.str.now (.vcvt hd (vr 0x10))) = none ∧ (64 * 16 * fmtSize 1 ≤ 4096) ∧
      s.me.vregsFault (vregs s.str.now (.vqnt hd (vr 0))) = none ∧ s.vqntCheck (Map.get s.me.h 3) 1024 4 = none ∧
      s.me.vregsFault (vregs s.str.now (.vrsum hd (vr 0))) = none ∧ s.me.vregsFault (vregs s.str.now (.tmovR hd (vr 0))) = none ∧
      s.me.vregsFault (vregs s.str.now (.tmovC hd (vr 0))) = none ∧ (1 : BitVec 5) ≠ 0 ∧
      s.me.vregsFault (vregs s.str.now (.kmov hd { r4 with fn := 1 })) = none := by decide +kernel

/-- The pieces of the long instructions: a source that is read, an entry read by the piece before, and last pieces and others. -/
theorem wit_LongVectors_pieces :
    let s := onV aCore
    (match s.operands 3 [1] with | some ([_], _) => true | _ => false) = true ∧ (match s.operands 0 [32] with | some ([_], _) => true | _ => false) = true ∧
      (64 * 1 * fmtSize 1 % 256 ≠ 0 ∧ 64 * 2 * fmtSize 1 % 256 = 0) ∧ (64 * (3 + 1) % entryCap 3 false = 0 ∧ ¬(64 * (0 + 1) % entryCap 3 false = 0 ∨ 0 + 1 = 16)) ∧
      ((vAct 1 0).ins, false, true) ∉ [(Instr.vrsum hd (vr 0), false, true)] ∧ (15 + 1 : Nat) ≤ 16 ∧ ¬(16 ≤ 15) ∧ (1 : Nat) ≠ 0 := by decide +kernel

theorem wit_QueueMovesAndPredicates :
    let s := onV aCore
    isSup s.cur.1 = false ∧ s.me.queue (s.reg .Q 0) = [⟨1, 0, false, none, (0, 0)⟩] ∧ (0 : Nat) ≤ s.tc ∧
      s.me.vregsFault (vregs s.str.now (.vqpop hd { r4 with ra := 0 })) = none ∧ s.me.vregsFault (vregs s.str.now (.vqpush hd r4)) = none := by
  decide +kernel

/-- A core with one write in flight to `v8`. -/
def busyV : State := on 3 { aCore with allot := 20 } { aSlot with lands := [⟨12, 0, 3, 0, 0, .bytes .v (4096 * 8) [1]⟩] }

theorem wit_VectorControl :
    (let s := busyV
     isSup s.cur.1 = false ∧ s.me.allot ≤ (20 : Nat) ∧ (19 : Nat) < s.me.allot ∧ s.landsOn s.cur.1 s.tc 9 s.me.allot = false ∧ s.me.allot < (21 : Nat) ∧
      ¬s.landsOn s.cur.1 s.tc 8 s.me.allot = false ∧ s.me.bank 0 = .on ∧ s.landsOn s.cur.1 s.tc 0 8 = false ∧ ¬s.landsOn s.cur.1 s.tc 8 16 = false) ∧
    (let s := busyV.modMe fun x => { x with banks := [.off, .retention, .on, .on] }
     s.me.bank 0 = .off ∧ s.me.bank 1 = .retention) := by decide +kernel

/-- Core 0's M stream with a format word and two handles. -/
def onM (w : Word) : State :=
  on 2 { aCore with fq := [w], h := Map.set (Map.set [] 1 (tensor (pPriv 0) 0 64)) 2 (tensor (pPriv 0) 0 64) } aSlot

/-- MX operands: bank 0, rows 0 to 3, panel 0, queue 2. -/
def mxOf (fn : BitVec 13) : Mx := ⟨0, 0, 0, 3, 0, 0, 2, 0, fn⟩

theorem wit_MatrixCommands :
    (let w : Word := 0x1100000000000000
     let s := onM w
     s.guard = true ∧ s.me.fq = [w] ∧ w.extractLsb' 0 7 = 0 ∧ pairOk (wAfmt w) (wBfmt w) = true ∧
      ¬(pairMode (wAfmt w) (wBfmt w) = true ∧ wWest w = true) ∧ ldwLines (wAfmt w) (wBfmt w) = ldwLines 1 1 ∧ s.me.arr.switch = none ∧
      (∀ c ∈ s.me.arr.held, s.tc < c.done → c.set ≠ some (1 - s.me.arr.active)) ∧
      wAfmt w = s.me.arr.wfmt.getD (2 * s.me.arr.active) 1 ∧ wBfmt w = s.me.arr.wfmt.getD (2 * s.me.arr.active + 1) 1) ∧
    (let w : Word := 0
     let s := onM w
     s.me.fq = [w] ∧ wAfmt w = 0 ∧ wOfmt w < 6 ∧ wQmode w = 0 ∧ wTq w = false ∧ s.drainCheck w (mxOf 1) = none) := by decide +kernel

theorem wit_MatrixControl :
    (let s := onM 0
     s.guard = true ∧ (∀ i < 4, (s.core (4 * quadOf s.cur.1 + i)).holds s.tc true = false) ∧ isSup s.cur.1 = false ∧ s.me.holds s.tc false = false) ∧
    (let s := (onM 0).modMe fun x => { x with arr := { x.arr with held := [⟨8, 20, none⟩] } }
     ¬∀ i < 4, (s.core (4 * quadOf s.cur.1 + i)).holds s.tc true = false) := by decide +kernel

theorem wit_AccumulatorLandings :
    (plain.core 0).arr.unsound &&& subArrays 5 false = 0 ∧
      (let s := plain.modCore 0 fun x => { x with arr := { x.arr with unsound := 1 } }
       (s.core 0).arr.unsound &&& subArrays 5 false ≠ 0 ∧ Map.wf (s.core 0).arr.acc = true) ∧ Map.wf (plain.core 0).arr.acc = true ∧ (95 : Nat) < 96 ∧ (191 : Nat) < 192 ∧ (95 + 1 : Nat) ≤ 96 ∧ (2 + 1 : Nat) ≤ 3 ∧
      (List.replicate 64 (0 : BitVec 32)).length = 64 := by decide +kernel

/-- A piece of `MX.DRAIN`: row 31 of panel 0 through the handle in `h1`, or row 0, to a queue or with a transposed copy through a handle. -/
def drainAct (row q tq : Nat) (h2 : Handle) : Act :=
  ⟨.mxDrain hd (mxOf 1), 0, 9, row, 32, tensor (pPriv 0) 0 64, [], [0, 0, 0, 1, 1, 60, 0, 1024, 1024, q, tq], leBytes 32 h2.toNat⟩

/-- What a drain's row leaves of the state, and whether its core is alive. -/
def drainWrote (row : Nat) : State :=
  let a := drainAct row 0 1 (tensor (pPriv 0) 0 64)
  let s := onM 0
  let sl := drainSlots a.hnd row 0 false
  (s.writePieceEv a.ins a.hnd (2 * row) [0, row, 0, 0] (quantPiece 2 (hFmt a.hnd) 0 sl fun _ => 0) 0 60).noteDrain
    (s.me.panelTaint 0 row 0) s.uid a.hnd sl none

theorem wit_AccumulatorLandings_pieces :
    (match (queued 2 3 7).operands 0 [32 + 3] with | some ([_], _) => true | _ => false) = true ∧ (queued 2 3 7).guard = true ∧
      (on 2 { aCore with streams := [(2, offStream)] } aSlot).guard = false ∧
      (drainAct 0 3 0 0).x 9 ≠ 0 ∧ (drainAct 0 3 0 0).x 10 = 0 ∧ (drainAct 0 0 1 0).x 9 = 0 ∧ (drainAct 0 0 1 0).x 10 ≠ 0 ∧
      (drainWrote 0).alive = true ∧ (drainWrote 31).alive = true ∧ hFmt (tensor (pPriv 0) 0 64) ≠ 5 ∧ hFmt (tensor (pPriv 0) 5 64) = 5 ∧
      0 / 1 % 32 ≠ 31 ∧ 31 / 1 % 32 = 31 ∧ (drainAct 31 0 1 0).x 3 = 1 := by decide +kernel

/-! ## What the statements suppose: waiting, rounds, leases, collectives -/

/-- A cohort with one granted record of index 5, group 3 in group slot 2, and collective group 1 of two packages. -/
def granted : Slot :=
  { aSlot with
    recs := [(5, ⟨0, 0, 0, 0, 16, false, false, 0, []⟩)], grpOf := [(2, 3)], collOf := [(1, [2, 0])], ceil := 15, decl := 8 }

/-- Stream `st` of core 0 of such a cohort. -/
def onG (st : Nat) (vs : List Word) (y : Slot) : State := on st (withS vs) y

theorem wit_WaitingWords :
    let s := onG 0 [1] granted
    isSup s.cur.1 = false ∧ isSup (onSup Sup.reset 0 []).cur.1 = true ∧ s.guard = true ∧ s.sid = .C ∧ s.my.ymark = none := by decide +kernel

/-- A software trap of C that is pending already. -/
def trapped : Slot := { granted with traps := [⟨4, 0, 0, 0, false, 0, 0, 0, 0, 0, 0⟩] }

theorem wit_CursorsAndTraps :
    (let s := queued 1 3 7
     s.guard = true ∧ s.me.queue (s.reg .Q 3) = [⟨7, 0, false, none, (0, 0)⟩] ∧ (0 : Nat) ≤ s.tc ∧ s.str.cu = [0, 0, 0, 0] ∧ (1 : BitVec 2) ≠ 0) ∧
    (let s := onG 0 [] granted
     s.my.traps.any (fun t => t.code == 4 && t.core == s.cur.1 && t.stream == s.cur.2) = false ∧
      (onG 0 [] trapped).my.traps.any (fun t => t.code == 4 && t.core == s.cur.1 && t.stream == s.cur.2) = true) := by decide +kernel

theorem wit_RecordInstructions :
    (let s := onG 0 [] granted
     s.guard = true ∧ (s.record 5).isSome = true ∧ s.record 6 = none ∧ s.str.seals.length < 4 ∧ s.sid = .C ∧ (onG 1 [] granted).sid ≠ .C ∧
      (∃ r, s.record 5 = some r ∧ r.othr.toNat < 2 ^ 32) ∧
      (let H := Map.get [(1, BitVec.ofNat 256 (5 * 2 ^ 200 + 2 ^ 212))] 1
       H.getLsbD 255 = false ∧ H.extractLsb' 196 4 = 0 ∧ H.getLsbD 212 = true ∧ (H.extractLsb' 200 12).toNat = 5)) ∧
    (let s := (onG 0 [] granted).modStr fun x => { x with seals := List.replicate 4 ⟨false, false, 1, 5⟩ }
     4 ≤ s.str.seals.length ∧ (s.record 5).isSome = true) := by
  refine ⟨⟨by decide +kernel, by decide +kernel, by decide +kernel, by decide +kernel, by decide +kernel, by decide +kernel,
    ⟨_, by rfl, by decide +kernel⟩, by decide +kernel⟩, by decide +kernel⟩

theorem wit_PowerLeases :
    let s := onG 0 [] { granted with lease := some ⟨3, 100⟩ }
    (onG 0 [] granted).my.lease = none ∧ s.my.lease = some ⟨3, 100⟩ ∧ s.my.st = 2 ∧
      s.levelInForce s.me.slot ≠ (s.modMy fun x => { x with lease := none }).levelInForce s.me.slot ∧
      (let u := onG 0 [] { granted with lease := some ⟨8, 100⟩ }
       u.levelInForce u.me.slot = (u.modMy fun x => { x with lease := none }).levelInForce u.me.slot) := by decide +kernel

/-- The cohort with its round in a state, and group 3 in a state. -/
def inRound (r : Round) (gst : Nat) : State :=
  (onG 0 [] { granted with rounds := [(2, r)] }).modGroup 3 fun x => { x with st := gst }

/-- A round that was opened at tc 3, and one prepared since. -/
def openedAt3 : Round := ⟨.opened, 1, ⟨3, 0⟩, 0, ⟨0, 0⟩, 0, 0, false, none, []⟩
def preparedAt5 (out : Option Bool) : Round := ⟨.prepared, 1, ⟨3, 0⟩, 0, ⟨5, 0⟩, 0, 0, false, out, []⟩

theorem wit_WriteRounds :
    (let s := inRound Round.idle 1
     (∀ o ∈ s.my.roundOps, o.grp ≠ 2) ∧ s.my.grpOf.find? (fun e => e.1 == 4) = none ∧ s.my.grpOf.find? (fun e => e.1 == 2) = some (2, 3) ∧
      (s.group 3).st ≠ 4 ∧ (inRound Round.idle 4 |>.group 3).st = 4 ∧ (s.my.round 2).st = .idle) ∧
    (let s := inRound openedAt3 1
     (s.my.round 2).st = .opened ∧ (s.my.round 2).settled ≠ some true ∧ s.uncovered s.me.slot 2 = none ∧
      freePlace s.plat.plog (s.plat.rlog.map (·.at_)) = none) ∧
    (let s := (inRound openedAt3 1).modPlat fun x => { x with plog := 0x100001 }
     freePlace s.plat.plog (s.plat.rlog.map (·.at_)) ≠ none) ∧
    (let s := (inRound openedAt3 1).modMy fun x =>
      { x with marks := [⟨2, 0x10000, 0x10000, false, ⟨0, 0⟩, 0, none⟩], log := [⟨0, 0, ⟨5, 0⟩, 0, 4, 0, 0x10000, [1], false, none, [], none, 1, 0, none⟩] }
     (s.uncovered s.me.slot 2).isSome = true) ∧
    ((inRound (preparedAt5 (some true)) 1).my.round 2).settled = some true ∧
    ((inRound (preparedAt5 none) 1).my.round 2).settled ≠ some true ∧ ((inRound (preparedAt5 none) 1).group 3).rst = 0 ∧
    (((inRound (preparedAt5 none) 1).modGroup 3 fun x => { x with rst := 2 }).group 3).rst ≠ 0 := by decide +kernel

/-- Core 0 about to execute a word of C with core 1's C stream at a word of its own on the same tc. -/
def besideC (w : Word) (y : Slot) : State :=
  let s := onG 0 [0x20000] { y with members := [0, 1] }
  { s with cores := s.cores ++ [(1, { withS [0x30000] with streams := [(0, { Stream.reset with base := 9, text := Map.set [] 0 w, textLen := 1 })] })] }

/-- The forms of the round instructions on group slot 2, by code, RA and IMM. -/
def roundForms : List (Nat × Word) := [(0xEB, 1), (0xEC, 0), (0xED, 1), (0xEE, 0)]

theorem wit_WriteRounds_differs :
    (∀ e ∈ roundForms, (inRound Round.idle 1).differs e.1 2 e.2 2 = false) ∧
      (besideC (0xEB <<< 46 ||| 2 <<< 34 ||| 2) granted).differs 0xEB 2 1 2 = true ∧
      (besideC (0xEC <<< 46 ||| 0x102) granted).differs 0xEC 2 0 2 = true ∧ (besideC (0xED <<< 46 ||| 2 <<< 34 ||| 2) granted).differs 0xED 2 1 2 = true ∧
      (besideC (0xEE <<< 46 ||| 0x102) granted).differs 0xEE 2 0 2 = true ∧
      (besideC (0xEF <<< 46 ||| 1 <<< 34 ||| 0x02000001) granted).differs 0xEF 2 0x20000 0x02000001 = true ∧
      (onG 0 [0x20000] granted).differs 0xEF 2 0x20000 0x02000001 = false := by decide +kernel

/-- A round that is doomed while it stands OPEN, and one that its member has restored. -/
theorem wit_WriteRounds_doomed :
    (let s := inRound { openedAt3 with doomed := true } 1
     (s.my.round 2).st = .opened ∧ s.uncovered s.me.slot 2 = none ∧ (s.my.round 2).doomed = true) ∧
    ((inRound (preparedAt5 (some false)) 1).my.round 2).settled = some false ∧ ((inRound openedAt3 1).my.round 2).doomed = false := by decide +kernel

theorem wit_RangeMarks :
    let s := (onG 0 [0x20000, 0x20001] granted).modGroup 3 fun x => { x with gwin := 0x20004 }
    let before := fun (s : State) => s.my.roundOps.find? fun o => o.code == 0xEF && o.grp == 2
    let o : RoundOp := ⟨0xEF, 1, 2, 0x20000, 1, none⟩
    let u := s.modMy fun x => { x with roundOps := [o] }
    (before s = none ∧ s.my.grpOf.find? (fun e => e.1 == 2) = some (2, 3) ∧
      (s.my.round 2).st = .idle ∧ ptrTag (s.rs 1) = 0 ∧ ptrOff (s.rs 1) % 65536 = 0 ∧ (1 * 65536 : Nat) ≠ 0 ∧
      (s.group 3).window.1 ≤ ptrOff (s.rs 1) ∧ ptrOff (s.rs 1) + 65536 ≤ (s.group 3).window.1 + (s.group 3).window.2) ∧
    (s.my.marks = [] ∧ (match s.walk s.my (s.rs 1) with | .leaf l _ _ => l.getLsbD 3 | _ => false) = false ∧ ptrOff (s.rs 2) % 65536 ≠ 0 ∧
      s.my.grpOf.find? (fun e => e.1 == 4) = none) ∧
    before u = some o ∧ o.val = s.rs 1 ∧ o.result = none ∧ o.val ≠ s.rs 2 := by decide +kernel

/-- Global tables whose leaf for the first 2 MiB is compressed. -/
theorem wit_RangeMarks_compressed :
    let tbl := fun (a v : Nat) (m : Map 8) => Map.setRun m a (leBytes 8 v)
    let d := tbl 0x103000 0xB (tbl 0x102000 0x103001 (tbl 0x101000 0x102001 (tbl 0x100000 0x101001 [])))
    let s := (onG 0 [0x20000] { granted with groot := 0x100000 }).modGroup 3 fun x => { x with gwin := 0x20004 }
    let s := { s with dev := d }
    s.walk s.my (s.rs 1) = .leaf 0xB 0 0x200000 ∧ (0xB : Word).getLsbD 3 = true ∧ s.my.marks = [] ∧ (s.my.round 2).st = .idle := by
  decide +kernel

/-- A descriptor at private offset 0: a sum over one FP32 element from 0x100 to 0x200. -/
def collState (y : Slot) : State :=
  on 0 { withS [pPriv 0] with
    priv := Map.setRun [] 0 (leBytes 8 0 ++ leBytes 8 1 ++ leBytes 8 (pPriv 0x100).toNat ++ leBytes 8 (pPriv 0x200).toNat) } y

/-- What `COLL` supposes of a descriptor at private offset 0, for one pair of buffers. -/
def collFine (src dst : Word) : Bool :=
  let s := on 0 { withS [pPriv 0] with priv := Map.setRun [] 0 (leBytes 8 0 ++ leBytes 8 1 ++ leBytes 8 src.toNat ++ leBytes 8 dst.toNat) } granted
  let d := s.timedRead (s.rs 1) 64
  s.ptrCheck (s.rs 1) 64 (fun t => t == 8 || t == 9) 1 == none && s.my.collOf.find? (fun e => e.1 == 1) == some (1, [2, 0]) &&
    !s.my.colls.any (fun k => k.id == 0) && !descBad d 2 && collRec d == none && collSrcN d 2 0 != 0 && collSrc d == src && collDst d == dst &&
    s.ptrCheck src (collSrcN d 2 0 * collSize d) (fun _ => true) (collSize d) == none &&
    s.ptrCheck dst (collDstN d 2 * collSize d) (fun _ => true) (collSize d) == none &&
    s.my.markFault dst (collDstN d 2 * collSize d) (s.my.writeTc s.tc) == none

theorem wit_Collectives :
    collFine (pPriv 0x100) (pPriv 0x200) = true ∧ collFine (pGlob 0x100) (pGlob 0x200) = true ∧
      (collState granted).my.collOf.find? (fun e => e.1 == 7) = none ∧ collSrcN (leBytes 16 4) 2 1 = 0 ∧ descBad (leBytes 64 4) 2 = true ∧
    (let d := leBytes 16 (2 ^ 64) ++ leBytes 8 0x1000 ++ leBytes 8 0x2000 ++ leBytes 32 0
     let k : Coll := ⟨0, 1, 0, ⟨9, 0⟩, d, some (leBytes 4 5), some (leBytes 4 9), none⟩
     let j : Coll := { k with id := 1, result := none }
     let i : Coll := { k with id := 2, result := none, src := none }
     let s := collState { granted with colls := [k, j, i] }
     s.my.colls.any (fun k => k.id == 0) = true ∧ s.my.colls.find? (fun k => k.id == 0) = some k ∧ k.fault = none ∧
      k.result = some (leBytes 4 9) ∧ collRec k.desc = none ∧ timedTag (ptrTag (collDst k.desc)) = false ∧
      ((s.slot 0).colls.find? fun k => k.id == 1 && k.result.isNone && k.fault.isNone) = some j ∧ j.src = some (leBytes 4 5) ∧
      ((s.slot 0).colls.find? fun k => k.id == 2 && k.result.isNone && k.fault.isNone) = some i ∧ i.src = none ∧
      (∃ q ∈ [d.take 16 ++ leBytes 4 5, []], q.take 16 ≠ d.take 16) ∧
      (∀ w ∈ (s.slot (s.core k.core).slot).log, w.peer = none → w.engine = none → w.tc.before k.tc = true) ∧
      ([[1, 2]] : List (List Byte))[0]? = some [1, 2] ∧ ([1, 2] : List Byte) ≠ []) := by decide +kernel

/-- A completed collective of one element that names record 5 of the cohort. -/
theorem wit_Collectives_record :
    let d := leBytes 8 0 ++ leBytes 8 1 ++ leBytes 8 0x1000 ++ leBytes 8 (pPriv 0x200).toNat ++ leBytes 2 0x8005 ++ leBytes 30 0
    let k : Coll := ⟨0, 1, 0, ⟨9, 0⟩, d, some (leBytes 4 5), some (leBytes 4 9), none⟩
    let s := collState { granted with colls := [k] }
    s.my.colls.find? (fun k => k.id == 0) = some k ∧ k.fault = none ∧ k.result = some (leBytes 4 9) ∧ collRec k.desc = some 5 ∧
      (s.my.recs.find? (fun q => q.1 == 5)).isSome = true := by decide +kernel

theorem wit_Collectives_agree :
    let d := leBytes 16 (2 ^ 64) ++ leBytes 8 0x1000 ++ leBytes 8 (pPriv 0x200).toNat ++ leBytes 32 0
    (∀ q ∈ [d.take 16 ++ leBytes 4 5, d.take 16 ++ leBytes 4 6], q.take 16 = d.take 16) ∧ timedTag (ptrTag (collDst d)) = true := by decide +kernel

/-! ## What the statements suppose: supervisor cores, cohorts, homes -/

/-- A running supervisor core's words: register `s1`. -/
def runningSup : Sup := { Sup.reset with running := true }

/-- SYS operands: RA `s1`, slot or register in IMM. -/
def sysOf (fn : BitVec 2) (imm : BitVec 32) : Sys := ⟨0, 0, 1, fn, imm⟩

/-- Bytes put into device memory. -/
def put (d : Map 8) (l : List (Nat × Nat × Nat)) : Map 8 := l.foldl (fun d e => Map.setRun d e.1 (leBytes e.2.1 e.2.2)) d

/-- An image at 0x1000 with one quad, one word of text that all streams share, and one segment; its control block lies at 0x800 (R152, R154). -/
def imageMem : Map 8 :=
  put [] [(0x1000, 4, 0x4E4C4150), (0x1004, 2, 1), (0x1008, 4, 0x200), (0x100C, 4, 0x240), (0x1010, 4, 0x01010101), (0x1018, 2, 1536),
    (0x1028, 8, 0x09600190004B0028), (0x1078, 8, 0x800000200), (0x11C8, 8, 0x100000220), (0x800, 8, 0x1000)]

/-- Supervisor core 0 about to execute a word on slot 3, with that memory. -/
def launching (y : Slot) : State := { onSup runningSup 0x800 [(3, y)] with dev := imageMem }

theorem wit_SupervisorWords_launch :
    let s := launching Slot.reset
    let cb := s.supRead (s.rs 1) 128
    let field := fun off k => leNat ((cb.drop off).take k)
    let g := s.imageAt (field 0x00 8)
    (isSup s.cur.1 = true ∧ s.ptrCheck (s.rs 1) 128 (fun _ => true) 1 = none ∧ s.plat.caps = false ∧ s.plat.frozen = [] ∧ s.partSlot 3 = true) ∧
      (s.slot 3).resume = .none ∧ (s.slot 3).st = 0 ∧ imageOk g = true ∧ blockOk cb (imgN g) = true ∧
      s.groupsFree 3 (s.grantGroups (field 0x20 8)) = true ∧
      s.placement (imgKind g) (imgW g) (imgH g) (field 0x30 1) (field 0x31 1) ((imgOwn g 2).2 != 0) = some [0] ∧
      s.recordsFit (grantRecords g 3 (([0].map (· / 24)).eraseDups)) = true := by decide +kernel

/-- Where no configuration is loaded and nothing is frozen, a master reaches what it names of HBM4E. -/
theorem wit_reach (s : State) (m d n k : Nat) (w : Bool) (h : s.plat.caps = false) (hf : s.plat.frozen = []) : s.capAccess m d n k w = .ok s := by
  simp [State.capAccess, h, hf]

theorem wit_SupervisorWords_resume :
    let s := launching { aSlot with st := 4, kind := 1, w := 1, ht := 1 }
    let cb := s.supRead (s.rs 1) 128
    let field := fun off k => leNat ((cb.drop off).take k)
    (s.slot 3).st = 4 ∧ blockOk cb (s.slot 3).npkg = true ∧ (s.slot 3).resume = .none ∧
      s.placement (s.slot 3).kind (s.slot 3).w (s.slot 3).ht (field 0x30 1) (field 0x31 1) (s.slot 3).mtext = some [0] := by
  decide +kernel

theorem wit_SupervisorWords :
    (let s := onSup runningSup 0x10000 [(3, { aSlot with st := 1 }), (4, aSlot)]
     isSup s.cur.1 = true ∧ isSup plain.cur.1 = false ∧ (sysOf 0 3).stg = 0 ∧ (sysOf 0 3).scope = 0 ∧ (sysOf 0 3).imm.toNat < 256 ∧
      (s.slot 3).st = 1 ∧ (s.slot 5).st ≠ 1 ∧ (s.slot 4).st = 2 ∧
      ((s.slot 4).reqs.any fun r => r.cause == .platform 0 && r.cleared.isNone) = false ∧
      (sysOf 0 0x103).imm.toNat < 512 ∧ ptrTag (s.rs 1) = (if (sysOf 0 3).imm.getLsbD 8 then 11 else 0)) ∧
    (let s := onSup runningSup (0xB000000000000000) []
     ptrTag (s.rs 1) = (if (sysOf 0 0x103).imm.getLsbD 8 then 11 else 0) ∧ (⟨2, 0, 1, 0, 0⟩ : Sys).stg ≠ 0 ∧
      pcsrImm (sysOf 0 0x10000) = true ∧ (s.pcsrValue (sysOf 0 0x10000)).isSome = true) := by decide +kernel

/-- A cohort that is held at its tc, with a cause that cleared `H` clocks ago or not. -/
def holdingOn (cleared : Option Nat) : Slot :=
  { aSlot with opened := false, held := some 9, clk := 40, reqs := [⟨9, .platform 0, cleared⟩], wdog := 0x684EE180 }

/-- Slot 0 as given, at clock 100. -/
def slotIs (y : Slot) : State := { on 0 aCore y with clock := 100 }

theorem wit_CohortEvents :
    (slotIs (holdingOn (some 0))).releasable 0 = true ∧ (slotIs (holdingOn none)).releasable 0 = false ∧ (slotIs aSlot |>.slot 0).live = true ∧
      ((slotIs { aSlot with startAt := some 0 }).slot 0).startAt = some 0 ∧ (0 : Word).toNat ≤ (slotIs aSlot).ns ∧ (slotIs aSlot).ns < (5 : Word).toNat ∧
      (let s := onSup { runningSup with events := [(3, 7)] } 0 []
       let y := (s.core (768 + 0)).sup
       y.events = [(3, 7)] ∧ y.handling = false ∧ y.frozen = false ∧ y.running = true ∧ y.blocked = false) ∧
      (let s := slotIs { aSlot with reqs := [⟨9, .platform 0, none⟩, ⟨9, .seal 0, some 3⟩, ⟨9, .seal 2, none⟩, ⟨9, .seal 1, none⟩] }
       (s.slot 0).reqs = [⟨9, .platform 0, none⟩, ⟨9, .seal 0, some 3⟩] ++ ⟨9, .seal 2, none⟩ :: [⟨9, .seal 1, none⟩] ∧
         (([⟨9, .platform 0, none⟩, ⟨9, .seal 0, some 3⟩] : List Req).all fun q => match q.cause with
           | .seal _ => q.cleared.isSome
           | _ => true) = true) ∧
      (plain.slot 0).pkgs[1]? = none ∧ plain.plat.caps = false ∧ (slotIs aSlot).drooping 0 = false ∧
      ((slotIs aSlot).modPlat fun p => { p with droops := [0] }).drooping 0 = true ∧
      plain.running.filter (fun m => 70 ≤ (plain.slot m).phase) = [] ∧
      (let s := slotIs { aSlot with phase := 70 }; s.running.filter (fun m => 70 ≤ (s.slot m).phase) ≠ []) ∧
      (let s := slotIs { Slot.reset with resume := .loading }
       (s.slot 0).st = 0 ∧ (s.slot 0).resume = .loading ∧ s.quadsWaking 0 = false) := by decide +kernel

/-- An access of core 0's L stream that is on its way. -/
def anAccess (k : AccKind) (id : Nat) (p : Word) : Access :=
  ⟨id, 0, 0, 0, 1, k, .nop hd ⟨0, 0, 0, 0, 0⟩, Stream.reset.now, 5, 50, 0, 0, [], [], [(p, [7])], [], 0, 0, .sent, none, [], none⟩

/-- The state with some accesses on their way. -/
def sent (l : List Access) : State := { plain with outs := l }

theorem wit_CohortEvents_later :
    (let s := { sent [{ anAccess .read 1 0x1000 with pages := [⟨0, false, 0, 65536, 0x1⟩] }] with tlbi := [(768, .tlbiComplete 0 0 .all)] }
     s.tlbi.contains (768 + 0, .tlbiComplete 0 0 .all) = true ∧ (s.outs.any fun a => a.usesDropped 0 .all) = true) ∧
    (let s := { sent [anAccess .read 1 0x1000] with tlbi := [(768, .tlbiComplete 0 0 .all)] }
     s.tlbi.contains (768 + 0, .tlbiComplete 0 0 .all) = true ∧ (s.outs.any fun a => a.usesDropped 0 .all) = false) ∧
    ((slotIs { aSlot with st := 3 }).slot 0).st = 3 ∧
    (let s := (slotIs { aSlot with st := 4, resume := .restoring, curts := [bareCurtain] }).modPlat fun p => { p with onQuads := [0] }
     (s.slot 0).resume = .restoring ∧ s.quadsWaking 0 = false ∧ (s.slot 0).curts[(s.slot 0).curtain]? = some bareCurtain) ∧
    ((slotIs { aSlot with resume := .deciding }).slot 0).resume = .deciding ∧ ((slotIs { aSlot with st := 5 }).slot 0).st = 5 ∧
    ((slotIs aSlot).slot 0).st < 5 ∧ ((slotIs aSlot).slot 0).polite = none ∧
    (let s := slotIs { aSlot with polite := some 3 }; (s.slot 0).polite ≠ none ∧ (s.slot 0).due = none) := by decide +kernel

/-- A fatal fault of F at tc 3. -/
def aFault (k : FaultKind) : FaultRec := ⟨k, 0, 0, 0, 3, 0, 0, 0, 0, [], none, none⟩

theorem wit_FaultEvents :
    (let x := (slotIs { aSlot with fatal := some (aFault .pointer), stopTc := 9 }).slot 0
     x.fatal = some (aFault .pointer) ∧ x.stopDue = true) ∧
    ((slotIs aSlot).slot 0).stopDue = false ∧
    (let x := (slotIs { aSlot with prevPt := 3, curDistNow := 5 }).slot 0; x.st = 2 ∧ x.tc = x.prevPt + x.curDistNow + 1) ∧
    (let s := slotIs (holdingOn none)
     (s.slot 0).live = true ∧ (s.slot 0).held.isSome = true ∧ max (s.slot 0).holdwd 1024 ≤ (s.slot 0).wdog ∧ s.releasable 0 = false ∧
      (s.slot 0).fatal = none ∧ (s.slot 0).kill = none) ∧
    ((slotIs aSlot).slot 0).live = true ∧ (((slotIs aSlot).slot 0).members.find? fun c => ((slotIs aSlot).core c).rank == 0) = some 0 ∧
    (let s := sent [anAccess .read 1 0x1000]; (s.outs.all fun a => !s.onPath 3 0 a && a.st != .lost) = true ∧ (s.viewers.all fun m => (s.slot m).colls.isEmpty) = true ∧
      s.membersOf 5 = [] ∧ inRange 0x1000 (0x1000, [(7 : Byte)].length) = true) ∧
    (sent [anAccess .store 1 0x1000]).access 1 = some (anAccess .store 1 0x1000) ∧ AccKind.store ≠ .read ∧
    (sent [anAccess .read 1 0x1000]).access 1 = some (anAccess .read 1 0x1000) ∧ ((sent []).slot 0).markAt 0x1000 ⟨5, 0⟩ = none ∧
    ((slotIs { aSlot with st := 3 }).slot 0).st = 3 ∧ ((slotIs { aSlot with st := 4, resume := .restoring }).slot 0).resume = .restoring := by decide +kernel

theorem wit_FaultEvents_log :
    let x := (slotIs { aSlot with faults := [⟨7, 0, 65536, .read⟩] }).slot 0
    (x.st = 2 ∨ x.st = 3) ∧ x.faults.any (fun e => e.seq == 7) = true ∧ (7 : Nat) < 65536 ∧ ((slotIs { aSlot with st := 4 }).slot 0).st = 4 := by
  decide +kernel

theorem wit_MemoryEvents :
    (let s := sent [anAccess .read 2 0x1000]
     s.access 2 = some (anAccess .read 2 0x1000) ∧ (anAccess .read 2 0x1000).coll = none ∧ s.fenced (anAccess .read 2 0x1000) = false ∧ s.atomAhead (anAccess .read 2 0x1000) = false ∧
      Memory.wf s.dev = true) ∧
    (let b := { anAccess .read 2 0x1000 with fences := 1 }
     let s := sent [anAccess .store 1 0x2000, b]
     s.access 2 = some b ∧ s.fenced b = true) ∧
    (let s := sent [anAccess .store 2 0x1000]
     let a := anAccess .store 2 0x1000
     s.access 2 = some a ∧ s.storeAhead a = false ∧ s.fenced a = false ∧ s.doubtful a = false ∧ s.awayOffer a = false) ∧
    (let s := sent [anAccess .store 1 0x2000, anAccess .store 2 0x1000]
     s.access 2 = some (anAccess .store 2 0x1000) ∧ s.storeAhead (anAccess .store 2 0x1000) = true) ∧
    (let s := sent [anAccess .atomic 2 0x1000]
     let a := anAccess .atomic 2 0x1000
     s.access 2 = some a ∧ s.storeAhead a = false ∧ s.fenced a = false ∧ s.doubtful a = false) ∧
    (let b := { anAccess .atomic 2 0x1000 with fences := 1 }
     let s := sent [anAccess .read 1 0x2000, b]
     s.access 2 = some b ∧ s.storeAhead b = false ∧ s.fenced b = true) ∧
    (let s := sent [anAccess .store 1 0x2000, anAccess .atomic 2 0x1000]
     s.storeAhead (anAccess .atomic 2 0x1000) = true) ∧
    (let b := { anAccess .read 2 0x1000 with issue := { Stream.reset.now with tc := 8 } }
     let s := (sent [anAccess .atomic 1 0x1000, b]).modSlot 0 fun x => { x with bounds := [⟨6, 2, 0⟩] }
     s.access 2 = some b ∧ s.atomAhead b = true) := by decide +kernel

/-- An access that names no collective and no marked sector is within its engines' reach. -/
theorem wit_MemoryEvents_reach :
    let a := anAccess .store 2 0x1000
    let s := sent [a]
    s.collReach a false = .ok s ∧ s.enginesReach a = .ok s := ⟨rfl, rfl⟩

/-- A store of another package, where the set's packages are not given or no configuration is loaded. -/
theorem wit_MemoryEvents_peer :
    let s := sent []
    (s.slot 0).pkgs[1]? = none ∧ s.plat.caps = false ∧ s.markedHomes 0 (homeKey 0 0 0x1000) 8 ⟨5, 0⟩ = [] ∧
      (let u := s.modPlat fun p => { p with caps := true, hdm := [(1, (0x1000, 0x1000))] }
       s.plat.hdmHolds 1 0x1000 8 = true ∧ u.plat.hdmHolds 1 0x1FF8 8 = true ∧ u.plat.hdmHolds 1 0x1FF9 8 = false ∧ Memory.wf s.dev = true) := by decide +kernel

theorem wit_MemoryEvents_walk :
    let s := sent []
    s.tlbHit 0 (s.core 0).slot 0x1000 = none ∧ (s.outs.all fun a => a.core != 0) = true ∧ (s.outs.all fun a => !(a.slot == 0 && a.id == 1)) = true ∧
      (let u := { sent [{ anAccess .read 1 0x1000 with st := .walk }] with uid := 2 }
       u.outs.filter (fun a => a.slot == 0 && a.st == .walk && a.id == 1) = [{ anAccess .read 1 0x1000 with st := .walk }]) := by decide +kernel

/-- Supervisor core 0 with a migration 2 in progress or not. -/
def migrating (ctl : Word) (moved : List (Nat × Nat)) : State :=
  onSup { runningSup with migctl := Map.set [] 2 ctl, migtlbi := Map.set [] 2 migMay, moved := moved } 0 []

theorem wit_MemoryEvents_migration :
    (Map.get ((migrating 0 []).core (768 + 0)).sup.migctl 2).getLsbD 1 = false ∧
      Map.wf ((migrating 0 []).core (768 + 0)).sup.migctl = true ∧ Map.wf ((migrating 0 []).core (768 + 0)).sup.migtlbi = true ∧
      (Map.get ((migrating 2 []).core (768 + 0)).sup.migctl 2).getLsbD 1 = true ∧
      ((migrating 2 [(2, 5)]).core (768 + 0)).sup.moved.contains (2, 5) = true ∧ ((migrating 2 []).core (768 + 0)).sup.moved.contains (2, 5) = false ∧
      Map.get ((migrating 2 []).core (768 + 0)).sup.migtlbi 2 = migMay ∧ (migrating 2 []).plat.frozen.contains (16 + 0 / 2) = false ∧
      ((migrating 2 []).core (768 + 0)).sup.nextLine 2 = some 0 ∧ ((migrating 2 []).core (768 + 0)).sup.bad.contains (2, 0) = false ∧
      (let s := (migrating 2 []).modCore 768 fun x => { x with sup := { x.sup with bad := [(2, 5)] } }
       (s.core (768 + 0)).sup.bad.contains (2, 5) = true) := by decide +kernel

/-- A copy engine within its caps, and one that is frozen. -/
theorem wit_MemoryEvents_copy :
    (let s := migrating 2 []; s.migReach 768 2 0 = .ok s) ∧
    let s := (migrating 2 []).modPlat fun p => { p with frozen := [16] }
    s.migReach 768 2 0 = .error s := ⟨rfl, rfl⟩

/-- Page tables at 0x100000 that map the first GiB of the cohort's space, writable (R357, R358). -/
def mapped (s : State) : State :=
  { (s.modSlot 0 fun x => { x with groot := 0x100000 }) with
    dev := put [] [(0x100000, 8, 0x101001), (0x101000, 8, 0x102001), (0x102000, 8, 0x40000007)] }

theorem wit_MemoryEvents_leaf :
    let s := mapped (sent [])
    s.tlbHit 0 (s.core 0).slot 0x1000 = none ∧ s.walk (s.slot (s.core 0).slot) 0x1000 = .leaf 0x40000007 0 0x40000000 := by decide +kernel

/-- A phased element whose bytes are mapped, with an atomic of them under way or not. -/
theorem wit_LoadPieces_settled :
    let s := mapped (holding 1 (tensor (pGlob 0x1000) 0 64))
    let els : List Elem := [⟨0, [0, 0, 0, 0], [(0x1000, 4)]⟩]
    s.settledRead els = true ∧ (s.readPhased [] s.cur.1 (s.my.writeTc 9) els).isSome = true ∧
      { s with outs := [anAccess .atomic 1 0x1000] }.settledRead els = false := by decide +kernel

/-- R357 and R358: the translation that a walk finds serves the core's next access. -/
theorem test_walk :
    (match execTranslationWalk 0 0x1000 false (mapped (sent [])) with
     | .next t => t.tlbHit 0 0 0x3FFFFFFF == some ⟨0, false, 0, 0x40000000, 0x40000007⟩
     | _ => false) = true := by decide +kernel

/-- A 1 GiB leaf of the host tier and one on package 5 (R358, R371). -/
def away (leaf : Nat) (s : State) : State := { mapped s with dev := Map.setRun (mapped s).dev 0x102000 (leBytes 8 leaf) }

theorem wit_FaultEvents_link :
    let a := anAccess .read 1 0x1000
    let s := away (2 ^ 60 + 0x40000007) (sent [a])
    let u := away (2 * 2 ^ 60 + 5 * 2 ^ 54 + 0x40000007) (sent [a])
    s.viewers = [0] ∧ (s.slot 0).colls = [] ∧ s.outs = [a] ∧ a.slot = 0 ∧ a.coll = none ∧ a.st = .sent ∧ s.onPath 1 0 a = true ∧
      u.onPath 3 5 a = true ∧ u.onPath 3 4 a = false ∧ (mapped (sent [a])).onPath 1 0 a = false := by decide +kernel

/-- A read of a PROTECTED range of group 3, whose group is as given. -/
def protectedRead (a : Access) (x : Group) : State :=
  ((mapped (sent [a])).modSlot 0 fun x => { x with grpOf := [(2, 3)], marks := [⟨2, 0x10000, 0x10000, true, ⟨0, 0⟩, 0, none⟩] }).modGroup 3 fun _ => x

theorem wit_MemoryEvents_repair :
    let a := anAccess .read 2 0x10100
    let x : Group := { Group.reset with gcfg := 0x1000000240001, gwin := 0x10001, st := 2 }
    let s := protectedRead a x
    let p := a.first - BitVec.ofNat 64 (ptrOff a.first % 256)
    let off := fun (x : Group) => ptrOff p - x.window.1
    (s.access a.id = some a ∧ a.st = .sent ∧ a.parts.flatMap (fun r => lineStarts r.1 r.2.length) = [0x10100] ∧ (s.slot a.slot).markAt a.first a.keyTc = some ⟨2, 0x10000, 0x10000, true, ⟨0, 0⟩, 0, none⟩ ∧
      s.group (Tbl.get 0 (s.slot a.slot).grpOf 2) = x ∧ (s.keyFor a.pages a.core a.slot p).isSome = true ∧ off x = 0x100) ∧
    (({ x with st := 4 } : Group).st = 4 ∧ ({ x with lostmap := 2 } : Group).m ≤ ({ x with lostmap := 2 } : Group).lost.length ∧
      x.st ≠ 4 ∧ ¬x.m ≤ x.lost.length ∧ x.lost = [] ∧ x.self < x.k ∧ x.deltas = []) ∧
    (let y : Group := { x with deltas := [⟨2, 0x1FF, aFault .round⟩] }; ∃ d ∈ y.deltas, off y ≤ d.off ∧ d.off < off y + 256) := by
  refine ⟨by decide +kernel, by decide +kernel, _, List.Mem.head _, by decide +kernel⟩

/-! ## What the statements suppose: groups, registers, platform, boot -/

/-- A group of two data members and one parity member, as member `self`. -/
def aGroup (self : Nat) : Group :=
  { Group.reset with gcfg := BitVec.ofNat 64 (2 ^ 48 + self * 2 ^ 28 + 2 * 2 ^ 20 + 2 ^ 18 + 1), st := 1, gmem0 := 0x2040, gdom := 0x210, gwin := 1 }

/-- The package with group 3 as given. -/
def inGroup (x : Group) : State := State.reset.modGroup 3 fun _ => x

/-- A cohort that holds the group, with its round prepared and not settled. -/
def heldGroup (x : Group) : State := (inGroup x).modSlot 0 fun _ => { aSlot with grpOf := [(2, 3)], rounds := [(2, preparedAt5 none)] }

/-- With no configuration loaded the wall is open and the parity engine reaches its log and its parity; it may be frozen. -/
theorem wit_GroupEvents_reach :
    (let s := (inGroup (aGroup 2)).modPlat fun p => { p with ppend := 1 }
     s.plat.wallOpen (s.group 3).die ((s.group 3).package 1) = true ∧ s.plat.frozen.contains parityMaster = false ∧ s.plat.caps = false ∧
      (s.modPlat fun p => { p with frozen := [parityMaster] }).plat.frozen.contains parityMaster = true) ∧
    (let s := (inGroup (aGroup 2)).modPlat fun p => { p with ppend := 1 }
     s.logReach (s.group 3).die s.plat.ppend (s.plat.pend.map (·.at_)) = .ok s ∧ s.foldReach 3 1 = .ok s) := by
  refine ⟨by decide +kernel, ?_, rfl⟩
  simp only [State.logReach]
  split
  · exact wit_reach _ _ _ _ _ _ rfl rfl
  · rfl

theorem wit_GroupEvents :
    State.reset.byGid 1 = none ∧
    (let s := inGroup { aGroup 0 with st := 0, agreed := [0] }
     let x := s.group 3
     s.byGid 1 = some 3 ∧ (2 : Nat) < x.k + x.m ∧ (2 : Nat) ≠ x.self ∧ x.st = 0 ∧ x.agreed.contains 2 = false ∧ ¬x.k ≤ x.self ∧
      ({ x.config with lastc := 9 } : GroupCfg) ≠ x.config) ∧
    (let s := (inGroup (aGroup 2)).modPlat fun p => { p with ppend := 1 }
     s.byGid 1 = some 3 ∧ (1 : Nat) ≠ (s.group 3).self ∧ (s.group 3).k ≤ (s.group 3).self ∧ Memory.wf s.dev = true ∧
      freePlace s.plat.ppend (s.plat.pend.map (·.at_)) = some 0 ∧
      freePlace (inGroup (aGroup 2)).plat.ppend ((inGroup (aGroup 2)).plat.pend.map (·.at_)) = none) ∧
    (let e : Delta := ⟨2, 64, aFault .round⟩
     let x : Group := { aGroup 1 with deltas := [e] }
     x.deltas.find? (fun e => e.member == 2 && e.off == 64) = some e ∧ (heldGroup x).holder 3 = some (0, 2)) := by decide +kernel

theorem wit_GroupEvents_rounds :
    (let x := aGroup 0
     (x.round = 1 ∧ x.notices.contains 1 = false ∧ x.doomed = false ∧ x.coordinates = true ∧ x.decided = false ∧ x.rst ≠ 3) ∧
      (aGroup 1).coordinates = false ∧ (2 : Nat) ≠ x.round ∧ { x with st := 2 : Group }.st ≠ 1 ∧ x.st = 1) ∧
    (let s := heldGroup { aGroup 1 with rst := 2 }
     (s.group 3).rst = 2 ∧ (s.group 3).rst ≠ 0 ∧ ((s.slot 0).round 2).st ≠ .idle ∧ ((s.slot 0).round 2).settled = none ∧ (aGroup 1).rst = 0) ∧
    (let x : Group := { aGroup 0 with rst := 3, notices := [0] }
     x.coordinates = true ∧ x.doomed = false ∧ x.decided = false ∧ x.rst = 3 ∧ (∀ j ∈ x.liveData, j ∈ x.notices ∨ j = 1) ∧ ∃ j ∈ x.liveParity, j ∉ x.acks) ∧
    (let x : Group := { aGroup 0 with rst := 3, notices := [0, 1], decided := true }
     x.coordinates = true ∧ x.doomed = false ∧ x.decided = true ∧ ∀ j ∈ x.liveParity, j ∈ x.acks ∨ j = 2) ∧
    ((aGroup 2).k ≤ (aGroup 2).self ∧ ({ aGroup 2 with lastc := 1 } : Group).lastc.toNat = 1 ∧ (aGroup 2).lastc.toNat ≠ 1) ∧
    (let s := heldGroup { aGroup 1 with rst := 3 }
     ¬(s.group 3).k ≤ (s.group 3).self ∧ (s.group 3).round = 1 ∧ 2 ≤ (s.group 3).rst ∧ (s.group 3).decided = false ∧ s.holder 3 = some (0, 2) ∧
      ((s.slot 0).round 2).st ≠ .idle ∧ ((s.slot 0).round 2).settled = none) := by
  decide +kernel

theorem wit_GroupEvents_losses :
    (let x : Group := { aGroup 0 with answers := [(0, false)] }
     x.answers ≠ [] ∧ x.round = 1 ∧ x.answers.any (fun a => a.1 == 1) = false ∧
      (2 < x.k + x.m ∧ x.lostmap.getLsbD 2 = false ∧ 2 ≠ 1 ∧ x.answers.any (fun a => a.1 == 2) = false) ∧ ∀ a ∈ x.answers, a.2 = false) ∧
    (let x : Group := { aGroup 0 with answers := [(0, false), (2, false)] }
     ∀ i < 3, x.lostmap.getLsbD i = false → i = 1 ∨ x.answers.any (fun a => a.1 == i) = true) ∧
    (let x := (inGroup (aGroup 0)).group 3
     x.gcfg.getLsbD 0 = true ∧ x.st ≠ 0 ∧ x.lostmap.getLsbD 2 = false ∧ (2 : Nat) ≠ x.self ∧ (2 : Nat) < x.k + x.m ∧ ¬(3 : Nat) < x.k + x.m) ∧
    ((inGroup { aGroup 0 with lostmap := 4 }).group 3).lostmap.getLsbD 2 = true ∧
    (let x := (inGroup { aGroup 0 with st := 3, lostmap := 4, gmem1 := BitVec.ofNat 64 (2 ^ 42 + 9 * 2 ^ 36) }).group 3
     x.st = 3 ∧ x.lostmap.getLsbD 2 = true ∧ (inGroup x).isSpare 3 ⟨2, [], 0, 0⟩ = false ∧ ({ aGroup 0 with st := 0 } : Group).st = 0) := by decide +kernel

/-- The package as the spare that stands for lost member 2: its parity in reach of its engine. -/
theorem wit_GroupEvents_spare :
    (let s := inGroup { aGroup 2 with gmem1 := BitVec.ofNat 64 (2 ^ 42) }
     s.isSpare 3 ⟨2, [⟨0, 0, 0, 0⟩], 4, 7⟩ = true ∧ (2 : Nat) < 16 ∧ s.plat.frozen.contains parityMaster = false ∧ Memory.wf s.dev = true) ∧
    (let s := inGroup { aGroup 2 with gmem1 := BitVec.ofNat 64 (2 ^ 42) }
     s.capAccess parityMaster 0 ((s.group 3).parityKey 0) 64 true = .ok s) := ⟨by decide +kernel, rfl⟩

theorem wit_RegisterEvents :
    (let s := State.reset.modPlat fun p => { p with caplim := 0x40000, caps := true }
     State.reset.plat.caps = false ∧ s.plat.caps = true ∧ (s.plat.caplim.extractLsb' 16 4).toNat < ((5 : Word).extractLsb' 0 4).toNat ∧
      ((4 : Word).extractLsb' 0 4).toNat ≤ (s.plat.caplim.extractLsb' 16 4).toNat) ∧
    Map.wf (State.reset.core (768 + 2)).sup.watch = true ∧ (State.reset.core (768 + 2)).sup.waiting = [] ∧
    State.reset.groupsOff = true ∧ (inGroup (aGroup 0)).groupsOff = false ∧ ((inGroup (aGroup 0)).group 3).gcfg.getLsbD 0 = true ∧
    (((0x6E64 : Word).extractLsb' 8 8).toNat + 3 < (State.reset.thermal 1).thc ∧ ((0x6E64 : Word).extractLsb' 0 8).toNat + 3 < ((0x6E64 : Word).extractLsb' 8 8).toNat) ∧
    ¬((0x7364 : Word).extractLsb' 8 8).toNat + 3 < (State.reset.thermal 1).thc := by decide +kernel

theorem wit_RegisterEvents_groups :
    (let x := { aGroup 0 with gcfg := 0 }
     x.gcfg.getLsbD 0 = false ∧ { x with gcfg := (0 : Word) &&& 0xFFFF0000F0FC0001 : Group }.enableOk = false ∧
      { x with gcfg := (0x1000000240001 : Word) &&& 0xFFFF0000F0FC0001 : Group }.enableOk = true ∧ State.reset.plat.configs = []) ∧
    ((inGroup { aGroup 0 with rst := 1 }).group 3).rst ≠ 0 ∧ ((inGroup (aGroup 0)).group 3).rst = 0 ∧
    (let x := aGroup 0
     (x.gcfg &&& 0xFFFFFFFFFFFFFFFE) &&& 0xFFFF0000F0FC0000 = x.gcfg &&& 0xFFFF0000F0FC0000 ∧ (0 : Word) &&& 0xFFFF0000F0FC0000 ≠ x.gcfg &&& 0xFFFF0000F0FC0000) ∧
    plain.busyQuads.contains 0 = true ∧ plain.busyQuads.contains 1 = false ∧ Map.wf plain.plat.afence = true ∧
    plain.fencedBits 0 &&& (2 : Word).extractLsb' 0 16 = 0 ∧
    (let s := plain.modPlat fun p => { p with afence := Map.set [] 0 (2 : BitVec 16) }
     s.fencedBits 0 &&& (2 : Word).extractLsb' 0 16 ≠ 0 ∧ s.busyQuads.contains 0 = true) ∧
    State.reset.plat.frozen.contains parityMaster = false := by decide +kernel

theorem wit_PlatformEvents :
    (let s := plain.modPlat fun p => { p with afence := Map.set [] 0 (2 : BitVec 16) }
     let bad := fun b : BitVec 4 => b &&& ~~~((s.fencedBits 0).extractLsb' 0 4)
     bad 2 = 0 ∧ bad 3 ≠ 0 ∧ ((s.slot (s.core 0).slot).live && (s.slot (s.core 0).slot).members.contains 0) = true ∧
      ((s.slot (s.core 9).slot).live && (s.slot (s.core 9).slot).members.contains 9) = false ∧ (s.core 0).holds (s.slot 0).tc false = false ∧
      (s.core 0).arr.report = false ∧ ((s.modCore 0 fun x => { x with arr := { x.arr with report := true } }).core 0).arr.report = true ∧
      ((s.modCore 0 fun x => { x with arr := { x.arr with held := [⟨5, 20, none⟩] } }).core 0).holds (s.slot 0).tc false = true ∧
      Map.wf s.plat.afence = true ∧ s.plat.droops.contains 0 = false ∧ s.inReset (dieOf 0) = false) ∧
    (plain.modPlat fun p => { p with droops := [0] }).plat.droops.contains 0 = true ∧ (2 < laneKind 0x300000 ∧ laneKind 0x20001 ≤ 2 ∧ plain.inReset 3 = false) ∧
    plain.sliceWaits 1 5 = false ∧
    (let s := plain.modPlat fun p => { p with slices := [⟨1, 0x20001, false, none, false⟩] }
     s.sliceWaits 1 0x20001 = true ∧ s.sliceCohorts 1 0x20001 = [] ∧ (s.plat.slices.any fun e => e.onLink 1 0x20001 && e.active) = false ∧
      s.sliceFrom 1 0x20001 ≤ s.clock) ∧
    (let s := plain.modPlat fun p => { p with slices := [⟨1, 0x20001, true, none, false⟩] }
     (s.plat.slices.any fun e => e.die == 1 && e.lane == 0x20001 && e.active) = true) := by decide +kernel

theorem wit_PlatformEvents_power :
    (let r : Inrush := ⟨1, 0, 5, 0, 0⟩
     let s := plain.modPlat fun p => { p with arrivals := [r] }
     let u := plain.modPlat fun p => { p with waking := [r], units := 8 }
     s.plat.fifo = [] ∧ s.plat.arrivals = [r] ∧ s.plat.units + inrushCost r ≤ 16 ∧ u.plat.units + inrushCost r ≤ 16 ∧ plain.plat.waking.contains r = false ∧
      u.plat.waking.contains r = true ∧ u.plat.fifo = [] ∧ r.kind = 1) ∧
    (plain.quadHolder 0 = some 0 ∧ (plain.slot 0).live = true ∧ (∀ r ∈ (plain.slot 0).reqs, r.cause = .platform 2000 → r.cleared ≠ none) ∧
      (List.replicate 12 (250 : Int)).length = 12) ∧
    plain.plat.boot.step ≠ 4 ∧ (plain.thermal 0).wanted = (plain.thermal 0).zone ∧
    (let s := { (plain.modPlat fun p => { p with temps := [(0, { Thermal.reset with reading := 1200 })] }) with ns := 2000000 }
     (s.thermal 0).wanted ≠ (s.thermal 0).zone ∧ (s.thermal 0).since + 1000000 ≤ s.ns) ∧
    (slotIs { aSlot with lease := some ⟨3, 100⟩ } |>.slot 0).lease = some ⟨3, 100⟩ ∧ (100 : Nat) ≠ 99 ∧
    ((slotIs { aSlot with resume := .restoring }).slot 0).resume = .restoring ∧
    ((slotIs aSlot).slot 0).resume ≠ .restoring ∧ ((slotIs aSlot).slot 0).nextAcq = none := by decide +kernel

/-- A cohort at level 8, at the frequency of a level, held at tc 9 where a request of a tag stands. -/
def tuned (level tag : Nat) : Slot :=
  { aSlot with freq := 48 + 2 * level, opened := false, held := some 3, reqs := [⟨9, .platform tag, none⟩], acqs := [(12, 3, false)] }

theorem wit_PlatformEvents_tuning :
    (let s := slotIs (tuned 8 1)
     let x := s.slot 0
     x.resume ≠ .restoring ∧ x.nextAcq = some (12, 3) ∧ s.freqGranted 0 3 ≠ x.freq ∧ s.freqGranted 0 8 = x.freq ∧ x.live = true ∧ x.tuning = none ∧
      x.stillFor 1 = true ∧ x.stillFor 2 = false ∧ x.freq = 48 + 2 * min (s.levelInForce 0) 15) ∧
    (let s := slotIs (tuned 5 1); (s.slot 0).freq ≠ 48 + 2 * min (s.levelInForce 0) 15) ∧
    (slotIs { tuned 5 1 with tuning := some 1 } |>.slot 0).tuning = some 1 ∧ ¬((State.reset.slot 0).live = true ∨ (State.reset.slot 0).st = 1) := by decide +kernel

/-- The boot chain as given. -/
def booting (b : Boot) : State := State.reset.modPlat fun p => { p with boot := b }

theorem wit_BootEvents :
    (3 ≤ (booting { Boot.reset with starts := 3 }).plat.boot.starts) ∧ Boot.reset.starts < 3 ∧
      (booting { Boot.reset with step := 6 }).plat.boot.step = 6 ∧ Boot.reset.step ≠ 6 ∧ Boot.reset.step ≠ 4 ∧
      (let s := { (booting { Boot.reset with step := 4 }) with clock := 2100000000000 }.setCold 7 ⟨3, some 0, true⟩
       s.plat.boot.step = 4 ∧ (7 : Nat) < 8 ∧ s.coldOf 7 = ⟨3, some 0, true⟩ ∧ 0 + 2100000000000 ≤ s.clock) ∧
      (let s := booting { Boot.reset with boxes := [(1, { Mailbox.reset with payload := List.replicate 32 1 })] }
       (s.mailbox 1).payload.length = 32 ∧ (s.mailbox 0).payload.length ≠ 32) ∧
      (let s := (booting Boot.reset).modPlat fun p => { p with frozen := [3], flog := [⟨1, 3, 1, 0, true⟩] }
       let fn := 1
       (s.plat.freezeLog fn)[leNat (s.mailbox fn).payload]? = some ⟨1, 3, 1, 0, true⟩ ∧ (⟨1, 3, 1, 0, true⟩ : Freeze).live = true ∧
        (s.plat.freezeLog (fn + 1))[leNat (s.mailbox (fn + 1)).payload]? = none) ∧
      (0 : Nat) ∈ (State.reset.partition 0).2 ∧ (State.reset.partition 0).1.contains (dieOf 95) = true ∧ (State.reset.partition 1).2 = [] ∧
      ([1, 2, 3, 4, 5, 6].all fun op => let s := booting { Boot.reset with boxes := [(0, { Mailbox.reset with opcode := BitVec.ofNat 16 op })] }
        (s.mailbox s.caller).opcode.toNat == op) = true ∧ Mailbox.reset.opcode.toNat = 0 ∧ Boot.reset.mr.length = 8 := by
  decide +kernel

/-- Whatever a signature is (log entry 17), a restart meets one of the two clauses about it, and so does a start the clauses about firmware. -/
theorem wit_BootEvents_signed (b : Boot) (x : Mailbox) (n : BitVec 256) (h : x.nonce = some n) :
    (((keySlot x.payload).isSome = true ∧ signedFor x.payload (leBytes 32 n.toNat) = true) ∨
      (∀ n, x.nonce = some n → keySlot x.payload = none ∨ signedFor x.payload (leBytes 32 n.toNat) = false)) ∧
      (firmwareReason b.firmware = 0 ∧ (configOk b.nextConfig = true ∨ configOk b.nextConfig = false) ∨ firmwareReason b.firmware ≠ 0) := by
  refine ⟨?_, by cases configOk b.nextConfig <;> by_cases h : firmwareReason b.firmware = 0 <;> simp [h]⟩
  rcases hk : keySlot x.payload with _ | k
  · exact .inr fun _ _ => .inl rfl
  · cases hs : signedFor x.payload (leBytes 32 n.toNat)
    · exact .inr fun m hm => .inr (by rw [h] at hm; injection hm with hm; rwa [← hm])
    · exact .inl ⟨rfl, rfl⟩

theorem wit_ArbiterKept : State.reset.arbiterOk ∧ step State.reset = execTcAdvance State.reset := ⟨⟨by decide, by decide, by decide, nofun⟩, rfl⟩

theorem wit_CapsKept : State.reset.agenda.1 ≠ .event .reset ∧ (match step State.reset with | .next _ => true | _ => false) = true := by decide +kernel

/-! ## Worked examples of the spec, and whole steps -/

/-- The conversions of spec/03_numbers.md: above a tie, and on it. -/
theorem test_bf16 :
    (convert 0 1 (val32 0x3F808001)).1 = 0x3F81 ∧ (convert 0 1 (val32 0x3F808000)).1 = 0x3F80 := by decide +kernel

/-- The reduction tree's example of spec/03_numbers.md: 2^24 and seven ones give 16,777,222. -/
theorem test_tree :
    tree (fun x y => (fadd x y).1) 3 [0x4B800000, 0x3F800000, 0x3F800000, 0x3F800000, 0x3F800000, 0x3F800000, 0x3F800000, 0x3F800000] =
      [0x4B800003] := by decide +kernel

/-- R138 and R148: a zeroed word is the fatal illegal-instruction fault 0x10. -/
theorem test_step_zero : faulted (step (texted 0)) = some (.illegal, 0x10) := by decide +kernel

/-- R144: a privileged word on a cohort, a word of V on C, and a register outside its space. -/
theorem test_step_illegal :
    [faulted (step (texted (0xFD <<< 46))), faulted (step (texted (0x80 <<< 46))), faulted (step (texted (0x28 <<< 46 ||| 1)))] =
      [some (.illegal, 0x11), some (.wrongStream, 0x12), some (.illegal, 0x13)] := by decide +kernel

/-- `LI s1, -1` is on its way after its step and read after two clocks (R157, R163). -/
theorem test_step_li :
    wrote (step (fetching (word 0x15 (0#2 ++ 1#7 ++ 0#5 ++ 0xFFFFFFFF#32) &&& 0x003FFFFFFFFFFFFF))) = some (1, 1, -1) := by decide +kernel

/-- R146's example word: OFMT LNS6, TQ, QMODE 1, headroom 1, XSEAL 2, STALE. -/
theorem test_format_word :
    let w : Word := 0x005000000A010280
    wOfmt w = 5 ∧ wTq w = true ∧ wQmode w = 1 ∧ wQexp w = 1 ∧ wXseal w = 2 ∧ wStale w = true := by decide +kernel

end Sys2Proof.Tests
end

section
/-! SUPPORT. Scalar division, immediates and bit fields: what `State.alu` does under either guard, the quotient and the remainder of R162
as those of words, and the bits of masks, fields and sign extensions (spec/08_isa_control.md R162 to R164). -/

namespace Sys2Proof.Machine

/-! ## The guard of scalar results -/

theorem State.alu_of_guard {s : State} (hg : s.guard = true) (f : Rrr) (lat : Nat) (op : Word → Word → Word) :
    s.alu f lat op = s.landS f.rd (s.tc + lat) (op (s.rs f.ra) (s.rs f.rb)) := if_pos hg

theorem State.alu_of_not_guard {s : State} (hg : s.guard = false) (f : Rrr) (lat : Nat) (op : Word → Word → Word) :
    s.alu f lat op = s :=
  if_neg (Bool.eq_false_iff.mp hg)

theorem exec_div (h : Hdr) (f : Rrr) (s : State) : exec (.div h f) s = .next (s.alu f 20 (quot (f.md.getLsbD 0))) := rfl

theorem exec_rem (h : Hdr) (f : Rrr) (s : State) : exec (.rem h f) s = .next (s.alu f 20 (remn (f.md.getLsbD 0))) := rfl

/-! ## Quotient and remainder -/

theorem quot_by_zero (signed : Bool) (a : Word) : quot signed a 0 = 0xFFFFFFFFFFFFFFFF := rfl

theorem remn_by_zero (signed : Bool) (a : Word) : remn signed a 0 = a := rfl

theorem quot_unsigned {a b : Word} (hb : b ≠ 0) : quot false a b = a / b :=
  (if_neg hb).trans BitVec.udiv_def.symm

theorem remn_unsigned {a b : Word} (hb : b ≠ 0) : remn false a b = a % b :=
  (if_neg hb).trans BitVec.umod_def.symm

theorem quot_signed {a b : Word} (hb : b ≠ 0) : quot true a b = a.sdiv b := by
  have hq : quot true a b = BitVec.ofInt 64 (a.toInt.tdiv b.toInt) := if_neg hb
  exact BitVec.eq_of_toInt_eq (by rw [hq, BitVec.toInt_ofInt, BitVec.toInt_sdiv])

theorem remn_signed {a b : Word} (hb : b ≠ 0) : remn true a b = a.srem b := by
  have hr : remn true a b = BitVec.ofInt 64 (a.toInt.tmod b.toInt) := if_neg hb
  rw [hr, ← BitVec.toInt_srem, BitVec.ofInt_toInt]

/-- The one quotient that no word holds, −2^63 by −1 (R162). -/
def quotOverflows (a b : Word) : Prop := a.toInt = -2 ^ 63 ∧ b.toInt = -1

theorem quotOverflows_iff (a b : Word) : quotOverflows a b ↔ a = BitVec.intMin 64 ∧ b = -1#64 := by
  have ha : (BitVec.intMin 64).toInt = -2 ^ 63 := by decide
  have hb : (-1#64).toInt = -1 := by decide
  rw [quotOverflows, ← ha, ← hb, BitVec.toInt_inj, BitVec.toInt_inj]

theorem quot_of_overflows {a b : Word} (ho : quotOverflows a b) : (quot true a b).toInt = -2 ^ 63 ∧ remn true a b = 0 := by
  obtain ⟨rfl, rfl⟩ := (quotOverflows_iff a b).mp ho
  decide

theorem toInt_quot_signed {a b : Word} (hb : b ≠ 0) (ho : ¬quotOverflows a b) : (quot true a b).toInt = a.toInt.tdiv b.toInt := by
  rw [quot_signed hb]
  refine BitVec.toInt_sdiv_of_ne_or_ne a b ?_
  rwa [quotOverflows_iff, Classical.not_and_iff_not_or_not] at ho

theorem toInt_remn_signed {a b : Word} (hb : b ≠ 0) : (remn true a b).toInt = a.toInt.tmod b.toInt := by
  rw [remn_signed hb, BitVec.toInt_srem]

/-- A signed remainder is zero or has the sign of the dividend (R162). -/
theorem remn_signed_sign {a b : Word} (hb : b ≠ 0) : remn true a b = 0 ∨ ((remn true a b).toInt < 0 ↔ a.toInt < 0) := by
  have hs := Int.sign_tmod a.toInt b.toInt
  rw [← toInt_remn_signed hb] at hs
  split at hs
  · exact .inl (BitVec.eq_of_toInt_eq (Int.sign_eq_zero_iff_zero.mp hs))
  · exact .inr (by rw [← Int.sign_eq_neg_one_iff_neg, hs, Int.sign_eq_neg_one_iff_neg])

theorem toInt_remn_eq_sub {a b : Word} (hb : b ≠ 0) (ho : ¬quotOverflows a b) :
    (remn true a b).toInt = a.toInt - b.toInt * (quot true a b).toInt := by
  rw [toInt_remn_signed hb, toInt_quot_signed hb ho, Int.tmod_def]

theorem toNat_quot_unsigned {a b : Word} (hb : b ≠ 0) : (quot false a b).toNat = a.toNat / b.toNat := by
  rw [quot_unsigned hb, BitVec.toNat_udiv]

theorem toNat_remn_eq_sub {a b : Word} (hb : b ≠ 0) : (remn false a b).toNat = a.toNat - b.toNat * (quot false a b).toNat := by
  rw [remn_unsigned hb, toNat_quot_unsigned hb, BitVec.toNat_umod, Nat.mod_eq_sub]

/-- Settles O14, case by case along R162's table. -/
theorem division : Obligations.Division := by
  unfold Obligations.Division
  intro h f s a b
  refine ⟨⟨_, exec_div h f s, fun hg => s.alu_of_not_guard hg ..⟩, ⟨_, exec_rem h f s, fun hg => s.alu_of_not_guard hg ..⟩, fun hg => ?_⟩
  refine ⟨quot (f.md.getLsbD 0) a b, remn (f.md.getLsbD 0) a b, ?_, ?_, ?_, ?_, ?_, ?_⟩
  · rw [exec_div, State.alu_of_guard hg]
  · rw [exec_rem, State.alu_of_guard hg]
  · intro hb
    rw [hb]
    exact ⟨quot_by_zero .., remn_by_zero ..⟩
  · intro hm ha hb
    rw [hm]
    exact quot_of_overflows ⟨ha, hb⟩
  · intro hm hb ho
    rw [hm]
    exact ⟨toInt_quot_signed hb ho, toInt_remn_eq_sub hb ho, remn_signed_sign hb⟩
  · intro hm hb
    rw [hm]
    exact ⟨toNat_quot_unsigned hb, toNat_remn_eq_sub hb⟩

/-! ## Masks and fields -/

theorem getLsbD_lowMask {n : Nat} (hn : n ≤ 64) (i : Nat) : (lowMask n).getLsbD i = decide (i < n) := by
  rw [lowMask, BitVec.getLsbD_ofNat, Nat.testBit_two_pow_sub_one]
  by_cases hi : i < n
  · rw [decide_eq_true hi, decide_eq_true (Nat.lt_of_lt_of_le hi hn), Bool.and_true]
  · rw [decide_eq_false hi, Bool.and_false]

/-- The low `len` bits from `pos` on (R164). -/
theorem getLsbD_ushiftRight_and_lowMask (a : Word) (pos : Nat) {len : Nat} (hl : len ≤ 64) (i : Nat) :
    (a >>> pos &&& lowMask len).getLsbD i = (decide (i < len) && a.getLsbD (pos + i)) := by
  rw [BitVec.getLsbD_and, BitVec.getLsbD_ushiftRight, getLsbD_lowMask hl, Bool.and_comm]

/-- A left shift moves bit `i - n` to bit `i`. -/
theorem getLsbD_shiftLeft_of_le (w : Word) {n i : Nat} (hi : i < 64) (hn : n ≤ i) : (w <<< n).getLsbD i = w.getLsbD (i - n) := by
  rw [BitVec.getLsbD_shiftLeft, decide_eq_true hi, decide_eq_false (Nat.not_lt.mpr hn), Bool.not_false, Bool.true_and, Bool.true_and]

/-- A sign extension copies bit `n - 1` above the low `n` bits. -/
theorem getLsbD_sextFrom {n : Nat} (h0 : 0 < n) (hn : n ≤ 64) (w : Word) {i : Nat} (hi : i < 64) :
    (sextFrom n w).getLsbD i = w.getLsbD (if i < n then i else n - 1) := by
  rw [sextFrom, BitVec.getLsbD_sshiftRight, decide_eq_false (Nat.not_le.mpr hi), Bool.not_false, Bool.true_and]
  by_cases hin : i < n
  · have hk : 64 - n + i < 64 := by omega
    rw [if_pos hin, if_pos hk, getLsbD_shiftLeft_of_le w hk (Nat.le_add_right ..), Nat.add_sub_cancel_left]
  · have hk : ¬64 - n + i < 64 := by omega
    have hlast : 64 - 1 - (64 - n) = n - 1 := by omega
    rw [if_neg hin, if_neg hk, BitVec.msb_eq_getLsbD_last, getLsbD_shiftLeft_of_le w (by omega) (by omega), hlast]

/-- The bits of `EXT`'s result (R164). -/
theorem getLsbD_extracted (sx : Bool) (a : Word) (pos : Nat) {len : Nat} (h0 : 0 < len) (hl : len ≤ 64) {i : Nat} (hi : i < 64) :
    (if sx then sextFrom len (a >>> pos &&& lowMask len) else a >>> pos &&& lowMask len).getLsbD i =
      if i < len then a.getLsbD (pos + i) else sx && a.getLsbD (pos + len - 1) := by
  cases sx with
  | false =>
    rw [if_neg Bool.false_ne_true, getLsbD_ushiftRight_and_lowMask a pos hl]
    by_cases hin : i < len
    · rw [if_pos hin, decide_eq_true hin, Bool.true_and]
    · rw [if_neg hin, decide_eq_false hin, Bool.false_and, Bool.false_and]
  | true =>
    rw [if_pos rfl, getLsbD_sextFrom h0 hl _ hi, getLsbD_ushiftRight_and_lowMask a pos hl]
    by_cases hin : i < len
    · rw [if_pos hin, if_pos hin, decide_eq_true hin, Bool.true_and]
    · rw [if_neg hin, if_neg hin, decide_eq_true (Nat.sub_one_lt_of_lt h0), Nat.add_sub_assoc h0]

/-- `INS` merges under the mask of the field's bits (R164). -/
theorem getLsbD_lowMask_shiftLeft {len : Nat} (hl : len ≤ 64) (pos : Nat) {i : Nat} (hi : i < 64) :
    (lowMask len <<< pos).getLsbD i = decide (pos ≤ i ∧ i < pos + len) := by
  by_cases hp : pos ≤ i
  · rw [getLsbD_shiftLeft_of_le _ hi hp, getLsbD_lowMask hl]
    exact decide_eq_decide.mpr (by omega)
  · have hout : ¬(pos ≤ i ∧ i < pos + len) := fun hb => hp hb.1
    rw [BitVec.getLsbD_shiftLeft, decide_eq_true (Nat.not_le.mp hp), decide_eq_false hout, Bool.not_true, Bool.and_false, Bool.false_and]

/-- Inside its field the value of `INS` holds the low bits of RA (R164). -/
theorem getLsbD_inserted (a : Word) {len pos i : Nat} (hlen : len ≤ 64) (hi : i < 64) (hp : pos ≤ i) (hl : i < pos + len) :
    ((a &&& lowMask len) <<< pos).getLsbD i = a.getLsbD (i - pos) := by
  have hin : i - pos < len := by omega
  rw [getLsbD_shiftLeft_of_le _ hi hp, BitVec.getLsbD_and, getLsbD_lowMask hlen, decide_eq_true hin, Bool.and_true]

/-- The value of `LIH` holds the immediate in its high half (R163). -/
theorem getLsbD_append_zeros (x : BitVec 32) {i : Nat} (h : 32 ≤ i) : (x ++ 0#32 : Word).getLsbD i = x.getLsbD (i - 32) := by
  rw [BitVec.getLsbD_append, if_neg (Nat.not_lt.mpr h)]

/-- The mask of `LIH` is the high half of a register (R163). -/
theorem getLsbD_highHalf : ∀ i, i < 64 → (0xFFFFFFFF00000000 : Word).getLsbD i = decide (32 ≤ i) := by decide

/-! ## Immediates and bit fields under a true guard -/

section
variable (h : Hdr) {s : State} (hg : s.guard = true)
include hg

theorem exec_addi_of_guard (f : Rri) :
    exec (.addi h f) s = .next (s.landS f.rd (s.tc + 1) (s.rs f.ra + BitVec.ofInt 64 f.imm.toInt)) :=
  congrArg Host.Outcome.next (if_pos hg)

theorem exec_li_of_guard (f : Rriw) : exec (.li h f) s = .next (s.landS f.rd (s.tc + 1) (BitVec.ofInt 64 f.imm.toInt)) :=
  congrArg Host.Outcome.next (if_pos hg)

theorem exec_lih_of_guard (f : Rriw) :
    exec (.lih h f) s = .next (s.land (s.tc + 1) (.s (s.reg .S f.rd) 0xFFFFFFFF00000000 (f.imm ++ 0#32))) :=
  congrArg Host.Outcome.next (if_pos hg)

theorem exec_ext_of_guard (f : Rri) :
    let pos := (f.imm.extractLsb' 0 6).toNat
    let len := (f.imm.extractLsb' 6 6).toNat + 1
    let v := s.rs f.ra >>> pos &&& lowMask len
    exec (.ext h f) s = .next (s.landS f.rd (s.tc + 1) (if f.imm.getLsbD 12 then sextFrom len v else v)) :=
  congrArg Host.Outcome.next (if_pos hg)

theorem exec_ins_of_guard (f : Rri) :
    let pos := (f.imm.extractLsb' 0 6).toNat
    let len := (f.imm.extractLsb' 6 6).toNat + 1
    exec (.ins h f) s =
      .next (s.land (s.tc + 1) (.s (s.reg .S f.rd) (lowMask len <<< pos) ((s.rs f.ra &&& lowMask len) <<< pos))) :=
  congrArg Host.Outcome.next (if_pos hg)

end

/-- Settles O15: each word's write, then its bits. -/
theorem immediatesAndFields : Obligations.ImmediatesAndFields := by
  unfold Obligations.ImmediatesAndFields
  intro h s hg
  refine ⟨exec_addi_of_guard h hg, exec_li_of_guard h hg, fun f => ?_, fun f => ?_⟩
  · exact ⟨_, _, exec_lih_of_guard h hg f, fun i hi => ⟨getLsbD_highHalf i hi, getLsbD_append_zeros f.imm⟩⟩
  · intro pos len a
    have hlen : len ≤ 64 := (f.imm.extractLsb' 6 6).isLt
    refine ⟨⟨_, exec_ext_of_guard h hg f, fun i hi => ?_⟩, ⟨_, _, exec_ins_of_guard h hg f, fun i hi => ⟨?_, ?_⟩⟩⟩
    · exact getLsbD_extracted _ a pos (Nat.succ_pos _) hlen hi
    · exact getLsbD_lowMask_shiftLeft hlen pos hi
    · exact getLsbD_inserted a hlen hi

end Sys2Proof.Machine
end

section
/-! SUPPORT. Elements of the integer vector instructions: the numbers in little-endian blocks, the integer types and their results wrapped or
clamped, and the element of each integer and bitwise operation (spec/10_isa_vector.md R225, R240, R241). -/

namespace Sys2Proof.Machine

/-! ## Numbers in byte blocks -/

@[simp] theorem length_leBytes (n x : Nat) : (leBytes n x).length = n := by
  induction n generalizing x with
  | zero => rfl
  | succ n ih => exact congrArg Nat.succ (ih (x / 256))

theorem leNat_leBytes {n x : Nat} (hx : x < 256 ^ n) : leNat (leBytes n x) = x := by
  induction n generalizing x with
  | zero => exact (Nat.lt_one_iff.mp hx).symm
  | succ n ih =>
    have hq : x / 256 < 256 ^ n := Nat.div_lt_of_lt_mul (by rwa [← Nat.pow_succ'])
    rw [leBytes, leNat, ih hq, BitVec.toNat_ofNat]
    exact Nat.mod_add_div x 256

/-- A field of a block, behind the bytes that precede it. -/
theorem leNat_field {off n x : Nat} {blk pre tl : List Byte} (hb : blk = pre ++ (leBytes n x ++ tl)) (ho : pre.length = off)
    (hx : x < 256 ^ n) : leNat ((blk.drop off).take n) = x := by
  rw [hb, List.drop_left' ho, List.take_left' (length_leBytes n x), leNat_leBytes hx]

/-! ## Integer types -/

/-- The integer types by their codes, with their widths in bits (R225). -/
inductive IntType : Nat → Nat → Prop
  | int32 : IntType 2 32
  | int8 : IntType 3 8
  | uint8 : IntType 4 8

theorem IntType.of_mem {ty sz : Nat} (hm : (ty, sz) ∈ [(2, 4), (3, 1), (4, 1)]) : IntType ty (8 * sz) := by
  simp only [List.mem_cons, Prod.mk.injEq, List.not_mem_nil, or_false] at hm
  obtain ⟨rfl, rfl⟩ | ⟨rfl, rfl⟩ | ⟨rfl, rfl⟩ := hm
  · exact .int32
  · exact .int8
  · exact .uint8

/-- The integer clamped to the range of its type (R225). -/
def clampInt (ty : Nat) (z : Int) : Int :=
  if z < (intRange ty).1 then (intRange ty).1 else if (intRange ty).2 < z then (intRange ty).2 else z

theorem toInt_ofNat_emod (w : Nat) (c : Int) : (BitVec.ofNat w (c % 2 ^ w).toNat).toInt = (BitVec.ofInt w c).toInt := by
  have hn : (c % 2 ^ w).toNat = (BitVec.ofInt w c).toNat := by
    rw [BitVec.toNat_ofInt]
    norm_cast
  rw [hn, BitVec.ofNat_toNat, BitVec.setWidth_eq]

section
variable {ty w : Nat} (ht : IntType ty w)
include ht

theorem IntType.width_eq : 8 * fmtSize ty = w := by
  cases ht <;> rfl

theorem IntType.range_le : (intRange ty).1 ≤ (intRange ty).2 := by
  cases ht <;> decide

theorem le_clampInt (z : Int) : (intRange ty).1 ≤ clampInt ty z := by
  have := ht.range_le
  unfold clampInt
  omega

theorem clampInt_le (z : Int) : clampInt ty z ≤ (intRange ty).2 := by
  have := ht.range_le
  unfold clampInt
  omega

theorem max_min_eq_clampInt (z : Int) : max (intRange ty).1 (min (intRange ty).2 z) = clampInt ty z := by
  have := ht.range_le
  unfold clampInt
  omega

/-- The bits of an element are its integer modulo 2^w. -/
theorem vecInt_emod (x : Nat) : vecInt ty x % 2 ^ w = x % 2 ^ w := by
  cases ht with
  | int32 => exact (congrArg (· % _) (BitVec.toInt_ofNat' ..)).trans Int.bmod_emod
  | int8 => exact (congrArg (· % _) (BitVec.toInt_ofNat' ..)).trans Int.bmod_emod
  | uint8 => rfl

/-- An integer in the type's range is that of its low `w` bits. -/
theorem vecInt_emod_of_mem_range {c : Int} (hlo : (intRange ty).1 ≤ c) (hhi : c ≤ (intRange ty).2) :
    vecInt ty (c % 2 ^ w).toNat = c := by
  cases ht with
  | int32 => exact (toInt_ofNat_emod 32 c).trans (BitVec.toInt_ofInt_eq_self (by decide) hlo (Int.lt_add_one_of_le hhi))
  | int8 => exact (toInt_ofNat_emod 8 c).trans (BitVec.toInt_ofInt_eq_self (by decide) hlo (Int.lt_add_one_of_le hhi))
  | uint8 =>
    have hc : c % 2 ^ 8 = c := Int.emod_eq_of_lt hlo (Int.lt_add_one_of_le hhi)
    exact (Int.toNat_of_nonneg (hc.symm ▸ hlo)).trans hc

theorem intResult_wrap {i : Int} {n : Nat} (hi : i % 2 ^ w = n % 2 ^ w) : intResult ty false i = (n % 2 ^ w, 0) := by
  have hn : i % 2 ^ w = (n % 2 ^ w : Nat) := by
    rw [hi]
    norm_cast
  have hr : intResult ty false i = ((i % 2 ^ (8 * fmtSize ty)).toNat, 0) := rfl
  rw [hr, ht.width_eq, hn, Int.toNat_natCast]

theorem intResult_sat (i : Int) :
    vecInt ty (intResult ty true i).1 = clampInt ty i ∧ (intResult ty true i).1 < 2 ^ w ∧
      (intResult ty true i).2 = if clampInt ty i = i then 0 else fSat := by
  have hr : intResult ty true i = ((clampInt ty i % 2 ^ w).toNat, if clampInt ty i = i then 0 else fSat) := by
    simp [intResult, ht.width_eq, max_min_eq_clampInt ht]
  have hp : (0 : Int) < 2 ^ w := Int.pow_pos (by decide)
  rw [hr]
  refine ⟨vecInt_emod_of_mem_range ht (le_clampInt ht i) (clampInt_le ht i), ?_, rfl⟩
  rw [Int.toNat_lt (Int.emod_nonneg _ (Int.ne_of_gt hp))]
  exact_mod_cast Int.emod_lt_of_pos _ hp

theorem vecInt_add_emod (x y : Nat) : (vecInt ty x + vecInt ty y) % 2 ^ w = (x + y : Nat) % 2 ^ w := by
  rw [Int.add_emod, vecInt_emod ht, vecInt_emod ht, ← Int.add_emod, Int.natCast_add]

theorem vecInt_mul_emod (x y : Nat) : (vecInt ty x * vecInt ty y) % 2 ^ w = (x * y : Nat) % 2 ^ w := by
  rw [Int.mul_emod, vecInt_emod ht, vecInt_emod ht, ← Int.mul_emod, Int.natCast_mul]

theorem vecInt_sub_emod (x : Nat) {y : Nat} (hy : y < 2 ^ w) :
    (vecInt ty x - vecInt ty y) % 2 ^ w = (x + 2 ^ w - y : Nat) % 2 ^ w := by
  have hc : ((x + 2 ^ w - y : Nat) : Int) = x - y + 2 ^ w := by
    rw [Int.natCast_sub (by omega)]
    push_cast
    omega
  rw [hc, Int.add_emod_right, Int.sub_emod, vecInt_emod ht, vecInt_emod ht, ← Int.sub_emod]

end

/-! ## The element of each operation -/

section
variable (a : Act) (ks : BitVec 4096) (blk : List Byte) (e x y : Nat) (h : Hdr) (f : Rrr)

theorem vecElem_viadd : vecElem { a with ins := .viadd h f } ks blk e [x, y] =
    intResult (a.x 8) (a.x 10 / 16 % 2 == 1) (vecInt (a.x 8) x + vecInt (a.x 8) y) := rfl

theorem vecElem_visub : vecElem { a with ins := .visub h f } ks blk e [x, y] =
    intResult (a.x 8) (a.x 10 / 16 % 2 == 1) (vecInt (a.x 8) x - vecInt (a.x 8) y) := rfl

theorem vecElem_vimul : vecElem { a with ins := .vimul h f } ks blk e [x, y] =
    intResult (a.x 8) (a.x 10 / 16 % 2 == 1) (vecInt (a.x 8) x * vecInt (a.x 8) y) := rfl

theorem vecElem_vand : vecElem { a with ins := .vand h f } ks blk e [x, y] = (x &&& y, 0) := rfl

theorem vecElem_vor : vecElem { a with ins := .vor h f } ks blk e [x, y] = (x ||| y, 0) := rfl

theorem vecElem_vxor : vecElem { a with ins := .vxor h f } ks blk e [x, y] = (x ^^^ y, 0) := rfl

theorem vecElem_vshl : vecElem { a with ins := .vshl h f } ks blk e [x, y] =
    (x <<< (y % (8 * a.x 6)) % 2 ^ (8 * a.x 6), 0) := rfl

theorem vecElem_vshr : vecElem { a with ins := .vshr h f } ks blk e [x, y] = (x >>> (y % (8 * a.x 6)), 0) := rfl

theorem vecElem_vsar : vecElem { a with ins := .vsar h f } ks blk e [x, y] =
    (((BitVec.ofNat (8 * a.x 6) x).sshiftRight (y % (8 * a.x 6))).toNat, 0) := rfl

theorem vecElem_vimin : vecElem { a with ins := .vimin h f } ks blk e [x, y] =
    (if vecInt (a.x 8) y < vecInt (a.x 8) x then y else x, 0) := rfl

theorem vecElem_vimax : vecElem { a with ins := .vimax h f } ks blk e [x, y] =
    (if vecInt (a.x 8) x < vecInt (a.x 8) y then y else x, 0) := rfl

theorem vecElem_viota : vecElem { a with ins := .viota h f } ks blk e [x, y] =
    ((leNat ((blk.drop 0).take 4) + e / a.x 5 * leNat ((blk.drop 4).take 4) + e % a.x 5 * leNat ((blk.drop 8).take 4)) % 2 ^ 32, 0) :=
  rfl

theorem vecElem_vrng : vecElem { a with ins := .vrng h f } ks blk e [x, y] =
    (counterHash (leNat ((blk.drop 0).take 8)) (leNat ((blk.drop 8).take 4)) x, 0) := rfl

end

/-! ## Bits, order and hash -/

theorem testBit_shiftLeft_mod (x n w b : Nat) :
    (x <<< n % 2 ^ w).testBit b = (decide (b < w) && decide (n ≤ b) && x.testBit (b - n)) := by
  rw [Nat.testBit_mod_two_pow, Nat.testBit_shiftLeft, Bool.and_assoc]

/-- An arithmetic right shift copies bit `w - 1` into the places that it leaves (R225). -/
theorem testBit_sshiftRight_ofNat (x n : Nat) {w b : Nat} (hb : b < w) :
    ((BitVec.ofNat w x).sshiftRight n).toNat.testBit b = x.testBit (min (b + n) (w - 1)) := by
  have hlow : ∀ i, i < w → (BitVec.ofNat w x).getLsbD i = x.testBit i := fun i hi => by
    rw [BitVec.getLsbD_ofNat, decide_eq_true hi, Bool.true_and]
  rw [BitVec.testBit_toNat, BitVec.getLsbD_sshiftRight, decide_eq_false (Nat.not_le.mpr hb), Bool.not_false, Bool.true_and,
    BitVec.msb_eq_getLsbD_last, Nat.add_comm n b]
  by_cases hn : b + n < w
  · rw [if_pos hn, hlow _ hn, Nat.min_eq_left (by omega)]
  · rw [if_neg hn, hlow _ (by omega), Nat.min_eq_right (by omega)]

theorem vecInt_lesser (ty x y : Nat) : vecInt ty (if vecInt ty y < vecInt ty x then y else x) = min (vecInt ty x) (vecInt ty y) := by
  split
  next hlt => exact (Int.min_eq_right (Int.le_of_lt hlt)).symm
  next hge => exact (Int.min_eq_left (Int.not_lt.mp hge)).symm

theorem vecInt_greater (ty x y : Nat) : vecInt ty (if vecInt ty x < vecInt ty y then y else x) = max (vecInt ty x) (vecInt ty y) := by
  split
  next hlt => exact (Int.max_eq_right (Int.le_of_lt hlt)).symm
  next hge => exact (Int.max_eq_left (Int.not_lt.mp hge)).symm

theorem toNat_highHalf (v : Word) : (v.extractLsb' 32 32).toNat = v.toNat / 2 ^ 32 := by
  rw [BitVec.extractLsb'_toNat, Nat.shiftRight_eq_div_pow]
  exact Nat.mod_eq_of_lt (Nat.div_lt_of_lt_mul v.isLt)

/-- Settles O36, operation by operation: sums, differences and products as residues modulo 2^w, or clamped. -/
theorem integerElements : Obligations.IntegerElements := by
  unfold Obligations.IntegerElements
  intro a ks blk e x y h f ty w el clamp sat
  have hbits : ∀ b, (el (.vand h f)).1.testBit b = (x.testBit b && y.testBit b) ∧
      (el (.vor h f)).1.testBit b = (x.testBit b || y.testBit b) ∧ (el (.vxor h f)).1.testBit b = (x.testBit b ^^ y.testBit b) :=
    fun b => ⟨Nat.testBit_and x y b, Nat.testBit_or x y b, Nat.testBit_xor x y b⟩
  refine ⟨fun _ _ _ => ⟨hbits, ?_⟩, fun hm hx hy => ?_, ?_, ?_⟩
  · simp [el, vecElem_vand, vecElem_vor, vecElem_vxor]
  · have ht : IntType ty w := .of_mem hm
    refine ⟨fun hs => ?_, fun hs => ?_, fun b => ?_, vecInt_lesser ty x y, vecInt_greater ty x y, ?_⟩
    · have hno : (a.x 10 / 16 % 2 == 1) = false := by rw [hs]; rfl
      simp only [el, vecElem_viadd, vecElem_visub, vecElem_vimul, hno]
      exact ⟨intResult_wrap ht (vecInt_add_emod ht x y), intResult_wrap ht (vecInt_sub_emod ht x hy),
        intResult_wrap ht (vecInt_mul_emod ht x y)⟩
    · have hyes : (a.x 10 / 16 % 2 == 1) = true := by rw [hs]; rfl
      simp only [el, vecElem_viadd, vecElem_visub, vecElem_vimul, hyes]
      exact ⟨intResult_sat ht _, intResult_sat ht _, intResult_sat ht _⟩
    · obtain ⟨hand, hor, hxor⟩ := hbits b
      refine ⟨hand, hor, hxor, testBit_shiftLeft_mod .., ?_, fun hb => testBit_sshiftRight_ofNat x _ hb⟩
      exact (Nat.testBit_shiftRight x).trans (congrArg x.testBit (Nat.add_comm ..))
    · simp [el, vecElem_vand, vecElem_vor, vecElem_vxor, vecElem_vshl, vecElem_vshr, vecElem_vsar, vecElem_vimin, vecElem_vimax]
  · intro p q r tl hblk hp hq hr
    rw [List.append_assoc, List.append_assoc] at hblk
    have hbase : leNat ((blk.drop 0).take 4) = p := leNat_field (pre := []) hblk rfl hp
    have hrow : leNat ((blk.drop 4).take 4) = q := leNat_field hblk (length_leBytes 4 p) hq
    have hcol : leNat ((blk.drop 8).take 4) = r :=
      leNat_field (pre := leBytes 4 p ++ leBytes 4 q) (by rw [hblk, List.append_assoc]) (by simp) hr
    simp only [el, vecElem_viota, hbase, hrow, hcol]
  · intro key hi tl hblk hk hh _ c v1 v2 v3
    rw [List.append_assoc] at hblk
    have hkey : leNat ((blk.drop 0).take 8) = key := leNat_field (pre := []) hblk rfl hk
    have hhi : leNat ((blk.drop 8).take 4) = hi := leNat_field hblk (length_leBytes 8 key) hh
    simp only [el, vecElem_vrng, hkey, hhi]
    exact congrArg (·, 0) (toNat_highHalf _)

end Sys2Proof.Machine
end

section
/-! SUPPORT. Encoding and decoding are inverse to each other, and the opcodes that name nothing (spec/07_encoding.md R137, R140, R142, R143). -/

namespace Sys2Proof

/-- A choice under equivalent conditions between equal values. -/
theorem ite_congr_iff.{u} {α : Sort u} {b c : Prop} [Decidable b] [Decidable c] {x y x' y' : α} (h : b ↔ c) (hx : x = x') (hy : y = y') :
    (if b then x else y) = if c then x' else y' :=
  ite_congr (propext h) (fun _ => hx) fun _ => hy

/-- The word of a well-formed term decodes to it: its opcode names the term's row, its fields come back, and where rows share an opcode the
discriminating field is the term's own. -/
theorem decodeWord_encode (i : Instr) (w : Word) (hwf : i.wf = true) (he : encode i = some w) : decodeWord w = .ok i := by
  cases i
  all_goals simp only [encode, reduceCtorEq, Option.some.injEq] at he
  all_goals
    subst he
    simp_all [Instr.wf, decodeWord,
      decodeOp_01, decodeOp_02, decodeOp_03, decodeOp_04, decodeOp_05, decodeOp_06, decodeOp_07, decodeOp_08, decodeOp_09, decodeOp_0A,
      decodeOp_0B, decodeOp_0C, decodeOp_0D, decodeOp_0E, decodeOp_0F, decodeOp_10, decodeOp_11, decodeOp_12, decodeOp_13, decodeOp_14,
      decodeOp_15, decodeOp_16, decodeOp_17, decodeOp_18, decodeOp_20, decodeOp_21, decodeOp_22, decodeOp_23, decodeOp_24, decodeOp_28,
      decodeOp_29, decodeOp_2A, decodeOp_30, decodeOp_31, decodeOp_32, decodeOp_33, decodeOp_34, decodeOp_35, decodeOp_38, decodeOp_39,
      decodeOp_3A, decodeOp_3C, decodeOp_3D, decodeOp_3E, decodeOp_40, decodeOp_41, decodeOp_42, decodeOp_43, decodeOp_44, decodeOp_45,
      decodeOp_46, decodeOp_47, decodeOp_60, decodeOp_61, decodeOp_62, decodeOp_63, decodeOp_64, decodeOp_65, decodeOp_66, decodeOp_67,
      decodeOp_68, decodeOp_69, decodeOp_6A, decodeOp_80, decodeOp_81, decodeOp_82, decodeOp_83, decodeOp_84, decodeOp_85, decodeOp_86,
      decodeOp_87, decodeOp_88, decodeOp_89, decodeOp_8A, decodeOp_8B, decodeOp_8D, decodeOp_8E, decodeOp_8F, decodeOp_90, decodeOp_91,
      decodeOp_92, decodeOp_93, decodeOp_94, decodeOp_95, decodeOp_96, decodeOp_97, decodeOp_98, decodeOp_99, decodeOp_9A, decodeOp_A0,
      decodeOp_A1, decodeOp_A2, decodeOp_A3, decodeOp_A4, decodeOp_A5, decodeOp_A6, decodeOp_A7, decodeOp_A8, decodeOp_B0, decodeOp_B1,
      decodeOp_B2, decodeOp_B3, decodeOp_B4, decodeOp_B5, decodeOp_B6, decodeOp_B7, decodeOp_B8, decodeOp_B9, decodeOp_BA, decodeOp_BB,
      decodeOp_BC, decodeOp_BD, decodeOp_BE, decodeOp_C0, decodeOp_C1, decodeOp_C2, decodeOp_C3, decodeOp_C4, decodeOp_C5, decodeOp_C6,
      decodeOp_C7, decodeOp_C8, decodeOp_C9, decodeOp_E0, decodeOp_E1, decodeOp_E2, decodeOp_E3, decodeOp_E4, decodeOp_E5, decodeOp_E6,
      decodeOp_E7, decodeOp_E8, decodeOp_E9, decodeOp_EA, decodeOp_EB, decodeOp_EC, decodeOp_ED, decodeOp_EE, decodeOp_EF, decodeOp_F0,
      decodeOp_F1, decodeOp_F2, decodeOp_F3, decodeOp_F4, decodeOp_F5, decodeOp_F6, decodeOp_F7, decodeOp_F8, decodeOp_F9, decodeOp_FA,
      decodeOp_FB, decodeOp_FC, decodeOp_FD]

/-- Settles O2, by cases on the instruction. -/
theorem decodeEncode : Obligations.DecodeEncode := decodeWord_encode

/-- What an opcode and a word name is well-formed, and spells the word. -/
theorem wf_encode_of_decodeOp {n : Nat} {w : Word} {i : Instr} (hn : opOf w = BitVec.ofNat 8 n) (h : decodeOp n w = some i) :
    i.wf = true ∧ encode i = some w := by
  dsimp only [decodeOp] at h
  split at h
  all_goals repeat' split at h
  all_goals cases h
  all_goals simp_all [Instr.wf, encode, ← hn]

/-- The opcodes that R142 assigns. -/
def assignedOpcodes : List Nat :=
  List.range' 0x01 24 ++ List.range' 0x20 5 ++ List.range' 0x28 3 ++ List.range' 0x30 6 ++ List.range' 0x38 3 ++ List.range' 0x3C 3 ++
    List.range' 0x40 8 ++ List.range' 0x60 11 ++ List.range' 0x80 12 ++ List.range' 0x8D 14 ++ List.range' 0xA0 9 ++ List.range' 0xB0 15 ++
    List.range' 0xC0 10 ++ List.range' 0xE0 30

theorem isSome_decodeOp (n : Nat) (w : Word) : (decodeOp n w).isSome = assignedOpcodes.contains n := by
  dsimp only [decodeOp]
  split
  case h_154 =>
    simp only [assignedOpcodes, List.range', Option.isSome_none, List.cons_append, List.nil_append, List.contains_eq_mem, List.mem_cons,
      List.not_mem_nil, Bool.false_eq, decide_eq_false_iff_not, not_or, Nat.reduceAdd, not_false_eq_true, and_true]
    and_intros
    all_goals assumption
  all_goals repeat' split
  all_goals rfl

theorem decodeWord_ok_iff (w : Word) (i : Instr) : decodeWord w = .ok i ↔ decodeOp (opOf w).toNat w = some i := by
  unfold decodeWord
  split
  next j hj => rw [hj, Except.ok.injEq, Option.some.injEq]
  next hj => rw [hj]; exact iff_of_false nofun nofun

theorem decodeWord_unassigned_iff (w : Word) :
    decodeWord w = .error (.unassigned (opOf w)) ↔ (opOf w).toNat ∉ assignedOpcodes := by
  rw [← List.contains_iff_mem, ← isSome_decodeOp _ w]
  unfold decodeWord
  split
  next j hj => rw [hj]; exact iff_of_false nofun (fun h => h rfl)
  next hj => rw [hj]; exact iff_of_true rfl nofun

/-- Settles O3: the opcode gives the row, and the row's fields are cut from the word. -/
theorem encodeDecode : Obligations.EncodeDecode := by
  unfold Obligations.EncodeDecode
  intro w i h
  exact wf_encode_of_decodeOp (by simp) ((decodeWord_ok_iff w i).mp h)

/-- Settles O4: R143's list is what R142 leaves over. -/
theorem unassignedOpcodes : Obligations.UnassignedOpcodes := by
  unfold Obligations.UnassignedOpcodes
  intro w
  rw [decodeWord_unassigned_iff]
  have hall : ∀ n < 256, n ∉ assignedOpcodes ↔
      (n = 0 ∨ (0x19 ≤ n ∧ n ≤ 0x1F) ∨ (0x25 ≤ n ∧ n ≤ 0x27) ∨ (0x2B ≤ n ∧ n ≤ 0x2F) ∨ n = 0x36 ∨ n = 0x37 ∨ n = 0x3B ∨ n = 0x3F ∨
       (0x48 ≤ n ∧ n ≤ 0x5F) ∨ (0x6B ≤ n ∧ n ≤ 0x7F) ∨ n = 0x8C ∨ (0x9B ≤ n ∧ n ≤ 0x9F) ∨ (0xA9 ≤ n ∧ n ≤ 0xAF) ∨ n = 0xBF ∨
       (0xCA ≤ n ∧ n ≤ 0xDF) ∨ n = 0xFE ∨ n = 0xFF) := by
    decide +kernel
  exact hall _ (opOf w).isLt

/-- Settles O1, by running the decoder on each word. -/
theorem decodedWords : Obligations.DecodedWords := by
  unfold Obligations.DecodedWords
  exact ⟨rfl, rfl, rfl, rfl, rfl, rfl, rfl, rfl, rfl⟩

end Sys2Proof
end

section
/-! SUPPORT. What a step does to the in-rush arbiter and the caps: nothing, but for the clock, the arbiter's own events and a reset
(spec/20_platform.md R388, R389, R398). -/

namespace Sys2Proof.Machine

/-! ## Instructions and events that leave clock, arbiter and caps alone -/

/-- The events that change the parts of `State.still`: the clock, the arbiter's own, and a reset. -/
def Instr.stirs : Instr → Bool
  | .tcAdvance | .inrushRequest _ | .inrushComplete _ | .reset => true
  | _ => false

/-- No word names one of these events. -/
theorem Instr.stirs_of_encode {i : Instr} {w : Word} (h : encode i = some w) : Instr.stirs i = false := by
  unfold Instr.stirs
  split
  case h_5 => rfl
  all_goals cases h

/-- Every other instruction and event leaves the parts of `State.still` alone. -/
theorem still_exec (i : Instr) {s t : State} (hi : Instr.stirs i = false) (h : exec i s = .next t) : t.still = s.still :=
  match i, hi, h with
  | .add h f, _, e => still_execAdd h f s t e
  | .sub h f, _, e => still_execSub h f s t e
  | .mul h f, _, e => still_execMul h f s t e
  | .mulh h f, _, e => still_execMulh h f s t e
  | .div h f, _, e => still_execDiv h f s t e
  | .rem h f, _, e => still_execRem h f s t e
  | .and h f, _, e => still_execAnd h f s t e
  | .or h f, _, e => still_execOr h f s t e
  | .xor h f, _, e => still_execXor h f s t e
  | .andn h f, _, e => still_execAndn h f s t e
  | .shl h f, _, e => still_execShl h f s t e
  | .shr h f, _, e => still_execShr h f s t e
  | .sar h f, _, e => still_execSar h f s t e
  | .min h f, _, e => still_execMin h f s t e
  | .max h f, _, e => still_execMax h f s t e
  | .cmp h f, _, e => still_execCmp h f s t e
  | .sel h f, _, e => still_execSel h f s t e
  | .clz h f, _, e => still_execClz h f s t e
  | .popc h f, _, e => still_execPopc h f s t e
  | .addi h f, _, e => still_execAddi h f s t e
  | .li h f, _, e => still_execLi h f s t e
  | .lih h f, _, e => still_execLih h f s t e
  | .ext h f, _, e => still_execExt h f s t e
  | .ins h f, _, e => still_execIns h f s t e
  | .jmp h f, _, e => still_execJmp h f s t e
  | .call h f, _, e => still_execCall h f s t e
  | .ret h f, _, e => still_execRet h f s t e
  | .loop h f, _, e => still_execLoop h f s t e
  | .lring h f, _, e => still_execLring h f s t e
  | .sptest h f, _, e => still_execSptest h f s t e
  | .spcastS h f, _, e => still_execSpcastS h f s t e
  | .spcastG h f, _, e => still_execSpcastG h f s t e
  | .padd h f, _, e => still_execPadd h f s t e
  | .hld h f, _, e => still_execHld h f s t e
  | .hst h f, _, e => still_execHst h f s t e
  | .hset h f, _, e => still_execHset h f s t e
  | .hget h f, _, e => still_execHget h f s t e
  | .hstat h f, _, e => still_execHstat h f s t e
  | .hstatOff h f, _, e => still_execHstatOff h f s t e
  | .hcpy h f, _, e => still_execHcpy h f s t e
  | .lds h f, _, e => still_execLds h f s t e
  | .sts h f, _, e => still_execSts h f s t e
  | .fpush h f, _, e => still_execFpush h f s t e
  | .rdctr h f, _, e => still_execRdctr h f s t e
  | .csrr h f, _, e => still_execCsrr h f s t e
  | .flagsClear h f, _, e => still_execFlagsClear h f s t e
  | .selWrite h f, _, e => still_execSelWrite h f s t e
  | .csrw h f, _, e => still_execCsrw h f s t e
  | .ldQ h f, _, e => still_execLdQ h f s t e
  | .ldV h f, _, e => still_execLdV h f s t e
  | .ldT h f, _, e => still_execLdT h f s t e
  | .ldTr h f, _, e => still_execLdTr h f s t e
  | .ldG h f, _, e => still_execLdG h f s t e
  | .ldW h f, _, e => still_execLdW h f s t e
  | .ldCb h f, _, e => still_execLdCb h f s t e
  | .ldBc h f, _, e => still_execLdBc h f s t e
  | .stV h f, _, e => still_execStV h f s t e
  | .stQ h f, _, e => still_execStQ h f s t e
  | .stT h f, _, e => still_execStT h f s t e
  | .stS h f, _, e => still_execStS h f s t e
  | .stQnt h f, _, e => still_execStQnt h f s t e
  | .stUpd h f, _, e => still_execStUpd h f s t e
  | .stX h f, _, e => still_execStX h f s t e
  | .stMc h f, _, e => still_execStMc h f s t e
  | .atom h f, _, e => still_execAtom h f s t e
  | .bobjArm h f, _, e => still_execBobjArm h f s t e
  | .bobjWait h f, _, e => still_execBobjWait h f s t e
  | .vadd h f, _, e => still_execVadd h f s t e
  | .vsub h f, _, e => still_execVsub h f s t e
  | .vmul h f, _, e => still_execVmul h f s t e
  | .vfma h f, _, e => still_execVfma h f s t e
  | .vmin h f, _, e => still_execVmin h f s t e
  | .vmax h f, _, e => still_execVmax h f s t e
  | .vabs h f, _, e => still_execVabs h f s t e
  | .vneg h f, _, e => still_execVneg h f s t e
  | .vcmp h f, _, e => still_execVcmp h f s t e
  | .vsel h f, _, e => still_execVsel h f s t e
  | .vcvt h f, _, e => still_execVcvt h f s t e
  | .vqnt h f, _, e => still_execVqnt h f s t e
  | .kop h f, _, e => still_execKop h f s t e
  | .kset h f, _, e => still_execKset h f s t e
  | .kmov h f, _, e => still_execKmov h f s t e
  | .viadd h f, _, e => still_execViadd h f s t e
  | .visub h f, _, e => still_execVisub h f s t e
  | .vimul h f, _, e => still_execVimul h f s t e
  | .vand h f, _, e => still_execVand h f s t e
  | .vor h f, _, e => still_execVor h f s t e
  | .vxor h f, _, e => still_execVxor h f s t e
  | .vshl h f, _, e => still_execVshl h f s t e
  | .vshr h f, _, e => still_execVshr h f s t e
  | .vsar h f, _, e => still_execVsar h f s t e
  | .vimin h f, _, e => still_execVimin h f s t e
  | .vimax h f, _, e => still_execVimax h f s t e
  | .vrcp h f, _, e => still_execVrcp h f s t e
  | .vrsq h f, _, e => still_execVrsq h f s t e
  | .vsqrt h f, _, e => still_execVsqrt h f s t e
  | .vexp2 h f, _, e => still_execVexp2 h f s t e
  | .vlog2 h f, _, e => still_execVlog2 h f s t e
  | .vsin h f, _, e => still_execVsin h f s t e
  | .vcos h f, _, e => still_execVcos h f s t e
  | .vtanh h f, _, e => still_execVtanh h f s t e
  | .vsigm h f, _, e => still_execVsigm h f s t e
  | .vrsum h f, _, e => still_execVrsum h f s t e
  | .vrmax h f, _, e => still_execVrmax h f s t e
  | .vcsum h f, _, e => still_execVcsum h f s t e
  | .vcmax h f, _, e => still_execVcmax h f s t e
  | .vbcast h f, _, e => still_execVbcast h f s t e
  | .vmov h f, _, e => still_execVmov h f s t e
  | .vqpop h f, _, e => still_execVqpop h f s t e
  | .vqpush h f, _, e => still_execVqpush h f s t e
  | .tmovR h f, _, e => still_execTmovR h f s t e
  | .tmovC h f, _, e => still_execTmovC h f s t e
  | .vrng h f, _, e => still_execVrng h f s t e
  | .viota h f, _, e => still_execViota h f s t e
  | .vshape h f, _, e => still_execVshape h f s t e
  | .valloc h f, _, e => still_execValloc h f s t e
  | .vshrink h f, _, e => still_execVshrink h f s t e
  | .vgate h f, _, e => still_execVgate h f s t e
  | .mxLdw h f, _, e => still_execMxLdw h f s t e
  | .mxMac h f, _, e => still_execMxMac h f s t e
  | .mxZero h f, _, e => still_execMxZero h f s t e
  | .mxDrain h f, _, e => still_execMxDrain h f s t e
  | .mxSwap h f, _, e => still_execMxSwap h f s t e
  | .mxFuseOn h f, _, e => still_execMxFuseOn h f s t e
  | .mxFuseOff h f, _, e => still_execMxFuseOff h f s t e
  | .mxTestFatal h f, _, e => still_execMxTestFatal h f s t e
  | .mxTestReport h f, _, e => still_execMxTestReport h f s t e
  | .mxTestRun h f, _, e => still_execMxTestRun h f s t e
  | .mxEvt h f, _, e => still_execMxEvt h f s t e
  | .mxCb h f, _, e => still_execMxCb h f s t e
  | .mxFill h f, _, e => still_execMxFill h f s t e
  | .nop h f, _, e => still_execNop h f s t e
  | .waitCy h f, _, e => still_execWaitCy h f s t e
  | .waitTime h f, _, e => still_execWaitTime h f s t e
  | .rdvEnd h f, _, e => still_execRdvEnd h f s t e
  | .rdv h f, _, e => still_execRdv h f s t e
  | .phase h f, _, e => still_execPhase h f s t e
  | .fence h f, _, e => still_execFence h f s t e
  | .bar h f, _, e => still_execBar h f s t e
  | .curtain h f, _, e => still_execCurtain h f s t e
  | .yield h f, _, e => still_execYield h f s t e
  | .curSet h f, _, e => still_execCurSet h f s t e
  | .curGetTrap h f, _, e => still_execCurGetTrap h f s t e
  | .curGetCur h f, _, e => still_execCurGetCur h f s t e
  | .rndOpen h f, _, e => still_execRndOpen h f s t e
  | .rndPrep h f, _, e => still_execRndPrep h f s t e
  | .rndCommit h f, _, e => still_execRndCommit h f s t e
  | .rndAbort h f, _, e => still_execRndAbort h f s t e
  | .protMark h f, _, e => still_execProtMark h f s t e
  | .statSeal h f, _, e => still_execStatSeal h f s t e
  | .statRd h f, _, e => still_execStatRd h f s t e
  | .statClr h f, _, e => still_execStatClr h f s t e
  | .pwrAcq h f, _, e => still_execPwrAcq h f s t e
  | .pwrRel h f, _, e => still_execPwrRel h f s t e
  | .coll h f, _, e => still_execColl h f s t e
  | .collWait h f, _, e => still_execCollWait h f s t e
  | .trap h f, _, e => still_execTrap h f s t e
  | .launchResume h f, _, e => still_execLaunchResume h f s t e
  | .launch h f, _, e => still_execLaunch h f s t e
  | .ttStartAt h f, _, e => still_execTtStartAt h f s t e
  | .ttStart h f, _, e => still_execTtStart h f s t e
  | .tlbiAsid h f, _, e => still_execTlbiAsid h f s t e
  | .tlbiAll h f, _, e => still_execTlbiAll h f s t e
  | .tlbi h f, _, e => still_execTlbi h f s t e
  | .pcsrWrite h f, _, e => still_execPcsrWrite h f s t e
  | .pcsrRead h f, _, e => still_execPcsrRead h f s t e
  | .holdRel h f, _, e => still_execHoldRel h f s t e
  | .holdRequest h f, _, e => still_execHoldRequest h f s t e
  | .svret h f, _, e => still_execSvret h f s t e
  | .tcAdvance, hi, _ => nomatch hi
  | .holdRelease x0, _, e => still_execHoldRelease x0 s t e
  | .holdWatchdogExpiry x0, _, e => still_execHoldWatchdogExpiry x0 s t e
  | .curtainDistanceFault x0, _, e => still_execCurtainDistanceFault x0 s t e
  | .fatalStop x0, _, e => still_execFatalStop x0 s t e
  | .phasedReplyArrival x0, _, e => still_execPhasedReplyArrival x0 s t e
  | .storePerformed x0, _, e => still_execStorePerformed x0 s t e
  | .atomPerformed x0, _, e => still_execAtomPerformed x0 s t e
  | .updatePacket x0 x1 x2, _, e => still_execUpdatePacket x0 x1 x2 s t e
  | .sealedViewArrival x0, _, e => still_execSealedViewArrival x0 s t e
  | .bobjByteCount x0 x1 x2, _, e => still_execBobjByteCount x0 x1 x2 s t e
  | .saveComplete x0, _, e => still_execSaveComplete x0 s t e
  | .restoreComplete x0, _, e => still_execRestoreComplete x0 s t e
  | .yieldDeadlineExpiry x0, _, e => still_execYieldDeadlineExpiry x0 s t e
  | .leaseExpiry x0 x1, _, e => still_execLeaseExpiry x0 x1 s t e
  | .packageJoinMessage x0 x1 x2 x3, _, e => still_execPackageJoinMessage x0 x1 x2 x3 s t e
  | .exchangeDeadlineReport x0 x1, _, e => still_execExchangeDeadlineReport x0 x1 s t e
  | .collComplete x0 x1 x2, _, e => still_execCollComplete x0 x1 x2 s t e
  | .faultLogAppend x0 x1, _, e => still_execFaultLogAppend x0 x1 s t e
  | .translationWalk x0 x1 x2, _, e => still_execTranslationWalk x0 x1 x2 s t e
  | .migrationLinePull x0 x1 x2, _, e => still_execMigrationLinePull x0 x1 x2 s t e
  | .migrationLineMove x0 x1, _, e => still_execMigrationLineMove x0 x1 s t e
  | .uncorrectableError x0, _, e => still_execUncorrectableError x0 s t e
  | .linkLoss x0 x1, _, e => still_execLinkLoss x0 x1 s t e
  | .capViolation x0 x1 x2, _, e => still_execCapViolation x0 x1 x2 s t e
  | .supervisorEvent x0, _, e => still_execSupervisorEvent x0 s t e
  | .hostRequestSubmit x0 x1, _, e => still_execHostRequestSubmit x0 x1 s t e
  | .ttStartAtTime x0, _, e => still_execTtStartAtTime x0 s t e
  | .rattle x0 x1, _, e => still_execRattle x0 x1 s t e
  | .afenceRetestDone x0 x1 x2, _, e => still_execAfenceRetestDone x0 x1 x2 s t e
  | .groupConfig x0 x1 x2, _, e => still_execGroupConfig x0 x1 x2 s t e
  | .delta x0 x1 x2 x3 x4, _, e => still_execDelta x0 x1 x2 x3 x4 s t e
  | .deltaAck x0 x1, _, e => still_execDeltaAck x0 x1 s t e
  | .prep x0 x1 x2, _, e => still_execPrep x0 x1 x2 s t e
  | .dec x0 x1, _, e => still_execDec x0 x1 s t e
  | .decAck x0 x1, _, e => still_execDecAck x0 x1 s t e
  | .out x0 x1, _, e => still_execOut x0 x1 s t e
  | .abt x0 x1, _, e => still_execAbt x0 x1 s t e
  | .qry x0 x1 x2, _, e => still_execQry x0 x1 x2 s t e
  | .ans x0 x1 x2, _, e => still_execAns x0 x1 x2 s t e
  | .memberLost x0 x1, _, e => still_execMemberLost x0 x1 s t e
  | .memberLinkTimeout x0 x1, _, e => still_execMemberLinkTimeout x0 x1 s t e
  | .rebuildComplete x0 x1, _, e => still_execRebuildComplete x0 x1 s t e
  | .protectedReadRepair x0 x1, _, e => still_execProtectedReadRepair x0 x1 s t e
  | .eyeMonitorMeasure x0 x1 x2 x3, _, e => still_execEyeMonitorMeasure x0 x1 x2 x3 s t e
  | .retrainSliceStart x0 x1, _, e => still_execRetrainSliceStart x0 x1 s t e
  | .retrainSliceEnd x0 x1, _, e => still_execRetrainSliceEnd x0 x1 s t e
  | .thermalSensorRead x0 x1 x2, _, e => still_execThermalSensorRead x0 x1 x2 s t e
  | .zoneChange x0, _, e => still_execZoneChange x0 s t e
  | .powerWindow, _, e => still_execPowerWindow s t e
  | .droopDetect x0, _, e => still_execDroopDetect x0 s t e
  | .droopClear x0, _, e => still_execDroopClear x0 s t e
  | .inrushRequest _, hi, _ => nomatch hi
  | .inrushComplete _, hi, _ => nomatch hi
  | .frequencyChangeDone x0 x1, _, e => still_execFrequencyChangeDone x0 x1 s t e
  | .reset, hi, _ => nomatch hi
  | .selfHeatTimeout, _, e => still_execSelfHeatTimeout s t e
  | .bootokTimeout, _, e => still_execBootokTimeout s t e
  | .image, _, e => still_execImage s t e
  | .restart, _, e => still_execRestart s t e
  | .attest, _, e => still_execAttest s t e
  | .status, _, e => still_execStatus s t e
  | .unfreeze, _, e => still_execUnfreeze s t e
  | .config, _, e => still_execConfig s t e
  | .mailboxUnsupported, _, e => still_execMailboxUnsupported s t e
  | .privRegisterWrite x0 x1 x2 x3, _, e => still_execPrivRegisterWrite x0 x1 x2 x3 s t e
  | .curDistWrite x0 x1, _, e => still_execCurDistWrite x0 x1 s t e
  | .polite x0 x1, _, e => still_execPolite x0 x1 s t e
  | .kill x0, _, e => still_execKill x0 s t e
  | .ceilWrite x0 x1 x2, _, e => still_execCeilWrite x0 x1 x2 s t e
  | .xlrespRetry x0 x1, _, e => still_execXlrespRetry x0 x1 s t e
  | .xlrespFail x0 x1, _, e => still_execXlrespFail x0 x1 s t e
  | .migctlStart x0 x1 x2, _, e => still_execMigctlStart x0 x1 x2 s t e
  | .eyecmdRetrain x0, _, e => still_execEyecmdRetrain x0 s t e
  | .eyecmdRepair x0, _, e => still_execEyecmdRepair x0 s t e
  | .eyecmdClear x0, _, e => still_execEyecmdClear x0 s t e
  | .thrmWrite x0 x1, _, e => still_execThrmWrite x0 x1 s t e
  | .afenceClear x0 x1 x2, _, e => still_execAfenceClear x0 x1 x2 s t e
  | .gcfgEnable x0 x1 x2, _, e => still_execGcfgEnable x0 x1 x2 s t e
  | .gcfgDisable x0 x1 x2, _, e => still_execGcfgDisable x0 x1 x2 s t e
  | .tlbiComplete x0 x1 x2, _, e => still_execTlbiComplete x0 x1 x2 s t e
  | .bootok, _, e => still_execBootok s t e
  | .launchComplete x0, _, e => still_execLaunchComplete x0 s t e
  | .leaseGrant x0, _, e => still_execLeaseGrant x0 s t e
  | .adaptiveClockHoldTick x0, _, e => still_execAdaptiveClockHoldTick x0 s t e
  | .partitionReset x0, _, e => still_execPartitionReset x0 s t e
  | .slotRelease x0, _, e => still_execSlotRelease x0 s t e
  | .cxlMemHostWrite x0 x1, _, e => still_execCxlMemHostWrite x0 x1 s t e

theorem Instr.stirs_of_decodeWord {w : Word} {i : Instr} (h : decodeWord w = .ok i) : Instr.stirs i = false :=
  Instr.stirs_of_encode (encodeDecode w i h).2

/-- A word that passes the checks of R144 is the instruction that it decodes to. -/
theorem State.decodeWord_of_wordCheck {s : State} {st : StreamId} {x : Stream} {w : Issue} {i : Instr} (h : s.wordCheck st x w = .ok i) :
    decodeWord w.word = .ok i := by
  unfold State.wordCheck at h
  dsimp only at h
  repeat' split at h
  all_goals cases h
  all_goals assumption

/-- The instruction that a supervisor core accepts is the one that its word decodes to. -/
theorem State.decodeWord_of_supInstr {s : State} {i : Instr} (h : s.supInstr = some i) : decodeWord s.str.now.word = .ok i := by
  unfold State.supInstr at h
  dsimp only at h
  repeat' split at h
  all_goals cases h
  all_goals assumption

/-- The instruction of a stream's next word is one that its word decodes to. -/
theorem State.stirs_of_fetch {s t : State} {c st : Nat} {i : Instr} (h : s.fetch c st = (some i, t)) : Instr.stirs i = false := by
  unfold State.fetch at h
  dsimp only at h
  split at h
  next => cases h
  next j hj =>
    cases h
    exact Instr.stirs_of_decodeWord (State.decodeWord_of_wordCheck hj)

/-- An act either is an event or leaves the parts of `State.still` alone. -/
theorem State.perform_cases {j : Job} {s t : State} (h : s.perform j = .next t) :
    (∃ i, j = .event i ∧ exec i s = .next t) ∨ t.still = s.still := by
  cases j with
  | event i => exact .inl ⟨i, rfl, h⟩
  | sup c =>
    dsimp only [State.perform] at h
    split at h
    next i hi =>
      split at h
      next u hu =>
        cases h
        rw [State.still_supDone, still_exec i (Instr.stirs_of_decodeWord (State.decodeWord_of_supInstr hi)) hu, State.still_supEnter]
        exact .inr rfl
      all_goals cases h
    next =>
      cases h
      rw [State.still_supDone, State.still_misuse, State.still_supEnter]
      exact .inr rfl
  | piece c st =>
    cases h
    exact .inr (State.still_runPiece s c st)
  | word c st =>
    dsimp only [State.perform] at h
    split at h
    next i u hu => exact .inr ((still_exec i (State.stirs_of_fetch hu) h).trans (State.still_fetch_of hu))
    next u hu =>
      cases h
      exact .inr (State.still_fetch_of hu)

/-- The choice of a step's act takes it from the inputs or the planned events, and changes nothing else. -/
theorem State.still_agenda (s : State) : s.agenda.2.still = s.still := by
  unfold State.agenda
  repeat' split
  all_goals rfl

/-! ## The arbiter -/

/-- The arbiter's accounts: the units of the grants under way, and room in the FIFO (R398). -/
def State.powerOk (s : State) : Prop :=
  s.plat.units = heldUnits s.plat.waking ∧ s.plat.units ≤ 16 ∧ s.plat.fifo.length ≤ 64

theorem State.powerOk_of_arbiterOk {s : State} (h : s.arbiterOk) : s.powerOk := ⟨h.1, h.2.1, h.2.2.1⟩

theorem State.arbiterOk_congr {s t : State} (h : t.still = s.still) : t.arbiterOk ↔ s.arbiterOk := by
  simp only [State.still, Prod.mk.injEq] at h
  obtain ⟨-, -, -, hunits, hfifo, hwaking, -⟩ := h
  rw [State.arbiterOk, State.arbiterOk, hunits, hfifo, hwaking]

theorem State.powerOk_congr {s t : State} (h : t.still = s.still) : t.powerOk ↔ s.powerOk := by
  simp only [State.still, Prod.mk.injEq] at h
  obtain ⟨-, -, -, hunits, hfifo, hwaking, -⟩ := h
  rw [State.powerOk, State.powerOk, hunits, hfifo, hwaking]

theorem State.caps_congr {s t : State} (h : t.still = s.still) : t.caps = s.caps := by
  simp only [State.still, Prod.mk.injEq] at h
  exact h.2.2.2.2.2.2

theorem heldUnits_append_singleton (rs : List Inrush) (r : Inrush) : heldUnits (rs ++ [r]) = heldUnits rs + inrushCost r := by
  simp [heldUnits]

theorem heldUnits_erase {rs : List Inrush} {r : Inrush} (h : r ∈ rs) : heldUnits (rs.erase r) = heldUnits rs - inrushCost r := by
  have hp := ((List.perm_cons_erase h).map inrushCost).sum_nat
  rw [List.map_cons, List.sum_cons] at hp
  rw [heldUnits, heldUnits, hp, Nat.add_sub_cancel_left]

/-- Grants go on until the FIFO is empty or its head does not fit, where they are not cut short (R398). -/
theorem State.arbiterOk_grantPower {n : Nat} {s : State} (h : s.powerOk) (hn : s.plat.fifo.length < n) : (State.grantPower n s).arbiterOk := by
  induction n generalizing s with
  | zero => exact absurd hn (Nat.not_lt_zero _)
  | succ n ih =>
    obtain ⟨hunits, hle, hlen⟩ := h
    unfold State.grantPower
    split
    next hf => exact ⟨hunits, hle, hlen, fun r rs e => nomatch hf.symm.trans e⟩
    next r rs hf =>
      rw [hf, List.length_cons] at hlen hn
      split
      next hfits =>
        refine ih ⟨?_, hfits, Nat.le_of_succ_le hlen⟩ (Nat.lt_of_succ_lt_succ hn)
        exact (congrArg (· + inrushCost r) hunits).trans (heldUnits_append_singleton ..).symm
      next hfull =>
        refine ⟨hunits, hle, by rw [hf]; exact hlen, fun r' rs' e => ?_⟩
        cases hf.symm.trans e
        exact Nat.not_le.mp hfull

theorem State.caps_grantPower (n : Nat) (s : State) : (State.grantPower n s).caps = s.caps := by
  induction n generalizing s with
  | zero => rfl
  | succ n ih =>
    unfold State.grantPower
    split
    next => rfl
    next =>
      split
      next => exact ih _
      next => rfl

/-- The request of a clock enters the FIFO where it has room, or comes again on the next clock (R398). -/
def State.enqueuePower (s : State) (r : Inrush) : State :=
  if 64 ≤ s.plat.fifo.length then s.inClocks 1 (.inrushRequest r) else s.modPlat fun p => { p with fifo := p.fifo ++ [r] }

theorem State.admitPower_eq (s : State) : s.admitPower =
    State.grantPower 65 ((s.plat.arrivals.foldl insertInrush []).foldl State.enqueuePower (s.modPlat fun p => { p with arrivals := [] })) := rfl

theorem State.powerOk_enqueuePower {s : State} (h : s.powerOk) (r : Inrush) : (s.enqueuePower r).powerOk := by
  unfold State.enqueuePower
  split
  next => exact h
  next hroom => exact ⟨h.1, h.2.1, by simp [State.modPlat]; omega⟩

theorem State.caps_enqueuePower (s : State) (r : Inrush) : (s.enqueuePower r).caps = s.caps := by
  unfold State.enqueuePower
  split <;> rfl

theorem State.powerOk_foldl_enqueuePower {s : State} (h : s.powerOk) (rs : List Inrush) : (rs.foldl State.enqueuePower s).powerOk := by
  induction rs generalizing s with
  | nil => exact h
  | cons r rs ih => exact ih (State.powerOk_enqueuePower h r)

theorem State.caps_foldl_enqueuePower (s : State) (rs : List Inrush) : (rs.foldl State.enqueuePower s).caps = s.caps := by
  induction rs generalizing s with
  | nil => rfl
  | cons r rs ih => exact (ih _).trans (State.caps_enqueuePower s r)

theorem State.arbiterOk_admitPower {s : State} (h : s.powerOk) : s.admitPower.arbiterOk := by
  have hq := State.powerOk_foldl_enqueuePower (s := s.modPlat fun p => { p with arrivals := [] }) h (s.plat.arrivals.foldl insertInrush [])
  rw [State.admitPower_eq]
  exact State.arbiterOk_grantPower hq (Nat.lt_succ_of_le hq.2.2)

theorem State.caps_admitPower (s : State) : s.admitPower.caps = s.caps := by
  rw [State.admitPower_eq, State.caps_grantPower, State.caps_foldl_enqueuePower]
  rfl

/-! ## The events that move the arbiter -/

theorem State.arbiterOk_clockOn {s : State} : s.clockOn.arbiterOk ↔ s.arbiterOk := by
  unfold State.clockOn
  split <;> exact Iff.rfl

theorem State.caps_clockOn (s : State) : s.clockOn.caps = s.caps := by
  unfold State.clockOn
  split <;> rfl

/-- `TC_ADVANCE` either leaves clock and arbiter alone or, on a package clock, lets the arbiter take the requests of the clock before the clock
moves on (R3, R398). -/
theorem execTcAdvance_cases {s t : State} (h : execTcAdvance s = .next t) :
    t.still = s.still ∨ ∃ u v : State, u.still = s.still ∧ v.still = u.admitPower.still ∧ t.still = v.clockOn.still := by
  unfold execTcAdvance at h
  dsimp only at h
  cases h
  split
  next =>
    refine .inl ?_
    rw [State.still_foldl _ State.still_beginClock, State.still_foldl _ State.still_endClock]
  next =>
    refine .inr ⟨?_, ?_, ?ended, ?burnt, ?begun⟩
    case begun => rw [State.still_foldl _ State.still_beginClock, State.still_foldl _ (fun s n => State.still_modSlot s n _)]
    case burnt => exact State.still_foldl _ State.still_burn _ _
    case ended => exact State.still_foldl _ State.still_endClock _ s

/-- A completed power-up gives its units back, and the heads of the FIFO that fit have them (R398). -/
theorem execInrushComplete_cases {r : Inrush} {s t : State} (h : execInrushComplete r s = .next t) :
    t = s ∨ r ∈ s.plat.waking ∧ t = State.grantPower 65
      ((s.modPlat fun p => { p with units := p.units - inrushCost r, waking := p.waking.erase r }).turnOn r) := by
  unfold execInrushComplete at h
  cases h
  split
  next => exact .inl rfl
  next hw => exact .inr ⟨by simpa using hw, rfl⟩

theorem still_execInrushRequest {r : Inrush} {s t : State} (h : execInrushRequest r s = .next t) : t.still = s.still := by
  unfold execInrushRequest at h
  cases h
  split <;> rfl

theorem arbiterOk_execTcAdvance {s t : State} (hs : s.arbiterOk) (h : execTcAdvance s = .next t) : t.arbiterOk := by
  rcases execTcAdvance_cases h with hstill | ⟨u, v, hu, hv, ht⟩
  · exact (State.arbiterOk_congr hstill).mpr hs
  · have hpower : u.powerOk := (State.powerOk_congr hu).mpr (State.powerOk_of_arbiterOk hs)
    rw [State.arbiterOk_congr ht, State.arbiterOk_clockOn, State.arbiterOk_congr hv]
    exact State.arbiterOk_admitPower hpower

theorem caps_execTcAdvance {s t : State} (h : execTcAdvance s = .next t) : t.caps = s.caps := by
  rcases execTcAdvance_cases h with hstill | ⟨u, v, hu, hv, ht⟩
  · exact State.caps_congr hstill
  · rw [State.caps_congr ht, State.caps_clockOn, State.caps_congr hv, State.caps_admitPower, State.caps_congr hu]

theorem arbiterOk_execInrushComplete {r : Inrush} {s t : State} (hs : s.arbiterOk) (h : execInrushComplete r s = .next t) : t.arbiterOk := by
  rcases execInrushComplete_cases h with rfl | ⟨hr, rfl⟩
  · exact hs
  · obtain ⟨hunits, hle, hlen⟩ := State.powerOk_of_arbiterOk hs
    let u := s.modPlat fun p => { p with units := p.units - inrushCost r, waking := p.waking.erase r }
    have hu : u.powerOk :=
      ⟨(congrArg (· - inrushCost r) hunits).trans (heldUnits_erase hr).symm, Nat.le_trans (Nat.sub_le ..) hle, hlen⟩
    have hon : (u.turnOn r).powerOk := (State.powerOk_congr (State.still_turnOn u r)).mpr hu
    exact State.arbiterOk_grantPower hon (Nat.lt_succ_of_le hon.2.2)

theorem caps_execInrushComplete {r : Inrush} {s t : State} (h : execInrushComplete r s = .next t) : t.caps = s.caps := by
  rcases execInrushComplete_cases h with rfl | ⟨-, rfl⟩
  · rfl
  · rw [State.caps_grantPower, State.caps_congr (State.still_turnOn _ r)]
    rfl

/-- A reset leaves the arbiter empty, whatever it boots (R391). -/
theorem arbiterOk_execReset {s t : State} (h : execReset s = .next t) : t.arbiterOk := by
  have hempty : t.plat.units = 0 ∧ t.plat.fifo = [] ∧ t.plat.waking = [] := by
    cases h
    unfold State.bootRom
    dsimp only
    repeat' split
    all_goals exact ⟨rfl, rfl, rfl⟩
  obtain ⟨hunits, hfifo, hwaking⟩ := hempty
  rw [State.arbiterOk, hunits, hfifo, hwaking]
  exact ⟨rfl, Nat.zero_le _, Nat.zero_le _, nofun⟩

/-! ## Steps -/

/-- An event either leaves the parts of `State.still` alone or is one of the four. -/
theorem Instr.stirs_cases (i : Instr) :
    Instr.stirs i = false ∨ i = .tcAdvance ∨ (∃ r, i = .inrushRequest r) ∨ (∃ r, i = .inrushComplete r) ∨ i = .reset := by
  unfold Instr.stirs
  split
  case h_1 => exact .inr (.inl rfl)
  case h_2 r => exact .inr (.inr (.inl ⟨r, rfl⟩))
  case h_3 r => exact .inr (.inr (.inr (.inl ⟨r, rfl⟩)))
  case h_4 => exact .inr (.inr (.inr (.inr rfl)))
  case h_5 => exact .inl rfl

theorem arbiterOk_exec {i : Instr} {s t : State} (hs : s.arbiterOk) (h : exec i s = .next t) : t.arbiterOk := by
  rcases Instr.stirs_cases i with hi | rfl | ⟨r, rfl⟩ | ⟨r, rfl⟩ | rfl
  · exact (State.arbiterOk_congr (still_exec i hi h)).mpr hs
  · exact arbiterOk_execTcAdvance hs h
  · exact (State.arbiterOk_congr (still_execInrushRequest h)).mpr hs
  · exact arbiterOk_execInrushComplete hs h
  · exact arbiterOk_execReset h

theorem caps_exec {i : Instr} {s t : State} (hi : i ≠ .reset) (h : exec i s = .next t) : t.caps = s.caps := by
  rcases Instr.stirs_cases i with hc | rfl | ⟨r, rfl⟩ | ⟨r, rfl⟩ | rfl
  · exact State.caps_congr (still_exec i hc h)
  · exact caps_execTcAdvance h
  · exact State.caps_congr (still_execInrushRequest h)
  · exact caps_execInrushComplete h
  · exact absurd rfl hi

/-- Settles O58: only the clock, the arbiter's own events and a reset move the arbiter, and each of them keeps its accounts. -/
theorem arbiterKept : Obligations.ArbiterKept := by
  unfold Obligations.ArbiterKept
  intro s t hs h
  have hagenda : s.agenda.2.arbiterOk := (State.arbiterOk_congr s.still_agenda).mpr hs
  rcases State.perform_cases h with ⟨i, -, hexec⟩ | hstill
  · exact arbiterOk_exec hagenda hexec
  · exact (State.arbiterOk_congr hstill).mpr hagenda

/-- Settles O60: no instruction or event but a reset writes the caps. -/
theorem capsKept : Obligations.CapsKept := by
  unfold Obligations.CapsKept
  intro s t hr h
  rw [← State.caps_congr s.still_agenda]
  rcases State.perform_cases h with ⟨i, hi, hexec⟩ | hstill
  · exact caps_exec (fun e => hr (hi.trans (congrArg Job.event e))) hexec
  · exact State.caps_congr hstill

/-- Settles O59: after reset no power is asked for, and nothing but the constant predicates is listed in any memory or register file. -/
theorem arbiterAtReset : Obligations.ArbiterAtReset := by
  unfold Obligations.ArbiterAtReset
  refine ⟨⟨rfl, Nat.zero_le _, Nat.zero_le _, nofun⟩, rfl, rfl, fun c => ?_⟩
  have hk : Map.wf Core.reset.k = true := by simp [Core.reset]
  exact ⟨rfl, rfl, hk, rfl, rfl, rfl, rfl, rfl, rfl, rfl, rfl, rfl⟩

end Sys2Proof.Machine
end

section
/-! SUPPORT. The scalar words of the C stream: what they write under a true guard and that they do nothing under a false one, counts of bits,
and the positions and loop levels of the control flow (spec/08_isa_control.md R157 to R168, spec/02_timetable.md R41 to R47). -/

namespace Sys2Proof.Machine

/-! ## A false guard -/

/-- A meaning that is guarded as a whole leaves the state as it is (R47). -/
theorem next_guarded_of_false {s : State} (hg : s.guard = false) (a : State) :
    (.next (if s.guard then a else s) : Result) = .next s :=
  congrArg _ (if_neg (Bool.eq_false_iff.mp hg))

theorem next_not_guarded_of_false {s : State} (hg : s.guard = false) (a : State) :
    (.next (if !s.guard then s else a) : Result) = .next s :=
  congrArg _ (if_pos (by rw [hg]; rfl))

/-- Settles O24: each word is guarded as a whole. -/
theorem falseGuard : Obligations.FalseGuard := by
  unfold Obligations.FalseGuard
  intro h s hg
  have on := next_guarded_of_false hg
  have off := next_not_guarded_of_false hg
  simp only [List.forall_mem_cons, List.not_mem_nil, false_imp_iff, implies_true, and_true]
  refine ⟨fun f => ⟨on _, on _, on _, on _, on _, on _, on _, on _, on _, on _, on _, on _, on _, on _, on _, on _, on _, on _, on _, on _,
      off _, off _, on _, on _, on _, on _⟩,
    fun f => ⟨on _, on _, on _, on _, on _⟩, fun f => ⟨on _, on _⟩, fun f => ⟨off _, off _, off _, off _, off _, off _⟩,
    fun f => ⟨on _, off _, off _, on _, on _⟩, fun f => ⟨on _, on _, off _, off _, off _⟩, fun f => ?_⟩
  simp [exec, execFpush, hg]

/-! ## Results of scalar arithmetic -/

theorem clzFrom_le (a : Word) (n : Nat) : clzFrom a n ≤ n := by
  induction n with
  | zero => exact Nat.le_refl 0
  | succ n ih =>
    rw [clzFrom]
    split
    · omega
    · omega

/-- The bits that `CLZ` counts are clear. -/
theorem getLsbD_of_clzFrom_le {a : Word} {n i : Nat} (hi : i < n) (hc : n - clzFrom a n ≤ i) : a.getLsbD i = false := by
  induction n with
  | zero => exact absurd hi (Nat.not_lt_zero i)
  | succ n ih =>
    rw [clzFrom] at hc
    split at hc
    next hset => omega
    next hclear =>
      by_cases hin : i = n
      · subst hin; simpa using hclear
      · exact ih (by omega) (by omega)

/-- The bit below those that `CLZ` counts is set. -/
theorem getLsbD_clzFrom {a : Word} {n : Nat} (hc : clzFrom a n < n) : a.getLsbD (n - 1 - clzFrom a n) = true := by
  induction n with
  | zero => exact absurd hc (Nat.not_lt_zero _)
  | succ n ih =>
    rw [clzFrom] at hc ⊢
    split
    next hset => exact hset
    next hclear =>
      rw [if_neg hclear] at hc
      have hb := ih (by omega)
      rwa [show n + 1 - 1 - (clzFrom a n + 1) = n - 1 - clzFrom a n by omega]

theorem popFrom_eq_length (a : Word) (n : Nat) : popFrom a n = ((List.range n).filter fun i => a.getLsbD i).length := by
  induction n with
  | zero => rfl
  | succ n ih =>
    rw [popFrom, ih, List.range_succ, List.filter_append, List.length_append]
    cases hb : a.getLsbD n <;> simp [hb]

theorem toNat_extractLsb'_low6 (b : Word) : (b.extractLsb' 0 6).toNat = b.toNat % 64 := by
  simp [BitVec.extractLsb'_toNat]

theorem if_bne_zero (c : Word) (a b : Word) : (if c != 0 then a else b) = if c = 0 then b else a := by
  by_cases hc : c = 0 <;> simp [hc]

theorem if_not_decide (p : Prop) [Decidable p] (a b : Word) : (if (!decide p) = true then a else b) = if p then b else a := by
  by_cases hp : p <;> simp [hp]

theorem exec_alu_of_guard {s : State} (hg : s.guard = true) (f : Rrr) (lat : Nat) (op : Word → Word → Word) {v : Word}
    (hv : op (s.rs f.ra) (s.rs f.rb) = v) : (.next (s.alu f lat op) : Result) = .next (s.landS f.rd (s.tc + lat) v) := by
  rw [State.alu_of_guard hg, hv]

/-- Settles O13, operation by operation. -/
theorem scalarArithmetic : Obligations.ScalarArithmetic := by
  unfold Obligations.ScalarArithmetic
  intro h f s hg a b put
  have run := fun lat op v => exec_alu_of_guard (v := v) hg f lat op
  refine ⟨run 1 _ _ rfl, run 1 _ _ rfl, run 3 _ _ ?_, fun hm => run 3 _ _ ?_, fun hm => run 3 _ _ ?_, fun hm => run 3 _ _ ?_,
    run 1 _ _ rfl, run 1 _ _ rfl, run 1 _ _ rfl, run 1 _ _ rfl, ⟨run 1 _ _ ?_, run 1 _ _ ?_, run 1 _ _ ?_⟩,
    fun hm => ⟨run 1 _ _ ?_, run 1 _ _ ?_⟩, fun hm => ⟨run 1 _ _ ?_, run 1 _ _ ?_⟩, fun hm => run 1 _ _ ?_, fun hm => run 1 _ _ ?_,
    fun hm => run 1 _ _ ?_, fun hm => run 1 _ _ ?_, fun hm => run 1 _ _ ?_, fun hm => run 1 _ _ ?_, run 1 _ _ (if_bne_zero ..),
    ⟨clzFrom a 64, clzFrom_le a 64, run 1 _ _ rfl, fun i hi => ?_, fun hn => getLsbD_clzFrom hn⟩,
    run 1 _ _ (congrArg _ (popFrom_eq_length a 64))⟩
  case refine_1 => exact BitVec.eq_of_toNat_eq (by simp [a, b])
  case refine_5 | refine_6 | refine_7 => rw [toNat_extractLsb'_low6]
  case refine_18 =>
    by_cases h64 : i < 64
    · exact getLsbD_of_clzFrom_le h64 hi
    · exact BitVec.getLsbD_of_ge _ _ (by omega)
  case refine_15 | refine_17 =>
    rw [hm]
    exact if_not_decide ..
  all_goals simp [hm, mulHigh, less, relation, a, b]

/-! ## Control flow -/

/-- A change of the executing stream is what it makes of that stream. -/
theorem State.modStr_congr {s : State} {f g : Stream → Stream} (h : f s.str = g s.str) : s.modStr f = s.modStr g :=
  congrArg (fun x : Stream => s.setCore s.cur.1 { s.me with streams := Tbl.set s.me.streams s.cur.2 x }) h

theorem exec_flow {s : State} {i : Instr} {g : Stream → Stream} (h : s.str.flow i = g s.str) :
    (.next (s.modStr fun x => x.flow i) : Result) = .next (s.modStr g) :=
  congrArg _ (State.modStr_congr h)

theorem jumpTo_eq {pc : Nat} {off : BitVec 32} (h : 0 ≤ (pc : Int) + 8 * off.toInt) : (jumpTo pc off : Int) = pc + 8 * off.toInt := by
  rw [jumpTo, if_neg (by omega)]
  omega

theorem map_filter_ranges_cons (r : BitVec 11) (l : List (BitVec 11)) :
    ((r :: l).filter fun r => r.extractLsb' 0 5 != 0).map (fun r => ((r.extractLsb' 5 6).toNat, (r.extractLsb' 0 5).toNat + 1)) =
      ringRange r ++ (l.filter fun r => r.extractLsb' 0 5 != 0).map fun r => ((r.extractLsb' 5 6).toNat, (r.extractLsb' 0 5).toNat + 1) := by
  rw [ringRange]
  by_cases hz : r.extractLsb' 0 5 = 0
  · rw [if_pos hz, List.filter_cons_of_neg (by rw [hz]; decide), List.nil_append]
  · rw [if_neg hz, List.filter_cons, if_pos (bne_iff_ne.mpr hz), List.map_cons, List.singleton_append]

/-- The ranges of an `LRING` are its fields that are not empty (R141). -/
theorem ringRanges_eq (r0 r1 r2 r3 : BitVec 11) :
    ringRange r0 ++ ringRange r1 ++ ringRange r2 ++ ringRange r3 =
      ([r0, r1, r2, r3].filter fun r => r.extractLsb' 0 5 != 0).map fun r => ((r.extractLsb' 5 6).toNat, (r.extractLsb' 0 5).toNat + 1) := by
  rw [map_filter_ranges_cons, map_filter_ranges_cons, map_filter_ranges_cons, map_filter_ranges_cons, List.filter_nil, List.map_nil,
    List.append_nil, List.append_assoc, List.append_assoc]

theorem loopCount_of_field {f : Loop} (x : Stream) (h : f.csrc = 0) : loopCount x f = f.count.toNat := if_pos h

theorem loopCount_of_constant {f : Loop} (x : Stream) (h : f.csrc = 1) : loopCount x f = (Map.get x.lk (f.count.toNat % 16)).toNat := by
  rw [loopCount, if_neg (by rw [h]; decide), if_pos h]

theorem loopCount_of_segment {f : Loop} (x : Stream) (h0 : f.csrc ≠ 0) (h1 : f.csrc ≠ 1) :
    loopCount x f = if f.count.getLsbD 0 then x.segp.toNat / 65536 else x.segp.toNat % 65536 := by
  have hlt := x.segp.isLt
  rw [loopCount, if_neg h0, if_neg h1, BitVec.extractLsb'_toNat, BitVec.extractLsb'_toNat, Nat.shiftRight_eq_div_pow,
    Nat.mod_eq_of_lt (by omega), Nat.shiftRight_zero]

/-- The iterations of a `LOOP` that its stream issues, with those of its ring's stages (R42). -/
def Stream.loopTotal (x : Stream) (f : Loop) : Nat := loopCount x f + max ((x.lring.map (·.1)).getD 0) 1 - 1

/-- The offset of the last word of a `LOOP`'s body (R41). -/
def Stream.loopLast (x : Stream) (f : Loop) : Nat := x.now.pc + 8 * (f.blen.toNat + 1)

/-- The level that a `LOOP` opens (R41, R42). -/
def Stream.loopLevel (x : Stream) (f : Loop) : Level :=
  { first := x.now.pc + 8, last := x.loopLast f, n := loopCount x f, d := (x.lring.map (·.1)).getD 0, total := x.loopTotal f, idx := 0,
    ringed := x.lring.isSome, ranges := (x.lring.map (·.2)).getD [] }

theorem Stream.loop_of_total_eq_zero {x : Stream} {f : Loop} (h : x.loopTotal f = 0) :
    x.loop f = { x with pc := (advanceLoops (x.loopLast f) x.loops).1, loops := (advanceLoops (x.loopLast f) x.loops).2, lring := none } := by
  unfold Stream.loopTotal at h
  unfold Stream.loop
  cases hl : x.lring with
  | none => simp only [hl] at h ⊢; exact if_pos h
  | some r => simp only [hl] at h ⊢; exact if_pos h

theorem Stream.loop_of_total_pos {x : Stream} {f : Loop} (h : 0 < x.loopTotal f) :
    x.loop f = { x with pc := x.now.pc + 8, loops := x.loopLevel f :: x.loops, lring := none } := by
  unfold Stream.loopTotal at h
  unfold Stream.loop Stream.loopLevel Stream.loopTotal
  cases hl : x.lring with
  | none => simp only [hl] at h ⊢; exact if_neg (Nat.pos_iff_ne_zero.mp h)
  | some r => simp only [hl] at h ⊢; exact if_neg (Nat.pos_iff_ne_zero.mp h)

theorem Stream.loop_eq (x : Stream) (f : Loop) : x.loop f = { x with pc := (x.loop f).pc, loops := (x.loop f).loops, lring := none } := by
  rcases Nat.eq_zero_or_pos (x.loopTotal f) with h | h
  · rw [Stream.loop_of_total_eq_zero h]
  · rw [Stream.loop_of_total_pos h]

/-- Settles O16: each word is one change of its stream. -/
theorem jumpsAndLoops : Obligations.JumpsAndLoops := by
  unfold Obligations.JumpsAndLoops
  intro h s x
  refine ⟨fun f hf => ⟨jumpTo x.now.pc f.off, jumpTo_eq hf, exec_flow rfl, exec_flow rfl⟩, fun f o r hr => exec_flow ?_,
    fun f n d hd h0 h1 h2 => ?_,
    fun f => exec_flow (congrArg (fun rs => { x with lring := some (f.d.toNat, rs) }) (ringRanges_eq ..))⟩
  · have hret : s.str.ret = o :: r := hr
    simp [Stream.flow, hret]
  · intro total last
    have hn : n = loopCount x f := by
      by_cases hf : f.csrc = 0
      · rw [h0 hf, loopCount_of_field x hf]
      · by_cases hc : f.csrc = 1
        · rw [h1 hc, loopCount_of_constant x hc]
        · rw [h2 hf hc, loopCount_of_segment x hf hc]
    subst hn hd
    have hstr : (s.modStr fun x => x.flow (.loop h f)).str = x.loop f := State.str_modStr ..
    refine ⟨s.modStr fun x => x.flow (.loop h f), rfl, ?_, fun ht => ?_, fun ht => ?_, ?_⟩
    · rw [hstr, Stream.loop_eq]
    · rw [hstr, Stream.loop_of_total_pos ht]
      exact ⟨rfl, x.loopLevel f, rfl, rfl, rfl, rfl, rfl, rfl, rfl, rfl, rfl⟩
    · rw [hstr, Stream.loop_of_total_eq_zero ht]
      exact ⟨rfl, rfl⟩
    · rw [hstr]
      exact State.modStr_congr (x.loop_eq f)

end Sys2Proof.Machine
end

section
/-! SUPPORT. Pointers, handles and scalar memory: the bits of the pointer operations, the checks of R83 in their order, handle fields, the bytes of
scalar loads and stores, and control registers (spec/08_isa_control.md R169 to R180, spec/04_memory_spaces.md R82 to R88). -/

namespace Sys2Proof.Machine

/-! ## The bits of pointers -/

theorem offWidth_le (t : Nat) : offWidth t ≤ 60 := by
  unfold offWidth
  split <;> decide

theorem getLsbD_ofNat_two_pow_sub_one {n : Nat} (w i : Nat) (hi : i < w) : (BitVec.ofNat w (2 ^ n - 1)).getLsbD i = decide (i < n) := by
  rw [BitVec.getLsbD_ofNat, Nat.testBit_two_pow_sub_one, decide_eq_true hi, Bool.true_and]

/-- A sum over the offset field leaves every other bit (R87, R171). -/
theorem getLsbD_ptrAdd (p x : Word) {i : Nat} (hi : i < 64) :
    (ptrAdd p x).getLsbD i = if i < offWidth (ptrTag p) then (p + x).getLsbD i else p.getLsbD i := by
  simp only [ptrAdd, BitVec.getLsbD_or, BitVec.getLsbD_and, BitVec.getLsbD_not, getLsbD_ofNat_two_pow_sub_one 64 i hi]
  by_cases ho : i < offWidth (ptrTag p) <;> simp [ho, hi]

theorem getLsbD_ptrAdd_of_le (p x : Word) {i : Nat} (hi : offWidth (ptrTag p) ≤ i) : (ptrAdd p x).getLsbD i = p.getLsbD i := by
  by_cases h64 : i < 64
  · rw [getLsbD_ptrAdd p x h64, if_neg (Nat.not_lt.mpr hi)]
  · rw [BitVec.getLsbD_of_ge _ _ (Nat.not_lt.mp h64), BitVec.getLsbD_of_ge _ _ (Nat.not_lt.mp h64)]

@[simp] theorem ptrTag_ptrAdd (p x : Word) : ptrTag (ptrAdd p x) = ptrTag p := by
  have hw := offWidth_le (ptrTag p)
  refine congrArg BitVec.toNat (BitVec.eq_of_getLsbD_eq fun i hi => ?_)
  rw [BitVec.getLsbD_extractLsb', BitVec.getLsbD_extractLsb', getLsbD_ptrAdd_of_le p x (by omega)]

theorem toNat_ptrAdd_mod (p x : Word) :
    (ptrAdd p x).toNat % 2 ^ offWidth (ptrTag p) = (p.toNat + x.toNat) % 2 ^ offWidth (ptrTag p) := by
  have hw := offWidth_le (ptrTag p)
  have hd : 2 ^ offWidth (ptrTag p) ∣ 2 ^ 64 := Nat.pow_dvd_pow 2 (by omega)
  rw [← Nat.mod_mod_of_dvd (p.toNat + x.toNat) hd, ← BitVec.toNat_add]
  refine Nat.eq_of_testBit_eq fun i => ?_
  rw [Nat.testBit_mod_two_pow, Nat.testBit_mod_two_pow]
  by_cases hi : i < offWidth (ptrTag p)
  · rw [BitVec.testBit_toNat, BitVec.testBit_toNat, getLsbD_ptrAdd p x (by omega), if_pos hi]
  · rw [decide_eq_false hi, Bool.false_and, Bool.false_and]

theorem toNat_padd_mod (p b : Word) (k : Nat) :
    (ptrAdd p (b <<< k)).toNat % 2 ^ offWidth (ptrTag p) = (p.toNat + b.toNat * 2 ^ k) % 2 ^ offWidth (ptrTag p) := by
  have hw := offWidth_le (ptrTag p)
  have hd : 2 ^ offWidth (ptrTag p) ∣ 2 ^ 64 := Nat.pow_dvd_pow 2 (by omega)
  rw [toNat_ptrAdd_mod, BitVec.toNat_shiftLeft, Nat.shiftLeft_eq, Nat.add_mod, Nat.mod_mod_of_dvd _ hd, ← Nat.add_mod]

/-! ## The word of `SPTEST` -/

/-- The fields of `SPTEST`'s word (R169): tag, number, and the three test bits. -/
theorem sptest_fields (t num : Nat) (ok own timed : Bool) (ht : t < 16) (hn : num < 1024) (v : Word)
    (hv : v = BitVec.ofNat 64 (t + num * 2 ^ 16 + (if ok then 2 ^ 32 else 0) + (if own then 2 ^ 33 else 0) + if timed then 2 ^ 34 else 0)) :
    (v.extractLsb' 0 4).toNat = t ∧ v.extractLsb' 4 12 = 0 ∧ (v.extractLsb' 16 10).toNat = num ∧ v.extractLsb' 26 6 = 0 ∧
      v.getLsbD 32 = ok ∧ v.getLsbD 33 = own ∧ v.getLsbD 34 = timed ∧ v.extractLsb' 35 29 = 0 := by
  have hb : ∀ (x : Word) (k : Nat) (b : Bool), x.toNat / 2 ^ k % 2 = b.toNat → x.getLsbD k = b := fun x k b hx => by
    rw [← BitVec.testBit_toNat, Nat.testBit_eq_decide_div_mod_eq, hx]
    cases b <;> rfl
  have hbit : ∀ (b : Bool) (m : Nat), (if b then m else 0) = b.toNat * m := fun b m => by cases b <;> simp
  have hok := ok.toNat_lt
  have hown := own.toNat_lt
  have htimed := timed.toNat_lt
  have hnat : v.toNat = t + num * 65536 + ok.toNat * 4294967296 + own.toNat * 8589934592 + timed.toNat * 17179869184 := by
    rw [hv, hbit, hbit, hbit, BitVec.toNat_ofNat]
    exact Nat.mod_eq_of_lt (by omega)
  refine ⟨?_, BitVec.eq_of_toNat_eq ?_, ?_, BitVec.eq_of_toNat_eq ?_, hb _ _ _ ?_, hb _ _ _ ?_, hb _ _ _ ?_, BitVec.eq_of_toNat_eq ?_⟩
  case refine_5 | refine_6 | refine_7 => omega
  all_goals
    simp only [BitVec.extractLsb'_toNat, Nat.shiftRight_eq_div_pow, BitVec.ofNat_eq_ofNat, BitVec.toNat_ofNat]
    omega

/-! ## The pointer of `SPCAST.G` -/

theorem ptrTag_eq_div (p : Word) : ptrTag p = p.toNat / 2 ^ 60 := by
  have := p.isLt
  rw [ptrTag, BitVec.extractLsb'_toNat, Nat.shiftRight_eq_div_pow]
  omega

/-- The bits of a number above those of another one are a sum with it. -/
theorem toNat_ofNat_or {hi w : Nat} {off : Word} (ho : off.toNat < 2 ^ w) (hd : 2 ^ w ∣ hi) (hlt : hi < 2 ^ 64) :
    (BitVec.ofNat 64 hi ||| off).toNat = hi + off.toNat := by
  obtain ⟨q, rfl⟩ := hd
  rw [BitVec.toNat_or, BitVec.toNat_ofNat, Nat.mod_eq_of_lt hlt, ← Nat.two_pow_add_eq_or_of_lt ho]

theorem extractLsb'_eq_zero {lo n : Nat} {p : Word} (h : p.toNat / 2 ^ lo % 2 ^ n = 0) : p.extractLsb' lo n = 0#n := by
  rw [← BitVec.toNat_inj, BitVec.extractLsb'_toNat, Nat.shiftRight_eq_div_pow, h]
  rfl

/-- A pointer's tag and what lies below it. -/
theorem ptrTag_of_toNat {p : Word} {t m k : Nat} (h : p.toNat = t * 2 ^ 60 + m + k) (hm : m + k < 2 ^ 60) : ptrTag p = t := by
  rw [ptrTag_eq_div, h]
  omega

/-- The fields of a pointer that is the sum of its tag, its number and its offset (R82). -/
def IsPointer (p : Word) (t n off : Nat) : Prop :=
  ptrTag p = t ∧ ptrOff p = off ∧ ptrZeroOk p = true ∧ (t = 9 ∨ t = 10 ∨ t = 11 → ptrNum p = n)

section
variable {p : Word} {n off : Nat}

theorem isPointer_device (hp : p.toNat = 0 * 2 ^ 60 + off) (ho : off < 2 ^ 57) : IsPointer p 0 n off := by
  have htag : ptrTag p = 0 := by rw [ptrTag_eq_div]; omega
  have hz : p.extractLsb' 57 3 = 0 := extractLsb'_eq_zero (by omega)
  refine ⟨htag, ?_, by simp [ptrZeroOk, htag, hz], fun h => absurd h (by decide)⟩
  simp only [ptrOff, htag, offWidth]
  omega

theorem isPointer_private (hp : p.toNat = 8 * 2 ^ 60 + off) (ho : off < 2 ^ 24) : IsPointer p 8 n off := by
  have htag : ptrTag p = 8 := by rw [ptrTag_eq_div]; omega
  have hz : p.extractLsb' 24 36 = 0 := extractLsb'_eq_zero (by omega)
  refine ⟨htag, ?_, by simp [ptrZeroOk, htag, hz], fun h => absurd h (by decide)⟩
  simp only [ptrOff, htag, offWidth]
  omega

theorem isPointer_scratchpad (hp : p.toNat = 9 * 2 ^ 60 + n * 2 ^ 50 + off) (hn : n ≤ 767) (ho : off < 2 ^ 23) : IsPointer p 9 n off := by
  have htag : ptrTag p = 9 := by rw [ptrTag_eq_div]; omega
  have hz : p.extractLsb' 23 27 = 0 := extractLsb'_eq_zero (by omega)
  have hnum : ptrNum p = n := by
    simp only [ptrNum, htag, BitVec.extractLsb'_toNat, Nat.shiftRight_eq_div_pow]
    simp only [Nat.reducePow] at *
    omega
  refine ⟨htag, ?_, by simp [ptrZeroOk, htag, hz, hnum, hn], fun _ => hnum⟩
  simp only [ptrOff, htag, offWidth]
  omega

theorem isPointer_quad (hp : p.toNat = 10 * 2 ^ 60 + n * 2 ^ 52 + off) (hn : n ≤ 191) (ho : off < 2 ^ 24) : IsPointer p 10 n off := by
  have htag : ptrTag p = 10 := by rw [ptrTag_eq_div]; omega
  have hz : p.extractLsb' 24 28 = 0 := extractLsb'_eq_zero (by omega)
  have hnum : ptrNum p = n := by
    simp only [ptrNum, htag, BitVec.extractLsb'_toNat, Nat.shiftRight_eq_div_pow]
    simp only [Nat.reducePow] at *
    omega
  refine ⟨htag, ?_, by simp [ptrZeroOk, htag, hz, hnum, hn], fun _ => hnum⟩
  simp only [ptrOff, htag, offWidth]
  omega

theorem isPointer_die (hp : p.toNat = 11 * 2 ^ 60 + n * 2 ^ 57 + off) (hn : n ≤ 7) (ho : off < 2 ^ 28) : IsPointer p 11 n off := by
  have htag : ptrTag p = 11 := by rw [ptrTag_eq_div]; omega
  have hz : p.extractLsb' 28 29 = 0 := extractLsb'_eq_zero (by omega)
  have hnum : ptrNum p = n := by
    simp only [ptrNum, htag, BitVec.extractLsb'_toNat, Nat.shiftRight_eq_div_pow]
    simp only [Nat.reducePow] at *
    omega
  refine ⟨htag, ?_, by simp [ptrZeroOk, htag, hz], fun _ => hnum⟩
  simp only [ptrOff, htag, offWidth]
  omega

end

/-- Where the number fits its field and the offset fits its own, `SPCAST.G` builds the pointer of both (R82, R170). -/
theorem isPointer_castPtr {t n : Nat} {a : Word} (ht : t = 0 ∨ t = 8 ∨ t = 9 ∧ n ≤ 767 ∨ t = 10 ∧ n ≤ 191 ∨ t = 11 ∧ n ≤ 7)
    (ha : a.toNat < 2 ^ offWidth t) : IsPointer (castPtr t n a) t n a.toNat := by
  obtain rfl | rfl | ⟨rfl, hn⟩ | ⟨rfl, hn⟩ | ⟨rfl, hn⟩ := ht
  · have hc : castPtr 0 n a = BitVec.ofNat 64 (0 * 2 ^ 60) ||| a := by simp [castPtr]
    exact isPointer_device (hc ▸ toNat_ofNat_or (w := 57) ha (by simp) (by simp)) ha
  · have hc : castPtr 8 n a = BitVec.ofNat 64 (8 * 2 ^ 60) ||| a := by simp [castPtr]
    exact isPointer_private (hc ▸ toNat_ofNat_or (w := 24) ha (by omega) (by omega)) ha
  · exact isPointer_scratchpad (toNat_ofNat_or (hi := 9 * 2 ^ 60 + n * 2 ^ 50) (w := 23) ha (by omega) (by omega)) hn ha
  · exact isPointer_quad (toNat_ofNat_or (hi := 10 * 2 ^ 60 + n * 2 ^ 52) (w := 24) ha (by omega) (by omega)) hn ha
  · exact isPointer_die (toNat_ofNat_or (hi := 11 * 2 ^ 60 + n * 2 ^ 57) (w := 28) ha (by omega) (by omega)) hn ha

theorem ptrNum_lt (p : Word) : ptrNum p < 1024 := by
  unfold ptrNum
  split
  · exact (p.extractLsb' 50 10).isLt
  · exact Nat.lt_trans (p.extractLsb' 52 8).isLt (by decide)
  · exact Nat.lt_trans (p.extractLsb' 57 3).isLt (by decide)
  · decide

theorem exec_spcastS_of_guard (h : Hdr) {f : Rrr} {s : State} (hg : s.guard = true) {p : Word} (hp : p = s.rs f.ra) :
    exec (.spcastS h f) s = .next (if ptrTag p = f.md.toNat % 16 then
      s.withPtr p 1 (fun _ => true) 1 fun s => s.landS f.rd (s.tc + 1) (BitVec.ofNat 64 (ptrOff p)) else s.faultPtr .pointer 0 p) := by
  by_cases ht : ptrTag p = f.md.toNat % 16 <;> simp [exec, execSpcastS, hg, ← hp, ht]

/-- The number of an `SPCAST.G` fits its field (R170). -/
def castNumOk (t n : Nat) : Bool :=
  match t with
  | 9 => n ≤ 767
  | 10 => n ≤ 191
  | 11 => n ≤ 7
  | _ => true

theorem castNumOk_eq_false_iff (t n : Nat) : castNumOk t n = false ↔ t = 9 ∧ 767 < n ∨ t = 10 ∧ 191 < n ∨ t = 11 ∧ 7 < n := by
  unfold castNumOk
  split <;> simp_all

theorem exec_spcastG_of_guard (h : Hdr) {f : Rrr} {s : State} (hg : s.guard = true) {t n : Nat} (ht : t = f.md.toNat % 16)
    (hn : n = if f.md.getLsbD 5 then ownNum s.cur.1 t else (s.rs f.rb).toNat) :
    exec (.spcastG h f) s = .next (if castNumOk t n = false then s.faultPtr .pointer 2 (s.rs f.ra)
      else if s.ptrLimit (castPtr t n 0) ≤ (s.rs f.ra).toNat then s.faultPtr .pointer 3 (s.rs f.ra)
      else s.landS f.rd (s.tc + 1) (castPtr t n (s.rs f.ra))) := by
  subst ht hn
  simp only [exec, execSpcastG, hg, Bool.not_true, if_neg Bool.false_ne_true, ← Bool.not_eq_true']
  rfl

/-- Settles O17: the fields of what each word writes. -/
theorem pointerInstructions : Obligations.PointerInstructions := by
  unfold Obligations.PointerInstructions
  intro h f s hg p
  refine ⟨⟨s.sptest p, exec_alu_of_guard hg f 1 _ rfl, ?_⟩, fun ht hc => ?_, fun t n ht hn hfit hlim ho => ?_,
    ⟨ptrAdd p (s.rs f.rb <<< (f.md.toNat % 64)), exec_alu_of_guard hg f 1 _ rfl, ptrTag_ptrAdd .., toNat_padd_mod ..,
      fun i hi => getLsbD_ptrAdd_of_le _ _ hi⟩⟩
  · intro ok
    have hnum : (if ptrTag p == 9 || ptrTag p == 10 || ptrTag p == 11 then ptrNum p else 0) =
        if ptrTag p = 9 ∨ ptrTag p = 10 ∨ ptrTag p = 11 then ptrNum p else 0 := by
      simp only [Bool.or_eq_true, beq_iff_eq, or_assoc]
    have hlt : (if ptrTag p == 9 || ptrTag p == 10 || ptrTag p == 11 then ptrNum p else 0) < 1024 := by
      have := ptrNum_lt p
      split <;> omega
    rw [← hnum]
    exact sptest_fields (ptrTag p) _ ok _ _ (p.extractLsb' 60 4).isLt hlt _ rfl
  · rw [exec_spcastS_of_guard h hg rfl, if_pos ht, State.withPtr_ok _ hc]
    rfl
  · refine ⟨castPtr t n p, ?_, isPointer_castPtr hfit ho⟩
    have hok : ¬castNumOk t n = false := by
      rw [castNumOk_eq_false_iff]
      omega
    rw [exec_spcastG_of_guard h hg ht hn, if_neg hok, if_neg (Nat.not_le.mpr hlim)]

/-! ## The checks of R83 -/

/-- The first check of R83 that fails on a cohort's stream, with the condition on the space and the alignment of the word. -/
theorem ptrCheck_cohort {s : State} (hc : isSup s.cur.1 = false) (p : Word) (n : Nat) (spaceOk : Nat → Bool) (align : Nat) :
    s.ptrCheck p n spaceOk align =
      if ¬(ptrTag p = 0 ∨ 8 ≤ ptrTag p ∧ ptrTag p ≤ 11) then some (.pointer, 1)
      else if spaceOk (ptrTag p) = false then some (.pointer, 0)
      else if ptrZeroOk p = false then some (.pointer, 2)
      else if s.ptrLimit p < ptrOff p + n then some (.pointer, 3)
      else if ptrTag p = 9 ∧ ptrNum p ≠ s.cur.1 then some (.foreign, 4)
      else if ptrTag p = 10 ∧ ptrNum p ≠ s.cur.1 / 4 then some (.foreign, 5)
      else if ptrOff p % align ≠ 0 then some (.pointer, 0)
      else none := by
  have htag : (!tagOk (ptrTag p)) = true ↔ ¬(ptrTag p = 0 ∨ 8 ≤ ptrTag p ∧ ptrTag p ≤ 11) := by
    simp only [tagOk, Bool.not_eq_true', Bool.or_eq_false_iff, beq_eq_false_iff_ne]
    omega
  simp only [State.ptrCheck, State.ptrOwner, hc, htag, Bool.not_eq_true', Bool.and_eq_true, decide_eq_true_eq, bne_iff_ne, quadOf,
    if_neg Bool.false_ne_true]
  by_cases h9 : ptrTag p = 9 ∧ ptrNum p ≠ s.cur.1
  · simp only [if_pos h9]
  · by_cases h10 : ptrTag p = 10 ∧ ptrNum p ≠ s.cur.1 / 4
    · simp only [if_neg h9, if_pos h10]
    · simp only [if_neg h9, if_neg h10, ite_not]

/-- The first check of R83 that a scalar word's pointer fails, as R170, R174 and R175 list them; `phased` tells that the word may use a phased
space. -/
def State.firstCheck (s : State) (p : Word) (n : Nat) (phased : Bool) (align : Nat) : Option (FaultKind × Nat) :=
  if ¬(ptrTag p = 0 ∨ 8 ≤ ptrTag p ∧ ptrTag p ≤ 11) then some (FaultKind.pointer, 1)
  else if phased = false ∧ (ptrTag p = 0 ∨ ptrTag p = 11) then some (.pointer, 0)
  else if ptrZeroOk p = false then some (.pointer, 2)
  else if s.ptrLimit p < ptrOff p + n then some (.pointer, 3)
  else if ptrTag p = 9 ∧ ptrNum p ≠ s.cur.1 then some (.foreign, 4)
  else if ptrTag p = 10 ∧ ptrNum p ≠ s.cur.1 / 4 then some (.foreign, 5)
  else if ptrOff p % align ≠ 0 then some (.pointer, 0)
  else none

theorem ptrCheck_any_eq_firstCheck {s : State} (hc : isSup s.cur.1 = false) (p : Word) (n align : Nat) :
    s.ptrCheck p n (fun _ => true) align = s.firstCheck p n true align := by
  rw [ptrCheck_cohort hc, State.firstCheck]
  simp only [Bool.true_eq_false, false_and]

theorem ptrCheck_timed_eq_firstCheck {s : State} (hc : isSup s.cur.1 = false) (p : Word) (n align : Nat) :
    s.ptrCheck p n timedTag align = s.firstCheck p n false align := by
  rw [ptrCheck_cohort hc, State.firstCheck]
  by_cases ht : ptrTag p = 0 ∨ 8 ≤ ptrTag p ∧ ptrTag p ≤ 11
  · have htimed : timedTag (ptrTag p) = false ↔ ptrTag p = 0 ∨ ptrTag p = 11 := by
      simp only [timedTag, Bool.or_eq_false_iff, beq_eq_false_iff_ne]
      omega
    simp only [htimed, true_and]
  · rw [if_pos ht, if_pos ht]

theorem faultPtr_cohort {s : State} (hc : isSup s.cur.1 = false) (k : FaultKind) (d : Nat) (p : Word) :
    s.faultPtr k d p = s.faultAt s.cur.1 s.cur.2 k d p (0x80 + ptrTag p) := by
  rw [State.faultPtr, hc]
  rfl

/-- A meaning that is guarded as a whole, under a true guard (R47). -/
theorem next_not_guarded_of_true {s : State} (hg : s.guard = true) (a : State) : (.next (if !s.guard then s else a) : Result) = .next a :=
  congrArg _ (if_neg (by rw [hg]; decide))

/-- A word whose pointer fails a check takes its fault and does nothing else (R83). -/
theorem next_withPtr_bad {s : State} (hg : s.guard = true) (hc : isSup s.cur.1 = false) {p : Word} {n al : Nat} {ok : Nat → Bool}
    {k : FaultKind} {d : Nat} (hk : s.ptrCheck p n ok al = some (k, d)) (go : State → State) :
    (.next (if !s.guard then s else s.withPtr p n ok al go) : Result) =
      .next (s.faultAt s.cur.1 s.cur.2 k d p (0x80 + ptrTag p)) := by
  rw [next_not_guarded_of_true hg, State.withPtr_bad _ hk, faultPtr_cohort hc]

/-- Settles O18: each word's pointer fails the first check that R83 lists. -/
theorem castFaults : Obligations.CastFaults := by
  unfold Obligations.CastFaults
  intro h s hg hc traps first
  have any : ∀ {p n al k d}, first p n true al = some (k, d) → s.ptrCheck p n (fun _ => true) al = some (k, d) := fun hk =>
    (ptrCheck_any_eq_firstCheck hc ..).trans hk
  have timed : ∀ {p n al k d}, first p n false al = some (k, d) → s.ptrCheck p n timedTag al = some (k, d) := fun hk =>
    (ptrCheck_timed_eq_firstCheck hc ..).trans hk
  refine ⟨fun f => ⟨fun ht => ?_, fun k d ht hk => ?_, fun t n ht hn => ⟨fun hbad => ?_, fun hfit hlim => ?_⟩⟩,
    fun f k d => ⟨fun hk => ⟨next_withPtr_bad hg hc (any hk) _, next_withPtr_bad hg hc (any hk) _⟩,
      fun hk => ⟨next_withPtr_bad hg hc (timed hk) _, next_withPtr_bad hg hc (timed hk) _⟩⟩⟩
  · exact (exec_spcastS_of_guard h hg rfl).trans (congrArg _ ((if_neg ht).trans (faultPtr_cohort hc ..)))
  · refine (exec_spcastS_of_guard h hg rfl).trans (congrArg _ ((if_pos ht).trans ?_))
    rw [State.withPtr_bad _ (any hk), faultPtr_cohort hc]
  · have hno : castNumOk t n = false := (castNumOk_eq_false_iff t n).mpr hbad
    exact (exec_spcastG_of_guard h hg ht hn).trans (congrArg _ ((if_pos hno).trans (faultPtr_cohort hc ..)))
  · have hok : ¬castNumOk t n = false := by
      rw [castNumOk_eq_false_iff]
      omega
    exact (exec_spcastG_of_guard h hg ht hn).trans (congrArg _ ((if_neg hok).trans ((if_pos hlim).trans (faultPtr_cohort hc ..))))

/-! ## Handle fields -/

theorem getLsbD_fieldMask (lo w : Nat) {i : Nat} (hi : i < 256) : (fieldMask (lo, w)).getLsbD i = decide (lo ≤ i ∧ i < lo + w) := by
  rw [fieldMask, BitVec.getLsbD_ofNat, decide_eq_true hi, Bool.true_and, ← Nat.shiftLeft_eq, Nat.testBit_shiftLeft,
    Nat.testBit_two_pow_sub_one, ← Bool.decide_and]
  exact decide_eq_decide.mpr (by omega)

theorem getLsbD_zeroExtend_shiftLeft (a : Word) {lo i : Nat} (hi : i < 256) (hlo : lo ≤ i) :
    (a.zeroExtend 256 <<< lo).getLsbD i = a.getLsbD (i - lo) := by
  have h256 : i - lo < 256 := by omega
  rw [BitVec.getLsbD_shiftLeft, BitVec.zeroExtend, BitVec.getLsbD_setWidth, decide_eq_true hi, decide_eq_false (Nat.not_lt.mpr hlo),
    decide_eq_true h256, Bool.not_false, Bool.true_and, Bool.true_and, Bool.true_and]

/-- The fields of a handle by their codes: lowest bit and width (R88, R172). -/
def handleFields : List (Nat × Nat × Nat) :=
  [(0, 0, 64), (1, 64, 16), (2, 80, 16), (3, 96, 16), (4, 112, 16), (5, 128, 20), (6, 148, 20), (7, 168, 20), (8, 188, 4), (9, 192, 4),
    (10, 213, 8), (11, 221, 34), (12, 0, 64), (13, 64, 64), (14, 128, 64), (15, 192, 64)]

theorem handleField_of_mem : ∀ e ∈ handleFields,
    handleField (e.1 % 16) = e.2 ∧ e.1 % 16 = e.1 ∧ 0 < e.2.2 ∧ e.2.2 ≤ 64 ∧ (5 ≤ e.1 ∧ e.1 ≤ 7 → e.2.2 = 20) := by decide

theorem getLsbD_handleGet {m lo w : Nat} (hf : handleField m = (lo, w)) (h0 : 0 < w) (hw : w ≤ 64) (hs : 5 ≤ m ∧ m ≤ 7 → w = 20)
    (x : Handle) {i : Nat} (hi : i < 64) :
    (handleGet m x).getLsbD i = if i < w then x.getLsbD (lo + i) else decide (5 ≤ m ∧ m ≤ 7) && x.getLsbD (lo + w - 1) := by
  have hraw : ∀ j, j < 64 → ((x >>> lo).truncate 64 &&& lowMask w : Word).getLsbD j = (decide (j < w) && x.getLsbD (lo + j)) := fun j hj => by
    rw [BitVec.getLsbD_and, getLsbD_lowMask hw, BitVec.truncate, BitVec.getLsbD_setWidth, BitVec.getLsbD_ushiftRight, decide_eq_true hj,
      Bool.true_and, Bool.and_comm]
  by_cases hm : 5 ≤ m ∧ m ≤ 7
  · have hget : handleGet m x = sextFrom w ((x >>> lo).truncate 64 &&& lowMask w) := by
      simp [handleGet, hf, hm, hs hm]
    rw [hget, getLsbD_sextFrom h0 hw _ hi, decide_eq_true hm, Bool.true_and]
    by_cases hiw : i < w
    · rw [if_pos hiw, if_pos hiw, hraw i hi, decide_eq_true hiw, Bool.true_and]
    · rw [if_neg hiw, if_neg hiw, hraw _ (by omega), decide_eq_true (Nat.sub_one_lt_of_lt h0), Bool.true_and, Nat.add_sub_assoc h0]
  · have hget : handleGet m x = (x >>> lo).truncate 64 &&& lowMask w := by
      simp [handleGet, hf, hm]
    rw [hget, hraw i hi, decide_eq_false hm, Bool.false_and]
    by_cases hiw : i < w
    · rw [if_pos hiw, decide_eq_true hiw, Bool.true_and]
    · rw [if_neg hiw, decide_eq_false hiw, Bool.false_and]

/-- The index field of a word that is shifted to it (R88, R173). -/
theorem extractLsb'_shiftLeft_200 (x : Word) : (x.zeroExtend 256 <<< 200).extractLsb' 200 12 = x.extractLsb' 0 12 := by
  refine BitVec.eq_of_getLsbD_eq fun i hi => ?_
  have h256 : 200 + i < 256 := by omega
  rw [BitVec.getLsbD_extractLsb', BitVec.getLsbD_extractLsb', getLsbD_zeroExtend_shiftLeft x h256 (Nat.le_add_right ..),
    Nat.add_sub_cancel_left, Nat.zero_add]

theorem toNat_mask12 (x : Word) : (x &&& 0xFFF).toNat = x.toNat % 4096 := by
  rw [BitVec.toNat_and]
  exact Nat.and_two_pow_sub_one_eq_mod x.toNat 12

/-- The index that `HSTAT` binds is the sum's low 12 bits (R173). -/
theorem toNat_extractLsb'_hstat (a : Word) (imm : BitVec 30) :
    (((a + imm.zeroExtend 64 &&& 0xFFF) &&& 0xFFF ||| 0x1000 : Word).extractLsb' 0 12).toNat =
      (a.toNat + (imm.extractLsb' 0 12).toNat) % 4096 := by
  have himm := imm.isLt
  have hor : ∀ x : Word, ((x ||| 0x1000 : Word).extractLsb' 0 12).toNat = x.toNat % 4096 := fun x => by
    rw [BitVec.extractLsb'_toNat, Nat.shiftRight_zero, BitVec.toNat_or, Nat.or_mod_two_pow]
    exact Nat.or_zero _
  rw [hor, toNat_mask12, toNat_mask12, BitVec.extractLsb'_toNat, BitVec.toNat_add, BitVec.zeroExtend, BitVec.toNat_setWidth]
  omega

/-- Settles O19, field by field. -/
theorem handleInstructions : Obligations.HandleInstructions := by
  unfold Obligations.HandleInstructions
  intro h s hg
  refine ⟨fun f m lo w hm hmem => ?_, fun f => ⟨_, _, congrArg _ (if_pos hg), fun i hi => ?_, ?_, ?_⟩,
    fun f => ⟨_, congrArg _ (if_pos hg), fun i hi => ?_⟩, fun f => congrArg _ (if_pos hg)⟩
  · obtain ⟨hf, hm16, h0, hw, hs⟩ := handleField_of_mem (m, lo, w) hmem
    subst hm
    refine ⟨⟨_, _, congrArg _ (if_pos hg), fun i hi => ⟨?_, fun hlo _ => ?_⟩⟩, ⟨_, congrArg _ (if_pos hg), fun i hi => ?_⟩⟩
    · rw [hf, getLsbD_fieldMask lo w hi]
    · rw [hf, getLsbD_zeroExtend_shiftLeft _ hi hlo]
    · rw [hm16] at hf ⊢
      exact getLsbD_handleGet hf h0 hw hs _ hi
  · rw [srecMask, getLsbD_fieldMask _ _ hi]
    exact decide_eq_decide.mpr (by omega)
  · rw [extractLsb'_shiftLeft_200, toNat_extractLsb'_hstat]
  · rw [getLsbD_zeroExtend_shiftLeft _ (by decide) (by decide), BitVec.getLsbD_or]
    exact Bool.or_true _
  · rw [srecMask, getLsbD_fieldMask _ _ hi]
    exact decide_eq_decide.mpr (by omega)

/-! ## Bytes of scalars -/

/-- Bit `i` of little-endian bytes is bit `i % 8` of byte `i / 8` (R2). -/
theorem testBit_leNat (bs : List Byte) (i : Nat) : (leNat bs).testBit i = (bs.getD (i / 8) 0).getLsbD (i % 8) := by
  induction bs generalizing i with
  | nil => simp [leNat]
  | cons b bs ih =>
    have hsum : leNat (b :: bs) = 2 ^ 8 * leNat bs + b.toNat := by rw [leNat, Nat.add_comm] <;> rfl
    rw [hsum, Nat.testBit_two_pow_mul_add _ b.isLt]
    by_cases hi : i < 8
    · rw [if_pos hi, Nat.div_eq_of_lt hi, Nat.mod_eq_of_lt hi, List.getD_cons_zero, BitVec.testBit_toNat]
    · have hd : i / 8 = (i - 8) / 8 + 1 := by omega
      have hm : i % 8 = (i - 8) % 8 := by omega
      rw [if_neg hi, ih, hd, hm, List.getD_cons_succ]

theorem getLsbD_ofNat_leNat (w : Nat) (bs : List Byte) {i : Nat} (hi : i < w) :
    (BitVec.ofNat w (leNat bs)).getLsbD i = (bs.getD (i / 8) 0).getLsbD (i % 8) := by
  rw [BitVec.getLsbD_ofNat, decide_eq_true hi, Bool.true_and, testBit_leNat]

theorem length_values {n : Nat} (m : Map n) (a c : Nat) : (Map.values m a c).length = c := by
  induction c generalizing m a with
  | zero => cases m <;> rfl
  | succ c ih =>
    cases m with
    | nil => exact congrArg Nat.succ (ih ..)
    | cons e m =>
      rw [Map.values]
      split
      · exact congrArg Nat.succ (ih ..)
      · exact congrArg Nat.succ (ih ..)

@[simp] theorem length_getRun {n : Nat} (m : Map n) (a c : Nat) : (Map.getRun m a c).length = c := length_values ..

theorem length_timedRead (s : State) (p : Word) (n : Nat) : (s.timedRead p n).length = n := length_getRun ..

/-- The bits of what `LDS` loads: those of its bytes, then zeros or copies of the last one (R175). -/
theorem getLsbD_loadVal {n : Nat} (sx : Bool) {bs : List Byte} (hb : bs.length = n) (h0 : 0 < n) (h8 : n ≤ 8) {i : Nat} (hi : i < 64) :
    (loadVal n sx bs).getLsbD i = if i < 8 * n then (bs.getD (i / 8) 0).getLsbD (i % 8) else sx && (bs.getD (n - 1) 0).getLsbD 7 := by
  cases sx with
  | false =>
    have hv : loadVal n false bs = BitVec.ofNat 64 (leNat bs) := rfl
    rw [hv, getLsbD_ofNat_leNat 64 bs hi, Bool.false_and]
    by_cases hin : i < 8 * n
    · rw [if_pos hin]
    · rw [if_neg hin, List.getD_eq_getElem?_getD, List.getElem?_eq_none (by omega), Option.getD_none]
      exact BitVec.getLsbD_zero
  | true =>
    have hv : loadVal n true bs = sextFrom (8 * n) (BitVec.ofNat 64 (leNat bs)) := rfl
    have hlast : (8 * n - 1) / 8 = n - 1 := by omega
    have hbit : (8 * n - 1) % 8 = 7 := by omega
    rw [hv, getLsbD_sextFrom (by omega) (by omega) _ hi, Bool.true_and]
    by_cases hin : i < 8 * n
    · rw [if_pos hin, if_pos hin, getLsbD_ofNat_leNat 64 bs hi]
    · rw [if_neg hin, if_neg hin, getLsbD_ofNat_leNat 64 bs (by omega), hlast, hbit]

theorem memSize_pos_le (f : Mem) : 0 < memSize f ∧ memSize f ≤ 8 := by
  have hlt : f.fn.toNat % 4 < 4 := Nat.mod_lt _ (by decide)
  have hall : ∀ n < 4, 0 < 2 ^ n ∧ 2 ^ n ≤ 8 := by decide
  exact hall _ hlt

/-- A word whose pointer passes its checks goes on (R83). -/
theorem next_withPtr_ok {s : State} (hg : s.guard = true) {p : Word} {n al : Nat} {ok : Nat → Bool} (hk : s.ptrCheck p n ok al = none)
    (go : State → State) : (.next (if !s.guard then s else s.withPtr p n ok al go) : Result) = .next (go s) := by
  rw [next_not_guarded_of_true hg, State.withPtr_ok _ hk]

/-- Settles O20: the word goes on with the bytes at its pointer. -/
theorem scalarLoads : Obligations.ScalarLoads := by
  unfold Obligations.ScalarLoads
  intro h f s hg
  refine ⟨fun hk => ⟨fun ht => ⟨_, (next_withPtr_ok hg hk _).trans (congrArg _ (if_pos ht)), fun i hi => ?_⟩, fun ht hc => ?_⟩,
    fun hk => ⟨_, next_withPtr_ok hg hk _, fun i hi => getLsbD_ofNat_leNat 256 _ hi⟩⟩
  · obtain ⟨h0, h8⟩ := memSize_pos_le f
    exact getLsbD_loadVal _ (length_timedRead ..) h0 h8 hi
  · exact (next_withPtr_ok hg hk _).trans (congrArg _ ((if_neg (Bool.eq_false_iff.mp ht)).trans (if_neg (Bool.eq_false_iff.mp hc))))

/-- Settles O22: outside marks the word is one access. -/
theorem phasedScalarStore : Obligations.PhasedScalarStore := by
  unfold Obligations.PhasedScalarStore
  intro h f s hg hc n p hk ht hm
  have hmark : ∀ go : State → State, s.withMarks p n go = go s := fun go => by rw [State.withMarks, hm]
  exact (next_withPtr_ok hg hk _).trans (congrArg _ ((if_neg (Bool.eq_false_iff.mp ht)).trans ((if_neg (Bool.eq_false_iff.mp hc)).trans (hmark _))))

/-! ## The frame of written bytes -/

/-- A store of a core's own: every one but the quad's SRAM. -/
def Core.store (x : Core) (f : File) : Map 8 :=
  match f with
  | .priv => x.priv
  | .sp => x.sp
  | .v => x.v
  | .t => x.t
  | .wb => x.wb
  | .cb => x.cb
  | .qs => []

/-- Replaces a store of a core's own. -/
def Core.putStore (x : Core) (f : File) (m : Map 8) : Core :=
  match f with
  | .priv => { x with priv := m }
  | .sp => { x with sp := m }
  | .v => { x with v := m }
  | .t => { x with t := m }
  | .wb => { x with wb := m }
  | .cb => { x with cb := m }
  | .qs => x

theorem Core.store_putStore_ne (x : Core) {f g : File} (m : Map 8) (h : g ≠ f) : (x.putStore f m).store g = x.store g := by
  revert h
  cases f <;> cases g <;> simp [Core.store, Core.putStore]

theorem State.file_eq_store (s : State) (d : Nat) {g : File} (h : g ≠ .qs) : s.file d g = (s.core d).store g := by
  cases g <;> trivial

theorem State.setFile_eq_putStore (s : State) (c : Nat) {f : File} (key : Nat) (bs : List Byte) (h : f ≠ .qs) :
    s.setFile c f key bs = s.modCore c fun x => x.putStore f (Map.setRun (s.file c f) (fileBase c f + key) bs) := by
  cases f <;> trivial

@[simp] theorem State.dev_setFile (s : State) (c : Nat) (f : File) (key : Nat) (bs : List Byte) : (s.setFile c f key bs).dev = s.dev := by
  cases f <;> rfl

/-- Bytes written to a store leave the other stores, and those of other cores, as they are. -/
theorem State.file_setFile_ne (s : State) {c d : Nat} {f g : File} (key : Nat) (bs : List Byte) (h : g ≠ f ∨ g ≠ .qs ∧ d ≠ c) :
    (s.setFile c f key bs).file d g = s.file d g := by
  by_cases hf : f = .qs
  · subst hf
    have hg : g ≠ .qs := h.elim id And.left
    rw [State.file_eq_store _ d hg, State.file_eq_store _ d hg]
    rfl
  · rw [State.setFile_eq_putStore s c key bs hf]
    by_cases hg : g = .qs
    · subst hg
      rfl
    · rw [State.file_eq_store _ d hg, State.file_eq_store _ d hg]
      by_cases hd : d = c
      · subst hd
        rw [State.core_modCore, Core.store_putStore_ne _ _ (h.resolve_right fun hr => hr.2 rfl)]
      · rw [State.core_modCore_ne _ _ hd]

/-- The store that a write reaches is the same one on every core that it belongs to. -/
theorem State.file_eq_of_shared (s : State) {c d : Nat} {f g : File} (h : ¬(g ≠ f ∨ g ≠ .qs ∧ d ≠ c)) : g = f ∧ s.file d g = s.file c f := by
  obtain ⟨hgf, hqd⟩ := not_or.mp h
  obtain rfl := Decidable.not_not.mp hgf
  refine ⟨rfl, ?_⟩
  by_cases hq : g = .qs
  · subst hq
    rfl
  · obtain rfl := Decidable.not_not.mp fun hd => hqd ⟨hq, hd⟩
    rfl

/-- A byte outside those written keeps its value, in whichever store and of whichever core it is. -/
theorem State.get_setFile_frame (s : State) {c d : Nat} {f g : File} {key a : Nat} {bs : List Byte} (hw : Map.wf (s.file d g) = true)
    (h : (g ≠ f ∨ g ≠ .qs ∧ d ≠ c) ∨ a < fileBase c f + key ∨ fileBase c f + key + bs.length ≤ a) :
    Map.get ((s.setFile c f key bs).file d g) a = Map.get (s.file d g) a := by
  by_cases hne : g ≠ f ∨ g ≠ .qs ∧ d ≠ c
  · rw [State.file_setFile_ne s key bs hne]
  · obtain ⟨hgf, hfile⟩ := s.file_eq_of_shared hne
    obtain ⟨-, hfile'⟩ := (s.setFile c f key bs).file_eq_of_shared hne
    have hout := h.resolve_left hne
    rw [hfile] at hw
    rw [hfile', hfile, State.file_setFile_self, Map.get_setRun hw, if_neg (by omega)]

theorem State.getFile_setFile_frame {s : State} (hs : s.filesOk) {c d : Nat} {f g : File} {key a : Nat} {bs : List Byte}
    (h : g ≠ f ∨ (g ≠ .qs ∧ d ≠ c) ∨ fileBase d g + a < fileBase c f + key ∨ fileBase c f + key + bs.length ≤ fileBase d g + a) :
    (s.setFile c f key bs).getFile d g a 1 = s.getFile d g a 1 := by
  have hframe := State.get_setFile_frame s (State.file_wf hs d g) (or_assoc.mpr h)
  rw [State.getFile, State.getFile, Map.getRun_eq (State.file_wf (State.filesOk_setFile hs ..) d g), Map.getRun_eq (State.file_wf hs d g)]
  simpa using hframe

/-- A timed write of a cohort's stream joins those in flight (R124). -/
theorem timedWrite_cohort {s : State} (hc : isSup s.cur.1 = false) (p : Word) (bs : List Byte) (t : Nat) :
    s.timedWrite p bs t = s.modMy fun x =>
      { x with lands := x.lands ++ [⟨t, s.me.rank, s.cur.2, s.str.landSeq, (s.timedAt p).1, .bytes (s.timedAt p).2.1 (s.timedAt p).2.2 bs⟩] } :=
  s.landOn_eq hc ..

/-- Settles O21: the write joins those in flight, and its landing writes its bytes alone. -/
theorem timedScalarStores : Obligations.TimedScalarStores := by
  unfold Obligations.TimedScalarStores
  intro h f s hg hc i p n data hi c fl key
  have hlen : data.length = n := by
    obtain ⟨-, rfl, -, -, -, rfl⟩ | ⟨-, rfl, -, -, rfl⟩ := hi <;> exact length_leBytes ..
  refine ⟨?_, hlen, fun u hu => ⟨?_, State.dev_setFile .., fun d g a hframe => ?_⟩⟩
  · rw [← timedWrite_cohort hc]
    obtain ⟨rfl, rfl, rfl, hk, ht, rfl⟩ | ⟨rfl, rfl, rfl, hk, rfl⟩ := hi
    · exact (next_withPtr_ok hg hk _).trans (congrArg _ (if_pos ht))
    · exact next_withPtr_ok hg hk _
  · rw [← hlen]
    exact State.getFile_setFile_self hu c fl key data
  · rw [← hlen] at hframe
    exact State.getFile_setFile_frame hu hframe

/-! ## Counters and control registers -/

/-- What a counter or control register is read into under a true guard (R177). -/
theorem State.deliver_of_guard {s : State} (hg : s.guard = true) (rd : BitVec 7) (v : Word) :
    s.deliver rd v = if s.sid = .C then s.landS rd (s.tc + 1) v else s.push (s.reg .Q rd) (v.zeroExtend 2048) (s.tc + 1) := by
  simp [State.deliver, hg, wordEntry]

theorem exec_rdctr_cohort (h : Hdr) {s : State} (hc : isSup s.cur.1 = false) {f : Rri} (hn : f.imm.toNat < 4) :
    exec (.rdctr h f) s =
      .next (s.deliver f.rd ([BitVec.ofNat 64 (s.my.outTc s.tc), BitVec.ofNat 64 s.my.heldClks, BitVec.ofNat 64 s.ns, s.my.energy].getD
        f.imm.toNat 0)) := by
  have h16 : f.imm.toNat % 16 = f.imm.toNat := Nat.mod_eq_of_lt (by omega)
  simp only [exec, execRdctr, hc, h16, Bool.false_and, if_neg Bool.false_ne_true]
  match f.imm.toNat, hn with
  | 0, _ | 1, _ | 2, _ | 3, _ => rfl

theorem exec_csrr_known (h : Hdr) {s : State} (hc : isSup s.cur.1 = false) {f : Rri} (ho : f.csr = 0 → s.openFlags = 0) :
    exec (.csrr h f) s = .next (s.deliver f.rd (s.csr f.csr.toNat)) := by
  have hno : (f.csr = 0 && s.openFlags != 0) = false := by simpa using ho
  simp only [exec, execCsrr, hc, hno, Bool.false_and, if_neg Bool.false_ne_true]

/-- A flag that may be set and is not known yet reads as a free value (R80). -/
theorem exec_csrr_open (h : Hdr) {s : State} (hc : isSup s.cur.1 = false) {f : Rri} (h0 : f.csr = 0) (ho : s.openFlags ≠ 0) :
    exec (.csrr h f) s = .next (s.freeWord.2.deliver f.rd (s.csr 0 ||| s.freeWord.1 &&& s.openFlags.zeroExtend 64)) := by
  have hyes : (f.csr = 0 && s.openFlags != 0) = true := by simpa [h0] using ho
  simp only [exec, execCsrr, hc, hyes, Bool.false_and, if_neg Bool.false_ne_true, if_pos]
  rfl

/-- The value that a `CSRW` takes, and the state that it leaves (R178). -/
def State.CsrwTakes (s : State) (f : Rri) (v : Word) (t : State) : Prop :=
  f.imm.getLsbD 12 = true ∧ v = (f.imm.extractLsb' 13 16).zeroExtend 64 ∧ t = s ∨
    f.imm.getLsbD 12 = false ∧ s.sid = .C ∧ v = s.rs f.ra ∧ t = s ∨
    f.imm.getLsbD 12 = false ∧ s.sid ≠ .C ∧ (∃ e es, s.me.queue (s.reg .Q f.ra) = e :: es ∧ e.ready ≤ s.tc ∧ v = e.data.extractLsb' 0 64 ∧
      t = s.modMe fun x => x.setQueue (s.reg .Q f.ra) es)

theorem State.CsrwTakes.csrwVal_eq {s t : State} {f : Rri} {v : Word} (ht : s.CsrwTakes f v t) (k : Word → State → State) :
    s.csrwVal f k = k v t := by
  obtain ⟨hi, rfl, rfl⟩ | ⟨hi, hs, rfl, rfl⟩ | ⟨hi, hs, e, es, hq, hr, rfl, rfl⟩ := ht
  · rw [State.csrwVal, if_pos hi]
  · rw [State.csrwVal, if_neg (Bool.eq_false_iff.mp hi), if_pos hs]
  · rw [State.csrwVal, if_neg (Bool.eq_false_iff.mp hi), if_neg hs, State.pop_ready s hq hr]
    rfl

@[simp] theorem State.str_modMe_setQueue (s : State) (q : Nat) (es : List QEntry) : (s.modMe fun x => x.setQueue q es).str = s.str := by
  have hme : (s.modMe fun x => x.setQueue q es).me = s.me.setQueue q es := State.me_modMe ..
  rw [State.str, hme]
  rfl

@[simp] theorem State.tc_modMe_setQueue (s : State) (q : Nat) (es : List QEntry) : (s.modMe fun x => x.setQueue q es).tc = s.tc := by
  have hme : (s.modMe fun x => x.setQueue q es).me = s.me.setQueue q es := State.me_modMe ..
  rw [State.tc, State.my, hme]
  rfl

theorem State.CsrwTakes.keeps {s t : State} {f : Rri} {v : Word} (ht : s.CsrwTakes f v t) : t.guard = s.guard ∧ t.tc = s.tc ∧ t.cur = s.cur := by
  obtain ⟨-, -, rfl⟩ | ⟨-, -, -, rfl⟩ | ⟨-, -, e, es, -, -, -, rfl⟩ := ht
  · exact ⟨rfl, rfl, rfl⟩
  · exact ⟨rfl, rfl, rfl⟩
  · exact ⟨by rw [State.guard, State.str_modMe_setQueue, ← State.guard], State.tc_modMe_setQueue .., rfl⟩

/-- Settles O23, register by register. -/
theorem countersAndControl : Obligations.CountersAndControl := by
  unfold Obligations.CountersAndControl
  intro h s hg hc
  refine ⟨fun f => ?_, fun f v hn hv => ?_, fun f n v hn hv ho => ?_, fun f h0 ho => ?_, fun f v t ht => ?_⟩
  · simp [exec, execFpush, hg]
  · rw [exec_rdctr_cohort h hc hn, State.deliver_of_guard hg, hv]
  · have hval : s.csr f.csr.toNat = v := by
      simp only [List.mem_cons, Prod.mk.injEq, List.not_mem_nil, or_false] at hv
      rcases hv with ⟨hk, rfl⟩ | ⟨hk, rfl⟩ | ⟨hk, rfl⟩ | ⟨hk, rfl⟩ | ⟨hk, rfl⟩ | ⟨hk, rfl⟩ | ⟨hk, rfl⟩ | ⟨hk, rfl⟩ | ⟨hk, rfl⟩ | ⟨hk, rfl⟩ |
        ⟨hk, rfl⟩ | ⟨hk, rfl⟩
      all_goals rw [hn, hk]; rfl
    rw [exec_csrr_known h hc fun h0 => ho (by rw [← hn, h0]; rfl), State.deliver_of_guard hg, hval]
  · refine ⟨_, s.freeWord.2, rfl, (exec_csrr_open h hc h0 ho).trans (congrArg _ (State.deliver_of_guard (s := s.freeWord.2) hg ..)), fun i hi hclosed => ?_⟩
    have hcsr : s.csr 0 = s.str.flags.zeroExtend 64 := rfl
    simp [hcsr, hclosed, hi]
  · obtain ⟨htg, htc, hcur⟩ := State.CsrwTakes.keeps ht
    have hgt : t.guard = true := htg.trans hg
    rw [← htc, ← hcur]
    exact ⟨congrArg _ ((State.CsrwTakes.csrwVal_eq ht _).trans (if_pos hgt)), congrArg _ ((State.CsrwTakes.csrwVal_eq ht _).trans (if_pos hgt)),
      congrArg _ ((State.CsrwTakes.csrwVal_eq ht _).trans (if_pos hgt))⟩

end Sys2Proof.Machine
end

section
/-! SUPPORT. Landings: the parts of a core that a write which takes effect can change, that it keeps every file in canonical form, and when a
result is read (spec/06_consistency.md R98, R124, spec/08_isa_control.md R157, R158). -/

namespace Sys2Proof.Machine

/-! ## Cells and runs, in any store -/

/-- A write of one cell leaves the others alone, in canonical form or not. -/
theorem get_set_ne {n : Nat} (m : Map n) {a i : Nat} (x : BitVec n) (h : i ≠ a) : Map.get (Map.set m a x) i = Map.get m i := by
  induction m with
  | nil =>
    rw [Map.set]
    split <;> simp [Map.get, h]
  | cons e m ih =>
    obtain ⟨k, v⟩ := e
    rw [Map.set]
    split
    · split <;> simp [Map.get, h]
    · split
      next hak =>
        subst hak
        split <;> simp [Map.get, h]
      next hak => simp [Map.get, ih]

/-! ## The parts of a core -/

/-- What a landing may change of a core, part by part: registers, predicates, control registers, flags, vector shape and allotment, accumulator
elements, and stores. -/
inductive Part where
  | s (r : Nat)
  | h (r : Nat)
  | k (r : Nat)
  | csr
  | flags (st : Nat)
  | shape
  | acc (key : Nat)
  | store (f : File)

/-- Two cores hold the same in a part. -/
def Core.sameAt (x y : Core) : Part → Prop
  | .s r => x.sGet r = y.sGet r
  | .h r => Map.get x.h r = Map.get y.h r
  | .k r => Map.get x.k r = Map.get y.k r
  | .csr => (x.sel, x.upda, x.updb) = (y.sel, y.upda, y.updb)
  | .flags st => (x.stream st).flags = (y.stream st).flags
  | .shape => (x.vshape, x.allot) = (y.vshape, y.allot)
  | .acc key => Map.get x.arr.acc key = Map.get y.arr.acc key
  | .store f => x.store f = y.store f

/-- The parts that a write names on the core that it reaches. -/
def Eff.names : Eff → Part → Prop
  | .s n _ _, .s r => n = r
  | .h n _ _, .h r => n = r
  | .k n _ _, .k r => n = r
  | .csr _ _, .csr => True
  | .flags st _, .flags u => st = u
  | .flagsClear st _, .flags u => st = u
  | .vshape _, .shape => True
  | .allot _, .shape => True
  | .allot _, .store f => f = .v
  | .bank _ _ _, .store f => f = .v
  | .mac _ _ _ _ _ _ _, .acc _ => True
  | .acc _ _ _ _ _, .acc _ => True
  | .accZero _ _ _ _ _, .acc _ => True
  | .bytes g _ _, .store f => f = g
  | _, _ => False

theorem Core.sameAt_refl (x : Core) (p : Part) : x.sameAt x p := by
  cases p <;> rfl

theorem Core.sameAt_trans {x y z : Core} {p : Part} (h : x.sameAt y p) (h' : y.sameAt z p) : x.sameAt z p := by
  cases p <;> simp_all [Core.sameAt]

/-- From one state to another only named parts of core `c` change, home memory and the clock stand still, and files stay canonical. -/
structure LandFrame (c : Nat) (names : Part → Prop) (s t : State) : Prop where
  dev : t.dev = s.dev
  clock : t.clock = s.clock
  qs : names (.store .qs) ∨ t.qs = s.qs
  same : ∀ d p, d ≠ c ∨ ¬names p → (t.core d).sameAt (s.core d) p
  files : s.filesOk → t.filesOk

section
variable {c : Nat} {names : Part → Prop} {s t u : State}

theorem LandFrame.refl (s : State) : LandFrame c names s s := ⟨rfl, rfl, .inr rfl, fun d p _ => (s.core d).sameAt_refl p, id⟩

theorem LandFrame.trans (h : LandFrame c names s t) (h' : LandFrame c names t u) : LandFrame c names s u where
  dev := h'.dev.trans h.dev
  clock := h'.clock.trans h.clock
  qs := h.qs.elim .inl fun ht => h'.qs.imp_right fun hu => hu.trans ht
  same := fun d a ha => Core.sameAt_trans (h'.same d a ha) (h.same d a ha)
  files := fun hs => h'.files (h.files hs)

/-- A change of the core that a write reaches. -/
theorem LandFrame.modCore (s : State) {f : Core → Core} (hsame : ∀ p, ¬names p → (f (s.core c)).sameAt (s.core c) p)
    (hf : (s.core c).filesOk → (f (s.core c)).filesOk) : LandFrame c names s (s.modCore c f) where
  dev := rfl
  clock := rfl
  qs := .inr rfl
  same := fun d p hp => by
    by_cases hd : d = c
    · subst hd
      rw [State.core_modCore]
      exact hsame p (hp.resolve_left fun hn => hn rfl)
    · rw [State.core_modCore_ne _ _ hd]
      exact Core.sameAt_refl _ p
  files := fun hs => State.filesOk_modCore hs c f hf

/-- A change of a core that touches no part and no file. -/
theorem LandFrame.modCore_none (s : State) (d : Nat) {f : Core → Core} (hsame : ∀ p, (f (s.core d)).sameAt (s.core d) p)
    (hf : (s.core d).filesOk → (f (s.core d)).filesOk) : LandFrame c names s (s.modCore d f) where
  dev := rfl
  clock := rfl
  qs := .inr rfl
  same := fun a p _ => by
    by_cases ha : a = d
    · subst ha
      rw [State.core_modCore]
      exact hsame p
    · rw [State.core_modCore_ne _ _ ha]
      exact Core.sameAt_refl _ p
  files := fun hs => State.filesOk_modCore hs d f hf

/-- A change of a slot. -/
theorem LandFrame.modSlot (s : State) (n : Nat) (f : Slot → Slot) : LandFrame c names s (s.modSlot n f) :=
  ⟨rfl, rfl, .inr rfl, fun d p _ => (s.core d).sameAt_refl p, id⟩

/-- Steps of one frame make a frame. -/
theorem LandFrame.foldl {α : Type} {op : State → α → State} (hop : ∀ s a, LandFrame c names s (op s a)) (l : List α) (s : State) :
    LandFrame c names s (l.foldl op s) :=
  List.foldlRecOn l op (LandFrame.refl s) fun t ht a _ => ht.trans (hop t a)

theorem LandFrame.of_filesOk (hc : t.cores = s.cores) (hq : t.qs = s.qs) (hd : t.dev = s.dev) (hk : t.clock = s.clock) :
    LandFrame c names s t := by
  have hcore : ∀ d, t.core d = s.core d := fun d => congrArg (fun m => Tbl.get Core.reset m d) hc
  refine ⟨hd, hk, .inr hq, fun d p _ => ?_, fun hs => ?_⟩
  · rw [hcore]
    exact Core.sameAt_refl _ p
  · obtain ⟨hdev, hqs, hcores⟩ := hs
    exact ⟨hd ▸ hdev, hq ▸ hqs, fun d => hcore d ▸ hcores d⟩

/-! ## The frame of each landing -/

/-- A stream's change that keeps its flags touches no part. -/
theorem LandFrame.modStreamAt (s : State) (d st : Nat) {f : Stream → Stream} (hf : (f ((s.core d).stream st)).flags = ((s.core d).stream st).flags) :
    LandFrame c names s (s.modStreamAt d st f) := by
  refine LandFrame.modCore_none s d (fun p => ?_) id
  cases p with
  | flags u =>
    by_cases hu : u = st
    · subst hu
      rw [Core.sameAt, Core.stream_modStream, hf]
    · rw [Core.sameAt, Core.stream_modStream_ne _ _ hu]
  | _ => exact rfl

/-- A fatal fault stops its stream and touches no part. -/
theorem LandFrame.addFault (s : State) (n : Nat) (r : FaultRec) : LandFrame c names s (s.addFault n r) :=
  (LandFrame.modSlot s n _).trans (LandFrame.modStreamAt _ _ _ rfl)

/-- Changes of the barrier objects of a core touch no part. -/
theorem LandFrame.modBobj (s : State) (d : Nat) (f : Core → Tbl BObj) : LandFrame c names s (s.modCore d fun x => { x with bobj := f x }) := by
  exact LandFrame.modCore_none s d (fun p => by cases p <;> rfl) id

theorem LandFrame.offerTo (s : State) (sender stream pc : Nat) (word : Word) (o : Nat) (p : Word) (len wr d : Nat) :
    LandFrame c names s (s.offerTo sender stream pc word o p len wr d) := by
  unfold State.offerTo
  dsimp only
  split
  · exact LandFrame.refl s
  · split
    · exact LandFrame.refl s
    · exact LandFrame.addFault ..
    · split
      · exact ((LandFrame.modSlot ..).trans (LandFrame.modBobj ..)).trans (LandFrame.addFault ..)
      · exact (LandFrame.modSlot ..).trans (LandFrame.modBobj ..)

theorem LandFrame.offer (s : State) (sender stream pc : Nat) (word : Word) (o : Nat) (p : Word) (len wr : Nat) :
    LandFrame c names s (s.offer sender stream pc word o p len wr) :=
  LandFrame.foldl (fun t _ => LandFrame.offerTo t ..) _ s

/-- A write of an accumulator element touches elements of its core alone. -/
theorem LandFrame.accLand (hacc : ∀ key, names (.acc key)) (s : State) (tc b key : Nat) (v : BitVec 32) (ev : BitVec 3) :
    LandFrame c names s (s.accLand tc c b key v ev) := by
  have hcell : LandFrame c names s (s.modCore c fun x => { x with arr := { x.arr with acc := Map.set x.arr.acc key v } }) := by
    refine LandFrame.modCore s (fun p hp => ?_) fun hx => ?_
    · cases p with
      | acc k => exact absurd (hacc k) hp
      | _ => exact rfl
    · obtain ⟨h1, h2, h3, h4, h5, h6, h7, h8, h9, h10, h11, h12⟩ := hx
      exact ⟨h1, h2, h3, h4, h5, h6, h7, h8, h9, Map.wf_set h10 .., h11, h12⟩
  unfold State.accLand
  dsimp only
  split
  · exact hcell
  · exact hcell.trans (LandFrame.modSlot ..)

/-- What an element's result has used touches no part. -/
theorem LandFrame.stain (s : State) (b key : Nat) (keep : Bool) (bits : BitVec 4) : LandFrame c names s (s.stain c b key keep bits) := by
  refine LandFrame.modCore_none s c (fun p => by cases p <;> rfl) fun hx => ?_
  obtain ⟨h1, h2, h3, h4, h5, h6, h7, h8, h9, h10, h11, h12⟩ := hx
  exact ⟨h1, h2, h3, h4, h5, h6, h7, h8, h9, h10, h11, Map.wf_set h12 ..⟩

theorem LandFrame.mac (s : State) (tc b row col : Nat) (ovw int deep : Bool) (sums : List (BitVec 32 × BitVec 3)) :
    LandFrame c (Eff.mac b row col ovw int deep sums).names s (s.apply tc c (.mac b row col ovw int deep sums)) := by
  cases sums with
  | nil => exact LandFrame.refl s
  | cons e es =>
    have hacc : ∀ key, (Eff.mac b row col ovw int deep (e :: es)).names (.acc key) := fun _ => trivial
    obtain ⟨v, ev⟩ := e
    dsimp only [State.apply]
    split
    · exact ((LandFrame.stain ..).trans (LandFrame.accLand hacc ..)).trans (LandFrame.of_filesOk rfl rfl rfl rfl)
    · split
      · exact (LandFrame.stain ..).trans (LandFrame.accLand hacc ..)
      · exact (LandFrame.stain ..).trans (LandFrame.accLand hacc ..)

theorem LandFrame.acc (s : State) (tc b row p : Nat) (add : Bool) (vals : List (BitVec 32)) :
    LandFrame c (Eff.acc b row p add vals).names s (s.apply tc c (.acc b row p add vals)) := by
  have hacc : ∀ key, (Eff.acc b row p add vals).names (.acc key) := fun _ => trivial
  refine LandFrame.foldl (fun t e => ?_) _ s
  dsimp only
  split
  · exact LandFrame.accLand hacc ..
  · exact (LandFrame.stain ..).trans (LandFrame.accLand hacc ..)

theorem wf_foldl_clearRun {n : Nat} {m : Map n} (h : Map.wf m = true) (f : Nat → Nat) (len : Nat) (rows : List Nat) :
    Map.wf (rows.foldl (fun m r => Map.clearRun m (f r) len) m) = true :=
  List.foldlRecOn (motive := fun m => Map.wf m = true) rows _ h fun _ hm _ _ => Map.wf_clearRun hm ..

theorem filesOk_sSet {x : Core} (h : x.filesOk) (tc n : Nat) (m v : Word) : (x.sSet tc n m v).filesOk := by
  unfold Core.sSet
  split
  · exact h
  · exact ⟨Map.wf_set h.1 .., h.2⟩

theorem sGet_sSet_ne (x : Core) (tc : Nat) {n r : Nat} (m v : Word) (h : r ≠ n) : (x.sSet tc n m v).sGet r = x.sGet r := by
  unfold Core.sSet
  split
  · rfl
  · unfold Core.sGet
    split
    · rfl
    · exact get_set_ne _ _ h

theorem sameAt_sSet (x : Core) (tc n : Nat) (m v : Word) {p : Part} (hp : ¬(Eff.s n m v).names p) : (x.sSet tc n m v).sameAt x p := by
  cases p with
  | s r => exact sGet_sSet_ne x tc m v (Ne.symm hp)
  | _ =>
    unfold Core.sSet
    split <;> rfl

/-- Replacing a store of a core keeps its other parts. -/
theorem sameAt_putStore (x : Core) (f : File) (m : Map 8) {p : Part} (hp : p ≠ .store f) : (x.putStore f m).sameAt x p := by
  cases p with
  | store g => exact Core.store_putStore_ne x m fun hg => hp (hg ▸ rfl)
  | _ => cases f <;> rfl

theorem LandFrame.bytes (s : State) (f : File) (key : Nat) (bs : List Byte) :
    LandFrame c (Eff.bytes f key bs).names s (s.setFile c f key bs) := by
  by_cases hq : f = .qs
  · subst hq
    exact ⟨rfl, rfl, .inl rfl, fun d p _ => (s.core d).sameAt_refl p, fun hs => State.filesOk_setFile hs ..⟩
  · have hcore := State.setFile_eq_putStore s c key bs hq
    refine ⟨State.dev_setFile .., ?_, ?_, fun d p hp => ?_, fun hs => State.filesOk_setFile hs ..⟩
    · rw [hcore]
      rfl
    · rw [hcore]
      exact .inr rfl
    · rw [hcore]
      by_cases hd : d = c
      · subst hd
        rw [State.core_modCore]
        exact sameAt_putStore _ f _ fun he => hp.resolve_left (fun hn => hn rfl) (he ▸ rfl)
      · rw [State.core_modCore_ne _ _ hd]
        exact Core.sameAt_refl _ p

/-- A change of one stream's flags. -/
theorem sameAt_modStream_flags (x : Core) (st : Nat) (f : Stream → Stream) {p : Part} (hp : p ≠ .flags st) : (x.modStream st f).sameAt x p := by
  cases p with
  | flags u => exact congrArg Stream.flags (Core.stream_modStream_ne x f fun hu => hp (hu ▸ rfl))
  | _ => rfl

theorem LandFrame.modFlags {st : Nat} (hn : names (.flags st)) (s : State) (f : Stream → Stream) :
    LandFrame c names s (s.modStreamAt c st f) :=
  LandFrame.modCore s (fun _ hp => sameAt_modStream_flags _ st f fun he => hp (he ▸ hn)) id

theorem LandFrame.accZero (s : State) (tc b row rows pan pans : Nat) :
    LandFrame c (Eff.accZero b row rows pan pans).names s (s.apply tc c (.accZero b row rows pan pans)) := by
  dsimp only [State.apply]
  refine LandFrame.modCore s (fun p hp => ?_) ?_
  · cases p with
    | acc key => exact absurd trivial hp
    | _ => rfl
  · intro ⟨h1, h2, h3, h4, h5, h6, h7, h8, h9, hacc, hset, htaint⟩
    exact ⟨h1, h2, h3, h4, h5, h6, h7, h8, h9, wf_foldl_clearRun hacc .., hset, wf_foldl_clearRun htaint ..⟩

/-- The frame of a landing, whichever it is. -/
theorem LandFrame.apply (s : State) (tc : Nat) (e : Eff) : LandFrame c e.names s (s.apply tc c e) := by
  cases e with
  | mac b row col ovw int deep sums => exact LandFrame.mac ..
  | acc b row p add vals => exact LandFrame.acc ..
  | accZero b row rows p ps => exact LandFrame.accZero ..
  | bytes f key bs => exact LandFrame.bytes ..
  | bobj n ptr len pc word => exact LandFrame.offer ..
  | bobjSet n o => exact LandFrame.modBobj s c fun x => Tbl.set x.bobj n o
  | cursors st cu => exact LandFrame.modStreamAt _ _ _ rfl
  | accEvt _ _ | swapBanks | switchSet _ _ | fuse _ | policy _ =>
    dsimp only [State.apply]
    refine LandFrame.modCore_none s c ?_ ?_
    · intro p
      cases p <;> rfl
    · exact id
  | s n m v => exact LandFrame.modCore s (f := fun x => x.sSet tc n m v) (fun p hp => sameAt_sSet _ _ _ _ _ hp) fun hx => filesOk_sSet hx ..
  | h n m v =>
    dsimp only [State.apply]
    refine LandFrame.modCore s (fun p hp => ?_) ?_
    · cases p with
      | h r => exact get_set_ne _ _ (Ne.symm hp)
      | _ => rfl
    · exact fun ⟨hs, hh, hrest⟩ => ⟨hs, Map.wf_set hh .., hrest⟩
  | k n m v =>
    dsimp only [State.apply]
    refine LandFrame.modCore s (fun p hp => ?_) ?_
    · cases p with
      | k r => exact get_set_ne _ _ (Ne.symm hp)
      | _ => rfl
    · exact fun ⟨hs, hh, hk, hrest⟩ => ⟨hs, hh, Map.wf_set hk .., hrest⟩
  | csr n v =>
    refine LandFrame.modCore s (f := fun x => if n = 2 then x.selSet tc v else if n = 16 then { x with upda := v } else { x with updb := v })
      (fun p hp => ?_) ?_
    · cases p with
      | csr => exact absurd trivial hp
      | _ =>
        split
        · rfl
        · split <;> rfl
    · intro hx
      split
      · exact hx
      · split <;> exact hx
  | flags st v =>
    dsimp only [State.apply]
    exact LandFrame.modFlags (names := (Eff.flags st v).names) rfl ..
  | flagsClear st v =>
    dsimp only [State.apply]
    exact (LandFrame.modFlags (names := (Eff.flagsClear st v).names) rfl s fun x => { x with flags := x.flags &&& ~~~v }).trans (LandFrame.of_filesOk rfl rfl rfl rfl)
  | vshape v =>
    dsimp only [State.apply]
    refine LandFrame.modCore s (fun p hp => ?_) ?_
    · cases p with
      | shape => exact absurd trivial hp
      | _ => rfl
    · exact id
  | allot n =>
    dsimp only [State.apply]
    refine LandFrame.modCore s (fun p hp => ?_) ?_
    · cases p with
      | shape => exact absurd trivial hp
      | store f => cases f with
        | v => exact absurd rfl hp
        | _ => rfl
      | _ => rfl
    · exact fun ⟨hs, hh, hk, hv, hrest⟩ => ⟨hs, hh, hk, Map.wf_clearRun hv .., hrest⟩
  | bank b off ret =>
    dsimp only [State.apply]
    refine LandFrame.modCore s (fun p hp => ?_) ?_
    · cases p with
      | store f => cases f with
        | v => exact absurd rfl hp
        | _ => rfl
      | _ => rfl
    · intro ⟨hs, hh, hk, hv, hrest⟩
      refine ⟨hs, hh, hk, ?_, hrest⟩
      dsimp only
      split
      · exact Map.wf_clearRun hv ..
      · exact hv
end

/-! ## What the obligations say of a landing -/

/-- Settles O11: reset lists nothing, and the frame of a landing keeps the form. -/
theorem filesKept : Obligations.FilesKept := by
  unfold Obligations.FilesKept
  have hreset : State.reset.filesOk := arbiterAtReset.2
  exact ⟨hreset, fun s tc c e => (LandFrame.apply s tc e).files⟩

/-- Settles O9: the write's core alone changes, in one register under its mask. -/
theorem scalarWrite : Obligations.ScalarWrite := by
  unfold Obligations.ScalarWrite
  intro s tc c n m v hw t
  have hc : t.core c = (s.core c).sSet tc n m v := State.core_modCore ..
  refine ⟨rfl, fun hn i hi => ?_, fun r hr => ?_, fun d hd => State.core_modCore_ne _ _ hd⟩
  · rw [hc, Core.sGet_sSet _ _ _ _ hn hw, BitVec.getLsbD_or, BitVec.getLsbD_and, BitVec.getLsbD_and, BitVec.getLsbD_not, decide_eq_true hi]
    cases m.getLsbD i <;> simp
  · rw [hc, sGet_sSet_ne _ _ _ _ hr]

/-- A write that names no bytes, allotment or bank leaves every store as it is; an allotment or bank only vector registers of its core. -/
theorem file_apply_of_not_bytes (s : State) (tc c : Nat) {e : Eff} {d : Nat} {f : File} (he : ∀ g k bs, e ≠ .bytes g k bs)
    (hv : f = .v → d ≠ c ∨ (∀ n, e ≠ .allot n) ∧ ∀ b o r, e ≠ .bank b o r) : (s.apply tc c e).file d f = s.file d f := by
  have hframe := LandFrame.apply (c := c) s tc e
  by_cases hq : f = .qs
  · subst hq
    refine hframe.qs.resolve_left ?_
    cases e <;> simp_all [Eff.names]
  · rw [State.file_eq_store _ d hq, State.file_eq_store _ d hq]
    refine hframe.same d (.store f) (Classical.or_iff_not_imp_left.mpr fun hd => ?_)
    cases e <;> simp_all [Eff.names]

/-- The bytes that a landing does not name read as before, on whichever core. -/
theorem get_file_apply (s : State) (tc c : Nat) (e : Eff) {d : Nat} {f : File} {key : Nat} (hw : Map.wf (s.file d f) = true)
    (hv : f = .v → d ≠ c ∨ (∀ n, e ≠ .allot n) ∧ ∀ b o r, e ≠ .bank b o r)
    (hb : ∀ k bs, e = .bytes f k bs → fileBase d f + key < fileBase c f + k ∨ fileBase c f + k + bs.length ≤ fileBase d f + key ∨
      (f ≠ .qs ∧ d ≠ c)) :
    Map.get ((s.apply tc c e).file d f) (fileBase d f + key) = Map.get (s.file d f) (fileBase d f + key) := by
  by_cases he : ∀ g k bs, e ≠ .bytes g k bs
  · rw [file_apply_of_not_bytes s tc c he hv]
  · simp only [Classical.not_forall, Decidable.not_not] at he
    obtain ⟨g, k, bs, rfl⟩ := he
    refine State.get_setFile_frame s hw ?_
    by_cases hgf : f = g
    · subst hgf
      rcases hb k bs rfl with hlo | hhi | hother
      · exact .inr (.inl hlo)
      · exact .inr (.inr hhi)
      · exact .inl (.inr hother)
    · exact .inl (.inl hgf)

/-- Settles O10, part by part of the frame. -/
theorem landingFrame : Obligations.LandingFrame := by
  unfold Obligations.LandingFrame
  intro s tc c e t
  have hframe := LandFrame.apply (c := c) s tc e
  refine ⟨hframe.dev, hframe.clock, fun d r hn => hframe.same d (.s r) ?_, fun d r hn => hframe.same d (.h r) ?_,
    fun d r hn => hframe.same d (.k r) ?_, fun d hn => ?_, fun d st hn => hframe.same d (.flags st) ?_, fun d hn => ?_,
    fun d key hn => hframe.same d (.acc key) ?_, fun d f key hw hv hb => get_file_apply s tc c e hw hv hb⟩
  case refine_4 =>
    have hcsr := hframe.same d .csr (hn.imp_right fun hn => by cases e <;> simp_all [Eff.names])
    simpa [Core.sameAt] using hcsr
  case refine_6 =>
    have hshape := hframe.same d .shape (hn.imp_right fun hn => by cases e <;> simp_all [Eff.names])
    simpa [Core.sameAt] using hshape
  case refine_7 =>
    refine hn.imp_right fun ⟨hmac, hacc, hzero⟩ hkey => ?_
    cases e with
    | mac => exact hmac _ _ _ _ _ _ _ rfl
    | acc => exact hacc _ _ _ _ _ rfl
    | accZero => exact hzero _ _ _ _ _ rfl
    | _ => exact hkey
  all_goals exact hn.imp_right fun hn => by cases e <;> simp_all [Eff.names]

/-! ## When a result lands -/

/-- A write of no bytes leaves what drains have put out. -/
theorem core_overDrained (s : State) (n : Nat) {l : Land} (hl : ∀ f k bs, l.eff ≠ .bytes f k bs) (d : Nat) :
    (s.overDrained n l).core d = s.core d := by
  have hunder : ∀ (r : Nat) (dr : Drained), dr.under r l = dr := fun r dr => by
    unfold Drained.under
    dsimp only
    split
    next he => exact absurd he (hl _ _ _)
    next => rfl
  refine List.foldlRecOn (motive := fun t : State => t.core d = s.core d) (s.slot n).members _ rfl fun t ht c _ => ?_
  dsimp only
  split
  · exact ht
  · by_cases hd : d = c
    · subst hd
      simpa [State.core_modCore, hunder] using ht
    · rw [State.core_modCore_ne _ _ hd, ht]

/-- A slot whose one pending write is a scalar result: the cores once its due writes have landed. -/
theorem core_landDue_scalar {s : State} {n : Nat} {l : Land} {r : Nat} {m v : Word} (hl : (s.slot n).lands = [l]) (hnone : (s.slot n).landed = [])
    (heff : l.eff = .s r m v) (d : Nat) :
    (s.landDue n).core d = if l.tc ≤ (s.slot n).tc then (s.modCore l.core fun x => x.sSet l.tc r m v).core d else s.core d := by
  unfold State.landDue
  by_cases hdue : l.tc ≤ (s.slot n).tc
  · simp only [hl, hnone, hdue, List.filter_cons, List.filter_nil, decide_true, if_true, List.isEmpty_cons, if_neg Bool.false_ne_true,
      List.append_nil, sortLands, insertLand, List.foldl_cons, List.foldl_nil]
    rw [core_overDrained _ _ (by rw [heff]; exact nofun), heff]
    rfl
  · simp only [hl, hdue, List.filter_cons, List.filter_nil, decide_false, if_neg Bool.false_ne_true, List.isEmpty_nil, if_true, if_false]

/-- Settles O12: the destination's write is the only one in flight. -/
theorem resultsLand : Obligations.ResultsLand := by
  unfold Obligations.ResultsLand
  intro s f lat k op hc hg hlands hlanded hw n t u
  have ht : t = s.modSlot n fun x => { x with lands := x.lands ++
      [⟨s.tc + lat, s.me.rank, s.cur.2, s.str.landSeq, s.cur.1, .s (s.reg .S f.rd) (BitVec.allOnes 64) (op (s.rs f.ra) (s.rs f.rb))⟩] } :=
    (State.alu_of_guard hg f lat op).trans (s.land_eq hc ..)
  have hcore : ∀ d, u.core d = if lat ≤ k then
      (s.modCore s.cur.1 fun x => x.sSet (s.tc + lat) (s.reg .S f.rd) (BitVec.allOnes 64) (op (s.rs f.ra) (s.rs f.rb))).core d else s.core d := by
    intro d
    have hslot : ((t.modSlot n fun x => { x with tc := x.tc + k }).slot n).lands =
          [⟨s.tc + lat, s.me.rank, s.cur.2, s.str.landSeq, s.cur.1, .s (s.reg .S f.rd) (BitVec.allOnes 64) (op (s.rs f.ra) (s.rs f.rb))⟩] ∧
        ((t.modSlot n fun x => { x with tc := x.tc + k }).slot n).landed = [] ∧
        ((t.modSlot n fun x => { x with tc := x.tc + k }).slot n).tc = s.tc + k := by
      rw [State.slot_modSlot, ht, State.slot_modSlot]
      exact ⟨congrArg (· ++ _) hlands, hlanded, rfl⟩
    obtain ⟨hl, hd, htc⟩ := hslot
    rw [core_landDue_scalar hl hd rfl, htc, ht]
    exact ite_congr_iff (Nat.add_le_add_iff_left ..) rfl rfl
  refine ⟨fun hk r => ?_, fun hk hr => ?_, fun r hr => ?_, fun d hd => ?_⟩
  · rw [hcore, if_neg (Nat.not_le.mpr hk)]
    rfl
  · rw [hcore, if_pos hk, State.core_modCore, Core.sGet_sSet (s.core s.cur.1) _ _ _ hr hw, BitVec.not_allOnes, BitVec.and_zero, BitVec.zero_or,
      BitVec.and_allOnes]
  · rw [hcore]
    split
    · rw [State.core_modCore, sGet_sSet_ne _ _ _ _ hr]
      rfl
    · rfl
  · rw [hcore]
    split
    · exact State.core_modCore_ne _ _ hd
    · rfl

/-! ## A member core at tc 0 -/

theorem stream_freshCore (s : State) (g : Nat → Nat → Nat) (lk n rank : Nat) {st : Nat} (hst : st < 5) :
    (s.freshCore g lk n rank).stream st = s.freshStream g lk st := by
  match st, hst with
  | 0, _ | 1, _ | 2, _ | 3, _ | 4, _ => rfl

@[simp] theorem lk_freshStream (s : State) (g : Nat → Nat → Nat) (lk st : Nat) : (s.freshStream g lk st).lk = s.lkOf lk st := by
  simp only [State.freshStream]

/-- Only `k0` to `k3` hold anything in a core before its launch (R21). -/
theorem get_reset_k (k : Nat) : Map.get Core.reset.k k = if k ≤ 3 then BitVec.allOnes 4096 else 0 := by
  by_cases hk : k ≤ 3
  · rw [if_pos hk]
    match k, hk with
    | 0, _ | 1, _ | 2, _ | 3, _ => rfl
  · have hne : ∀ j, j ≤ 3 → k ≠ j := fun j hj => by omega
    simp [hk, Core.reset, Map.get, hne]

/-- Settles O8, field by field. -/
theorem launchedCore : Obligations.LaunchedCore := by
  unfold Obligations.LaunchedCore
  intro s g lk n rank x
  have hs : ∀ r, x.sGet r = 0 := fun r => by
    unfold Core.sGet
    split <;> rfl
  have hshape : x.shape = (64, 16, 4) := show Core.reset.shape = (64, 16, 4) by decide
  refine ⟨hs, rfl, rfl, rfl, rfl, rfl, rfl, hshape, fun k hk => ?_, fun k hk => ?_, rfl, rfl, fun q => rfl, rfl, rfl, rfl, rfl, rfl, rfl,
    fun st hst => ?_⟩
  · exact (get_reset_k k).trans (if_pos hk)
  · exact (get_reset_k k).trans (if_neg (Nat.not_le.mpr hk))
  · rw [stream_freshCore s g lk n rank hst]
    exact ⟨rfl, rfl, rfl, rfl, rfl, rfl, rfl, lk_freshStream .., rfl⟩

end Sys2Proof.Machine
end

section
/-! SUPPORT. Steps: what a step does by the act of its agenda, the checks of a word in their order, and the field checks of four word formats
(spec/07_encoding.md R139, R140, R144, spec/02_timetable.md R41, R44, R45). -/

namespace Sys2Proof.Machine

/-! ## The act of a step -/

theorem step_of_agenda {s t : State} {j : Job} (h : s.agenda = (j, t)) : step s = State.perform j t := by
  rw [step, h]

/-- An instruction that a supervisor core accepts is one of those of R329 and R334. -/
theorem supervisorOk_of_supInstr {s : State} {i : Instr} (h : s.supInstr = some i) : supervisorOk i = true := by
  unfold State.supInstr at h
  dsimp only at h
  split at h
  next j hj =>
    split at h
    next hok =>
      cases h
      simp only [Bool.and_eq_true] at hok
      exact hok.1.1
    next => cases h
  next => cases h

/-- Settles O6, act by act. -/
theorem stepRunsOthers : Obligations.StepRunsOthers := by
  unfold Obligations.StepRunsOthers
  intro s t
  refine ⟨fun c ha => ⟨fun i u hi hu => ?_, fun hn => ?_, fun i hi => ⟨State.decodeWord_of_supInstr hi, supervisorOk_of_supInstr hi⟩⟩,
    fun i ha => step_of_agenda ha, fun c st ha => step_of_agenda ha⟩
  · simp only [step_of_agenda ha, State.perform, hi, hu]
  · simp only [step_of_agenda ha, State.perform, hn]

/-! ## The checks of a word -/

/-- Where a check of R144 fails its fault is taken and the word has no effect. -/
theorem step_of_wordCheck_error {s t : State} {c st : Nat} (ha : s.agenda = (.word c st, t)) {e : FaultKind × Nat}
    (he : ({ t with cur := (c, st) } : State).wordCheck (streamId st) ({ t with cur := (c, st) } : State).str
      (({ t with cur := (c, st) } : State).str.issueOf (st == 3) ({ t with cur := (c, st) } : State).tc) = .error e) :
    step s = .next ((({ t with cur := (c, st) } : State).enter c st).fault e.1 e.2) := by
  rw [step_of_agenda ha, State.perform, State.fetch]
  rw [he]

theorem step_of_wordCheck_ok {s t : State} {c st : Nat} (ha : s.agenda = (.word c st, t)) {i : Instr}
    (hi : ({ t with cur := (c, st) } : State).wordCheck (streamId st) ({ t with cur := (c, st) } : State).str
      (({ t with cur := (c, st) } : State).str.issueOf (st == 3) ({ t with cur := (c, st) } : State).tc) = .ok i) :
    step s = exec i ((({ t with cur := (c, st) } : State).enter c st).tokens (hdr i).tok) := by
  rw [step_of_agenda ha, State.perform, State.fetch]
  rw [hi]

/-- A joining point or curtain may stand where it does (R155, R322). -/
def State.pointOk (s : State) (i : Instr) : Bool :=
  match i with
  | .curtain _ f => f.imm.toNat < s.my.curts.length && (!Decidable.decide (s.my.resume = .stubs) || f.imm.toNat == s.my.curtain)
  | .rdv _ _ | .rdvEnd _ _ | .phase _ _ | .bar _ _ | .yield _ _ => !Decidable.decide (s.my.resume = .stubs)
  | _ => true

/-- The checks of R144 that follow the decoding of a word, in order. -/
theorem wordCheck_of_decode {s : State} {st : StreamId} {x : Stream} {w : Issue} {i : Instr} (h : decodeWord w.word = .ok i) :
    s.wordCheck st x w =
      if isPrivileged i then .error (.illegal, 0x11)
      else if !streamOk st i then .error (.wrongStream, 0x12)
      else if fieldDetail st i != 0 then .error (.illegal, (fieldDetail st i).toNat)
      else if !s.pointOk i then .error (.illegal, 0x15)
      else if !structOk st x w i then .error (.illegal, 0x16)
      else if stackDetail x i != 0 then .error (.illegal, stackDetail x i)
      else .ok i := by
  rw [State.wordCheck, h]
  rfl

theorem checks_cases (zero reg res : Bool) :
    checks zero reg res = 0 ∨ checks zero reg res = 0x13 ∨ checks zero reg res = 0x14 ∨ checks zero reg res = 0x15 := by
  cases zero <;> cases reg <;> cases res <;> decide

/-- The details of checks 4 to 6 of R144. -/
theorem fieldDetail_cases (st : StreamId) (i : Instr) :
    fieldDetail st i = 0 ∨ fieldDetail st i = 0x13 ∨ fieldDetail st i = 0x14 ∨ fieldDetail st i = 0x15 := by
  unfold fieldDetail
  split
  any_goals exact checks_cases ..
  · split
    · exact .inr (.inl rfl)
    · exact checks_cases ..
  · exact .inl rfl

/-- A word that passes every check of R144 is neither privileged nor of another stream, and its fields pass. -/
theorem passes_of_wordCheck_ok {s : State} {st : StreamId} {x : Stream} {w : Issue} {i : Instr} (h : s.wordCheck st x w = .ok i) :
    decodeWord w.word = .ok i ∧ isPrivileged i = false ∧ streamOk st i = true ∧ fieldDetail st i = 0 := by
  have hd := State.decodeWord_of_wordCheck h
  rw [wordCheck_of_decode hd] at h
  split at h
  next => cases h
  next hp =>
    split at h
    next => cases h
    next hs =>
      split at h
      next => cases h
      next hf => exact ⟨hd, by simpa using hp, by simpa using hs, by simpa using hf⟩

/-! ## Loops, jumps, rings and the return stack -/

section
variable {st : StreamId} {x : Stream} {w : Issue} (h : Hdr)

theorem structOk_loop {f : Loop} (hbad : 3 ≤ x.loops.length ∨ ∃ l ls, x.loops = l :: ls ∧ l.last < w.pc + 8 * (f.blen.toNat + 1)) :
    structOk st x w (.loop h f) = false := by
  obtain hlen | ⟨l, ls, hl, hlast⟩ := hbad
  · simp [structOk, Nat.not_lt.mpr hlen]
  · simp [structOk, hl, hlast]

theorem structOk_jump {i : Instr} (hi : ∃ f, i = .jmp h f ∨ i = .call h f) (hl : x.loops ≠ []) : structOk st x w i = false := by
  obtain ⟨f, rfl | rfl⟩ := hi <;> simp [structOk, hl]

theorem structOk_ret {f : Ret} (hl : x.loops ≠ []) : structOk st x w (.ret h f) = false := by
  simp [structOk, hl]

theorem isSome_ringOf {ls : List Level} (hl : ∃ l ∈ ls, l.ringed = true) : (ringOf ls).isSome = true := by
  induction ls with
  | nil => simp at hl
  | cons v vs ih =>
    rw [ringOf]
    split
    · rfl
    next hv =>
      obtain ⟨l, hm, hr⟩ := hl
      obtain rfl | hm := List.mem_cons.mp hm
      · exact absurd hr hv
      · exact ih ⟨l, hm, hr⟩

theorem ringOf_eq_none {ls : List Level} (hl : ∀ l ∈ ls, l.ringed = false) : ringOf ls = none := by
  induction ls with
  | nil => rfl
  | cons v vs ih =>
    rw [ringOf, if_neg (Bool.eq_false_iff.mp (hl v List.mem_cons_self)), ih fun l hm => hl l (List.mem_cons_of_mem _ hm)]

theorem structOk_lring {f : Lring} (hbad : (opOf (x.wordAt (w.pc + 8))).toNat ≠ 0x23 ∨ ∃ l ∈ x.loops, l.ringed = true) :
    structOk st x w (.lring h f) = false := by
  obtain hop | hl := hbad
  · simp [structOk, hop]
  · have hsome := isSome_ringOf hl
    simp [structOk, Option.isNone_eq_false_iff.mpr hsome]

/-- Without a ring in force a word that rotates a register breaks check 7 (R45). -/
theorem structOk_add_rotated {f : Rrr} (hrot : f.rd.getLsbD 6 = true ∨ f.ra.getLsbD 6 = true ∨ f.rb.getLsbD 6 = true) (hidx : w.idx = 0) :
    structOk st x w (.add h f) = false := by
  have hrings : ringsOk st w (.add h f) = false := by
    have hfields : ringFields st (.add h f) = [(.S, f.rd), (.S, f.ra), (.S, f.rb), (.S, f.rc)] := by
      simp [ringFields, encode]
    obtain hr | hr | hr := hrot <;> simp [ringsOk, hfields, hidx, hr, -BitVec.getLsbD_eq_getElem]
  simp [structOk, hrings]

/-- Words that name no register and open or close no loop keep the rules of loops and rings. -/
theorem structOk_of_no_fields {i : Instr} (hf : ringFields st i = []) (hw : writesStage i = false)
    (hi : (∃ f, i = .call h f ∧ x.loops = []) ∨ (∃ f, i = .ret h f ∧ x.loops = []) ∨ (∃ f, i = .rdvEnd h f) ∨ ∃ f, i = .curtain h f) :
    structOk st x w i = true := by
  obtain ⟨f, rfl, hl⟩ | ⟨f, rfl, hl⟩ | ⟨f, rfl⟩ | ⟨f, rfl⟩ := hi <;> simp [structOk, ringsOk, *]

end
/-! ## The field checks of four words -/

theorem checks_eq_ite {z r p : Bool} {Z R P : Prop} [Decidable Z] [Decidable R] [Decidable P] (hz : z = false ↔ Z) (hr : r = false ↔ R)
    (hp : ¬Z → (p = false ↔ P)) : checks z r p = if Z then 0x13 else if R then 0x14 else if P then 0x15 else 0 := by
  unfold checks
  by_cases hZ : Z
  · rw [if_pos hZ, hz.mpr hZ]
    rfl
  · have hzt : z = true := by simpa using mt hz.mp hZ
    rw [if_neg hZ, hzt]
    by_cases hR : R
    · rw [if_pos hR, hr.mpr hR]
      rfl
    · have hrt : r = true := by simpa using mt hr.mp hR
      rw [if_neg hR, hrt]
      by_cases hP : P
      · rw [if_pos hP, (hp hZ).mpr hP]
        rfl
      · have hpt : p = true := by simpa using mt (hp hZ).mp hP
        rw [if_neg hP, hpt]
        rfl

theorem regOk_S (r : BitVec 7) : Space.S.regOk r = !decide (r.toNat = 64) := by
  revert r
  decide

theorem regOk_VQ (r : BitVec 7) : Space.VQ.regOk r = !decide (40 ≤ r.toNat % 64 ∨ 32 ≤ r.toNat % 64 ∧ 64 ≤ r.toNat) := by
  revert r
  decide

theorem and_high3_eq_zero_iff (m : BitVec 8) : m &&& 0xE0 = 0 ↔ m.toNat < 32 := by
  revert m
  decide

theorem getLsbD_4_of_lt (m : BitVec 8) (h : m.toNat < 32) : m.getLsbD 4 = decide (16 ≤ m.toNat) := by
  revert m
  decide

theorem fieldDetail_add (h : Hdr) (f : Rrr) :
    let bad := fun r : BitVec 7 => decide (r.toNat = 64)
    fieldDetail .C (.add h f) = if f.kp ≠ 0 ∨ f.rc ≠ 0 ∨ f.fn ≠ 0 then 0x13 else if bad f.rd ∨ bad f.ra ∨ bad f.rb then 0x14
      else if f.md ≠ 0 then 0x15 else 0 := by
  refine checks_eq_ite ?_ ?_ fun _ => ?_
  · simp [stgOk, Space.zeroOk]
    grind
  · simp [regOk_S, Space.regOk.eq_1]
    grind
  · simp

theorem fieldDetail_vadd (h : Hdr) (f : Rrr) :
    let off := fun r : BitVec 7 => decide (40 ≤ r.toNat % 64 ∨ 32 ≤ r.toNat % 64 ∧ 64 ≤ r.toNat)
    fieldDetail .V (.vadd h f) = if f.stg ≠ 0 ∨ f.rc ≠ 0 ∨ f.fn ≠ 0 ∨ 32 ≤ f.md.toNat then 0x13
      else if off f.rd ∨ off f.ra ∨ off f.rb then 0x14 else if 16 ≤ f.md.toNat then 0x15 else 0 := by
  intro off
  refine checks_eq_ite ?_ ?_ fun hz => ?_
  · have hmd : (f.md &&& 0xE0 == 0) = false ↔ 32 ≤ f.md.toNat := by
      rw [beq_eq_false_iff_ne, Ne, and_high3_eq_zero_iff, Nat.not_lt]
    simp only [stgOk, Space.zeroOk, Bool.and_eq_false_iff, hmd]
    simp
    grind
  · simp only [regOk_VQ, Space.regOk.eq_1, Bool.and_eq_false_iff, Bool.not_eq_false', Bool.true_eq_false, or_false, or_assoc]
    rfl
  · have hmd : f.md.toNat < 32 := by simp at hz; grind
    rw [getLsbD_4_of_lt f.md hmd, Bool.not_eq_false', decide_eq_true_eq]

theorem and_0x18_eq_zero_iff (m : BitVec 5) : m &&& 0x18 = 0 ↔ m.toNat < 8 := by
  revert m
  decide

theorem signed_word_iff (m : BitVec 5) (h : m.toNat < 8) : (m.getLsbD 2 && m.toNat % 4 == 3) = decide (m.toNat = 7) := by
  revert m
  decide

theorem fieldDetail_lds (h : Hdr) (f : Mem) :
    fieldDetail .C (.lds h f) =
      if f.hnd ≠ 0 ∨ f.iw ≠ 0 ∨ f.isg ≠ 0 ∨ f.isc ≠ 0 ∨ 8 ≤ f.fn.toNat then 0x13 else if f.rd.toNat = 64 ∨ f.rx.toNat = 64 then 0x14
      else if f.fn.toNat = 7 then 0x15 else 0 := by
  refine checks_eq_ite ?_ ?_ fun hz => ?_
  · have hfn : (f.fn &&& 0x18 == 0) = false ↔ 8 ≤ f.fn.toNat := by
      rw [beq_eq_false_iff_ne, Ne, and_0x18_eq_zero_iff, Nat.not_lt]
    simp only [stgOk, Space.zeroOk, Bool.and_eq_false_iff, hfn]
    simp
    grind
  · simp [regOk_S]
    grind
  · have hfn : f.fn.toNat < 8 := by simp at hz; grind
    rw [signed_word_iff f.fn hfn, Bool.not_eq_false', decide_eq_true_eq]

theorem fieldDetail_mxZero (h : Hdr) (f : Mx) :
    fieldDetail .M (.mxZero h f) =
      if f.qsrc ≠ 0 ∨ f.wline ≠ 0 ∨ f.fn ≠ 0 then 0x13
      else if 96 ≤ f.row.toNat + f.nrow.toNat ∨ 3 ≤ f.pan.toNat + f.npan.toNat then 0x15 else 0 := by
  have hand : f.fn &&& 0x1FFF = f.fn := by
    have hall : (0x1FFF : BitVec 13) = BitVec.allOnes 13 := by decide
    rw [hall, BitVec.and_allOnes]
  refine (checks_eq_ite (Z := f.qsrc ≠ 0 ∨ f.wline ≠ 0 ∨ f.fn ≠ 0) (R := False)
    (P := 96 ≤ f.row.toNat + f.nrow.toNat ∨ 3 ≤ f.pan.toNat + f.npan.toNat) ?_ (by simp) fun hz => ?_).trans rfl
  · simp only [hand]
    simp [stgOk]
    grind
  · have hq : f.qsrc = 0 := Decidable.byContradiction fun h => hz (.inl h)
    have hfn : f.fn = 0 := Decidable.byContradiction fun h => hz (.inr (.inr h))
    have h3 : ∀ p : BitVec 2, p = 3#2 ↔ p.toNat = 3 := by decide
    simp only [hq, hfn, Bool.and_eq_false_iff, decide_eq_false_iff_not, bne_eq_false_iff_eq]
    simp [h3]
    omega

/-! ## The word that a stream issues -/

theorem word_issueOf (x : Stream) (v : Bool) (t : Nat) : (x.issueOf v t).word = x.next := rfl

theorem idx_issueOf_of_no_ring {x : Stream} (hl : ∀ l ∈ x.loops, l.ringed = false) (v : Bool) (t : Nat) : (x.issueOf v t).idx = 0 := by
  simp [Stream.issueOf, ringOf_eq_none hl]

section
variable {s : State} {st : StreamId} {x : Stream} {w : Issue} {i : Instr} (hd : decodeWord w.word = .ok i) (hp : isPrivileged i = false)
  (hs : streamOk st i = true)
include hd hp hs

theorem wordCheck_of_fieldDetail_ne (hf : fieldDetail st i ≠ 0) : s.wordCheck st x w = .error (.illegal, (fieldDetail st i).toNat) := by
  rw [wordCheck_of_decode hd, if_neg (Bool.eq_false_iff.mp hp), if_neg (by rw [hs]; decide), if_pos (bne_iff_ne.mpr hf)]

variable (hf : fieldDetail st i = 0) (hpt : s.pointOk i = true)
include hf hpt

theorem wordCheck_of_structOk_false (hst : structOk st x w i = false) : s.wordCheck st x w = .error (.illegal, 0x16) := by
  simp [wordCheck_of_decode hd, hp, hs, hf, hpt, hst]

theorem wordCheck_of_stackDetail_ne (hst : structOk st x w i = true) (hk : stackDetail x i ≠ 0) :
    s.wordCheck st x w = .error (.illegal, stackDetail x i) := by
  simp [wordCheck_of_decode hd, hp, hs, hf, hpt, hst, hk]

end

/-- Settles O5: the checks of a word in their order, then the field checks of four words. -/
theorem stepRunsWord : Obligations.StepRunsWord := by
  unfold Obligations.StepRunsWord
  refine ⟨fun s t c st ha => ?_, fun h f => ⟨fieldDetail_add h f, fieldDetail_vadd h f⟩, fieldDetail_lds, fieldDetail_mxZero⟩
  intro u x fails
  have hfail : ∀ k d, u.wordCheck (streamId st) x (x.issueOf (st == 3) u.tc) = .error (k, d) → fails k d :=
    fun k d he => step_of_wordCheck_error ha he
  refine ⟨fun i hi => ?_, fun e he => hfail _ _ ?_, fun i hd => ?_⟩
  · have hpass := passes_of_wordCheck_ok hi
    rw [word_issueOf] at hpass
    exact ⟨step_of_wordCheck_ok ha hi, hpass⟩
  · rw [State.wordCheck, word_issueOf, he]
  rw [← word_issueOf x (st == 3) u.tc] at hd
  refine ⟨fun hp => hfail _ _ ?_, fun hp hs => hfail _ _ ?_, fun hp hs => ?_⟩
  · rw [wordCheck_of_decode hd, if_pos hp]
  · rw [wordCheck_of_decode hd, if_neg (Bool.eq_false_iff.mp hp), if_pos (by rw [hs]; rfl)]
  intro d
  have hzero : d = 0 → fieldDetail (streamId st) i = 0 := fun hd0 => BitVec.eq_of_toNat_eq hd0
  refine ⟨fun hd0 => ⟨?_, hfail _ _ ?_⟩, fun hd0 => ⟨?_, ?_, ?_, ?_, ?_, ?_, ?_, ?_⟩, fun hd0 h f hi hrot hring => hfail _ _ ?_⟩
  · have hne : fieldDetail (streamId st) i ≠ 0 := fun h0 => hd0 (congrArg BitVec.toNat h0)
    obtain h | h | h := (fieldDetail_cases (streamId st) i).resolve_left hne <;> simp [d, h]
  · exact wordCheck_of_fieldDetail_ne hd hp hs fun h0 => hd0 (congrArg BitVec.toNat h0)
  · rintro h f rfl hbad
    exact hfail _ _ (wordCheck_of_structOk_false hd hp hs (hzero hd0) rfl (structOk_loop h hbad))
  · rintro h f hi hl
    have hpt : u.pointOk i = true := by obtain rfl | rfl := hi <;> rfl
    exact hfail _ _ (wordCheck_of_structOk_false hd hp hs (hzero hd0) hpt (structOk_jump h ⟨f, hi⟩ hl))
  · rintro h f rfl hl
    exact hfail _ _ (wordCheck_of_structOk_false hd hp hs (hzero hd0) rfl (structOk_ret h hl))
  · rintro h f rfl hbad
    exact hfail _ _ (wordCheck_of_structOk_false hd hp hs (hzero hd0) rfl (structOk_lring h hbad))
  · rintro h f rfl hl hlen
    have hst : structOk (streamId st) x (x.issueOf (st == 3) u.tc) (.call h f) = true :=
      structOk_of_no_fields h (by simp [ringFields, encode]) rfl (.inl ⟨f, rfl, hl⟩)
    have hk : stackDetail x (.call h f) = 0x17 := if_neg (Nat.not_lt.mpr hlen)
    exact hfail _ _ ((wordCheck_of_stackDetail_ne hd hp hs (hzero hd0) rfl hst (by rw [hk]; decide)).trans (by rw [hk]))
  · rintro h f rfl hl hr
    have hst : structOk (streamId st) x (x.issueOf (st == 3) u.tc) (.ret h f) = true :=
      structOk_of_no_fields h (by simp [ringFields, encode]) rfl (.inr (.inl ⟨f, rfl, hl⟩))
    have hk : stackDetail x (.ret h f) = 0x18 := if_pos (by rw [hr]; rfl)
    exact hfail _ _ ((wordCheck_of_stackDetail_ne hd hp hs (hzero hd0) rfl hst (by rw [hk]; decide)).trans (by rw [hk]))
  · rintro h f rfl hres hr
    have hst : structOk (streamId st) x (x.issueOf (st == 3) u.tc) (.rdvEnd h f) = true :=
      structOk_of_no_fields h (by simp [ringFields, encode]) rfl (.inr (.inr (.inl ⟨f, rfl⟩)))
    have hpt : u.pointOk (.rdvEnd h f) = true := by simpa [State.pointOk] using hres
    have hk : stackDetail x (.rdvEnd h f) = 0x19 := if_neg (by simpa using hr)
    exact hfail _ _ ((wordCheck_of_stackDetail_ne hd hp hs (hzero hd0) hpt hst (by rw [hk]; decide)).trans (by rw [hk]))
  · rintro h f rfl hres himm hr
    have hst : structOk (streamId st) x (x.issueOf (st == 3) u.tc) (.curtain h f) = true :=
      structOk_of_no_fields h (by simp [ringFields, encode]) rfl (.inr (.inr (.inr ⟨f, rfl⟩)))
    have hpt : u.pointOk (.curtain h f) = true := by simp [State.pointOk, hres, himm]
    have hk : stackDetail x (.curtain h f) = 0x19 := if_neg (by simpa using hr)
    exact hfail _ _ ((wordCheck_of_stackDetail_ne hd hp hs (hzero hd0) hpt hst (by rw [hk]; decide)).trans (by rw [hk]))
  · subst hi
    exact wordCheck_of_structOk_false hd hp hs (hzero hd0) rfl (structOk_add_rotated h hrot (idx_issueOf_of_no_ring hring ..))

end Sys2Proof.Machine
end

section
/-! SUPPORT. Loads and stores through a handle, transfers between cores, atomics and barrier objects: what begins and what a piece does
(spec/09_isa_load_store.md R182 to R210), the mesh's routes and the arithmetic at memory. -/

namespace Sys2Proof.Machine

/-! ## What pops and pushes leave of the stream and of its slot -/

theorem State.str_modCore {s : State} (c : Nat) {f : Core → Core} (hf : ∀ x, (f x).streams = x.streams) : (s.modCore c f).str = s.str := by
  by_cases h : s.cur.1 = c
  · subst h; simp [State.str, State.me, Core.stream, hf]
  · simp [State.str, State.me, State.core_modCore_ne s f h]

theorem State.my_modCore {s : State} (c : Nat) {f : Core → Core} (hf : ∀ x, (f x).slot = x.slot) : (s.modCore c f).my = s.my := by
  by_cases h : s.cur.1 = c
  · subst h; simp [State.my, State.me, hf]
  · simp [State.my, State.me, State.core_modCore_ne s f h]

@[simp] theorem State.str_pushTo (s : State) (c order q : Nat) (e : QEntry) : (s.pushTo c order q e).str = s.str := State.str_modCore c fun _ => rfl

@[simp] theorem State.my_pushTo (s : State) (c order q : Nat) (e : QEntry) : (s.pushTo c order q e).my = s.my := State.my_modCore c fun _ => rfl

@[simp] theorem State.guard_modMe_setQueue (s : State) (q : Nat) (es : List QEntry) : (s.modMe fun x => x.setQueue q es).guard = s.guard := by
  rw [State.guard, State.str_modMe_setQueue, State.guard]

@[simp] theorem State.my_modMe_setQueue (s : State) (q : Nat) (es : List QEntry) : (s.modMe fun x => x.setQueue q es).my = s.my :=
  State.my_modCore _ fun _ => rfl

@[simp] theorem State.handleCheck_modMe_setQueue (s : State) (q : Nat) (es : List QEntry) (h : Handle) (w : Bool) (cu : List Nat) :
    (s.modMe fun x => x.setQueue q es).handleCheck h w cu = s.handleCheck h w cu := by
  simp only [State.handleCheck, State.my_modMe_setQueue]

/-- Pushes leave the stream as it is. -/
theorem State.str_foldl_pushTo {α : Type} (s : State) (l : List α) (c o q : State → α → Nat) (e : State → α → QEntry) :
    (l.foldl (fun (u : State) x => u.pushTo (c u x) (o u x) (q u x) (e u x)) s).str = s.str := by
  induction l generalizing s with
  | nil => rfl
  | cons x xs ih => rw [List.foldl_cons, ih, State.str_pushTo]

@[simp] theorem State.str_reserveLoad (s : State) (q : Nat) (h : Handle) (lcl n : Nat) (live : Bool) : (s.reserveLoad q h lcl n live).2.str = s.str :=
  State.str_foldl_pushTo (s.newIds n).2 ..

/-- A timed write of a cohort's stream joins those of its slot, and the stream stays as it is. -/
theorem State.str_land {s : State} (hc : isSup s.cur.1 = false) (t : Nat) (e : Eff) : (s.land t e).str = s.str := by
  rw [State.land_eq _ hc, State.modMy_str]

/-! ## Loads through a handle -/

/-- An instruction whose handle passes R89 and whose guard holds goes on with it. -/
theorem next_withHandle_ok {s a b : State} {H : Handle} {w : Bool} {cu : List Nat} (hg : s.guard = true) (hok : s.handleCheck H w cu = none)
    (k : State → State) (hk : k s = b) : (.next (if !s.guard then a else s.withHandle H w cu k) : Result) = .next b := by
  rw [if_neg (by simp [hg]), State.withHandle_ok _ hok, hk]

/-- The lines of a stationary tile (R97, R193). -/
theorem tileLines_of_mem {fmt n : Nat} (h : (fmt, n) ∈ [(1, 32), (3, 16), (4, 16), (5, 13), (6, 4)]) : tileLines fmt = some n := by
  have : ∀ e ∈ [(1, 32), (3, 16), (4, 16), (5, 13), (6, 4)], tileLines e.1 = some e.2 := by decide
  exact this _ h

theorem tileLoad_of_ok {s : State} {f : Mem} (ins : Instr) (hg : s.guard = true) (hok : s.handleCheck (s.memHandle f) false s.str.cu = none)
    (hne : hEmpty (s.memHandle f) = false) (h6 : hFmt (s.memHandle f) ≠ 6)
    (hw : f.fn.getLsbD 0 = true ∨ hFmt (s.memHandle f) = 0 ∨ hFmt (s.memHandle f) = 2) :
    s.tileLoad ins f = (s.begin ins 0 ((f.imm.extractLsb' 6 6).toNat + 1) (s.memHandle f) s.str.cu
      [s.reg .T f.rd, (f.imm.extractLsb' 0 6).toNat, (f.imm.extractLsb' 6 6).toNat + 1] []).pieceWith loadStep := by
  have hfmt : ¬(decide (hFmt (s.memHandle f) = 6) || !f.fn.getLsbD 0 && hFmt (s.memHandle f) != 0 && hFmt (s.memHandle f) != 2) = true := by
    obtain hw | hw | hw := hw <;> simp [h6, hw, -BitVec.getLsbD_eq_getElem]
  dsimp only [State.tileLoad]
  rw [if_neg (by simp [hg]), State.withHandle_ok _ hok, if_neg hfmt, if_neg (by simp [hne])]

theorem exec_ldV_of_ok {h : Hdr} {f : Mem} {s : State} {rows cols esz : Nat} (hg : s.guard = true) (hc : isSup s.cur.1 = false)
    (hok : s.handleCheck (s.memHandle f) false s.str.cu = none) (hne : hEmpty (s.memHandle f) = false) (hsh : s.me.shape = (rows, cols, esz))
    (hv : s.me.vregFault (s.reg .V f.rd) = none) (hwide : f.fn.getLsbD 0 = true → esz = 4 ∧ hFmt (s.memHandle f) ≠ 6)
    (hraw : f.fn.getLsbD 0 = false → hFmt (s.memHandle f) < 5 ∧ fmtSize (hFmt (s.memHandle f)) = esz) :
    let r := s.reg .V f.rd
    let b := rows * cols * esz
    let H := s.memHandle f
    let t := if timedSrc H then s.tc + 15 + handleLat H else s.tc + 15 + s.my.latcls.getD f.lcl.toNat 0 + s.my.horizon
    exec (.ldV h f) s = .next (((s.land t (.bytes .v (4096 * r + b) (List.replicate (4096 - b) 0))).begin (.ldV h f) 0 16 H s.str.cu
      [r, rows, cols, esz] []).pieceWith loadStep) := by
  have hbad : ¬(if f.fn.getLsbD 0 then esz != 4 || hFmt (s.memHandle f) == 6
      else decide (5 ≤ hFmt (s.memHandle f)) || fmtSize (hFmt (s.memHandle f)) != esz) = true := by
    cases hw : f.fn.getLsbD 0
    · simpa [hw] using hraw hw
    · simpa [hw] using hwide hw
  dsimp only [exec, execLdV]
  rw [hsh]
  dsimp only
  rw [if_neg (by simp [hg]), hv]
  dsimp only
  rw [State.withHandle_ok _ hok, if_neg hbad, if_neg (by simp [hne]), State.str_land hc]

/-- Settles O25: each load's checks pass, so that its pieces begin. -/
theorem handleLoads : Obligations.HandleLoads := by
  unfold Obligations.HandleLoads
  intro h f s hg hc H cu q wide hok hne
  have hne' : ¬hEmpty H = true := by simp [hne]
  refine ⟨?_, ?_, ?_, ?_, ?_, ?_⟩
  · intro hfmt n r
    refine next_withHandle_ok hg hok _ ?_
    dsimp only
    rw [if_neg (by rw [Bool.and_eq_true, decide_eq_true_eq]; exact hfmt), if_neg hne', hne, Bool.not_false, State.str_reserveLoad]
  · intro rows cols esz hsh hv hwide hraw
    exact exec_ldV_of_ok hg hc hok hne hsh hv hwide hraw
  · intro h6 hw n aux
    exact ⟨congrArg _ (tileLoad_of_ok _ hg hok hne h6 hw), congrArg _ (tileLoad_of_ok _ hg hok hne h6 hw)⟩
  · intro n hn
    refine next_withHandle_ok hg hok _ ?_
    rw [tileLines_of_mem hn]
    dsimp only
    rw [if_neg hne']
  · intro h1 n
    refine next_withHandle_ok hg hok _ ?_
    dsimp only
    rw [if_neg (by simp [show hFmt (s.memHandle f) = 1 from h1]), if_neg hne']
  · intro e es he hr h5 u n r
    have hok' : u.handleCheck H false u.str.cu = none := by
      rw [State.handleCheck_modMe_setQueue, State.str_modMe_setQueue]
      exact hok
    have hg' : u.guard = true := (State.guard_modMe_setQueue ..).trans hg
    refine (congrArg _ (State.pop_ready s he hr _)).trans (next_withHandle_ok hg' hok' _ ?_)
    dsimp only
    rw [if_neg (Nat.not_le.mpr h5), if_neg hne', hne, Bool.not_false, State.str_reserveLoad, State.str_modMe_setQueue]

/-! ## Pieces of a load -/

section
variable {s : State} {a : Act} {j id : Nat} {cu : List Nat} {slots : List (Nat × List Nat)} {els : List Elem}
  (hres : s.resolve a.hnd (fun _ => true) false slots = .ok els)
include hres

/-- A piece of a timed source lands its elements as they stand (R187). -/
theorem loadPiece_timed (ht : timedSrc a.hnd = true) :
    s.loadPiece a j id cu slots = (s.place a.ins a.hnd a.aux id j
      (match a.ins with
        | .ldV _ _ => a.start + 15 + handleLat a.hnd
        | _ => s.tc + handleLat a.hnd) (s.readTimed els)).setFlags (a.start + a.n) (packLoad (widenBit a.ins) a.hnd (s.readTimed els)).2 := by
  rw [State.loadPiece, hres]
  dsimp only
  rw [if_pos ht]
  rfl

/-- A piece of a phased source is one access (R187). -/
theorem loadPiece_phased (ht : timedSrc a.hnd = false) (hne : els ≠ []) :
    s.loadPiece a j id cu slots = s.startLoad a id j (s.arrival (lclOf a.ins)) cu a.aux els := by
  rw [State.loadPiece, hres]
  dsimp only
  rw [if_neg (by simp [ht]), if_neg (by simpa using hne)]

end

/-- A phased value that is not fixed yet sets its flags when it comes (R80, log entry 30). -/
theorem startLoad_unsettled {s : State} {a : Act} {els : List Elem} (id j arr : Nat) (cu aux : List Nat) (hk : s.settledRead els = false) :
    s.startLoad a id j arr cu aux els =
      if widenBit a.ins then
        (s.startAs id .read a.ins arr j a.hnd cu aux els (readParts els) none).modAccess id fun b => { b with flags := some (a.start + a.n, 0) }
      else s.startAs id .read a.ins arr j a.hnd cu aux els (readParts els) none := by
  dsimp only [State.startLoad]
  rw [hk, if_neg Bool.false_ne_true, Bool.false_or]
  cases widenBit a.ins <;> rfl

/-- A fixed phased value sets its flags with its piece (R189). -/
theorem startLoad_settled {s : State} {a : Act} {els : List Elem} {xs : List (Elem × List Byte)} (id j arr : Nat) (cu aux : List Nat)
    (hk : s.settledRead els = true) (hr : s.readPhased [] s.cur.1 (s.my.writeTc a.start) els = some xs) :
    s.startLoad a id j arr cu aux els = (s.setFlags (a.start + a.n) (packLoad (widenBit a.ins) a.hnd xs).2).startAs id .read a.ins arr j a.hnd cu
      aux els (readParts els) none := by
  dsimp only [State.startLoad]
  rw [hk, if_pos rfl, hr]
  rfl

/-- Settles O26: timed pieces by their destination, phased ones by whether their value is fixed. -/
theorem loadPieces : Obligations.LoadPieces := by
  unfold Obligations.LoadPieces
  intro s a j id cu slots els hres
  refine ⟨fun ht => ?_, fun ht hne => ?_⟩
  · intro xs d r
    refine ⟨?_, ?_, ?_, ?_⟩
    · intro h f hi
      rw [loadPiece_timed hres ht, hi]
      simp only [State.place, ← hi]
      rfl
    · intro h f hi
      rw [loadPiece_timed hres ht]
      obtain hi | hi := hi <;> rw [hi] <;> simp only [State.place, ← hi] <;> rfl
    · intro h f hi
      rw [loadPiece_timed hres ht, hi]
      simp only [State.place, ← hi]
      rfl
    · intro h f hi
      rw [loadPiece_timed hres ht, hi]
      simp only [State.place, ← hi]
      rfl
  · intro start
    refine ⟨fun hk => ?_, fun xs hk hr => ?_⟩
    · exact (loadPiece_phased hres ht hne).trans (startLoad_unsettled _ _ _ _ _ hk)
    · exact (loadPiece_phased hres ht hne).trans (startLoad_settled _ _ _ _ _ hk hr)

/-! ## Stores through a handle -/

/-- Beginning an instruction leaves its stream's word alone. -/
theorem str_begin_now (s : State) (i : Instr) (id n : Nat) (H : Handle) (cu aux : List Nat) (buf : List Byte) :
    (s.begin i id n H cu aux buf).str.now = s.str.now := by
  simp [State.begin, State.occupy]

theorem str_begin_cu (s : State) (i : Instr) (id n : Nat) (H : Handle) (cu aux : List Nat) (buf : List Byte) :
    (s.begin i id n H cu aux buf).str.cu = s.str.cu := by
  simp [State.begin, State.occupy]

theorem my_begin (s : State) (i : Instr) (id n : Nat) (H : Handle) (cu aux : List Nat) (buf : List Byte) :
    (s.begin i id n H cu aux buf).my = s.my := by
  simp [State.begin, State.occupy]

theorem handleCheck_of_my_eq {s t : State} (h : s.my = t.my) (H : Handle) (w : Bool) (cu : List Nat) : s.handleCheck H w cu = t.handleCheck H w cu := by
  simp only [State.handleCheck, h]

theorem regSourceBad_eq_false {conv fmt esz : Nat} (h5 : fmt < 5) (hraw : conv = 0 → fmtSize fmt = esz) (hconv : conv ≠ 0 → esz = 4) :
    regSourceBad conv fmt esz = false := by
  unfold regSourceBad
  split
  next h => simp [h5, hraw h]
  next h => simp [h5, hconv h]

theorem exec_stV_of_ok {h : Hdr} {f : Mem} {s : State} {rows cols esz : Nat} (hg : s.guard = true)
    (hok : s.handleCheck (s.memHandle f) true s.str.cu = none) (hne : hEmpty (s.memHandle f) = false) (hsh : s.me.shape = (rows, cols, esz))
    (hv : s.me.vregFault (s.reg .V f.rd) = none) (hsrc : regSourceBad (convOf f) (hFmt (s.memHandle f)) esz = false) :
    exec (.stV h f) s = .next ((s.begin (.stV h f) 0 16 (s.memHandle f) s.str.cu [s.reg .V f.rd, rows, cols, esz]
      (s.getFile s.cur.1 .v (4096 * s.reg .V f.rd) 4096)).pieceWith storeStep) := by
  dsimp only [exec, execStV]
  rw [hsh]
  dsimp only
  rw [if_neg (by simp [hg]), hv]
  dsimp only
  rw [State.withHandle_ok _ hok, hsrc, if_neg Bool.false_ne_true, if_neg (by simp [hne])]

@[simp] theorem State.reg_modMe_setQueue (s : State) (q : Nat) (es : List QEntry) (sp : Space) (r : BitVec 7) :
    (s.modMe fun x => x.setQueue q es).reg sp r = s.reg sp r := by
  rw [State.reg, State.str_modMe_setQueue, State.reg]

theorem exec_stS_of_ok {h : Hdr} {f : Mem} {s : State} {e : QEntry} {es : List QEntry} (hg : s.guard = true)
    (hok : s.handleCheck (s.memHandle f) true s.str.cu = none) (he : s.me.queue (s.reg .Q f.rx) = e :: es) (hr : e.ready ≤ s.tc)
    (h5 : hFmt (s.memHandle f) < 5) :
    let u := s.modMe fun x => x.setQueue (s.reg .Q f.rx) es
    let n := gatherPieces (f.imm.toNat % 256 + 1) (storeCap (convOf f) (hFmt (s.memHandle f))) (f.fn.getLsbD 2)
    exec (.stS h f) s = .next ((u.begin (.stS h f) 0 n (s.memHandle f) s.str.cu [s.reg .Q f.rd] (entryBytes e.data)).pieceWith scatterStep) := by
  intro u n
  have goesOn : ∀ t : State, t.guard = true → t.handleCheck (s.memHandle f) true t.str.cu = none →
      (if !t.guard then t.pieceWith scatterStep
        else t.withHandle (s.memHandle f) true t.str.cu fun s' => if 5 ≤ hFmt (s.memHandle f) then s'.fault .format 0 else s'.pieceWith scatterStep) =
        t.pieceWith scatterStep := fun t hgt hct => by
    rw [if_neg (by simp [hgt]), State.withHandle_ok _ hct, if_neg (Nat.not_le.mpr h5)]
  refine (congrArg _ (State.pop_ready s he hr _)).trans (congrArg _ ((goesOn _ ?_ ?_).trans ?_))
  · rw [State.guard, str_begin_now]
    exact (State.guard_modMe_setQueue ..).trans hg
  · rw [str_begin_cu, State.str_modMe_setQueue]
    exact (handleCheck_of_my_eq ((my_begin ..).trans (State.my_modMe_setQueue ..)) ..).trans hok
  · rw [State.str_modMe_setQueue, State.reg_modMe_setQueue]

/-- The extents of two handles are compared one by one (R200). -/
theorem any_ext_ne_eq_false {H M : Handle} (h : ∀ d, d < 4 → hExt H d = hExt M d) : ((List.range 4).any fun d => hExt H d != hExt M d) = false := by
  refine List.any_eq_false.mpr fun d hd => ?_
  rw [h d (List.mem_range.mp hd), bne_self_eq_false]
  exact Bool.false_ne_true

theorem exec_stUpd_of_ok {h : Hdr} {f : Mem} {s : State} (hg : s.guard = true) (hok : s.handleCheck (s.memHandle f) true s.str.cu = none)
    (hf : hFmt (s.memHandle f) = 0 ∨ hFmt (s.memHandle f) = 1) {M : Handle} (hM : M = Map.get s.me.h (f.hnd.toNat + 1))
    (hm : f.fn.getLsbD 0 = true ∨ (s.handleCheck M true s.str.cu = none ∧ (hFmt M = 0 ∨ hFmt M = 1) ∧ ∀ d, d < 4 → hExt (s.memHandle f) d = hExt M d)) :
    exec (.stUpd h f) s = .next ((s.begin (.stUpd h f) 0 (f.imm.toNat % 128 + 1) (s.memHandle f) s.str.cu
      [s.reg .Q f.rd, s.reg .Q f.rx, s.me.upda.toNat, s.me.updb.toNat] (leBytes 32 M.toNat)).pieceWith stupdStep) := by
  subst hM
  have good : ∀ {H : Handle}, hFmt H = 0 ∨ hFmt H = 1 → (hFmt H != 0 && hFmt H != 1) = false := by
    rintro H (h | h) <;> simp [h]
  refine next_withHandle_ok hg hok _ ?_
  dsimp only
  by_cases hn : f.fn.getLsbD 0 = true
  · rw [if_pos hn, if_neg (Bool.eq_false_iff.mp (good hf))]
  · obtain ⟨hokM, hfM, hext⟩ := hm.resolve_left hn
    rw [if_neg hn, State.withHandle_ok _ hokM, any_ext_ne_eq_false hext, if_neg Bool.false_ne_true,
      if_neg (Bool.eq_false_iff.mp (Bool.or_eq_false_iff.mpr ⟨good hf, good hfM⟩))]

/-- Settles O27: each store's checks pass, so that its pieces begin. -/
theorem handleStores : Obligations.HandleStores := by
  unfold Obligations.HandleStores
  intro h f s hg H cu conv hok
  refine ⟨?_, ?_, ?_, ?_, ?_, ?_⟩
  · intro hf n
    have hconv : ¬convBad (convOf f) (hFmt (s.memHandle f)) = true := by
      rw [convBad, Bool.and_eq_true, bne_iff_ne, decide_eq_true_eq]
      exact hf
    exact ⟨next_withHandle_ok hg hok _ (if_neg hconv), next_withHandle_ok hg hok _ (if_neg hconv), next_withHandle_ok hg hok _ (if_neg hconv)⟩
  · intro rows cols esz hsh hv hne h5 hraw hconv
    exact exec_stV_of_ok hg hok hne hsh hv (regSourceBad_eq_false h5 hraw hconv)
  · intro hne h5 hraw n r
    refine next_withHandle_ok hg hok _ ?_
    rw [regSourceBad_eq_false h5 hraw fun _ => rfl, if_neg Bool.false_ne_true, if_neg (by simp [show hEmpty (s.memHandle f) = false from hne])]
  · intro e es he hr h5
    exact exec_stS_of_ok hg hok he hr h5
  · intro h6 hq t
    refine next_withHandle_ok hg hok _ ?_
    have h3 : ¬f.fn.toNat % 4 = 3 := by omega
    have h1 : ¬f.fn.toNat % 4 = 1 := by omega
    rw [if_neg h6, State.withScale, if_neg h3, if_neg h1]
  · intro M hf hm
    exact exec_stUpd_of_ok hg hok hf rfl hm

/-! ## Pieces of a store -/

theorem str_timedWrite {s : State} (hc : isSup s.cur.1 = false) (p : Word) (bs : List Byte) (t : Nat) : (s.timedWrite p bs t).str = s.str := by
  rw [timedWrite_cohort hc, State.modMy_str]

theorem str_foldl_timedWrite (l : List (Word × List Byte)) (t : State → Word × List Byte → Nat) {s : State} (hc : isSup s.cur.1 = false) :
    (l.foldl (fun u p => u.timedWrite p.1 p.2 (t u p)) s).str = s.str := by
  induction l generalizing s with
  | nil => rfl
  | cons p ps ih =>
    have hcur : isSup (s.timedWrite p.1 p.2 (t s p)).cur.1 = false := by
      rw [timedWrite_cohort hc, State.modMy_cur]
      exact hc
    rw [List.foldl_cons, ih hcur, str_timedWrite hc]

/-- A piece whose elements resolve is written, observed and flagged where its stream still runs (R187). -/
theorem writePiece_of_alive {s u : State} {i : Instr} {h : Handle} {j : Nat} {cu : List Nat} {w : Written} {els : List Elem} (rep : Nat)
    (hres : s.resolve h (fun _ => true) false w.slots = .ok els)
    (hw : s.writeOwn i h j cu els (writeParts (hFmt h) els w.code w.scale) none = u) (ha : u.str.stopped = false) :
    s.writePiece i h j cu w rep = (u.observeAll h w 0 rep).setFlags rep w.allFlags := by
  rw [State.writePiece, State.writePieceEv, hres]
  dsimp only
  rw [hw, if_pos (by simp [State.alive, ha])]

theorem writeOwn_phased {s : State} {i : Instr} {h : Handle} {j : Nat} {cu : List Nat} {els : List Elem} {ps : List (Word × List Byte)}
    (ht : timedTag (ptrTag (hBase h)) = false) (hne : ps ≠ []) (hm : ∀ p ∈ ps, s.my.markFault p.1 p.2.length (s.my.writeTc s.tc) = none)
    (offer : Option Nat) : s.writeOwn i h j cu els ps offer = s.start .store i s.tc j h cu s.actAux els ps offer := by
  have hfind : (ps.findSome? fun p => (s.my.markFault p.1 p.2.length (s.my.writeTc s.tc)).map fun c => (p.1, c)) = none :=
    List.findSome?_eq_none_iff.mpr fun p hp => by rw [hm p hp, Option.map_none]
  rw [State.writeOwn, if_neg (by simp [ht]), hfind]
  exact if_neg (by simpa using hne)

/-- Settles O28: timed memory range by range, phased memory as one store. -/
theorem storePieces : Obligations.StorePieces := by
  unfold Obligations.StorePieces
  intro s i h j cu w rep els hres hrun ps aux
  refine ⟨fun ht hc => ?_, fun ht hne hm hrun' => ?_⟩
  · exact writePiece_of_alive rep hres (if_pos ht) ((congrArg Stream.stopped (str_foldl_timedWrite _ _ hc)).trans hrun)
  · exact writePiece_of_alive rep hres (writeOwn_phased ht hne hm none) hrun'

/-! ## `LD.BC` -/

theorem zip_range_eq_map_zipIdx {α : Type} (l : List α) : (List.range l.length).zip l = l.zipIdx.map fun t => (t.2, t.1) := by
  refine List.ext_getElem (by simp) fun i h1 h2 => ?_
  simp

/-- A core's pushes after one more (R94). -/
theorem pushes_pushTo (s : State) (c o q : Nat) (e : QEntry) (d : Nat) :
    ((s.pushTo c o q e).core d).pushes = (s.core d).pushes ++ if c = d then [⟨o, q, e, s.cur.1, s.cur.2⟩] else [] := by
  by_cases h : d = c
  · subst h
    rw [State.pushTo, State.core_modCore, if_pos rfl]
  · rw [State.pushTo, State.core_modCore_ne s _ h, if_neg (Ne.symm h), List.append_nil]

@[simp] theorem State.tc_pushTo (s : State) (c o q : Nat) (e : QEntry) : (s.pushTo c o q e).tc = s.tc := by
  rw [State.tc, State.my_pushTo, State.tc]

/-- What pushes to queues leave alone. -/
def PushFrame (s t : State) : Prop := t.str = s.str ∧ t.tc = s.tc ∧ t.cur = s.cur

theorem PushFrame.pushTo {s t : State} (h : PushFrame s t) (c o q : Nat) (e : QEntry) : PushFrame s (t.pushTo c o q e) := by
  obtain ⟨hstr, htc, hcur⟩ := h
  exact ⟨(State.str_pushTo ..).trans hstr, (State.tc_pushTo ..).trans htc, hcur⟩

/-- The entry of piece `j` that a `LD.BC` of `n` pieces reserves in its target number `k` (R203). -/
def State.bcPush (s : State) (q id n k j : Nat) : Push := ⟨1, q, ⟨0, s.tc + j + 24, false, some (id + k * n + j), s.cur⟩, s.cur.1, s.cur.2⟩

/-- One target's reservations of a `LD.BC`. -/
def State.reserveBcIn (s : State) (q id n k c : Nat) (js : List Nat) : State :=
  js.foldl (fun u j => u.pushTo c 1 q ⟨0, u.tc + j + 24, false, some (id + k * n + j), u.cur⟩) s

theorem reserveBcIn_spec (s : State) {t : State} (h : PushFrame s t) (q id n k c : Nat) (js : List Nat) :
    PushFrame s (t.reserveBcIn q id n k c js) ∧
      ∀ d, ((t.reserveBcIn q id n k c js).core d).pushes = (t.core d).pushes ++ if c = d then js.map (s.bcPush q id n k) else [] := by
  induction js generalizing t with
  | nil => exact ⟨h, fun d => by simp [State.reserveBcIn]⟩
  | cons j js ih =>
    have ⟨_, htc, hcur⟩ := h
    have := ih (h.pushTo c 1 q ⟨0, t.tc + j + 24, false, some (id + k * n + j), t.cur⟩)
    refine ⟨this.1, fun d => (this.2 d).trans ?_⟩
    rw [pushes_pushTo, List.append_assoc, htc, hcur]
    by_cases hd : c = d <;> simp [hd, State.bcPush]

theorem reserveBc_fold_spec (s : State) {t : State} (h : PushFrame s t) (q id n : Nat) (ts : List (Nat × Nat)) :
    let r := ts.foldl (fun u p => u.reserveBcIn q id n p.2 p.1 (List.range n)) t
    PushFrame s r ∧ ∀ d, (r.core d).pushes = (t.core d).pushes ++ ts.flatMap fun p => if p.1 = d then (List.range n).map (s.bcPush q id n p.2) else [] := by
  induction ts generalizing t with
  | nil => exact ⟨h, fun d => by simp⟩
  | cons p ps ih =>
    obtain ⟨hf, hp⟩ := reserveBcIn_spec s h q id n p.2 p.1 (List.range n)
    refine ⟨(ih hf).1, fun d => ((ih hf).2 d).trans ?_⟩
    rw [hp, List.flatMap_cons, List.append_assoc]

theorem reserveBc_eq_fold (s : State) (f : Mem) (n : Nat) :
    s.reserveBc f n true = (s.uid, ((s.bcCores f).zipIdx).foldl (fun u p => u.reserveBcIn (s.reg .Q f.rd) s.uid n p.2 p.1 (List.range n))
      (s.newIds (n * (s.bcCores f).length)).2) := by
  dsimp only [State.reserveBc]
  rw [zip_range_eq_map_zipIdx, List.foldl_map]
  rfl

/-- Settles O29: the reservations core by core, and a piece's fills. -/
theorem broadcastLoad : Obligations.BroadcastLoad := by
  unfold Obligations.BroadcastLoad
  intro h f s hg H n hok hne hf r
  have hr := reserveBc_eq_fold s f n
  obtain ⟨⟨hstr, -, -⟩, hpush⟩ := reserveBc_fold_spec s (t := (s.newIds (n * (s.bcCores f).length)).2) ⟨rfl, rfl, rfl⟩ (s.reg .Q f.rd) s.uid n
    (s.bcCores f).zipIdx
  refine ⟨?_, ?_, ?_⟩
  · refine next_withHandle_ok hg hok _ ?_
    dsimp only
    rw [if_neg (by rw [Bool.and_eq_true, decide_eq_true_eq]; exact hf), if_neg (by simp [show hEmpty (s.memHandle f) = false from hne]),
      show hEmpty (s.memHandle f) = false from hne, Bool.not_false]
    have hstr' : (s.reserveBc f n true).2.str = s.str := by rw [hr]; exact hstr
    rw [hstr']
  · intro c
    have : r.2 = _ := congrArg Prod.snd hr
    rw [this]
    exact hpush c
  · intro u a els cu' es hi hw hp hres
    refine ⟨_, ?_, rfl⟩
    rw [ldbcStep, hi]
    dsimp only
    rw [if_neg (by simp [hw]), hp]
    dsimp only
    rw [hres]
    dsimp only
    rw [zip_range_eq_map_zipIdx, List.foldl_map]
    rfl

/-! ## `ATOM` -/

/-- A range check depends on the executing core and its slot alone (R83). -/
theorem rangeCheck_of_my_eq {s t : State} (hmy : s.my = t.my) (hcur : s.cur = t.cur) (h : Handle) (ok : Word → Bool) (x : Bool) (off : Int) (n : Nat) :
    s.rangeCheck h ok x off n = t.rangeCheck h ok x off n := by
  have hlim : s.ptrLimit = t.ptrLimit := funext fun p => by simp only [State.ptrLimit, hmy, hcur]
  have hown : s.ptrOwner = t.ptrOwner := funext fun p => by simp only [State.ptrOwner, hcur]
  have hmem : s.memberOwner = t.memberOwner := funext fun p => by simp only [State.memberOwner, hmy]
  unfold State.rangeCheck
  rw [hlim, hown, hmem]

/-- Settles O31: the operand is popped, and every check of the element passes. -/
theorem atomics : Obligations.Atomics := by
  unfold Obligations.Atomics
  intro h f s e es p hg H cu w he hr hok hne hfmt hrange hal hmark u a c
  have hmy : u.my = s.my := State.my_modMe_setQueue ..
  have hok' : u.handleCheck H true u.str.cu = none := by
    rw [State.str_modMe_setQueue]
    exact (handleCheck_of_my_eq hmy ..).trans hok
  have hg' : u.guard = true := (State.guard_modMe_setQueue ..).trans hg
  have hrange' := (rangeCheck_of_my_eq hmy rfl ..).trans hrange
  have hmark' : u.my.markFault p w (u.my.writeTc u.tc) = none := by
    rw [hmy, State.tc_modMe_setQueue]
    exact hmark
  have hcu : u.str.cu = cu := congrArg Stream.cu (State.str_modMe_setQueue ..)
  refine (congrArg _ (State.pop_ready s he hr _)).trans (next_withHandle_ok hg' hok' _ ?_)
  dsimp only
  have hfmt' : ¬(!atomFmtOk (f.fn.toNat % 16) (hFmt (s.memHandle f)) (f.fn.getLsbD 4)) = true := by
    rw [show atomFmtOk _ _ _ = true from hfmt]
    decide
  have hal' : ¬(ptrOff p % w != 0) = true := by simp [hal]
  have hid : u.newId.2.my = s.my := hmy
  rw [if_neg hfmt', if_neg (by simp [show hEmpty (s.memHandle f) = false from hne]), hcu, hrange']
  dsimp only
  rw [if_neg hal', hmark']
  dsimp only
  rw [hid]
  rfl

/-! ## Barrier objects -/

theorem any_bcast_eq_false {H : Handle} (h : ∀ d, d < 4 → hBcast H d = false) : ((List.range 4).any fun d => hBcast H d) = false :=
  List.any_eq_false.mpr fun d hd => by simp [h d (List.mem_range.mp hd)]

theorem any_bcast_eq_true {H : Handle} (h : ∃ d, d < 4 ∧ hBcast H d = true) : ((List.range 4).any fun d => hBcast H d) = true := by
  obtain ⟨d, hd, hb⟩ := h
  exact List.any_eq_true.mpr ⟨d, List.mem_range.mpr hd, hb⟩

section
variable {s : State} {sender stream pc o len wr c : Nat} {word p : Word}

/-- An object that is idle, or covers none of the bytes, takes no notice of them (R207). -/
theorem offerTo_unnoticed (h : ((s.core c).obj o).st = .idle ∨ coveredBytes ((s.core c).obj o).cover p len = 0) :
    s.offerTo sender stream pc word o p len wr c = s := by
  by_cases hk : coveredBytes ((s.core c).obj o).cover p len = 0
  · exact if_pos hk
  · rw [State.offerTo, if_neg hk, h.resolve_right hk]

/-- Bytes for an open object are the sender's barrier fault (R210). -/
theorem offerTo_opened (h : ((s.core c).obj o).st = .opened) (hk : 0 < coveredBytes ((s.core c).obj o).cover p len) :
    ∃ r : FaultRec, s.offerTo sender stream pc word o p len wr c = s.addFault (s.core sender).slot r ∧ r.kind = .barrier ∧ r.detail = 2 := by
  rw [State.offerTo, if_neg (Nat.ne_of_gt hk), h]
  exact ⟨_, rfl, rfl, rfl⟩

/-- An armed object counts the bytes that it covers, and opens at its total (R207). -/
theorem offerTo_armed (h : ((s.core c).obj o).st = .armed) (hk : 0 < coveredBytes ((s.core c).obj o).cover p len)
    (hle : ((s.core c).obj o).count + coveredBytes ((s.core c).obj o).cover p len ≤ ((s.core c).obj o).total) :
    ((s.offerTo sender stream pc word o p len wr c).core c).obj o = { (s.core c).obj o with
      count := ((s.core c).obj o).count + coveredBytes ((s.core c).obj o).cover p len
      st := if ((s.core c).obj o).total ≤ ((s.core c).obj o).count + coveredBytes ((s.core c).obj o).cover p len then .opened else .armed } := by
  rw [State.offerTo, if_neg (Nat.ne_of_gt hk), h]
  dsimp only
  rw [if_neg (Nat.not_lt.mpr hle), State.core_modCore, Core.obj]
  exact Tbl.get_set_self ..

end

/-- Settles O33: each word by the state of its object, and the bytes that an object counts. -/
theorem barrierObjects : Obligations.BarrierObjects := by
  unfold Obligations.BarrierObjects
  intro h f s hg hc H b o
  refine ⟨fun hok hb => ⟨?_, fun hst => ?_⟩, fun hok hb => ?_, fun hst => ?_, fun hst => ?_, fun hst asleep t seq w => ?_, ?_, ?_⟩
  · intro hst total ht
    refine next_withHandle_ok hg hok _ ?_
    rw [any_bcast_eq_false hb, if_neg Bool.false_ne_true, if_neg (by simp [show (s.me.obj (bobjNum f)).st = .idle from hst]), ht]
    rfl
  · refine next_withHandle_ok hg hok _ ?_
    rw [any_bcast_eq_false hb, if_neg Bool.false_ne_true]
    exact (if_pos (bne_iff_ne.mpr hst)).trans (s.fault_cohort hc ..)
  · refine next_withHandle_ok hg hok _ ?_
    rw [any_bcast_eq_true hb, if_pos rfl]
    exact s.fault_cohort hc ..
  · exact (next_not_guarded_of_true hg _).trans (congrArg _ ((if_neg (by simp [show (s.me.obj (bobjNum f)).st = .opened from hst])).trans
      (if_neg (by simp [show (s.me.obj (bobjNum f)).st = .opened from hst]))))
  · exact (next_not_guarded_of_true hg _).trans (congrArg _ ((if_pos hst).trans (s.fault_cohort hc ..)))
  · have hbeq : (((s.core s.cur.1).obj (bobjNum f)).st == .armed) = true := by simp [show ((s.core s.cur.1).obj (bobjNum f)).st = .armed from hst]
    simp only [State.waits, hbeq, Bool.or_true]
  · intro c wr p len k t
    refine ⟨fun hst hle hk => ?_, offerTo_unnoticed, fun hst hk => offerTo_opened hst hk⟩
    rw [show (t.core c).obj b = _ from offerTo_armed hst hk hle]
    refine ⟨rfl, ?_⟩
    dsimp only
    by_cases he : ((s.core c).obj b).total = ((s.core c).obj b).count + k
    · rw [if_pos (Nat.le_of_eq he), if_pos he]
    · rw [if_neg (fun hge => he (Nat.le_antisymm hge hle)), if_neg he]
  · intro n obj dest sent
    refine ⟨fun w hw => ?_, fun hn => ?_⟩
    · dsimp only [exec, execBobjByteCount]
      rw [show List.find? _ (s.slot n).log = some w from hw]
    · dsimp only [exec, execBobjByteCount]
      rw [show List.find? _ (s.slot n).log = none from hn]

/-! ## Arithmetic at memory -/

/-- A number of `w` bits read as a signed one. -/
def signedVal (w x : Nat) : Int := if 2 ^ (w - 1) ≤ x then (x : Int) - 2 ^ w else x

theorem toInt_ofNat_eq_signedVal {w x : Nat} (hw : 0 < w) (hx : x < 2 ^ w) : (BitVec.ofNat w x).toInt = signedVal w x := by
  have h2 : 2 ^ w = 2 * 2 ^ (w - 1) := by rw [← Nat.pow_succ', Nat.succ_eq_add_one, Nat.sub_add_cancel hw]
  rw [BitVec.toInt_eq_toNat_cond, BitVec.toNat_ofNat, Nat.mod_eq_of_lt hx, signedVal]
  by_cases h : 2 ^ (w - 1) ≤ x
  · rw [if_neg (by omega), if_pos h]
    push_cast
    rfl
  · rw [if_pos (by omega), if_neg h]

section
variable {w old a : Nat} (c : Nat) (hw : 0 < w) (ho : old < 2 ^ w) (ha : a < 2 ^ w)
include hw ho ha

/-- The signed minimum and maximum of an atomic (R205). -/
theorem atomNew_smin : (BitVec.ofNat w (atomNew 2 w old a c)).toInt = min (BitVec.ofNat w old).toInt (BitVec.ofNat w a).toInt := by
  have : atomNew 2 w old a c = if signedVal w old ≤ signedVal w a then old else a := rfl
  rw [this, toInt_ofNat_eq_signedVal hw ho, toInt_ofNat_eq_signedVal hw ha, Int.min_def]
  split
  · exact toInt_ofNat_eq_signedVal hw ho
  · exact toInt_ofNat_eq_signedVal hw ha

theorem atomNew_smax : (BitVec.ofNat w (atomNew 3 w old a c)).toInt = max (BitVec.ofNat w old).toInt (BitVec.ofNat w a).toInt := by
  have : atomNew 3 w old a c = if signedVal w old ≤ signedVal w a then a else old := rfl
  rw [this, toInt_ofNat_eq_signedVal hw ho, toInt_ofNat_eq_signedVal hw ha, Int.max_def]
  split
  · exact toInt_ofNat_eq_signedVal hw ha
  · exact toInt_ofNat_eq_signedVal hw ho

/-- An atomic's new value is a number of its width (R205). -/
theorem atomNew_lt {op : Nat} (hop : op ≤ 10) (h1 : op = 1 → w = 32) : atomNew op w old a c < 2 ^ w := by
  have pick : ∀ (p : Prop) [Decidable p], (if p then old else a) < 2 ^ w := fun p _ => by split <;> assumption
  have pick' : ∀ (p : Prop) [Decidable p], (if p then a else old) < 2 ^ w := fun p _ => by split <;> assumption
  match op, hop, h1 with
  | 0, _, _ => exact Nat.mod_lt _ (Nat.two_pow_pos w)
  | 1, _, h1 =>
    obtain rfl := h1 rfl
    exact (fadd (BitVec.ofNat 32 old) (BitVec.ofNat 32 a)).1.isLt
  | 2, _, _ => exact pick _
  | 3, _, _ => exact pick' _
  | 4, _, _ => exact Nat.lt_of_le_of_lt (Nat.min_le_left ..) ho
  | 5, _, _ => exact Nat.max_lt.mpr ⟨ho, ha⟩
  | 6, _, _ => exact Nat.and_lt_two_pow _ ha
  | 7, _, _ => exact Nat.or_lt_two_pow ho ha
  | 8, _, _ => exact Nat.xor_lt_two_pow ho ha
  | 9, _, _ => exact ha
  | 10, _, _ => exact pick' _

end

/-- The low half of a word of the update unit (R200). -/
theorem truncate_eq_extractLsb' (x : Word) : x.truncate 32 = (x.extractLsb' 0 32 : BitVec 32) := by
  rw [BitVec.truncate_eq_setWidth, BitVec.setWidth_eq_extractLsb' (by decide)]

/-- The union of the flags of an optimiser step, bit by bit (R200). -/
theorem getLsbD_updFlags (n : Bool) (g1 d1 g2 p s e x : Flags) (i : Nat) :
    (g1 ||| d1 ||| g2 ||| (if n then 0 else p ||| s) ||| e ||| x).getLsbD i =
      (g1.getLsbD i || d1.getLsbD i || g2.getLsbD i || e.getLsbD i || x.getLsbD i || (!n && (p.getLsbD i || s.getLsbD i))) := by
  cases n
  · simp only [Bool.false_eq_true, if_false, BitVec.getLsbD_or, Bool.not_false, Bool.true_and]
    ac_rfl
  · simp

/-- Settles O32: atomics operation by operation, and the optimiser step with its flags. -/
theorem memoryArithmetic : Obligations.MemoryArithmetic := by
  unfold Obligations.MemoryArithmetic
  refine ⟨?_, ?_⟩
  · intro w64 old a c w ho ha hc si
    have hw : 0 < w := by cases w64 <;> decide
    refine ⟨rfl, fun _ => rfl, atomNew_smin c hw ho ha, atomNew_smax c hw ho ha, rfl, rfl, Nat.testBit_and old a, Nat.testBit_or old a,
      Nat.testBit_xor old a, rfl, rfl, fun op hop h1 => atomNew_lt c hw ho ha hop fun h => ?_⟩
    have h32 : w64 = false := h1 h
    subst h32
    rfl
  · intro ua ub nomom g w m lr decay mom gsc g1 d1 g2 p s r
    refine ⟨?_, ?_, ?_⟩
    · intro hn
      simp only [r, updSlot, truncate_eq_extractLsb', hn]
      rfl
    · intro hn
      simp only [r, updSlot, truncate_eq_extractLsb', hn]
      rfl
    · intro e x
      simp only [e, x, r, updSlot, truncate_eq_extractLsb']
      exact ⟨rfl, fun i _ => getLsbD_updFlags nomom ..⟩

/-! ## Routes of the mesh -/

/-- The hops between two coordinates. -/
def hopsBetween (a b : Nat) : Nat := max a b - min a b

/-- The die bridges between two coordinates of dies `w` wide. -/
def cutsBetween (a b w : Nat) : Nat := max (a / w) (b / w) - min (a / w) (b / w)

/-- The coordinate after `k` hops from `a` to `b`. -/
def afterHops (a b k : Nat) : Nat := if a < b then a + k else a - k

/-- The coordinate one hop nearer. -/
def hopTo (a b : Nat) : Nat := if a < b then a + 1 else a - 1

theorem hopsBetween_hopTo {a b : Nat} (h : a ≠ b) : hopsBetween a b = hopsBetween (hopTo a b) b + 1 := by
  unfold hopsBetween hopTo
  split <;> omega

theorem hopsBetween_self (a : Nat) : hopsBetween a a = 0 := by simp [hopsBetween]

theorem eq_of_hopsBetween_eq_zero {a b : Nat} (h : hopsBetween a b = 0) : a = b := by
  unfold hopsBetween at h
  omega

/-- The bridges of a way are those of its first hop and of the rest. -/
theorem cutsBetween_hopTo {a b : Nat} (h : a ≠ b) (w : Nat) : cutsBetween a b w = cutsBetween a (hopTo a b) w + cutsBetween (hopTo a b) b w := by
  unfold cutsBetween hopTo
  split
  next hlt =>
    have h1 := Nat.div_le_div_right (c := w) (show a ≤ a + 1 by omega)
    have h2 := Nat.div_le_div_right (c := w) (show a + 1 ≤ b by omega)
    omega
  next hge =>
    have h1 := Nat.div_le_div_right (c := w) (show a - 1 ≤ a by omega)
    have h2 := Nat.div_le_div_right (c := w) (show b ≤ a - 1 by omega)
    omega

theorem hopTo_afterHops {a b k : Nat} (hk : k + 1 < hopsBetween a b) : afterHops a b (k + 1) = afterHops (hopTo a b) b k := by
  unfold hopsBetween at hk
  unfold afterHops hopTo
  split
  · rw [if_pos (by omega)]
    omega
  · rw [if_neg (by omega)]
    omega

theorem hopTo_lt_iff {a b : Nat} (h : 1 < hopsBetween a b) : hopTo a b < b ↔ a < b := by
  unfold hopsBetween at h
  unfold hopTo
  split <;> omega

theorem cutsBetween_self (a w : Nat) : cutsBetween a a w = 0 := by simp [cutsBetween]

theorem hopTo_afterHops_eq {a b k : Nat} (hk : k + 1 < hopsBetween a b) : hopTo a (afterHops a b (k + 1)) = hopTo a b ∧ a ≠ afterHops a b (k + 1) := by
  unfold hopsBetween at hk
  unfold afterHops hopTo
  split
  · rw [if_pos (by omega)]
    omega
  · rw [if_neg (by omega)]
    omega

/-- The bridges up to the hop after the next one. -/
theorem cutsBetween_afterHops_succ {a b k : Nat} (hk : k + 1 < hopsBetween a b) (w : Nat) :
    cutsBetween a (afterHops a b (k + 1)) w = cutsBetween a (hopTo a b) w + cutsBetween (hopTo a b) (afterHops (hopTo a b) b k) w := by
  obtain ⟨hh, hne⟩ := hopTo_afterHops_eq hk
  rw [cutsBetween_hopTo hne, hh, hopTo_afterHops hk]

/-- The cost of a hop along X (R201). -/
theorem hopCost_x {a b : Nat} (h : a ≠ b) : (if max a (hopTo a b) % 12 = 0 then 10 else 2) = 2 + 8 * cutsBetween a (hopTo a b) 12 := by
  unfold cutsBetween hopTo
  split <;> split <;> omega

/-- The cost of a hop along Y, of which the mesh has 16 rows (R201). -/
theorem hopCost_y {a b : Nat} (h : a ≠ b) (ha : a < 16) (hb : b < 16) :
    (if max a (hopTo a b) = 8 then 10 else 2) = 2 + 8 * cutsBetween a (hopTo a b) 8 := by
  unfold cutsBetween hopTo
  split <;> split <;> omega

section
variable (n : Nat) {x y u v : Nat} (t : Nat)

theorem routeFrom_x (h : x ≠ u) : routeFrom (n + 1) (x, y) (u, v) t =
    let r := routeFrom n (hopTo x u, y) (u, v) (t + (2 + 8 * cutsBetween x (hopTo x u) 12))
    ((linkNum x y (if x < u then 0 else 1), t) :: r.1, r.2) := by
  rw [← hopCost_x h, routeFrom, if_neg (by simp [h])]
  by_cases hlt : x < u
  · simp only [hopTo, if_pos hlt]
    rfl
  · simp only [hopTo, if_neg hlt, if_pos (show u < x by omega)]
    rfl

theorem routeFrom_y (h : y ≠ v) (hy : y < 16) (hv : v < 16) : routeFrom (n + 1) (u, y) (u, v) t =
    let r := routeFrom n (u, hopTo y v) (u, v) (t + (2 + 8 * cutsBetween y (hopTo y v) 8))
    ((linkNum u y (if y < v then 2 else 3), t) :: r.1, r.2) := by
  rw [← hopCost_y h hy hv, routeFrom, if_neg (by simp [h])]
  by_cases hlt : y < v
  · simp only [hopTo, if_pos hlt, if_neg (Nat.lt_irrefl u)]
    rfl
  · simp only [hopTo, if_neg hlt, if_neg (Nat.lt_irrefl u)]
    rfl

theorem routeFrom_self : routeFrom n (u, v) (u, v) t = ([], t) := by
  cases n <;> simp [routeFrom]

end

/-- The links and the cost of a way from one place to another that starts at cost `t` (R201). -/
def IsRoute (x y u v t : Nat) (r : List (Nat × Nat) × Nat) : Prop :=
  r.1.length = hopsBetween x u + hopsBetween y v ∧
    r.2 = t + (2 * (hopsBetween x u + hopsBetween y v) + 8 * (cutsBetween x u 12 + cutsBetween y v 8)) ∧
    (∀ k, k < hopsBetween x u →
      r.1[k]? = some (linkNum (afterHops x u k) y (if x < u then 0 else 1), t + (2 * k + 8 * cutsBetween x (afterHops x u k) 12))) ∧
    ∀ k, k < hopsBetween y v → r.1[hopsBetween x u + k]? = some (linkNum u (afterHops y v k) (if y < v then 2 else 3),
      t + (2 * (hopsBetween x u + k) + 8 * (cutsBetween x u 12 + cutsBetween y (afterHops y v k) 8)))

theorem afterHops_zero (a b : Nat) : afterHops a b 0 = a := by simp [afterHops]

theorem isRoute_self (u v t : Nat) : IsRoute u v u v t ([], t) := by
  refine ⟨by simp [hopsBetween_self], by simp [hopsBetween_self, cutsBetween_self], fun k hk => ?_, fun k hk => ?_⟩
  all_goals
    rw [hopsBetween_self] at hk
    exact absurd hk (Nat.not_lt_zero k)

/-- A hop along X in front of a route. -/
theorem IsRoute.consX {x y u v t : Nat} {r : List (Nat × Nat) × Nat} (h : x ≠ u)
    (hr : IsRoute (hopTo x u) y u v (t + (2 + 8 * cutsBetween x (hopTo x u) 12)) r) :
    IsRoute x y u v t ((linkNum x y (if x < u then 0 else 1), t) :: r.1, r.2) := by
  obtain ⟨hlen, hcost, hx, hy⟩ := hr
  have hh := hopsBetween_hopTo h
  have hc := cutsBetween_hopTo h 12
  refine ⟨?_, ?_, fun k hk => ?_, fun k hk => ?_⟩
  · rw [List.length_cons, hlen]
    omega
  · rw [hcost]
    omega
  · cases k with
    | zero => simp [afterHops_zero, cutsBetween_self]
    | succ k =>
      have hdir : (if hopTo x u < u then 0 else 1) = if x < u then 0 else 1 := ite_congr_iff (hopTo_lt_iff (by omega)) rfl rfl
      rw [List.getElem?_cons_succ, hx k (by omega), hdir, cutsBetween_afterHops_succ hk, hopTo_afterHops hk]
      refine congrArg some (Prod.ext rfl ?_)
      dsimp only
      omega
  · rw [hh, Nat.add_right_comm, List.getElem?_cons_succ, hy k hk]
    refine congrArg some (Prod.ext rfl ?_)
    dsimp only
    omega

/-- A hop along Y in front of a route along Y. -/
theorem IsRoute.consY {y u v t : Nat} {r : List (Nat × Nat) × Nat} (h : y ≠ v)
    (hr : IsRoute u (hopTo y v) u v (t + (2 + 8 * cutsBetween y (hopTo y v) 8)) r) :
    IsRoute u y u v t ((linkNum u y (if y < v then 2 else 3), t) :: r.1, r.2) := by
  obtain ⟨hlen, hcost, -, hy⟩ := hr
  have hh := hopsBetween_hopTo h
  have hc := cutsBetween_hopTo h 8
  simp only [hopsBetween_self, cutsBetween_self, Nat.zero_add] at hlen hcost hy
  refine ⟨?_, ?_, fun k hk => ?_, fun k hk => ?_⟩
  · rw [List.length_cons, hlen, hopsBetween_self]
    omega
  · rw [hcost, hopsBetween_self, cutsBetween_self]
    omega
  · rw [hopsBetween_self] at hk
    exact absurd hk (Nat.not_lt_zero k)
  · simp only [hopsBetween_self, cutsBetween_self, Nat.zero_add]
    cases k with
    | zero => simp [afterHops_zero, cutsBetween_self]
    | succ k =>
      have hdir : (if hopTo y v < v then 2 else 3) = if y < v then 2 else 3 := ite_congr_iff (hopTo_lt_iff (by omega)) rfl rfl
      rw [List.getElem?_cons_succ, hy k (by omega), hdir, cutsBetween_afterHops_succ hk, hopTo_afterHops hk]
      refine congrArg some (Prod.ext rfl ?_)
      dsimp only
      omega

theorem hopTo_lt {a b n : Nat} (ha : a < n) (hb : b < n) : hopTo a b < n := by
  unfold hopTo
  split <;> omega

/-- A route with enough fuel is one, hop by hop. -/
theorem isRoute_routeFrom (n : Nat) {x y u v : Nat} (t : Nat) (hn : hopsBetween x u + hopsBetween y v ≤ n) (hy : y < 16) (hv : v < 16) :
    IsRoute x y u v t (routeFrom n (x, y) (u, v) t) := by
  induction n generalizing x y t with
  | zero =>
    obtain rfl := eq_of_hopsBetween_eq_zero (show hopsBetween x u = 0 by omega)
    obtain rfl := eq_of_hopsBetween_eq_zero (show hopsBetween y v = 0 by omega)
    exact isRoute_self ..
  | succ n ih =>
    by_cases hx : x = u
    · subst hx
      by_cases hyv : y = v
      · subst hyv
        rw [routeFrom_self]
        exact isRoute_self ..
      · rw [routeFrom_y n t hyv hy hv]
        have := hopsBetween_hopTo hyv
        exact (ih _ (by omega) (hopTo_lt hy hv)).consY hyv
    · rw [routeFrom_x n t hx]
      have := hopsBetween_hopTo hx
      exact (ih _ (by omega) hy).consX hx

/-- Settles O30, by induction over the hops of a route. -/
theorem meshRoutes : Obligations.MeshRoutes := by
  unfold Obligations.MeshRoutes
  intro a b ha hb hops cuts x y u v
  have bound : ∀ c, c < 768 → (meshXY c).1 < 48 ∧ (meshXY c).2 < 16 := fun c hc => by
    dsimp only [meshXY]
    omega
  obtain ⟨hx, hy⟩ := bound a ha
  obtain ⟨hu, hv⟩ := bound b hb
  obtain ⟨hlen, hcost, hX, hY⟩ : IsRoute x y u v 0 (route a b) := isRoute_routeFrom 64 0 (by
    have : hopsBetween x u ≤ 47 := by unfold hopsBetween; omega
    have : hopsBetween y v ≤ 15 := by unfold hopsBetween; omega
    omega) hy hv
  simp only [Nat.zero_add] at hcost hX hY
  refine ⟨hlen, hcost, ⟨hX, hY⟩, fun i j dir m n e hi hm hd he heq => ?_⟩
  unfold linkNum at heq
  omega

end Sys2Proof.Machine
end

section
/-! SUPPORT. Vector instructions: what their issue begins, what a piece reads and lands, predicate bits, queue moves, and the control of registers
and banks (spec/10_isa_vector.md). -/

namespace Sys2Proof.Machine

/-! ## Issue of element-wise instructions -/

/-- What the issue of a V word passes where its stage predicate is false or its checks hold (R213, R218). -/
theorem vecChecked_of_ok {s : State} {i : Instr} {bad : Bool}
    (h : s.str.now.deadFor (kpOf i) = true ∨ s.me.vregsFault (vregs s.str.now i) = none ∧ bad = false) (k : State → State) :
    s.vecChecked i bad k = k s := by
  rw [State.vecChecked]
  by_cases hd : s.str.now.deadFor (kpOf i) = true
  · rw [if_pos hd]
  · obtain ⟨hv, hb⟩ := h.resolve_left hd
    rw [if_neg hd, hv, hb]
    rfl

/-- A shaped instruction that passes begins its pieces (R214). -/
theorem shaped_of_ok {s : State} {i : Instr} {f : Rrr} {tys : List Nat} {rd rc : Space} {rel : Bool} (buf : List Byte) (hk : kpOf i = f.kp.toNat)
    (h : s.str.now.deadFor f.kp.toNat = true ∨ s.me.vregsFault (vregs s.str.now i) = none ∧ f.md.toNat % 16 ∈ tys ∧
      fmtSize (f.md.toNat % 16) = s.me.shape.2.2 ∧ rel = false) :
    let b := s.me.shape.1 * s.me.shape.2.1 * s.me.shape.2.2
    let n := (b + 255) / 256
    let aux := s.vecAux f rd .VQ rc
    s.shaped i f tys rd rc rel buf = s.vecBegin i aux n (if rd = .VQ ∧ 32 ≤ s.reg rd f.rd then n else 0)
      (fun j => s.tc + j + vecLat ⟨i, 0, 0, 0, 0, 0, [], aux, []⟩) 0 [] buf := by
  intro b n aux
  have hm : (if (rd == .VQ && decide (32 ≤ aux.getD 0 0)) = true then n else 0) = if rd = .VQ ∧ 32 ≤ s.reg rd f.rd then n else 0 :=
    ite_congr_iff (by rw [Bool.and_eq_true, beq_iff_eq, decide_eq_true_eq]; rfl) rfl rfl
  rw [← hm]
  dsimp only [State.shaped]
  refine (vecChecked_of_ok ?_ _).trans rfl
  rw [hk]
  refine h.imp_right ?_
  rintro ⟨hv, hty, hsz, rfl⟩
  have hsz' : (fmtSize (f.md.toNat % 16) != aux.getD 6 0) = false := bne_eq_false_iff_eq.mpr hsz
  refine ⟨hv, ?_⟩
  rw [Bool.or_false]
  exact Bool.or_eq_false_iff.mpr ⟨by simpa using hty, hsz'⟩

/-- The bytes that `VBCAST` reads at issue (R237). -/
def State.bcastBuf (s : State) (i : Instr) (f : Rrr) : List Byte :=
  match i with
  | .vbcast _ _ => s.getFile s.cur.1 .v (4096 * s.reg .VQ f.ra) 4096
  | _ => []

/-- One row of the table of element-wise instructions: accepted types, the spaces of RD and RC, and LAT (R214, R222 to R241). `rel` is a
further format condition, which `VCMP` alone has. -/
structure ShapedRow (f : Rrr) (s : State) (e : Instr × List Nat × Space × Space × Nat) : Prop where
  meaning : ∃ rel, exec e.1 s = .next (s.shaped e.1 f e.2.1 e.2.2.1 e.2.2.2.1 rel (s.bcastBuf e.1 f)) ∧
    (((∃ g h, e.1 = .vcmp g h) → (f.md.toNat % 16 ≤ 1 → f.fn ≠ 6 ∧ f.fn ≠ 7) ∧ (1 < f.md.toNat % 16 → f.fn ≠ 8)) → rel = false)
  kp : kpOf e.1 = f.kp.toNat
  lat : vecLat ⟨e.1, 0, 0, 0, 0, 0, [], s.vecAux f e.2.2.1 .VQ e.2.2.2.1, []⟩ = e.2.2.2.2

theorem shapedRow_of_eq {f : Rrr} {s : State} {e : Instr × List Nat × Space × Space × Nat}
    (hm : exec e.1 s = .next (s.shaped e.1 f e.2.1 e.2.2.1 e.2.2.2.1 false (s.bcastBuf e.1 f))) (hk : kpOf e.1 = f.kp.toNat)
    (hl : vecLat ⟨e.1, 0, 0, 0, 0, 0, [], s.vecAux f e.2.2.1 .VQ e.2.2.2.1, []⟩ = e.2.2.2.2) : ShapedRow f s e :=
  ⟨⟨false, hm, fun _ => rfl⟩, hk, hl⟩

theorem relBad_eq_false {f : Rrr} (h : (f.md.toNat % 16 ≤ 1 → f.fn ≠ 6 ∧ f.fn ≠ 7) ∧ (1 < f.md.toNat % 16 → f.fn ≠ 8)) : relBad f = false := by
  obtain ⟨hf, hi⟩ := h
  unfold relBad
  by_cases ht : f.md.toNat % 16 ≤ 1
  · obtain ⟨h6, h7⟩ := hf ht
    have h6' : decide (f.fn = 6) = false := decide_eq_false h6
    have h7' : decide (f.fn = 7) = false := decide_eq_false h7
    simp only [h6', h7', decide_eq_true ht, Bool.or_self, Bool.and_false, Bool.not_true, Bool.false_and]
  · have h8 : decide (f.fn = 8) = false := decide_eq_false (hi (Nat.lt_of_not_le ht))
    simp only [h8, decide_eq_false ht, Bool.false_and, Bool.and_false, Bool.or_self]

theorem shapedRow_vcmp (h : Hdr) (f : Rrr) (s : State) : ShapedRow f s (.vcmp h f, [0, 1, 2, 3, 4], .K, .VQ, 4) :=
  ⟨⟨relBad f, rfl, fun hr => relBad_eq_false (hr ⟨h, f, rfl⟩)⟩, rfl, rfl⟩

/-- The table's float, comparison, selection, product and bitwise rows. -/
def vecRowsA (h : Hdr) (f : Rrr) : List (Instr × List Nat × Space × Space × Nat) :=
  [(.vadd h f, [0, 1], .VQ, .VQ, 4), (.vsub h f, [0, 1], .VQ, .VQ, 4), (.vmul h f, [0, 1], .VQ, .VQ, 4), (.vfma h f, [0, 1], .VQ, .VQ, 4),
    (.vmin h f, [0, 1], .VQ, .VQ, 4), (.vmax h f, [0, 1], .VQ, .VQ, 4), (.vabs h f, [0, 1], .VQ, .VQ, 2), (.vneg h f, [0, 1], .VQ, .VQ, 2),
    (.vcmp h f, [0, 1, 2, 3, 4], .K, .VQ, 4), (.vsel h f, [0, 1, 2, 3, 4], .VQ, .K, 2), (.viadd h f, [2, 3, 4], .VQ, .VQ, 2),
    (.visub h f, [2, 3, 4], .VQ, .VQ, 2), (.vimul h f, [2, 3, 4], .VQ, .VQ, 4), (.vand h f, [0, 1, 2, 3, 4], .VQ, .VQ, 2),
    (.vor h f, [0, 1, 2, 3, 4], .VQ, .VQ, 2), (.vxor h f, [0, 1, 2, 3, 4], .VQ, .VQ, 2)]

/-- Its shift, order, special-function, move and index rows. -/
def vecRowsB (h : Hdr) (f : Rrr) : List (Instr × List Nat × Space × Space × Nat) :=
  let sp := if f.md.toNat / 16 % 2 = 1 then 20 else 8
  [(.vshl h f, [2, 3, 4], .VQ, .VQ, 2), (.vshr h f, [2, 3, 4], .VQ, .VQ, 2), (.vsar h f, [2, 3, 4], .VQ, .VQ, 2), (.vimin h f, [2, 3, 4], .VQ, .VQ, 2),
    (.vimax h f, [2, 3, 4], .VQ, .VQ, 2), (.vrcp h f, [0, 1], .VQ, .VQ, sp), (.vrsq h f, [0, 1], .VQ, .VQ, sp), (.vsqrt h f, [0, 1], .VQ, .VQ, sp),
    (.vexp2 h f, [0, 1], .VQ, .VQ, sp), (.vlog2 h f, [0, 1], .VQ, .VQ, sp), (.vsin h f, [0, 1], .VQ, .VQ, sp), (.vcos h f, [0, 1], .VQ, .VQ, sp),
    (.vtanh h f, [0, 1], .VQ, .VQ, sp), (.vsigm h f, [0, 1], .VQ, .VQ, sp), (.vmov h f, [0, 1, 2, 3, 4], .VQ, .VQ, 2),
    (.vbcast h f, [0, 1, 2, 3, 4], .VQ, .VQ, 2), (.viota h f, [2], .VQ, .VQ, 2), (.vrng h f, [2], .VQ, .VQ, 6)]

/-- Every element-wise instruction has its row. -/
theorem shapedRows (h : Hdr) (f : Rrr) (s : State) : ∀ e ∈ vecRowsA h f ++ vecRowsB h f, ShapedRow f s e := by
  refine List.forall_mem_append.mpr ⟨?_, ?_⟩
  · iterate 8 refine List.forall_mem_cons.mpr ⟨shapedRow_of_eq rfl rfl rfl, ?_⟩
    refine List.forall_mem_cons.mpr ⟨shapedRow_vcmp h f s, ?_⟩
    iterate 7 refine List.forall_mem_cons.mpr ⟨shapedRow_of_eq rfl rfl rfl, ?_⟩
    exact List.forall_mem_nil _
  · iterate 18 refine List.forall_mem_cons.mpr ⟨shapedRow_of_eq rfl rfl rfl, ?_⟩
    exact List.forall_mem_nil _

/-- Settles O34, row by row of the table. -/
theorem shapedVectors : Obligations.ShapedVectors := by
  unfold Obligations.ShapedVectors
  intro h f s i tys rd rc lat F I A sp hmem ty aux hgo b n buf
  obtain ⟨⟨rel, hm, hrel⟩, hk, hl⟩ := shapedRows h f s _ hmem
  have hpass := hgo.imp_right fun ⟨hv, hty, hsz, hr⟩ => And.intro hv (And.intro hty (And.intro hsz (hrel hr)))
  dsimp only at hm hk hl hrel
  have hb := shaped_of_ok (rd := rd) (rc := rc) (s.bcastBuf i f) hk hpass
  dsimp only at hb
  rw [hl] at hb
  exact hm.trans (congrArg _ hb)

/-! ## What a piece reads -/

/-- A piece goes on with what it reads (R214). -/
theorem sources_of_operands {s u : State} {j : Nat} {ns : List Nat} {es : List Entry} (h : s.operands j ns = some (es, u))
    (k : List Entry → State → State) : s.sources j ns k = k es u := by
  induction ns generalizing s es k with
  | nil =>
    obtain ⟨rfl, rfl⟩ : [] = es ∧ s = u := by simpa [State.operands] using h
    rfl
  | cons n ns ih =>
    rw [State.sources, State.source]
    by_cases hn : n < 32
    · rw [State.operands, if_pos hn, Option.map_eq_some_iff] at h
      obtain ⟨p, hp, hpe⟩ := h
      obtain ⟨rfl, rfl⟩ := Prod.ext_iff.mp hpe
      rw [if_pos hn, ih hp]
    · rw [State.operands, if_neg hn] at h
      rw [if_neg hn, State.pop]
      cases hq : s.me.queue (n - 32) with
      | nil => rw [hq] at h; cases h
      | cons e qs =>
        rw [hq] at h
        dsimp only at h ⊢
        by_cases hr : s.tc < e.ready
        · rw [if_pos hr] at h; cases h
        · rw [if_neg hr, Option.map_eq_some_iff] at h
          obtain ⟨p, hp, hpe⟩ := h
          obtain ⟨rfl, rfl⟩ := Prod.ext_iff.mp hpe
          rw [if_neg hr, ih hp]

theorem me_modMe_setQueue_k (s : State) (q : Nat) (es : List QEntry) : (s.modMe fun x => x.setQueue q es).me.k = s.me.k := by
  rw [State.me_modMe]
  rfl

/-- Reading leaves the predicates as they are. -/
theorem operands_k {s u : State} {j : Nat} {ns : List Nat} {es : List Entry} (h : s.operands j ns = some (es, u)) : u.me.k = s.me.k := by
  induction ns generalizing s es with
  | nil =>
    obtain ⟨-, rfl⟩ : [] = es ∧ s = u := by simpa [State.operands] using h
    rfl
  | cons n ns ih =>
    rw [State.operands] at h
    split at h
    · obtain ⟨p, hp, hpe⟩ := Option.map_eq_some_iff.mp h
      obtain ⟨-, rfl⟩ := Prod.ext_iff.mp hpe
      exact ih hp
    · split at h
      · cases h
      · split at h
        · cases h
        · obtain ⟨p, hp, hpe⟩ := Option.map_eq_some_iff.mp h
          obtain ⟨-, rfl⟩ := Prod.ext_iff.mp hpe
          exact (ih hp).trans (me_modMe_setQueue_k ..)

theorem me_modStr_k (s : State) (f : Stream → Stream) : (s.modStr f).me.k = s.me.k := by
  simp [State.modStr, State.modStreamAt, State.me, Core.modStream]

/-! ## Results of a piece -/

theorem flagsOf_eq (rs : List (Option (Nat × Flags))) : flagsOf rs = rs.foldl (fun x r => x ||| (r.map (·.2)).getD 0) 0 := by
  refine congrArg (fun g => rs.foldl g 0) (funext fun x => funext fun r => ?_)
  cases r <;> simp

theorem packElems_valsOf (sz : Nat) (rs : List (Option (Nat × Flags))) :
    packElems sz (valsOf rs) = entryOf (rs.flatMap fun r => leBytes sz ((r.map (·.1)).getD 0)) := by
  rw [packElems, valsOf, List.flatMap_map]

/-- Bits of a list as a number, lowest first. -/
def bitsNat {α : Type} (p : α → Bool) (l : List α) : Nat := l.foldr (fun r n => 2 * n + (p r).toNat) 0

theorem testBit_bitsNat {α : Type} (p : α → Bool) (l : List α) (i : Nat) : (bitsNat p l).testBit i = (l[i]?.map p).getD false := by
  induction l generalizing i with
  | nil => simp [bitsNat]
  | cons x xs ih =>
    have hb : bitsNat p (x :: xs) = 2 ^ 1 * bitsNat p xs + (p x).toNat := rfl
    rw [hb, Nat.testBit_two_pow_mul_add _ (Bool.toNat_lt _)]
    cases i with
    | zero => cases h : p x <;> simp [h]
    | succ i => simp [ih]

/-- The predicate bits of a piece that starts at element `e0` (R224). -/
def pieceBits (e0 : Nat) (rs : List (Option (Nat × Flags))) (p : Nat × Flags → Bool) : BitVec 4096 :=
  BitVec.ofNat 4096 ((rs.foldr
    (fun r n => 2 * n + match r with
      | some v => if p v then 1 else 0
      | none => 0) 0) <<< e0)

theorem getLsbD_pieceBits (e0 : Nat) (rs : List (Option (Nat × Flags))) (p : Nat × Flags → Bool) {b : Nat} (hb : b < 4096) :
    (pieceBits e0 rs p).getLsbD b = (decide (e0 ≤ b) && ((rs[b - e0]?.map fun r => (r.map p).getD false).getD false)) := by
  have hbits : rs.foldr (fun r n => 2 * n + match r with
      | some v => if p v then 1 else 0
      | none => 0) 0 = bitsNat (fun r : Option (Nat × Flags) => (r.map p).getD false) rs := by
    refine congrArg (fun g => rs.foldr g 0) (funext fun r => funext fun n => ?_)
    cases r with
    | none => rfl
    | some v => cases h : p v <;> simp [h]
  rw [pieceBits, hbits, BitVec.getLsbD_ofNat, decide_eq_true hb, Bool.true_and, Nat.testBit_shiftLeft, testBit_bitsNat]

/-- The elements of a piece of a shaped instruction after its reading: bytes that it keeps, elements and results (R213). -/
def shapedResults (a : Act) (k ksel : BitVec 4096) (blk : List Byte) (es : List Entry) : List (Option (Nat × Flags)) :=
  (List.range (min 256 (a.bytesB - 256 * a.j) / a.x 6)).map fun i =>
    if k.getLsbD (256 * a.j / a.x 6 + i) then
      some (vecElem a ksel blk (256 * a.j / a.x 6 + i) (es.map fun e => entryElem (a.x 6) e i)) else none

/-- The bytes that a shaped instruction keeps from piece to piece (R240, R241). -/
def shapedBlock (a : Act) (es : List Entry) : List Byte :=
  match a.ins with
  | .viota _ _ => if a.j = 0 then entryBytes (es.getD 0 0) else a.buf
  | .vrng _ _ => if a.j = 0 then entryBytes (es.getD 1 0) else a.buf
  | _ => a.buf

/-- What a shaped instruction does with its results (R213, R224). -/
def State.shapedOut (t : State) (a : Act) (rs : List (Option (Nat × Flags))) : State :=
  match a.ins with
  | .vcmp _ _ => t.land (t.tc + 4) (.k (a.x 0) (pieceBits (256 * a.j / a.x 6) rs fun _ => true) (pieceBits (256 * a.j / a.x 6) rs fun v => v.1 == 1))
  | _ => t.vecOut a a.j (256 * a.j) (a.x 6) (t.tc + vecLat a) (valsOf rs)

/-- The register of RC of `VSEL` (R222). -/
def shapedSel (a : Act) (ks : Map 4096) : BitVec 4096 :=
  match a.ins with
  | .vsel _ _ => Map.get ks (a.x 3)
  | _ => 0

theorem shapedStep_dead {s u : State} {a : Act} {es : List Entry} (h : s.operands a.j (pieceSources a) = some (es, u)) (hd : a.x 7 = 1) :
    shapedStep a s = u.keepBuf (shapedBlock a es) := by
  rw [shapedStep, sources_of_operands h]
  exact if_pos (beq_iff_eq.mpr hd)

theorem shapedStep_live {s u : State} {a : Act} {es : List Entry} (h : s.operands a.j (pieceSources a) = some (es, u)) (hd : a.x 7 ≠ 1) :
    let rs := shapedResults a (Map.get s.me.k (a.x 9)) (shapedSel a s.me.k) (shapedBlock a es) es
    shapedStep a s = ((u.keepBuf (shapedBlock a es)).setFlags (a.start + a.n - 1 + vecLat a)
      (rs.foldl (fun x r => x ||| (r.map (·.2)).getD 0) 0)).shapedOut a rs := by
  intro rs
  have hk : ∀ bs, (u.keepBuf bs).me.k = s.me.k := fun bs => (me_modStr_k ..).trans (operands_k h)
  have hdead : ¬a.dead = true := by simpa [Act.dead] using hd
  rw [shapedStep, sources_of_operands h]
  refine (if_neg hdead).trans ?_
  simp only [State.predOf, hk, flagsOf_eq]
  rfl

theorem shapedOut_of_ne_vcmp {a : Act} (h : ∀ hd f, a.ins ≠ .vcmp hd f) (t : State) (rs : List (Option (Nat × Flags))) :
    t.shapedOut a rs = t.vecOut a a.j (256 * a.j) (a.x 6) (t.tc + vecLat a) (valsOf rs) := by
  unfold State.shapedOut
  split
  next hd f hi => exact absurd hi (h hd f)
  · rfl

theorem shapedOut_vcmp {a : Act} {h : Hdr} {f : Rrr} (hi : a.ins = .vcmp h f) (t : State) (rs : List (Option (Nat × Flags))) :
    t.shapedOut a rs = t.land (t.tc + 4) (.k (a.x 0) (pieceBits (256 * a.j / a.x 6) rs fun _ => true)
      (pieceBits (256 * a.j / a.x 6) rs fun v => v.1 == 1)) := by
  rw [State.shapedOut, hi]

theorem length_shapedResults (a : Act) (k ksel : BitVec 4096) (blk : List Byte) (es : List Entry) :
    (shapedResults a k ksel blk es).length = min 256 (a.x 4 * a.x 5 * a.x 6 - 256 * a.j) / a.x 6 := by
  simp [shapedResults, Act.bytesB]

theorem getElem?_shapedResults (a : Act) (k ksel : BitVec 4096) (blk : List Byte) (es : List Entry) {i : Nat}
    (hi : i < min 256 (a.x 4 * a.x 5 * a.x 6 - 256 * a.j) / a.x 6) :
    (shapedResults a k ksel blk es)[i]? = some (if k.getLsbD (256 * a.j / a.x 6 + i) then
      some (vecElem a ksel blk (256 * a.j / a.x 6 + i) (es.map fun e => entryElem (a.x 6) e i)) else none) := by
  rw [shapedResults, List.getElem?_map, Act.bytesB, List.getElem?_range hi]
  rfl

/-- Bit `b` of the mask of a comparison's piece: an active element of the piece (R213, R224). -/
theorem getLsbD_mask {a : Act} {k ksel : BitVec 4096} {blk : List Byte} {es : List Entry} {rs : List (Option (Nat × Flags))}
    (hrs : rs = shapedResults a k ksel blk es) {b : Nat} (hb : b < 4096) :
    let e0 := 256 * a.j / a.x 6
    let n := min 256 (a.x 4 * a.x 5 * a.x 6 - 256 * a.j) / a.x 6
    (pieceBits e0 rs fun _ => true).getLsbD b = decide (e0 ≤ b ∧ b < e0 + n ∧ k.getLsbD b = true) := by
  intro e0 n
  subst hrs
  rw [getLsbD_pieceBits _ _ _ hb]
  by_cases h0 : e0 ≤ b
  · by_cases hn : b < e0 + n
    · have hadd : e0 + (b - e0) = b := by omega
      rw [getElem?_shapedResults _ _ _ _ _ (show b - e0 < n by omega), hadd]
      cases k.getLsbD b <;> simp [h0, hn]
    · have hlen : (shapedResults a k ksel blk es).length ≤ b - e0 := by
        rw [length_shapedResults]
        show n ≤ b - e0
        omega
      rw [List.getElem?_eq_none hlen]
      simp [hn]
  · simp [h0]

/-- Where the mask has a bit, the value has that of the element (R224). -/
theorem getLsbD_value {e0 : Nat} {rs : List (Option (Nat × Flags))} {b : Nat} (hb : b < 4096) (hm : (pieceBits e0 rs fun _ => true).getLsbD b = true) :
    ∃ w, rs[b - e0]? = some (some w) ∧ (pieceBits e0 rs fun v => v.1 == 1).getLsbD b = (w.1 == 1) := by
  rw [getLsbD_pieceBits _ _ _ hb, Bool.and_eq_true] at hm
  obtain ⟨h0, hbit⟩ := hm
  rw [getLsbD_pieceBits _ _ _ hb, h0]
  cases hr : rs[b - e0]? with
  | none => rw [hr] at hbit; cases hbit
  | some r =>
    cases r with
    | none => rw [hr] at hbit; cases hbit
    | some w => exact ⟨w, rfl, rfl⟩

/-- Settles O35: a dead piece keeps its block, and a live one puts out its results by its destination. -/
theorem shapedPieces : Obligations.ShapedPieces := by
  unfold Obligations.ShapedPieces
  intro s u a es h blk e0 n
  refine ⟨fun hd => shapedStep_dead h hd, fun hd => ?_⟩
  have hstep := shapedStep_live h hd
  dsimp only at hstep
  refine ⟨_, length_shapedResults a (Map.get s.me.k (a.x 9)) (shapedSel a s.me.k) blk es, fun i hi => getElem?_shapedResults _ _ _ _ _ hi, ?_⟩
  intro t
  refine ⟨fun hv hx => ?_, fun hv hx => ?_, fun hv _ => ?_⟩
  · rw [shapedOut_of_ne_vcmp hv] at hstep
    exact hstep.trans (if_pos hx)
  · rw [shapedOut_of_ne_vcmp hv] at hstep
    refine hstep.trans ((if_neg (Nat.not_lt.mpr hx)).trans ?_)
    rw [packElems_valsOf]
    rfl
  · obtain ⟨hd', f, hi⟩ := hv
    rw [shapedOut_vcmp hi] at hstep
    exact ⟨_, _, hstep, fun b hb => ⟨getLsbD_mask rfl hb, getLsbD_value hb⟩⟩

/-! ## Issue of conversions, quantisation, reductions and tile moves -/

theorem exec_vcvt_of_ok (h : Hdr) {f : Rrr} {s : State}
    (hgo : s.str.now.deadFor f.kp.toNat = true ∨ s.me.vregsFault (vregs s.str.now (.vcvt h f)) = none ∧ f.md.toNat % 16 ≤ 4 ∧ f.md.toNat / 16 ≤ 4 ∧
      fmtSize (f.md.toNat % 16) = s.me.shape.2.2 ∧ s.me.shape.1 * s.me.shape.2.1 * fmtSize (f.md.toNat / 16) ≤ 4096) :
    let n := s.me.shape.1 * s.me.shape.2.1
    let dsz := fmtSize (f.md.toNat / 16)
    let g := 256 / max (fmtSize (f.md.toNat % 16)) dsz
    let p := (n + g - 1) / g
    exec (.vcvt h f) s = .next (s.vecBegin (.vcvt h f) (s.vecAux f .VQ .VQ .VQ) p (if 32 ≤ s.reg .VQ f.rd then (n * dsz + 256 - 1) / 256 else 0)
      (fun j => s.tc + min (p - 1) (((j + 1) * 256 / dsz - 1) / g) + 4) 0 [] []) := by
  refine congrArg _ ((vecChecked_of_ok (hgo.imp_right ?_) _).trans rfl)
  rintro ⟨hv, hs, hd, hsz, hb⟩
  refine ⟨hv, ?_⟩
  simp only [Bool.or_eq_false_iff, decide_eq_false_iff_not, Nat.not_lt, bne_eq_false_iff_eq]
  exact ⟨⟨⟨hs, hd⟩, hsz⟩, hb⟩

theorem exec_vqnt_of_ok (h : Hdr) {f : Rrr} {s : State} (hd : s.str.now.deadFor f.kp.toNat = false)
    (hv : s.me.vregsFault (vregs s.str.now (.vqnt h f)) = none) {H : Handle} (hH : H = Map.get s.me.h (f.rc.toNat % 16))
    (hc : s.vqntCheck H (s.me.shape.1 * s.me.shape.2.1) s.me.shape.2.2 = none) (hm : f.md.toNat % 4 = 0 ∨ f.md.toNat % 4 = 2) :
    let n := s.me.shape.1 * s.me.shape.2.1
    let cap := entryCap (hFmt H) false
    let p := (n + 64 - 1) / 64
    exec (.vqnt h f) s = .next (s.vecBegin (.vqnt h f) (s.vecAux f .VQ .VQ .H) p ((n + cap - 1) / cap)
      (fun j => s.tc + min (p - 1) (((j + 1) * cap - 1) / 64) + 6) H [(quantScale (f.md.toNat % 4) (vqntExp f) (hFmt H) 0 + 1024).toNat] []) := by
  subst hH
  refine congrArg _ ((if_neg (by simp [hd])).trans ((vecChecked_of_ok (.inr ⟨hv, rfl⟩) _).trans ?_))
  have h3 : ¬f.md.toNat % 4 = 3 := by omega
  have h1 : ¬f.md.toNat % 4 = 1 := by omega
  have hc' : s.vqntCheck (Map.get s.me.h (f.rc.toNat % 16)) ((s.vecAux f .VQ .VQ .H).getD 4 0 * (s.vecAux f .VQ .VQ .H).getD 5 0)
    ((s.vecAux f .VQ .VQ .H).getD 6 0) = none := hc
  rw [hc']
  dsimp only
  rw [State.withScale, if_neg h3, if_neg h1]
  rfl

theorem reduce_of_ok {i : Instr} {f : Rrr} {s : State} {c : Nat} (hk : kpOf i = f.kp.toNat)
    (hc : c = if (reduceKind i).2 then s.me.shape.1 else s.me.shape.2.1)
    (hgo : s.str.now.deadFor f.kp.toNat = true ∨ s.me.vregsFault (vregs s.str.now i) = none ∧ (f.md.toNat % 16 = 0 ∨ f.md.toNat % 16 = 2) ∧
      s.me.shape.2.2 = 4) :
    let n := (s.me.shape.1 * s.me.shape.2.1 * s.me.shape.2.2 + 256 - 1) / 256
    s.reduce i f = s.vecBegin i (s.vecAux f .VQ .VQ .VQ) n (if 32 ≤ s.reg .VQ f.rd then (4 * c + 256 - 1) / 256 else 0) (fun _ => s.tc + n + 24) 0 [] [] := by
  intro n
  subst hc
  dsimp only [State.reduce]
  refine (vecChecked_of_ok ?_ _).trans rfl
  rw [hk]
  refine hgo.imp_right ?_
  rintro ⟨hv, hty, hsz⟩
  refine ⟨hv, Bool.or_eq_false_iff.mpr ⟨?_, bne_eq_false_iff_eq.mpr hsz⟩⟩
  obtain hty | hty := hty <;> simp [hty]

/-! ## Their pieces -/

/-- A piece with one source goes on with what it reads (R214). -/
theorem source_of_operands {s u : State} {j n : Nat} {e : Entry} (h : s.operands j [n] = some ([e], u)) (k : Entry → State → State) :
    s.source j n k = k e u :=
  sources_of_operands h fun es v => k (es.headD 0) v

/-- The results of a piece of `VCVT` under predicate `k` (R226). -/
def cvtResults (a : Act) (k : BitVec 4096) (e : Entry) : List (Option (Nat × Flags)) :=
  let ssz := fmtSize (a.x 8)
  let g := 256 / max ssz (fmtSize (a.x 10 / 16))
  let e0 := g * a.j
  (List.range (min g (a.elemsN - e0))).map fun i =>
    if k.getLsbD (e0 + i) then some (cvtElem (a.x 8) (a.x 10 / 16) (a.x 11 % 4) (entryElem ssz e (e0 % (256 / ssz) + i))) else none

/-- A piece of `VCVT` with its source entry (R226). -/
def cvtGo (a : Act) (e : Entry) (s : State) : State :=
  let dsz := fmtSize (a.x 10 / 16)
  let g := 256 / max (fmtSize (a.x 8)) dsz
  let e0 := g * a.j
  if a.dead then s.keepBuf (entryBytes e)
  else
    let rs := cvtResults a (s.predOf a) e
    let s := s.setFlags (a.start + a.n - 1 + 4) (flagsOf rs)
    if a.x 0 < 32 then (s.landElems (a.x 0) (e0 * dsz) dsz (s.tc + 4) (valsOf rs)).keepBuf (entryBytes e)
    else
      let out := (if e0 * dsz % 256 = 0 then [] else a.buf.drop 256) ++ (valsOf rs).flatMap fun r => leBytes dsz (r.getD 0)
      (if (e0 + g) * dsz % 256 = 0 || a.j + 1 = a.n then s.fill s.cur.1 (a.id + e0 * dsz / 256) (entryOf out) else s).keepBuf (entryBytes e ++ out)

theorem cvtStep_eq (a : Act) (s : State) :
    let ssz := fmtSize (a.x 8)
    let e0 := 256 / max ssz (fmtSize (a.x 10 / 16)) * a.j
    cvtStep a s =
      if a.x 1 < 32 then cvtGo a (entryOf (s.getFile s.cur.1 .v (4096 * a.x 1 + e0 * ssz / 256 * 256) 256)) s
      else if e0 * ssz % 256 = 0 then s.pop (a.x 1 - 32) (cvtGo a)
      else cvtGo a (entryOf (a.buf.take 256)) s := rfl

/-- What a piece of `VCVT` reads (R226). -/
theorem cvtStep_read {a : Act} {s u : State} {e : Entry}
    (h : let ssz := fmtSize (a.x 8)
      let e0 := 256 / max ssz (fmtSize (a.x 10 / 16)) * a.j
      if a.x 1 < 32 then u = s ∧ e = entryOf (s.getFile s.cur.1 .v (4096 * a.x 1 + e0 * ssz / 256 * 256) 256)
      else if e0 * ssz % 256 = 0 then s.operands a.j [a.x 1] = some ([e], u) else u = s ∧ e = entryOf (a.buf.take 256)) :
    cvtStep a s = cvtGo a e u ∧ u.me.k = s.me.k := by
  rw [cvtStep_eq]
  dsimp only at h
  by_cases h1 : a.x 1 < 32
  · rw [if_pos h1] at h ⊢
    obtain ⟨rfl, rfl⟩ := h
    exact ⟨rfl, rfl⟩
  · rw [if_neg h1] at h ⊢
    split at h
    next h2 =>
      rw [if_pos h2]
      exact ⟨(if_neg h1).symm.trans (source_of_operands h (cvtGo a)), operands_k h⟩
    next h2 =>
      rw [if_neg h2]
      obtain ⟨rfl, rfl⟩ := h
      exact ⟨rfl, rfl⟩

section
variable {a : Act} {u : State} {k : BitVec 4096} (e : Entry) (hk : Map.get u.me.k (a.x 9) = k) (hd : a.x 7 ≠ 1)
include hk hd

theorem cvtGo_register (hx : a.x 0 < 32) :
    let dsz := fmtSize (a.x 10 / 16)
    let e0 := 256 / max (fmtSize (a.x 8)) dsz * a.j
    let rs := cvtResults a k e
    let t := u.setFlags (a.start + a.n - 1 + 4) (rs.foldl (fun x r => x ||| (r.map (·.2)).getD 0) 0)
    cvtGo a e u = (t.landElems (a.x 0) (e0 * dsz) dsz (t.tc + 4) (rs.map fun r => r.map (·.1))).keepBuf (entryBytes e) := by
  intro dsz e0 rs t
  subst hk
  have hdead : ¬a.dead = true := by simpa [Act.dead] using hd
  refine (if_neg hdead).trans ((if_pos hx).trans ?_)
  rw [flagsOf_eq]
  rfl

theorem cvtGo_queue (hx : 32 ≤ a.x 0) :
    let dsz := fmtSize (a.x 10 / 16)
    let g := 256 / max (fmtSize (a.x 8)) dsz
    let e0 := g * a.j
    let rs := cvtResults a k e
    let t := u.setFlags (a.start + a.n - 1 + 4) (rs.foldl (fun x r => x ||| (r.map (·.2)).getD 0) 0)
    let out := (if e0 * dsz % 256 = 0 then [] else a.buf.drop 256) ++ rs.flatMap fun r => leBytes dsz ((r.map (·.1)).getD 0)
    cvtGo a e u = (if (e0 + g) * dsz % 256 = 0 ∨ a.j + 1 = a.n then t.fill t.cur.1 (a.id + e0 * dsz / 256) (entryOf out) else t).keepBuf
      (entryBytes e ++ out) := by
  intro dsz g e0 rs t out
  subst hk
  have hdead : ¬a.dead = true := by simpa [Act.dead] using hd
  have hlast : ((decide ((e0 + g) * dsz % 256 = 0) || decide (a.j + 1 = a.n)) = true) = ((e0 + g) * dsz % 256 = 0 ∨ a.j + 1 = a.n) := by
    rw [Bool.or_eq_true, decide_eq_true_eq, decide_eq_true_eq]
  have hout : ((valsOf rs).flatMap fun r => leBytes dsz (r.getD 0)) = rs.flatMap fun r => leBytes dsz ((r.map (·.1)).getD 0) := by
    rw [valsOf, List.flatMap_map]
  refine (if_neg hdead).trans ((if_neg (Nat.not_lt.mpr hx)).trans ?_)
  dsimp only
  rw [flagsOf_eq, show (valsOf (cvtResults a (u.predOf a) e)).flatMap _ = _ from hout, ite_congr_iff (iff_of_eq hlast) rfl rfl]
  rfl

end

theorem vcvtPiece {h : Hdr} {f : Rrr} {a : Act} {s u : State} {e : Entry} (hi : a.ins = .vcvt h f)
    (hr : let ssz := fmtSize (a.x 8)
      let e0 := 256 / max ssz (fmtSize (a.x 10 / 16)) * a.j
      if a.x 1 < 32 then u = s ∧ e = entryOf (s.getFile s.cur.1 .v (4096 * a.x 1 + e0 * ssz / 256 * 256) 256)
      else if e0 * ssz % 256 = 0 then s.operands a.j [a.x 1] = some ([e], u) else u = s ∧ e = entryOf (a.buf.take 256)) :
    vecStep a s = cvtGo a e u ∧ Map.get u.me.k (a.x 9) = Map.get s.me.k (a.x 9) := by
  obtain ⟨hstep, hk⟩ := cvtStep_read hr
  rw [vecStep, hi]
  exact ⟨hstep, by rw [hk]⟩

theorem getElem?_cvtResults {a : Act} (k : BitVec 4096) (e : Entry) {i : Nat}
    (hi : i < min (256 / max (fmtSize (a.x 8)) (fmtSize (a.x 10 / 16)))
      (a.x 4 * a.x 5 - 256 / max (fmtSize (a.x 8)) (fmtSize (a.x 10 / 16)) * a.j)) :
    let dst := a.x 10 / 16
    let e0 := 256 / max (fmtSize (a.x 8)) (fmtSize dst) * a.j
    let x := entryElem (fmtSize (a.x 8)) e (e0 % (256 / fmtSize (a.x 8)) + i)
    (cvtResults a k e)[i]? = some (if k.getLsbD (e0 + i) then some (if a.x 8 = dst then (x, 0)
      else ((convert (a.x 11 % 4) dst (vecVal (a.x 8) x)).1.toNat, (convert (a.x 11 % 4) dst (vecVal (a.x 8) x)).2)) else none) := by
  rw [cvtResults, List.getElem?_map, Act.elemsN, List.getElem?_range hi]
  rfl

section
variable {a : Act} {s u : State} {e : Entry} (hr : s.operands a.j [a.x 1] = some ([e], u))
include hr

/-- The bytes that a piece of `VQNT` adds to those gathered (R227). -/
theorem vqntPiece {h : Hdr} {f : Rrr} (hi : a.ins = .vqnt h f) :
    let k := Map.get s.me.k (a.x 9)
    let fmt := hFmt a.hnd
    let cap := entryCap fmt false
    let buf := a.buf ++ (List.range (min 64 (a.x 4 * a.x 5 - 64 * a.j))).flatMap fun i => leBytes 4 (if k.getLsbD (64 * a.j + i) then entryElem 4 e i else 0)
    let done := 64 * (a.j + 1) % cap = 0 ∨ a.j + 1 = a.n
    let q := qntEntry fmt ((a.cu.getD 0 0 : Int) - 1024) ((List.range (buf.length / 4)).map fun i => BitVec.ofNat 32 (leNat ((buf.drop (4 * i)).take 4)))
    let rep := a.start + a.n - 1 + 6
    vecStep a s = if a.x 7 = 1 then u else if done then
        (q.2.1.foldl (fun v i => v.stat a.hnd none (64 * a.j / cap * cap + i) true 0 rep)
          ((u.fill u.cur.1 (a.id + 64 * a.j / cap) q.1).setFlags rep q.2.2)).keepBuf []
      else u.keepBuf buf := by
  intro k fmt cap buf done q rep
  have hk : u.predOf a = k := by rw [State.predOf, operands_k hr]
  have hnow : ((List.range (min 64 (a.elemsN - 64 * a.j))).flatMap fun i => if k.getLsbD (64 * a.j + i) then leBytes 4 (entryElem 4 e i) else leBytes 4 0) =
      (List.range (min 64 (a.x 4 * a.x 5 - 64 * a.j))).flatMap fun i => leBytes 4 (if k.getLsbD (64 * a.j + i) then entryElem 4 e i else 0) := by
    refine congrArg (fun g => List.flatMap g (List.range (min 64 (a.elemsN - 64 * a.j)))) (funext fun i => ?_)
    split <;> rfl
  rw [vecStep, hi]
  dsimp only
  rw [vqntStep, source_of_operands hr]
  refine ite_congr_iff beq_iff_eq rfl ?_
  dsimp only
  rw [hk, hnow]
  exact ite_congr_iff (by rw [Bool.or_eq_true, decide_eq_true_eq, decide_eq_true_eq]) rfl rfl

end

/-! ## Reductions -/

/-- Word `i` of some bytes. -/
def wordAt (bs : List Byte) (i : Nat) : BitVec 32 := BitVec.ofNat 32 (leNat ((bs.drop (4 * i)).take 4))

/-- Where a reduction's group `i` has its element `c` (R236). -/
def groupAt (row : Bool) (cols i c : Nat) : Nat := if row then i * cols + c else c * cols + i

theorem groupAt_lt {row : Bool} {rows cols i c : Nat} (hi : i < if row then rows else cols) (hc : c < if row then cols else rows) :
    groupAt row cols i c < rows * cols := by
  cases row
  · simp only [Bool.false_eq_true, if_false] at hi hc
    exact Nat.lt_of_lt_of_le (Nat.add_lt_add_left hi _) ((Nat.succ_mul c cols) ▸ Nat.mul_le_mul_right cols hc)
  · simp only [if_true] at hi hc
    exact Nat.lt_of_lt_of_le (Nat.add_lt_add_left hc _) ((Nat.succ_mul i cols) ▸ Nat.mul_le_mul_right cols hi)

theorem reduceAll_eq (isMax row : Bool) (ty rows cols : Nat) (xs : List (BitVec 32)) :
    reduceAll isMax row ty rows cols xs = (List.range (if row then rows else cols)).map fun i =>
      (tree (reduceOp isMax ty) 12 ((List.range (if row then cols else rows)).map fun c => (xs.getD (groupAt row cols i c) 0, (0 : Flags)))).headD (0, 0) := by
  cases row <;> simp [reduceAll, groupAt]

theorem length_reduceAll (isMax row : Bool) (ty rows cols : Nat) (xs : List (BitVec 32)) :
    (reduceAll isMax row ty rows cols xs).length = if row then rows else cols := by
  simp [reduceAll_eq]

/-- A result of a reduction is the tree of R77 over its row or column. -/
theorem getElem?_reduceAll {isMax row : Bool} {ty rows cols : Nat} {bs : List Byte} {i : Nat} (hi : i < if row then rows else cols) :
    (reduceAll isMax row ty rows cols ((List.range (rows * cols)).map (wordAt bs)))[i]? =
      some ((tree (reduceOp isMax ty) 12 ((List.range (if row then cols else rows)).map fun c =>
        (wordAt bs (groupAt row cols i c), (0 : Flags)))).headD (0, 0)) := by
  rw [reduceAll_eq, List.getElem?_map, List.getElem?_range hi, Option.map_some]
  refine congrArg (fun l => some ((tree (reduceOp isMax ty) 12 l).headD (0, 0))) (List.map_congr_left fun c hc => ?_)
  have hlt := groupAt_lt hi (List.mem_range.mp hc)
  rw [List.getD_eq_getElem?_getD, List.getElem?_map, List.getElem?_range hlt]
  rfl

/-- The bytes that a reduction has gathered with a piece (R236). -/
def reduceBuf (a : Act) (isMax : Bool) (k : BitVec 4096) (e : Entry) : List Byte :=
  a.buf ++ (List.range (min 64 (a.elemsN - 64 * a.j))).flatMap fun i =>
    leBytes 4 (if k.getLsbD (64 * a.j + i) then entryElem 4 e i else (reduceId isMax (a.x 8)).toNat)

/-- What a reduction does with its results (R236). -/
def State.reduceOut (u : State) (a : Act) (rs : List (BitVec 32 × Flags)) : State :=
  let out := rs.flatMap fun r => leBytes 4 r.1.toNat
  let v := u.setFlags (a.start + a.n + 24) (rs.foldl (fun x r => x ||| r.2) 0)
  if a.x 0 < 32 then v.land (a.start + a.n + 24) (.bytes .v (4096 * a.x 0) (out ++ List.replicate (4096 - out.length) 0))
  else (List.range ((out.length + 255) / 256)).foldl (fun v j => v.fill v.cur.1 (a.id + j) (entryOf ((out.drop (256 * j)).take 256))) v

/-- A piece of a reduction (R236). -/
theorem reduceStep_of_read {a : Act} {s u : State} {e : Entry} {isMax row : Bool} (hr : s.operands a.j [a.x 1] = some ([e], u))
    (hkind : reduceKind a.ins = (isMax, row)) :
    let buf := reduceBuf a isMax (Map.get s.me.k (a.x 9)) e
    reduceStep a s = if a.x 7 = 1 then u else if a.j + 1 < a.n then u.keepBuf buf
      else u.reduceOut a (reduceAll isMax row (a.x 8) (a.x 4) (a.x 5) ((List.range (a.x 4 * a.x 5)).map (wordAt buf))) := by
  intro buf
  have hk : u.predOf a = Map.get s.me.k (a.x 9) := by rw [State.predOf, operands_k hr]
  rw [reduceStep, source_of_operands hr]
  refine ite_congr_iff beq_iff_eq rfl ?_
  rw [hkind]
  dsimp only
  rw [hk]
  rfl

/-- The four reductions. -/
theorem reduce_of_mem {h : Hdr} {f : Rrr} {i : Instr} {isMax row : Bool}
    (hm : (i, isMax, row) ∈ [(Instr.vrsum h f, false, true), (.vrmax h f, true, true), (.vcsum h f, false, false), (.vcmax h f, true, false)]) :
    reduceKind i = (isMax, row) ∧ ∀ (a : Act) (s : State), a.ins = i → vecStep a s = reduceStep a s := by
  simp only [List.mem_cons, Prod.mk.injEq, List.not_mem_nil, or_false] at hm
  obtain ⟨rfl, rfl, rfl⟩ | ⟨rfl, rfl, rfl⟩ | ⟨rfl, rfl, rfl⟩ | ⟨rfl, rfl, rfl⟩ := hm
  all_goals exact ⟨rfl, fun a s ha => by rw [vecStep, ha]⟩

/-! ## Tile moves and predicate bytes -/

theorem tmovRPiece {h : Hdr} {f : Rrr} {a : Act} {s u : State} {e : Entry} (hr : s.operands a.j [a.x 1] = some ([e], u)) (hi : a.ins = .tmovR h f) :
    let k := Map.get s.me.k (a.x 9)
    let sz := fmtSize (a.x 8)
    vecStep a s = if a.x 7 = 1 then u else ((List.range (256 / sz)).filter fun i => k.getLsbD (256 / sz * a.j + i)).foldl
      (fun v i => v.land (v.tc + 4) (.bytes .t (tileKey (a.x 0) (16 * (a.x 10 / 64) + (256 / sz * a.j + i) / 64) ((256 / sz * a.j + i) % 64))
        (leBytes 4 (widen32 (a.x 8) (entryElem sz e i, 0)).1.toNat))) u := by
  intro k sz
  have hk : u.predOf a = k := by rw [State.predOf, operands_k hr]
  rw [vecStep, hi]
  dsimp only
  rw [tmovRStep, source_of_operands hr, List.foldl_filter]
  refine ite_congr_iff beq_iff_eq rfl ?_
  dsimp only
  rw [hk]

theorem tmovElem_eq (ty x : Nat) : tmovElem ty x = match ty with
    | 1 => ((rnd16 0 (val32 (BitVec.ofNat 32 x))).1.toNat, (rnd16 0 (val32 (BitVec.ofNat 32 x))).2)
    | 3 => intResult 3 true (BitVec.ofNat 32 x).toInt
    | 4 => intResult 4 true (BitVec.ofNat 32 x).toInt
    | _ => (x, 0) := by
  match ty with
  | 0 => rfl
  | 1 => rfl
  | 2 => rfl
  | 3 => rfl
  | 4 => rfl
  | _ + 5 => rfl

/-- The results of a piece of `TMOV.C` (R239). -/
def tmovResults (a : Act) (s : State) : List (Option (Nat × Flags)) :=
  let sz := fmtSize (a.x 8)
  (List.range (256 / sz)).map fun i =>
    let n := 256 / sz * a.j + i
    if (Map.get s.me.k (a.x 9)).getLsbD n then
      some (tmovElem (a.x 8) (leNat (s.getFile s.cur.1 .t (tileKey (a.x 1) (n % 64) (16 * (a.x 10 / 64) + n / 64)) 4)))
    else none

theorem tmovCPiece {h : Hdr} {f : Rrr} {a : Act} (s : State) (hi : a.ins = .tmovC h f) :
    let rs := tmovResults a s
    vecStep a s = if a.x 7 = 1 then s else
      (s.setFlags (a.start + a.n - 1 + 4) (rs.foldl (fun x r => x ||| (r.map (·.2)).getD 0) 0)).vecOut a a.j (256 * a.j) (fmtSize (a.x 8)) (s.tc + 4)
        (valsOf rs) := by
  intro rs
  rw [vecStep, hi, ← flagsOf_eq]
  exact ite_congr_iff beq_iff_eq rfl rfl

theorem kmovPiece {h : Hdr} {f : Rrr} {a : Act} (s : State) (hi : a.ins = .kmov h f) : vecStep a s = kmovStep a s := by
  rw [vecStep, hi]

/-- Settles O37: what the issue of each word begins, and then piece by piece. -/
theorem longVectors : Obligations.LongVectors := by
  unfold Obligations.LongVectors
  refine ⟨?_, ?_⟩
  · intro h f s rows cols esz ty dead ok q ceil
    refine ⟨fun hgo => exec_vcvt_of_ok h hgo, fun hd hv hc hm => exec_vqnt_of_ok h hd hv rfl hc hm, ?_, fun hgo => ?_, fun hgo => ?_, fun hn hv => ?_⟩
    · intro i c hm hgo n
      simp only [List.mem_cons, Prod.mk.injEq, List.not_mem_nil, or_false] at hm
      obtain ⟨rfl, rfl⟩ | ⟨rfl, rfl⟩ | ⟨rfl, rfl⟩ | ⟨rfl, rfl⟩ := hm
      all_goals exact congrArg _ (reduce_of_ok rfl rfl hgo)
    · exact congrArg _ (vecChecked_of_ok (hgo.imp_right fun ⟨hv, ht⟩ => ⟨hv, decide_eq_false (Nat.not_lt.mpr ht)⟩) _)
    · exact congrArg _ (vecChecked_of_ok (hgo.imp_right fun ⟨hv, ht⟩ => ⟨hv, decide_eq_false (Nat.not_lt.mpr ht)⟩) _)
    · exact congrArg _ ((if_neg hn).trans (vecChecked_of_ok (.inr ⟨hv, rfl⟩) _))
  · intro h f s u a e k elems sz reads flags bytes word
    refine ⟨?_, ?_, ?_, ?_, ?_, ?_⟩
    · intro hi dst dsz g e0 hr
      obtain ⟨hstep, hk⟩ := vcvtPiece hi hr
      refine ⟨fun hd => hstep.trans (if_pos (beq_iff_eq.mpr hd)), fun hd => ⟨cvtResults a k e, ?_, fun i hi' => getElem?_cvtResults k e hi', ?_⟩⟩
      · simp [cvtResults, Act.elemsN, g, e0, sz, dsz, dst, elems]
      · exact ⟨fun hx => hstep.trans (cvtGo_register e hk hd hx), fun hx => hstep.trans (cvtGo_queue e hk hd hx)⟩
    · intro hi hr fmt cap buf done q rep
      have hstep := vqntPiece hr hi
      dsimp only at hstep
      refine ⟨fun hd => ?_, fun hd hn => ?_, fun hd hn => ?_⟩
      · rw [hstep, if_pos hd]
      · rw [hstep, if_neg hd]
        exact if_neg hn
      · rw [hstep, if_neg hd]
        exact if_pos hn
    · intro isMax row hm hr none_ buf n m
      obtain ⟨hkind, hvec⟩ := reduce_of_mem hm
      have hstep := (hvec a s rfl).trans (reduceStep_of_read hr hkind)
      refine ⟨fun hd => ?_, fun hd hlt => ?_, fun hd hge => ?_⟩
      · rw [hstep, if_pos hd]
      · rw [hstep, if_neg hd, if_pos hlt]
        rfl
      · rw [if_neg hd, if_neg (Nat.not_lt.mpr hge)] at hstep
        refine ⟨_, length_reduceAll .., fun i hi => getElem?_reduceAll hi, ?_⟩
        exact ⟨fun hx => hstep.trans (if_pos hx), fun hx => hstep.trans (if_neg (Nat.not_lt.mpr hx))⟩
    · intro hi hr
      have hstep := tmovRPiece hr hi
      exact ⟨fun hd => hstep.trans (if_pos hd), fun hd => hstep.trans (if_neg hd)⟩
    · intro hi
      have hstep := tmovCPiece s hi
      refine ⟨fun hd => hstep.trans (if_pos hd), fun hd => ⟨tmovResults a s, ?_, ?_, ?_⟩⟩
      · simp [tmovResults, sz]
      · intro i hi' b x
        rw [tmovResults, List.getElem?_map, List.getElem?_range hi']
        exact congrArg some (ite_congr_iff Iff.rfl (congrArg some (tmovElem_eq ..)) rfl)
      · intro t
        refine ⟨fun hx => (hstep.trans (if_neg hd)).trans (if_pos hx), fun hx => (hstep.trans (if_neg hd)).trans ((if_neg (Nat.not_lt.mpr hx)).trans ?_)⟩
        rw [packElems_valsOf]
    · intro hi
      rw [kmovPiece s hi]
      refine ⟨?_, ?_⟩
      · intro h1 hr buf
        have hstep : kmovStep a s = if a.j = 0 then u.keepBuf buf
            else u.land (a.start + 3) (.k (a.x 0) (BitVec.allOnes 4096) (BitVec.ofNat 4096 (leNat buf))) :=
          (if_pos h1).trans (source_of_operands hr _)
        exact ⟨fun hj => hstep.trans (if_pos hj), fun hj => hstep.trans (if_neg hj)⟩
      · intro h1 bs
        exact ⟨fun hx => (if_neg h1).trans (if_pos hx), fun hx => (if_neg h1).trans (if_neg (Nat.not_lt.mpr hx))⟩

/-! ## Predicate instructions and queue moves -/

theorem getLsbD_allOnes_xor {n : Nat} (a : BitVec n) {i : Nat} (hi : i < n) : (~~~a).getLsbD i = !a.getLsbD i := by
  simp [hi]

/-- The value that `KOP` writes (R228). -/
def kopVal (fn : Nat) (a b : BitVec 4096) : BitVec 4096 :=
  match fn with
  | 0 => a &&& b
  | 1 => a ||| b
  | 2 => a ^^^ b
  | 3 => a &&& ~~~b
  | _ => ~~~a

theorem getLsbD_kopVal {fn : BitVec 5} (a b : BitVec 4096) {i : Nat} (hi : i < 4096) :
    (fn = 0 → (kopVal fn.toNat a b).getLsbD i = (a.getLsbD i && b.getLsbD i)) ∧
      (fn = 1 → (kopVal fn.toNat a b).getLsbD i = (a.getLsbD i || b.getLsbD i)) ∧
      (fn = 2 → (kopVal fn.toNat a b).getLsbD i = (a.getLsbD i ^^ b.getLsbD i)) ∧
      (fn = 3 → (kopVal fn.toNat a b).getLsbD i = (a.getLsbD i && !b.getLsbD i)) ∧
      (fn = 4 → (kopVal fn.toNat a b).getLsbD i = !a.getLsbD i) := by
  have hnot : ∀ c : BitVec 4096, (~~~c).getLsbD i = !c.getLsbD i := fun c => getLsbD_allOnes_xor c hi
  refine ⟨?_, ?_, ?_, ?_, ?_⟩
  · rintro rfl; exact BitVec.getLsbD_and
  · rintro rfl; exact BitVec.getLsbD_or
  · rintro rfl; exact BitVec.getLsbD_xor
  · rintro rfl
    exact BitVec.getLsbD_and.trans (by rw [hnot])
  · rintro rfl; exact hnot a

/-- The value that `KSET` writes for `n` elements (R228). -/
def ksetVal (fn n : Nat) : BitVec 4096 :=
  match fn with
  | 0 => 0#4096
  | 1 => BitVec.allOnes 4096
  | _ => BitVec.ofNat 4096 (2 ^ n - 1)

theorem getLsbD_ksetVal {fn : BitVec 5} (n : Nat) {i : Nat} (hi : i < 4096) :
    (fn = 0 → (ksetVal fn.toNat n).getLsbD i = false) ∧ (fn = 1 → (ksetVal fn.toNat n).getLsbD i = true) ∧
      (fn = 2 → (ksetVal fn.toNat n).getLsbD i = decide (i < n)) := by
  refine ⟨?_, ?_, ?_⟩
  · rintro rfl; exact BitVec.getLsbD_zero
  · rintro rfl; exact (BitVec.getLsbD_allOnes).trans (decide_eq_true hi)
  · rintro rfl; exact getLsbD_ofNat_two_pow_sub_one 4096 i hi

/-- Settles O38, word by word. -/
theorem queueMovesAndPredicates : Obligations.QueueMovesAndPredicates := by
  unfold Obligations.QueueMovesAndPredicates
  intro h f s hc p a b
  refine ⟨fun e es he hr hv => ?_, fun hv => ?_, ⟨kopVal f.fn.toNat a b, rfl, fun i hi => getLsbD_kopVal a b hi⟩,
    ⟨ksetVal f.fn.toNat (s.me.shape.1 * s.me.shape.2.1), rfl, fun i hi => getLsbD_ksetVal _ hi⟩, fun h0 => congrArg _ (if_pos h0)⟩
  · refine congrArg _ ((vecChecked_of_ok (.inr ⟨hv, rfl⟩) _).trans ((State.pop_ready s he hr _).trans ?_))
    rw [State.tc_modMe_setQueue, State.reg_modMe_setQueue]
  · exact congrArg _ (vecChecked_of_ok (.inr ⟨hv, rfl⟩) _)

/-! ## Shape, allotment and bank gating -/

/-- `VGATE` by the state of its bank and what it asks for (R220). -/
theorem exec_vgate (h : Hdr) (f : Rri) (s : State) :
    let b := f.imm.toNat % 4
    let want := (f.imm.extractLsb' 2 2).toNat
    let quiet := s.landsOn s.cur.1 s.tc (8 * b) (8 * b + 8) = false
    (want = 0 → exec (.vgate h f) s = .next s) ∧
    (want = 1 → exec (.vgate h f) s = .next (match s.me.bank b with
      | .off => s.land (s.tc + 1) (.bank b false true)
      | .on => if quiet then s.land (s.tc + 1) (.bank b false true) else s.fault .gatedBank 2
      | _ => s)) ∧
    (want = 2 → exec (.vgate h f) s = .next (match s.me.bank b with
      | .off => s
      | _ => if quiet then s.land (s.tc + 1) (.bank b true false) else s.fault .gatedBank 2)) := by
  intro b want quiet
  refine ⟨fun hw => ?_, fun hw => ?_, fun hw => ?_⟩
  all_goals
    dsimp only [exec, execVgate]
    rw [show (f.imm.extractLsb' 2 2).toNat = _ from hw]
    cases s.me.bank b <;> simp [quiet, b]

/-- Settles O39, word by word; `VGATE` by the state of its bank. -/
theorem vectorControl : Obligations.VectorControl := by
  unfold Obligations.VectorControl
  intro h f s hc n b want quiet
  obtain ⟨h0, h1, h2⟩ := exec_vgate h f s
  refine ⟨rfl, fun hn => congrArg _ (if_neg (Nat.not_lt.mpr hn)), fun hn => congrArg _ ((if_pos hn).trans (s.fault_cohort hc ..)), fun hn hq => ?_,
    fun hn => congrArg _ ((if_pos hn).trans (s.fault_cohort hc ..)), fun hn hq => ?_, h0, fun hw hb => (h1 hw).trans ?_,
    fun hw hb hq => (h2 hw).trans ?_, ?_, ?_⟩
  · exact congrArg _ ((if_neg (Nat.not_lt.mpr hn)).trans (if_neg (Bool.eq_false_iff.mp hq)))
  · exact congrArg _ ((if_neg (Nat.not_lt.mpr hn)).trans ((if_pos (Bool.not_eq_false _ ▸ hq)).trans (s.fault_cohort hc ..)))
  · obtain hb | ⟨hb, hq⟩ := hb
    · rw [show s.me.bank (f.imm.toNat % 4) = .off from hb]
    · rw [show s.me.bank (f.imm.toNat % 4) = .on from hb]
      exact congrArg _ (if_pos hq)
  · obtain hb | hb := hb <;> rw [show s.me.bank (f.imm.toNat % 4) = _ from hb] <;> exact congrArg _ (if_pos hq)
  · rintro (⟨hw, hb⟩ | ⟨hw, hb⟩)
    · rw [h1 hw, show s.me.bank (f.imm.toNat % 4) = _ from hb]
    · rw [h2 hw, show s.me.bank (f.imm.toNat % 4) = _ from hb]
  · rintro (⟨hw, hb⟩ | ⟨hw, hb | hb⟩) hq
    · rw [h1 hw, show s.me.bank (f.imm.toNat % 4) = _ from hb]
      exact congrArg _ ((if_neg hq).trans (s.fault_cohort hc ..))
    · rw [h2 hw, show s.me.bank (f.imm.toNat % 4) = _ from hb]
      exact congrArg _ ((if_neg hq).trans (s.fault_cohort hc ..))
    · rw [h2 hw, show s.me.bank (f.imm.toNat % 4) = _ from hb]
      exact congrArg _ ((if_neg hq).trans (s.fault_cohort hc ..))

end Sys2Proof.Machine
end

section
/-! SUPPORT. The matrix unit: format words, what its commands begin, what lands in the banks, and its pieces (spec/11_isa_matrix.md). -/

namespace Sys2Proof.Machine

/-! ## Format words -/

/-- A core without the head of its format words. -/
def State.fmtPopped (s : State) (ws : List Word) : State := s.modMe fun x => { x with fq := ws }

theorem popFmt_cons {s : State} {w : Word} {ws : List Word} (h : s.me.fq = w :: ws) (k : Word → State → State) :
    s.popFmt k = k w (s.fmtPopped ws) := by
  rw [State.popFmt, h]
  rfl

@[simp] theorem State.me_fmtPopped (s : State) (ws : List Word) : (s.fmtPopped ws).me = { s.me with fq := ws } := State.me_modMe ..

@[simp] theorem State.my_fmtPopped (s : State) (ws : List Word) : (s.fmtPopped ws).my = s.my := State.my_modCore _ fun _ => rfl

@[simp] theorem State.str_fmtPopped (s : State) (ws : List Word) : (s.fmtPopped ws).str = s.str := State.str_modCore _ fun _ => rfl

@[simp] theorem State.tc_fmtPopped (s : State) (ws : List Word) : (s.fmtPopped ws).tc = s.tc := by rw [State.tc, State.my_fmtPopped, State.tc]

@[simp] theorem State.guard_fmtPopped (s : State) (ws : List Word) : (s.fmtPopped ws).guard = s.guard := by
  rw [State.guard, State.str_fmtPopped, State.guard]

@[simp] theorem State.str_modArr (s : State) (f : Array → Array) : (s.modArr f).str = s.str := State.str_modCore _ fun _ => rfl

@[simp] theorem State.my_modArr (s : State) (f : Array → Array) : (s.modArr f).my = s.my := State.my_modCore _ fun _ => rfl

@[simp] theorem State.tc_modArr (s : State) (f : Array → Array) : (s.modArr f).tc = s.tc := by rw [State.tc, State.my_modArr, State.tc]

@[simp] theorem State.guard_modArr (s : State) (f : Array → Array) : (s.modArr f).guard = s.guard := by rw [State.guard, State.str_modArr, State.guard]

@[simp] theorem State.me_modArr (s : State) (f : Array → Array) : (s.modArr f).me = { s.me with arr := f s.me.arr } := State.me_modMe ..

/-- A format word whose reserved bits are zero and whose command's conditions hold passes (R147). -/
theorem fmtOk_of_ok {s : State} {w : Word} (hw : w.extractLsb' 0 7 = 0) {ok : Bool} (hok : ok = true) (k : State → State) : s.fmtOk w ok k = k s := by
  refine if_neg ?_
  rw [hw, hok]
  decide

/-! ## Commands with a format word -/

section
variable {h : Hdr} {f : Mx} {s : State} {w : Word} {ws : List Word} (hg : s.guard = true) (hq : s.me.fq = w :: ws) (hw : w.extractLsb' 0 7 = 0)
include hg hq hw

theorem exec_mxLdw_of_ok (hp : pairOk (wAfmt w) (wBfmt w) = true) (hwest : ¬(pairMode (wAfmt w) (wBfmt w) = true ∧ wWest w = true))
    (hsw : s.me.arr.switch = none) (hheld : ∀ c ∈ s.me.arr.held, s.tc < c.done → c.set ≠ some (1 - s.me.arr.active)) :
    let n := ldwLines (wAfmt w) (wBfmt w)
    let x := s.tc + n + 64
    exec (.mxLdw h f) s = .next ((((((s.fmtPopped ws).holdCmd x none).modArr fun r => { r with switch := some x }).land x
      (.switchSet (wAfmt w) (wBfmt w))).begin (.mxLdw h f) 0 n 0 [w.toNat] [f.wline.toNat] []).pieceWith matStep) := by
  intro n x
  have hok : (pairOk (wAfmt w) (wBfmt w) && !(pairMode (wAfmt w) (wBfmt w) && wWest w)) = true := by
    rw [hp, Bool.true_and, Bool.not_eq_true', ← Bool.not_eq_true, Bool.and_eq_true]
    exact hwest
  have hfree : ¬(s.me.arr.switch.isSome || s.me.arr.held.any fun c => decide (s.tc < c.done) && c.set == some (1 - s.me.arr.active)) = true := by
    rw [hsw, Bool.or_eq_true, List.any_eq_true]
    rintro (hn | ⟨c, hc, hb⟩)
    · cases hn
    · rw [Bool.and_eq_true, decide_eq_true_eq, beq_iff_eq] at hb
      exact hheld c hc hb.1 hb.2
  refine congrArg _ ((popFmt_cons hq _).trans ?_)
  dsimp only
  rw [State.guard_fmtPopped, if_neg (by simp [hg]), fmtOk_of_ok hw hok, State.me_fmtPopped, State.tc_fmtPopped, if_neg hfree]

theorem exec_mxMac_of_ok (ha : wAfmt w = s.me.arr.wfmt.getD (2 * s.me.arr.active) 1) (hb : wBfmt w = s.me.arr.wfmt.getD (2 * s.me.arr.active + 1) 1) :
    let a := s.me.arr
    let east := s.me.eastFused s.cur.1
    let k := (f.fn.extractLsb' 0 6).toNat
    exec (.mxMac h f) s = .next ((((((s.fmtPopped ws).holdCmd (s.tc + f.nrow.toNat + 129 + if east then 2 else 0) (some a.active)).modArr fun r =>
        { r with last := [s.tc, 0, f.nrow.toNat, k, wAfmt w, wBfmt w, f.qsrc.toNat] })).begin (.mxMac h f) 0 (f.nrow.toNat + 1) 0 [w.toNat]
      [f.qsrc.toNat, s.me.contents f.bank, f.row.toNat, 64 * f.pan.toNat, k + 1, a.active, if f.fn.getLsbD 6 then 1 else 0, if east then 1 else 0]
      []).pieceWith matStep) := by
  intro a east k
  have hok : (wAfmt w == s.me.arr.wfmt.getD (2 * s.me.arr.active) 1 && wBfmt w == s.me.arr.wfmt.getD (2 * s.me.arr.active + 1) 1) = true := by
    rw [Bool.and_eq_true, beq_iff_eq, beq_iff_eq]
    exact ⟨ha, hb⟩
  refine congrArg _ ((popFmt_cons hq _).trans ?_)
  dsimp only
  rw [State.guard_fmtPopped, if_neg (by simp [hg]), State.me_fmtPopped, fmtOk_of_ok hw hok, State.tc_fmtPopped]
  rfl

theorem exec_mxZero_of_ok : exec (.mxZero h f) s = .next (((s.fmtPopped ws).holdCmd (s.tc + 1) none).land (s.tc + 1)
    (.accZero (s.me.contents f.bank) f.row.toNat (f.nrow.toNat + 1) f.pan.toNat (f.npan.toNat + 1))) := by
  refine congrArg _ ((popFmt_cons hq _).trans ?_)
  rw [State.guard_fmtPopped, if_neg (by simp [hg]), fmtOk_of_ok hw rfl, State.me_fmtPopped, State.tc_fmtPopped]
  rfl

theorem exec_mxFill_of_ok (ha : wAfmt w = 0) :
    let n := (f.nrow.toNat + 1) * (f.npan.toNat + 1)
    exec (.mxFill h f) s = .next ((((s.fmtPopped ws).holdCmd (s.tc + n + 1) none).begin (.mxFill h f) 0 n 0 []
      [f.qsrc.toNat, s.me.contents f.bank, f.row.toNat, f.pan.toNat, f.npan.toNat + 1, if f.fn.getLsbD 0 then 1 else 0] []).pieceWith matStep) := by
  intro n
  refine congrArg _ ((popFmt_cons hq _).trans ?_)
  dsimp only
  rw [State.guard_fmtPopped, if_neg (by simp [hg]), fmtOk_of_ok hw (beq_iff_eq.mpr ha), State.me_fmtPopped, State.tc_fmtPopped]
  rfl

end

/-- A drain's checks do not look at the format words. -/
theorem drainCheck_fmtPopped (s : State) (ws : List Word) (w : Word) (f : Mx) : (s.fmtPopped ws).drainCheck w f = s.drainCheck w f := by
  have hc : (s.fmtPopped ws).handleCheck = s.handleCheck := by
    funext h wr cu
    exact handleCheck_of_my_eq (State.my_fmtPopped ..) h wr cu
  unfold State.drainCheck
  rw [hc, State.me_fmtPopped]

/-- A drain's pieces begin with the array holding the command and, with CLR, the bank's event bits cleared (R261). -/
theorem startDrain_of_guard {v : State} (hg : v.guard = true) (h : Hdr) (f : Mx) (H H2 : Handle) (b last : Nat) (q two : Bool) (t t2 : Int)
    {ev : Nat} (hev : (v.me.arr.evt.getD b 0).toNat = ev) :
    v.startDrain h f H H2 b last q two t t2 =
      ((if f.fn.getLsbD 5 then v.modArr fun r => { r with evt := setAt r.evt b 0, evtTaint := setAt r.evtTaint b 0 } else v).begin (.mxDrain h f) 0
        (mxRows f * mxPanels f) H [] [b, f.row.toNat, f.pan.toNat, mxPanels f, if f.fn.getLsbD 6 then 1 else 0, last, ev,
          (t + 1024).toNat, (t2 + 1024).toNat, if q then f.qsrc.toNat + 1 else 0, if two then 1 else 0] (leBytes 32 H2.toNat)).pieceWith matStep := by
  dsimp only [State.startDrain]
  rw [hg, Bool.and_true, hev]

theorem exec_mxDrain_of_ok {h : Hdr} {f : Mx} {s : State} {w : Word} {ws : List Word} (hg : s.guard = true) (hq : s.me.fq = w :: ws)
    (hw : w.extractLsb' 0 7 = 0) (ho : wOfmt w < 6) (hm : wQmode w = 0 ∨ wQmode w = 2) (ht : wTq w = false) (hc : s.drainCheck w f = none) :
    let n := (f.fn.extractLsb' 0 4).toNat
    let H := Map.get s.me.h n
    let q := f.fn.getLsbD 4
    let rows := f.nrow.toNat + 1
    let pans := f.npan.toNat + 1
    let b := s.me.contents f.bank
    let last := max (s.tc + rows * pans) (max (if q then s.tc + rows * pans + 1 else drainLand H rows pans s.tc false) 0)
    exec (.mxDrain h f) s = .next (((s.fmtPopped ws).holdCmd last none).startDrain h f H (Map.get s.me.h (n + 1)) b last q false
      (quantScale (wQmode w) (wQexp w) (hFmt H) 0) 0) := by
  intro n H q rows pans b last
  have h3 : ¬wQmode w = 3 := by omega
  have h1 : ¬wQmode w = 1 := by omega
  have hok : (decide (wOfmt w < 6) && wQmode w != 3) = true := by
    rw [Bool.and_eq_true, decide_eq_true_eq, bne_iff_ne]
    exact ⟨ho, h3⟩
  refine congrArg _ ((popFmt_cons hq _).trans ?_)
  dsimp only
  rw [State.guard_fmtPopped, if_neg (by simp [hg]), fmtOk_of_ok hw hok, drainCheck_fmtPopped, hc]
  dsimp only
  rw [State.withScale, if_neg h3, if_neg h1, ht, Bool.false_and, if_neg Bool.false_ne_true, if_neg Bool.false_ne_true, State.me_fmtPopped, State.tc_fmtPopped]
  rfl

/-- Settles O40, command by command. -/
theorem matrixCommands : Obligations.MatrixCommands := by
  unfold Obligations.MatrixCommands
  intro h f s w ws hg hq hw u bank rows pans
  refine ⟨?_, ?_, exec_mxZero_of_ok hg hq hw, fun ha => exec_mxFill_of_ok hg hq hw ha, ?_⟩
  · rintro n hp hwest rfl hsw hheld
    exact exec_mxLdw_of_ok hg hq hw hp hwest hsw hheld
  · intro a ha hb
    exact exec_mxMac_of_ok hg hq hw ha hb
  · intro n H q ho hm ht hc last v v'
    refine (exec_mxDrain_of_ok hg hq hw ho hm ht hc).trans (congrArg _ (startDrain_of_guard ?_ h f H _ bank last q false _ 0 ?_))
    · rw [State.holdCmd, State.guard_modArr, State.guard_fmtPopped]
      exact hg
    · rw [State.holdCmd, State.me_modArr, State.me_fmtPopped]

/-! ## Commands without a format word -/

theorem setFuse_of_alone {s : State} (hg : s.guard = true) (on : Bool) (ha : ∀ i, i < 4 → (s.core (4 * quadOf s.cur.1 + i)).holds s.tc true = false) :
    s.setFuse on = ((s.holdCmd (s.tc + 1) none).modArr fun r => { r with last := [s.tc, 1, if on then 1 else 0] }).land (s.tc + 1) (.fuse on) := by
  have hany : ¬((List.range 4).any fun i => (s.core (4 * quadOf s.cur.1 + i)).holds s.tc true) = true := by
    rw [List.any_eq_true]
    rintro ⟨i, hi, hb⟩
    exact Bool.eq_false_iff.mp (ha i (List.mem_range.mp hi)) hb
  refine (if_neg (by simp [hg])).trans ((if_neg hany).trans ?_)
  dsimp only
  rw [State.tc_modArr, State.holdCmd, State.tc_modArr]

theorem setFuse_of_not_alone {s : State} (hg : s.guard = true) (on : Bool) (hc : isSup s.cur.1 = false)
    (ha : ¬∀ i, i < 4 → (s.core (4 * quadOf s.cur.1 + i)).holds s.tc true = false) :
    s.setFuse on = s.faultAt s.cur.1 s.cur.2 .matrix 3 0 0 := by
  have hany : ((List.range 4).any fun i => (s.core (4 * quadOf s.cur.1 + i)).holds s.tc true) = true := by
    simp only [Classical.not_forall] at ha
    obtain ⟨i, hi, hb⟩ := ha
    exact List.any_eq_true.mpr ⟨i, List.mem_range.mpr hi, by simpa using hb⟩
  exact (if_neg (by simp [hg])).trans ((if_pos hany).trans (s.fault_cohort hc ..))

/-- Settles O41, command by command. -/
theorem matrixControl : Obligations.MatrixControl := by
  unfold Obligations.MatrixControl
  intro h f s hg held alone bank
  refine ⟨congrArg _ (if_pos hg), ?_, congrArg _ (if_pos hg), congrArg _ (if_pos hg), fun hh => ?_, ?_, ?_⟩
  · rintro i on k (⟨rfl, rfl, rfl⟩ | ⟨rfl, rfl, rfl⟩)
    · exact ⟨fun ha => congrArg _ (setFuse_of_alone hg true ha), fun ha hc => congrArg _ (setFuse_of_not_alone hg true hc ha)⟩
    · exact ⟨fun ha => congrArg _ (setFuse_of_alone hg false ha), fun ha hc => congrArg _ (setFuse_of_not_alone hg false hc ha)⟩
  · refine ⟨wordEntry (s.freeWord.1 &&& 0xF), s.freeWord.2, ?_, rfl, ?_⟩
    · have hlt : (s.freeWord.1 &&& 0xF).toNat < 16 := by
        rw [BitVec.toNat_and]
        exact Nat.and_lt_two_pow (n := 4) _ (by decide)
      rw [wordEntry, BitVec.zeroExtend, BitVec.toNat_setWidth]
      exact Nat.lt_of_le_of_lt (Nat.mod_le ..) hlt
    · exact congrArg _ ((if_neg (by simp [hg])).trans (if_neg (by simp [hh])))
  · refine ⟨wordEntry ((s.me.arr.evt.getD bank 0).zeroExtend 64), fun i hi => ?_, congrArg _ (if_neg (by simp [hg]))⟩
    rw [wordEntry, BitVec.zeroExtend, BitVec.getLsbD_setWidth, decide_eq_true hi, Bool.true_and, BitVec.getLsbD_setWidth]
    by_cases h64 : i < 64
    · rw [decide_eq_true h64, Bool.true_and]
    · rw [decide_eq_false h64, Bool.false_and]
      exact (BitVec.getLsbD_of_ge _ _ (by omega)).symm
  · intro n
    dsimp only [exec, execMxCb]
    rw [if_pos hg]

/-! ## What lands in a bank -/

theorem accKey_inj {b r k b' r' k' : Nat} (hr : r < 96) (hk : k < 192) (hr' : r' < 96) (hk' : k' < 192) (h : accKey b r k = accKey b' r' k') :
    b = b' ∧ r = r' ∧ k = k' := by
  unfold accKey at h
  omega

/-- The elements of the banks of core `c`. -/
def State.accOf (s : State) (c : Nat) : Map 32 := (s.core c).arr.acc

@[simp] theorem State.accOf_accLand (s : State) (tc c b key : Nat) (v : BitVec 32) (ev : BitVec 3) :
    (s.accLand tc c b key v ev).accOf c = Map.set (s.accOf c) key v := by
  unfold State.accLand State.accOf
  dsimp only
  split <;> simp

@[simp] theorem State.accOf_stain (s : State) (c b key : Nat) (keep : Bool) (bits : BitVec 4) : (s.stain c b key keep bits).accOf c = s.accOf c := by
  unfold State.stain State.accOf
  simp

@[simp] theorem State.unsound_stain (s : State) (c b key : Nat) (keep : Bool) (bits : BitVec 4) :
    ((s.stain c b key keep bits).core c).arr.unsound = (s.core c).arr.unsound := by
  unfold State.stain
  simp

/-- The value that a row of products leaves in its element (R254, R265). -/
def State.macVal (s : State) (c key col : Nat) (ovw deep : Bool) (v : BitVec 32) : BitVec 32 :=
  if (s.core c).arr.unsound &&& subArrays col deep = 0 then (if ovw then v else (fadd (Map.get (s.accOf c) key) v).1)
  else BitVec.ofNat 32 (Config.freeNat s.free)

theorem accOf_apply_mac (s : State) (tc c b r k : Nat) (ovw int deep : Bool) (v : BitVec 32) (ev : BitVec 3) (vs : List (BitVec 32 × BitVec 3)) :
    (s.apply tc c (.mac b r k ovw int deep ((v, ev) :: vs))).accOf c =
      Map.set (s.accOf c) (accKey b r k) (s.macVal c (accKey b r k) k ovw deep v) := by
  have hfree : ∀ (t : State) (n : Nat), State.accOf { t with free := n } c = t.accOf c := fun _ _ => rfl
  dsimp only [State.apply]
  rw [State.unsound_stain, State.macVal]
  by_cases h : (s.core c).arr.unsound &&& subArrays k deep = 0
  · rw [if_neg (by rw [h]; decide), if_pos h]
    cases ovw
    · rw [if_neg Bool.false_ne_true, if_neg Bool.false_ne_true, State.accOf_accLand, State.accOf_stain]
      rw [show ((s.stain c b (accKey b r k) (!false) (subArrays k deep)).core c).arr.acc = s.accOf c from State.accOf_stain ..]
    · rw [if_pos rfl, if_pos rfl, State.accOf_accLand, State.accOf_stain]
  · rw [if_pos (bne_iff_ne.mpr h), if_neg h, hfree, State.accOf_accLand, State.accOf_stain]
    rfl

/-- One value of an entry in its element. -/
def State.accPut (tc c b row p : Nat) (add : Bool) (s : State) (e : Nat × BitVec 32) : State :=
  let key := accKey b row (64 * p + e.1)
  if add then
    let r := fadd (Map.get (s.core c).arr.acc key) e.2
    s.accLand tc c b key r.1 (bankEvt false r.2)
  else (s.stain c b key false 0).accLand tc c b key e.2 0

/-- What an element becomes with a value of an entry (R257). -/
def accUpd (add : Bool) (old v : BitVec 32) : BitVec 32 := if add then (fadd old v).1 else v

theorem accOf_accPut (tc c b row p : Nat) (add : Bool) (s : State) (e : Nat × BitVec 32) :
    (State.accPut tc c b row p add s e).accOf c =
      Map.set (s.accOf c) (accKey b row (64 * p + e.1)) (accUpd add (Map.get (s.accOf c) (accKey b row (64 * p + e.1))) e.2) := by
  cases add
  · exact (State.accOf_accLand (s.stain c b (accKey b row (64 * p + e.1)) false 0) tc c b (accKey b row (64 * p + e.1)) e.2 0).trans
      (congrArg (fun m => Map.set m (accKey b row (64 * p + e.1)) e.2) (State.accOf_stain ..))
  · exact State.accOf_accLand ..

/-- Values that go to different elements: each takes its own, and every other element stays (R257). -/
theorem accOf_foldl_accPut (tc c b row p : Nat) (add : Bool) (l : List (Nat × BitVec 32)) {s : State} (hw : Map.wf (s.accOf c) = true)
    (hd : (l.map (·.1)).Nodup) :
    (∀ e ∈ l, Map.get ((l.foldl (State.accPut tc c b row p add) s).accOf c) (accKey b row (64 * p + e.1)) =
      accUpd add (Map.get (s.accOf c) (accKey b row (64 * p + e.1))) e.2) ∧
    ∀ key, (∀ e ∈ l, key ≠ accKey b row (64 * p + e.1)) → Map.get ((l.foldl (State.accPut tc c b row p add) s).accOf c) key = Map.get (s.accOf c) key := by
  induction l generalizing s with
  | nil => exact ⟨fun e he => absurd he List.not_mem_nil, fun _ _ => rfl⟩
  | cons x xs ih =>
    obtain ⟨hx, hd'⟩ := List.nodup_cons.mp hd
    have hput := accOf_accPut tc c b row p add s x
    have hw' : Map.wf ((State.accPut tc c b row p add s x).accOf c) = true := by
      rw [hput]
      exact Map.wf_set hw _ _
    obtain ⟨hin, hout⟩ := ih hw' hd'
    have hne : ∀ e ∈ xs, accKey b row (64 * p + e.1) ≠ accKey b row (64 * p + x.1) := fun e he hk => by
      unfold accKey at hk
      have heq : e.1 = x.1 := by omega
      exact hx (List.mem_map.mpr ⟨e, he, heq⟩)
    refine ⟨fun e he => ?_, fun key hk => ?_⟩
    · rw [List.foldl_cons]
      obtain rfl | he := List.mem_cons.mp he
      · rw [hout _ fun e' he' => (hne e' he').symm, hput, Map.get_set hw, if_pos rfl]
      · rw [hin e he, hput, Map.get_set hw, if_neg (hne e he)]
    · rw [List.foldl_cons, hout key fun e he => hk e (List.mem_cons_of_mem _ he), hput, Map.get_set hw, if_neg (hk x List.mem_cons_self)]

theorem mem_zip_range {vs : List (BitVec 32)} (h : vs.length = 64) {n : Nat} (hn : n < 64) : (n, vs.getD n 0) ∈ (List.range 64).zip vs := by
  refine List.mem_iff_getElem.mpr ⟨n, by simp [h, hn], ?_⟩
  rw [List.getElem_zip, List.getElem_range, List.getD_eq_getElem?_getD, List.getElem?_eq_getElem (by omega), Option.getD_some]

/-- A row of an entry in a bank (R257). -/
theorem get_apply_acc {s : State} {tc c b r p : Nat} {add : Bool} {vs : List (BitVec 32)} (hw : Map.wf (s.accOf c) = true) (hr : r < 96) (hp : p < 3)
    (hl : vs.length = 64) {b' r' k' : Nat} (hr' : r' < 96) (hk' : k' < 192) :
    Map.get ((s.apply tc c (.acc b r p add vs)).accOf c) (accKey b' r' k') =
      if b' = b ∧ r' = r ∧ k' / 64 = p then accUpd add (Map.get (s.accOf c) (accKey b r k')) (vs.getD (k' % 64) 0)
      else Map.get (s.accOf c) (accKey b' r' k') := by
  have hnd : (((List.range 64).zip vs).map (·.1)).Nodup := by
    rw [List.map_fst_zip (by simp [hl])]
    exact List.nodup_range
  obtain ⟨hin, hout⟩ := accOf_foldl_accPut tc c b r p add ((List.range 64).zip vs) hw hnd
  have hfold : s.apply tc c (.acc b r p add vs) = ((List.range 64).zip vs).foldl (State.accPut tc c b r p add) s := rfl
  rw [hfold]
  by_cases h : b' = b ∧ r' = r ∧ k' / 64 = p
  · obtain ⟨rfl, rfl, rfl⟩ := h
    have hkk : 64 * (k' / 64) + k' % 64 = k' := Nat.div_add_mod k' 64
    have := hin _ (mem_zip_range hl (Nat.mod_lt k' (by decide)))
    dsimp only at this
    rw [hkk] at this
    rw [if_pos ⟨rfl, rfl, rfl⟩, this]
  · rw [if_neg h]
    refine hout _ fun e he hkey => h ?_
    have hn : e.1 < 64 := List.mem_range.mp (List.of_mem_zip he).1
    obtain ⟨rfl, rfl, hk⟩ := accKey_inj hr' hk' hr (by omega) hkey
    exact ⟨rfl, rfl, by omega⟩

/-- Runs of an accumulator that are zeroed, row after row. -/
def zeroRows (m : Map 32) (b row p ps : Nat) (rs : List Nat) : Map 32 := rs.foldl (fun m r => Map.clearRun m (accKey b (row + r) (64 * p)) (64 * ps)) m

theorem get_zeroRows (b row p ps : Nat) (rs : List Nat) (m : Map 32) (key : Nat) :
    Map.get (zeroRows m b row p ps rs) key =
      if ∃ r ∈ rs, accKey b (row + r) (64 * p) ≤ key ∧ key < accKey b (row + r) (64 * p) + 64 * ps then 0 else Map.get m key := by
  induction rs generalizing m with
  | nil => simp [zeroRows]
  | cons r rs ih =>
    rw [show zeroRows m b row p ps (r :: rs) = zeroRows (Map.clearRun m (accKey b (row + r) (64 * p)) (64 * ps)) b row p ps rs from rfl,
      ih, Map.get_clearRun]
    simp only [List.mem_cons, or_and_right, exists_or, exists_eq_left]
    by_cases h1 : accKey b (row + r) (64 * p) ≤ key ∧ key < accKey b (row + r) (64 * p) + 64 * ps
    · simp [h1]
    · simp [h1]

/-- A zeroed block reads 0, and every other element keeps its value (R257). -/
theorem get_apply_accZero (s : State) (tc c : Nat) {b r rows p ps : Nat} (hr : r + rows ≤ 96) (hp : p + ps ≤ 3)
    {b' r' k' : Nat} (hr' : r' < 96) (hk' : k' < 192) :
    Map.get ((s.apply tc c (.accZero b r rows p ps)).accOf c) (accKey b' r' k') =
      if b' = b ∧ r ≤ r' ∧ r' < r + rows ∧ p ≤ k' / 64 ∧ k' / 64 < p + ps then 0 else Map.get (s.accOf c) (accKey b' r' k') := by
  have hzero : (s.apply tc c (.accZero b r rows p ps)).accOf c = zeroRows (s.accOf c) b r p ps (List.range rows) := by
    dsimp only [State.apply]
    rw [State.accOf, State.core_modCore]
    rfl
  rw [hzero, get_zeroRows]
  refine ite_congr_iff ⟨?_, ?_⟩ rfl rfl
  · rintro ⟨i, hi, hlo, hhi⟩
    have hi' := List.mem_range.mp hi
    unfold accKey at hlo hhi
    omega
  · rintro ⟨rfl, h1, h2, h3, h4⟩
    refine ⟨r' - r, List.mem_range.mpr (by omega), ?_⟩
    unfold accKey
    omega

/-! ## Pieces of the matrix unit -/

/-- What pops of the executing core leave: its stream, its slot, and every field of the core but the queues. -/
def PopFrame (s u : State) : Prop := u.cur = s.cur ∧ u.str = s.str ∧ u.my = s.my ∧ u.me.arr = s.me.arr

theorem PopFrame.refl (s : State) : PopFrame s s := ⟨rfl, rfl, rfl, rfl⟩

theorem PopFrame.guard {s u : State} (h : PopFrame s u) : u.guard = s.guard := by
  obtain ⟨-, hstr, -, -⟩ := h
  rw [State.guard, hstr, State.guard]

theorem PopFrame.tc {s u : State} (h : PopFrame s u) : u.tc = s.tc := by
  obtain ⟨-, -, hmy, -⟩ := h
  rw [State.tc, hmy, State.tc]

theorem arr_modMe_setQueue (s : State) (q : Nat) (es : List QEntry) : (s.modMe fun x => x.setQueue q es).me.arr = s.me.arr := by
  rw [State.me_modMe]
  rfl

theorem popFrame_of_operands {s u : State} {j : Nat} {ns : List Nat} {es : List Entry} (h : s.operands j ns = some (es, u)) : PopFrame s u := by
  induction ns generalizing s es with
  | nil =>
    obtain ⟨-, rfl⟩ : [] = es ∧ s = u := by simpa [State.operands] using h
    exact .refl _
  | cons n ns ih =>
    rw [State.operands] at h
    split at h
    · obtain ⟨p, hp, hpe⟩ := Option.map_eq_some_iff.mp h
      obtain ⟨-, rfl⟩ := Prod.ext_iff.mp hpe
      exact ih hp
    · split at h
      · cases h
      · split at h
        · cases h
        · obtain ⟨p, hp, hpe⟩ := Option.map_eq_some_iff.mp h
          obtain ⟨-, rfl⟩ := Prod.ext_iff.mp hpe
          obtain ⟨hcur, hstr, hmy, harr⟩ := ih hp
          exact ⟨hcur, hstr.trans (State.str_modMe_setQueue ..), hmy.trans (State.my_modMe_setQueue ..),
            harr.trans (arr_modMe_setQueue ..)⟩

/-- A pop of queue `n` by its VQ number (R212). -/
theorem pop_of_operands {s u : State} {j n : Nat} {e : Entry} (h : s.operands j [32 + n] = some ([e], u)) (k : Entry → State → State) :
    s.pop n k = k e u := by
  have := source_of_operands h k
  rwa [State.source, if_neg (by omega), Nat.add_sub_cancel_left] at this

/-- The products of a column of the array (R254). -/
def Core.products (x : Core) (set k afmt bfmt : Nat) (sc : Int) (e : Entry) (n : Nat) : List (BitVec 32 × Flags) :=
  (List.range k).map fun c =>
    let w := Map.get x.arr.wset (cellKey set c n)
    if pairMode afmt bfmt then pairProd sc e c w else prodOf afmt bfmt sc (aElem afmt c e) w

theorem column_fst (x : Core) (set k afmt bfmt : Nat) (sc : Int) (e : Entry) (n : Nat) :
    (x.column set k afmt bfmt sc e n).1 = (colChain ((x.products set k afmt bfmt sc e n).map (·.1))).1 := rfl

theorem products_of_wset {x y : Core} (h : x.arr.wset = y.arr.wset) : x.products = y.products := by
  funext set k afmt bfmt sc e n
  rw [Core.products, Core.products, h]

/-- A row of `MX.MAC` goes on with its entry, popped or forwarded by the west core (R253, R264). -/
theorem mxMacStep_of_entry {a : Act} {s u : State} {e : Entry}
    (he : a.x 7 = 1 ∧ u = s ∧ e = (s.core (s.cur.1 - 1)).arr.fwd ∨ a.x 7 = 0 ∧ s.operands a.j [32 + a.x 0] = some ([e], u)) :
    let w := BitVec.ofNat 64 (a.cu.getD 0 0)
    let v := u.modArr fun r => { r with fwd := e }
    PopFrame s u ∧ mxMacStep a s = if !v.guard then v else v.land (v.tc + 66 + 2 * a.x 7) (.mac (a.x 1) (a.x 2 + a.j) (a.x 3) (a.x 6 == 1)
      (intMode (wAfmt w)) (32 < a.x 4) ((List.range 64).map (v.me.column (a.x 5) (a.x 4) (wAfmt w) (wBfmt w) (wScale w) e))) := by
  intro w v
  obtain ⟨h7, rfl, rfl⟩ | ⟨h7, hr⟩ := he
  · exact ⟨.refl _, if_pos h7⟩
  · exact ⟨popFrame_of_operands hr, (if_neg (by rw [h7]; decide)).trans (pop_of_operands hr _)⟩

theorem mxMacPiece {a : Act} {s u : State} {e : Entry} {h : Hdr} {f : Mx} (hi : a.ins = .mxMac h f)
    (he : a.x 7 = 1 ∧ u = s ∧ e = (s.core (s.cur.1 - 1)).arr.fwd ∨ a.x 7 = 0 ∧ s.operands a.j [32 + a.x 0] = some ([e], u)) :
    let w := BitVec.ofNat 64 (a.cu.getD 0 0)
    let v := u.modArr fun r => { r with fwd := e }
    (s.guard = false → matStep a s = v) ∧
    (s.guard = true → ∃ sums : List (BitVec 32 × BitVec 3), sums.length = 64 ∧
      matStep a s = v.land (s.tc + 66 + 2 * a.x 7) (.mac (a.x 1) (a.x 2 + a.j) (a.x 3) (a.x 6 == 1) (intMode (wAfmt w)) (32 < a.x 4) sums) ∧
      ∀ n, n < 64 → ∃ ps : List (BitVec 32 × Flags), ps.length = a.x 4 ∧ (sums.map (·.1))[n]? = some (colChain (ps.map (·.1))).1 ∧
        ∀ c, c < a.x 4 → let x := Map.get s.me.arr.wset (cellKey (a.x 5) c n)
          ps[c]? = some (if pairMode (wAfmt w) (wBfmt w) then pairProd (wScale w) e c x
            else prodOf (wAfmt w) (wBfmt w) (wScale w) (aElem (wAfmt w) c e) x)) := by
  intro w v
  obtain ⟨hf, hstep⟩ := mxMacStep_of_entry he
  have hmat : matStep a s = mxMacStep a s := by rw [matStep, hi]
  rw [← hmat] at hstep
  have hg : v.guard = s.guard := (State.guard_modArr ..).trans hf.guard
  have htc : v.tc = s.tc := (State.tc_modArr ..).trans hf.tc
  have harr : v.me.arr.wset = s.me.arr.wset := by
    obtain ⟨-, -, -, ha⟩ := hf
    rw [show v.me = _ from State.me_modArr .., ha]
  refine ⟨fun hgu => ?_, fun hgu => ⟨(List.range 64).map (v.me.column (a.x 5) (a.x 4) (wAfmt w) (wBfmt w) (wScale w) e), by simp, ?_, fun n hn => ?_⟩⟩
  · exact hstep.trans (if_pos (by rw [hg, hgu]; rfl))
  · refine hstep.trans ((if_neg (by rw [hg, hgu]; decide)).trans ?_)
    rw [htc]
  · refine ⟨s.me.products (a.x 5) (a.x 4) (wAfmt w) (wBfmt w) (wScale w) e n, by simp [Core.products], ?_, fun c hc => ?_⟩
    · rw [List.map_map, List.getElem?_map, List.getElem?_range hn, ← products_of_wset harr]
      rfl
    · rw [Core.products, List.getElem?_map, List.getElem?_range hc]
      rfl

theorem mxFillPiece {a : Act} {s u : State} {e : Entry} {h : Hdr} {f : Mx} (hi : a.ins = .mxFill h f)
    (hr : s.operands a.j [32 + a.x 0] = some ([e], u)) :
    (s.guard = false → matStep a s = u) ∧
      (s.guard = true → ∃ vs : List (BitVec 32), vs.length = 64 ∧ (∀ i, i < 64 → vs[i]? = some (e.extractLsb' (32 * i) 32)) ∧
        matStep a s = u.land (s.tc + 2) (.acc (a.x 1) (a.x 2 + a.j / a.x 4) (a.x 3 + a.j % a.x 4) (a.x 5 == 1) vs)) := by
  have hf := popFrame_of_operands hr
  have hstep : matStep a s = if !u.guard then u else u.land (u.tc + 2) (.acc (a.x 1) (a.x 2 + a.j / a.x 4) (a.x 3 + a.j % a.x 4) (a.x 5 == 1)
      ((List.range 64).map fun i => e.extractLsb' (32 * i) 32)) := by
    rw [matStep, hi]
    exact pop_of_operands hr _
  rw [hf.guard, hf.tc] at hstep
  refine ⟨fun hg => hstep.trans (if_pos (by rw [hg]; rfl)), fun hg => ⟨(List.range 64).map fun i => e.extractLsb' (32 * i) 32, by simp, fun i hi' => ?_,
    hstep.trans (if_neg (by rw [hg]; decide))⟩⟩
  rw [List.getElem?_map, List.getElem?_range hi']
  rfl

theorem mxCbPiece {a : Act} {s u : State} {e : Entry} {h : Hdr} {f : Mx} (hi : a.ins = .mxCb h f)
    (hr : s.operands a.j [32 + a.x 0] = some ([e], u)) :
    matStep a s = if s.guard then u.land (s.tc + 1) (.bytes .cb (a.x 1 + 256 * a.j) (entryBytes e)) else u := by
  have hf := popFrame_of_operands hr
  rw [← hf.guard, ← hf.tc, matStep, hi]
  exact pop_of_operands hr _

/-! ## Pieces of a drain -/

theorem drainZero_eq (a : Act) (v : State) :
    drainZero a v = if a.x 4 = 1 ∧ v.alive = true then v.land (v.tc + 1) (.accZero (a.x 0) (a.x 1 + a.j / a.x 3) 1 (a.x 2 + a.j % a.x 3) 1) else v :=
  ite_congr_iff (by rw [Bool.and_eq_true, decide_eq_true_eq]) rfl rfl

theorem drainEvt_eq (a : Act) {first : Bool} {p : Prop} [Decidable p] (h : first = true ↔ p) :
    drainEvt a first = if p then BitVec.ofNat 8 (8 * a.x 6) else 0 := ite_congr_iff h rfl rfl

/-- A drained row as an output entry, by the results of its quantisation (R259). -/
theorem drainQueue_eq {a : Act} (s : State) {xs : List (BitVec 32)} (hx : drainRow a s = xs) :
    drainQueue a s =
      ((qntEntry (hFmt a.hnd) ((a.x 7 : Int) - 1024) xs).2.1.foldl
        (fun v n => v.stat a.hnd none (a.j / a.x 3 * 64 * a.x 3 + 64 * (a.j % a.x 3) + n) true 0 (a.x 5))
        ((s.push (a.x 9 - 1) (qntEntry (hFmt a.hnd) ((a.x 7 : Int) - 1024) xs).1 (s.tc + 2)).setFlags (a.x 5)
          (qntEntry (hFmt a.hnd) ((a.x 7 : Int) - 1024) xs).2.2)).noteDrain (drainTaint a s) s.uid a.hnd [] (some (a.x 9 - 1, s.tc + 2)) := by
  subst hx
  rfl

section
variable {a : Act} {s : State} (hg : s.guard = true)
include hg

/-- A drain to a queue without a copy (R259). -/
theorem mxDrainStep_queue (h9 : a.x 9 ≠ 0) (h10 : a.x 10 = 0) : mxDrainStep a s = drainZero a (drainQueue a s) := by
  rw [mxDrainStep, if_neg (by simp [hg])]
  dsimp only
  rw [if_pos (bne_iff_ne.mpr h9), h10]
  rfl

/-- A drain through its handle, and then its copy where it has one and its stream still runs (R259, R260). -/
theorem mxDrainStep_elems (h9 : a.x 9 = 0) :
    let t := drainElems a a.hnd (2 * a.j) [64 * (a.j % a.x 3), a.j / a.x 3, 0, 0] ((a.x 7 : Int) - 1024) (drainRow a s) (drainTaint a s)
      (drainEvt a (a.j = 0)) false s
    mxDrainStep a s = drainZero a (if a.x 10 = 0 || !t.alive then t else drainCopy a (drainRow a s) (drainTaint a s) t) := by
  rw [mxDrainStep, if_neg (by simp [hg]), h9]
  rfl

end

theorem drainCopy_elems {a : Act} (hf : hFmt (BitVec.ofNat 256 (leNat (a.buf.take 32)) : Handle) ≠ 5) (xs : List (BitVec 32)) (used : BitVec 4)
    (v : State) : drainCopy a xs used v =
      drainElems a (BitVec.ofNat 256 (leNat (a.buf.take 32))) (2 * a.j + 1) [a.j / a.x 3, 64 * (a.j % a.x 3), 0, 0] ((a.x 8 : Int) - 1024) xs used
        (drainEvt a (a.j = 0)) true v := if_neg hf

/-- An LNS6 copy gathers a row (R260). -/
theorem drainCopy_gather {a : Act} (hf : hFmt (BitVec.ofNat 256 (leNat (a.buf.take 32)) : Handle) = 5) (hi : a.j / a.x 3 % 32 ≠ 31)
    (xs : List (BitVec 32)) (used : BitVec 4) (v : State) :
    drainCopy a xs used v = v.keepBuf (a.buf ++ xs.flatMap fun x => leBytes 4 x.toNat) := by
  refine (if_pos hf).trans ?_
  rw [if_neg hi, decide_eq_false hi, Bool.false_and, if_neg Bool.false_ne_true, ← List.append_assoc, List.take_append_drop]

/-- An LNS6 copy puts out its blocks with their last row (R260). -/
theorem drainCopy_blocks {a : Act} (hf : hFmt (BitVec.ofNat 256 (leNat (a.buf.take 32)) : Handle) = 5) (hi : a.j / a.x 3 % 32 = 31)
    (xs : List (BitVec 32)) (used : BitVec 4) (v : State) :
    let rows := a.buf.drop 32 ++ xs.flatMap fun x => leBytes 4 x.toNat
    drainCopy a xs used v = (drainBlocks a (BitVec.ofNat 256 (leNat (a.buf.take 32))) ((a.x 8 : Int) - 1024) rows used v).keepBuf
      (a.buf.take 32 ++ if a.j % a.x 3 = a.x 3 - 1 then [] else rows) := by
  intro rows
  refine (if_pos hf).trans ?_
  rw [if_pos hi, decide_eq_true hi, Bool.true_and]
  exact congrArg (fun l => State.keepBuf _ (a.buf.take 32 ++ l)) (ite_congr_iff decide_eq_true_iff rfl rfl)

/-- Settles O42: what lands, and then piece by piece. -/
theorem accumulatorLandings : Obligations.AccumulatorLandings := by
  unfold Obligations.AccumulatorLandings
  refine ⟨?_, ?_⟩
  · intro s tc c hw acc
    replace hw : Map.wf (s.accOf c) = true := hw
    refine ⟨?_, ?_, ?_⟩
    · intro b r k ovw int deep v ev vs hr hk t
      have hacc : t.accOf c = _ := accOf_apply_mac s tc c b r k ovw int deep v ev vs
      have hself : acc t b r k = s.macVal c (accKey b r k) k ovw deep v := by
        rw [show acc t b r k = Map.get (t.accOf c) (accKey b r k) from rfl, hacc, Map.get_set hw, if_pos rfl]
      refine ⟨fun hu => hself.trans (if_pos hu), fun hu => hself.trans (if_neg hu), fun b' r' k' hr' hk' hne => ?_⟩
      have hkey : accKey b' r' k' ≠ accKey b r k := fun h => hne (by
        obtain ⟨rfl, rfl, rfl⟩ := accKey_inj hr' hk' hr hk h
        rfl)
      rw [show acc t b' r' k' = Map.get (t.accOf c) (accKey b' r' k') from rfl, hacc, Map.get_set hw, if_neg hkey]
      rfl
    · intro b r p add vs hr hp hl t b' r' k' hr' hk'
      exact get_apply_acc hw hr hp hl hr' hk'
    · intro b r rows p ps hr hp t b' r' k' hr' hk'
      exact get_apply_accZero s tc c hr hp hr' hk'
  · intro s u a h f e
    refine ⟨fun hi he => mxMacPiece hi he, fun hi hr => mxFillPiece hi hr, fun hi hr => mxCbPiece hi hr, fun hi hg => ?_, ?_⟩
    · rw [matStep, hi]
      exact if_pos (by rw [hg]; rfl)
    · intro hi hg i p x used ev done t
      have hmat : matStep a s = mxDrainStep a s := by rw [matStep, hi]
      have hdone : ∀ v, drainZero a v = done v := drainZero_eq a
      refine ⟨?_, fun h9 => ⟨fun n => (drainRow a s).getD n 0, fun n hn => ?_, ?_⟩⟩
      · intro h9 h10 r
        rw [hmat, mxDrainStep_queue hg h9 h10, hdone, drainQueue_eq s (show drainRow a s = (List.range 64).map x from rfl)]
        simp only [i, p, used, r, t, drainTaint]
      · exact (congrArg (fun l => List.getD l n 0) (show drainRow a s = (List.range 64).map x from rfl)).trans (by simp [hn])
      · intro sl v h2 t2
        have hev : drainEvt a (a.j = 0) = ev := drainEvt_eq a decide_eq_true_iff
        have hv : drainElems a a.hnd (2 * a.j) [64 * (a.j % a.x 3), a.j / a.x 3, 0, 0] ((a.x 7 : Int) - 1024) (drainRow a s) (drainTaint a s)
            (drainEvt a (a.j = 0)) false s = v := by rw [hev]; rfl
        have hstep := hmat.trans (mxDrainStep_elems hg h9)
        rw [hv, hdone] at hstep
        have hflat : ((drainRow a s).flatMap fun y => leBytes 4 y.toNat) = (List.range 64).flatMap fun n => leBytes 4 (x n).toNat :=
          (congrArg (fun l => List.flatMap (fun y : BitVec 32 => leBytes 4 y.toNat) l) (show drainRow a s = (List.range 64).map x from rfl)).trans
            (List.flatMap_map ..)
        have hcopies : a.x 10 ≠ 0 → v.alive = true → matStep a s = done (drainCopy a (drainRow a s) (drainTaint a s) v) := fun hcopy hal =>
          hstep.trans (congrArg done (if_neg (by simp [hcopy, hal])))
        refine ⟨fun hno => ?_, ?_, fun hcopy hal hf hi31 => ?_, ?_⟩
        · refine hstep.trans (congrArg done (if_pos ?_))
          obtain hno | hno := hno <;> simp [hno]
        · intro hcopy hal hf sl2
          rw [hcopies hcopy hal, drainCopy_elems hf, hev]
          rfl
        · rw [hcopies hcopy hal, drainCopy_gather hf hi31, hflat]
        · intro hcopy hal hf hi31 rows sl2 ev2 y
          have hev2 : drainEvt a (decide (i = 31) && decide (p = 0)) = ev2 :=
            drainEvt_eq a (by rw [Bool.and_eq_true, decide_eq_true_eq, decide_eq_true_eq])
          rw [hcopies hcopy hal, drainCopy_blocks hf hi31, hflat]
          dsimp only [drainBlocks]
          rw [hev2]
          rfl

end Sys2Proof.Machine
end

section
/-! SUPPORT. Common instructions: waiting words and joining points, cursors, traps, record instructions and power leases
(spec/12_isa_common.md). -/

namespace Sys2Proof.Machine

/-! ## Fields of an immediate -/

/-- The low bits of a word, as a number. -/
theorem toNat_extractLsb'_zero {w : Nat} (x : BitVec w) (k : Nat) : (x.extractLsb' 0 k).toNat = x.toNat % 2 ^ k := by
  simp [BitVec.extractLsb'_toNat]

/-! ## Waiting words -/

/-- The count of `WAIT.CY` (R271). -/
theorem waitCount_eq (x : Stream) (f : Sys) :
    waitCount x f = if f.fn = 0 then f.imm.toNat else (Map.get x.lk (f.imm.extractLsb' 0 4).toNat).toNat := by
  rw [toNat_extractLsb'_zero]
  rfl

/-- Settles O43: each word's meaning with its guard, count or point. -/
theorem waitingWords : Obligations.WaitingWords := by
  unfold Obligations.WaitingWords
  intro h f s
  refine ⟨rfl, ?_, ?_, ?_, ?_⟩
  · rintro n rfl
    rw [← waitCount_eq]
    rfl
  · intro hg hc
    exact congrArg _ (if_pos (by rw [hg, hc]; rfl))
  · intro i op arg hi
    simp only [List.mem_cons, List.not_mem_nil, or_false, Prod.mk.injEq] at hi
    obtain ⟨rfl, rfl, rfl⟩ | ⟨rfl, rfl, rfl⟩ | ⟨rfl, rfl, rfl⟩ | ⟨rfl, rfl, rfl⟩ | ⟨rfl, rfl, rfl⟩ := hi <;> rfl
  · intro hg
    refine ⟨congrArg _ (if_pos hg), s.modMy fun x => { x with ymark := some (x.ymark.getD x.tc) }, congrArg _ (if_pos hg), ?_, ?_⟩
    · rw [State.my_modMy]
      rfl
    · intro hy
      show s.modSlot _ _ = s.modSlot _ _
      unfold State.modSlot
      show _ = { s with slots := Tbl.set s.slots s.me.slot { s.my with ymark := some s.tc } }
      change { s with slots := Tbl.set s.slots s.me.slot { s.my with ymark := some (s.my.ymark.getD s.my.tc) } } = _
      rw [hy]
      rfl

/-! ## Cursors -/

theorem length_setAt {α : Type} (xs : List α) (n : Nat) (y : α) : (setAt xs n y).length = xs.length := by
  induction xs generalizing n with
  | nil => rfl
  | cons x xs ih =>
    cases n with
    | zero => rfl
    | succ n => simp [setAt, ih]

/-- An element of a list after one has been replaced. -/
theorem getD_setAt {α : Type} (xs : List α) (n i : Nat) (y d : α) (hi : i < xs.length) :
    (setAt xs n y).getD i d = if i = n then y else xs.getD i d := by
  induction xs generalizing n i with
  | nil => exact absurd hi (Nat.not_lt_zero i)
  | cons x xs ih =>
    cases n with
    | zero => cases i <;> simp [setAt]
    | succ n =>
      cases i with
      | zero => simp [setAt]
      | succ i => simpa [setAt] using ih n i (by simpa using hi)

/-- Four halfwords side by side, each read back from the sum. -/
theorem halfwords_of_sum {a b c d : Nat} (ha : a < 65536) (hb : b < 65536) (hc : c < 65536) (hd : d < 65536) :
    let n := a + b * 65536 + c * 4294967296 + d * 281474976710656
    n % 18446744073709551616 = n ∧ n % 65536 = a ∧ n / 65536 % 65536 = b ∧ n / 4294967296 % 65536 = c ∧ n / 281474976710656 % 65536 = d := by
  intro n
  refine ⟨?_, ?_, ?_, ?_, ?_⟩ <;> omega

theorem wordCursors_cursorWord {a b c d : Nat} (ha : a < 65536) (hb : b < 65536) (hc : c < 65536) (hd : d < 65536) :
    wordCursors (cursorWord [a, b, c, d]) = [a, b, c, d] := by
  obtain ⟨hn, h0, h1, h2, h3⟩ := halfwords_of_sum ha hb hc hd
  have hw : (cursorWord [a, b, c, d]).toNat = a + b * 65536 + c * 4294967296 + d * 281474976710656 := by
    rw [cursorWord, BitVec.toNat_ofNat]
    exact hn
  have hx (i : Nat) (m : Nat) (hm : 2 ^ (16 * i) = m) : ((cursorWord [a, b, c, d]).extractLsb' (16 * i) 16).toNat =
      (a + b * 65536 + c * 4294967296 + d * 281474976710656) / m % 65536 := by
    rw [BitVec.extractLsb'_toNat, hw, Nat.shiftRight_eq_div_pow, hm]
  simp only [wordCursors, List.range, List.range.loop, List.map_cons, List.map_nil]
  rw [hx 0 1 rfl, hx 1 65536 rfl, hx 2 4294967296 rfl, hx 3 281474976710656 rfl, Nat.div_one, h0, h1, h2, h3]

/-- Settles O44: a pop of a ready entry, the fields of the words, and a software trap with or without the stream's own pending. -/
theorem cursorsAndTraps : Obligations.CursorsAndTraps := by
  unfold Obligations.CursorsAndTraps
  intro h f s hg
  refine ⟨?_, ?_, ?_, ?_, ?_⟩
  · intro e es hfn hq hr
    dsimp only [exec, execCurSet]
    rw [if_pos hfn, s.pop_ready hq hr, if_pos ((State.guard_modMe_setQueue ..).trans hg), State.tc_modMe_setQueue]
    have hw : wordCursors (entryWord e.data) = (List.range 4).map fun d => (e.data.extractLsb' (16 * d) 16).toNat := by
      refine List.map_congr_left fun d hd => congrArg BitVec.toNat (BitVec.eq_of_getLsbD_eq fun i hi => ?_)
      have := List.mem_range.mp hd
      simp only [entryWord, BitVec.getLsbD_extractLsb', hi, decide_true, Bool.true_and]
      rw [decide_eq_true (by omega)]
      simp
    rw [hw]
    rfl
  · intro hfn
    refine ⟨setAt s.str.cu (f.imm.extractLsb' 16 2).toNat (f.imm.toNat % 65536), ?_, length_setAt .., ?_⟩
    · dsimp only [exec, execCurSet]
      rw [if_neg hfn, if_pos hg]
    · intro d hd
      rw [getD_setAt _ _ _ _ _ hd, toNat_extractLsb'_zero] <;> rfl
  · intro a b c d hcu ha hb hc hd
    refine ⟨wordEntry (cursorWord s.str.cu), ?_, ?_, ?_⟩
    · dsimp only [exec, execCurGetCur]
      rw [if_pos hg]
    · rw [hcu, ← wordCursors_cursorWord ha hb hc hd]
      refine List.map_congr_left fun k hk => congrArg BitVec.toNat (BitVec.eq_of_getLsbD_eq fun i hi => ?_)
      have := List.mem_range.mp hk
      simp only [wordEntry, BitVec.getLsbD_extractLsb', hi, decide_true, Bool.true_and]
      rw [BitVec.getLsbD_setWidth, decide_eq_true (by omega), Bool.true_and, wordCursors_cursorWord ha hb hc hd]
    · intro i hi
      rw [wordEntry, BitVec.getLsbD_setWidth, BitVec.getLsbD_of_ge _ _ hi, Bool.and_false]
  · rw [toNat_extractLsb'_zero]
    exact congrArg _ (State.deliver_of_guard hg _ _)
  · intro mine
    have hg' : ¬(!s.guard) = true := by simp [hg]
    refine ⟨fun hm => congrArg _ ((if_neg hg').trans (if_neg (ne_true_of_eq_false hm))), ?_⟩
    intro drop hm
    exact congrArg _ ((if_neg hg').trans (if_pos hm))

/-! ## Records -/

/-- A seal or clear under a true guard whose handle, where it names its record by one, is valid: what is left to check (R114, R290). -/
theorem State.schedule_eq {s : State} (hg : s.guard = true) (f : Sys) (clr all : Bool) (idx : Nat)
    (hidx : idx = if f.fn.getLsbD 0 then ((s.rh f.ra).extractLsb' 200 12).toNat else (f.imm.extractLsb' 0 12).toNat)
    (hok : f.fn.getLsbD 0 = true → (s.rh f.ra).getLsbD 255 = false ∧ (s.rh f.ra).extractLsb' 196 4 = 0 ∧ (s.rh f.ra).getLsbD 212 = true) :
    s.schedule f clr all =
      if (s.record idx).isNone then s.fault .record 1
      else if 4 ≤ s.str.seals.length then s.fault .record 3
      else s.modStr fun x => { x with seals := x.seals ++ [⟨clr, all, f.scope.toNat, idx⟩] } := by
  subst hidx
  rw [toNat_extractLsb'_zero]
  unfold State.schedule
  cases hf : f.fn.getLsbD 0 with
  | false => simp [hg]
  | true =>
    obtain ⟨h255, h196, h212⟩ := hok hf
    simp only [hg, h255, h196, h212, hSrec, hSrv, bne_self_eq_false, Bool.not_true, Bool.false_or, Bool.and_false, Bool.false_eq_true,
      if_false, if_true]

/-- The second and third words of a record's image (R103). -/
theorem recImage_words (x : Slot) (r : Record) (c : Nat) (t : Moment) :
    ((x.recImage r c t).drop 4).take 4 = leBytes 4 r.smax.toNat ∧ ((x.recImage r c t).drop 8).take 4 = leBytes 4 r.nseal.toNat := by
  simp only [Slot.recImage, List.append_assoc]
  refine ⟨?_, ?_⟩
  · rw [List.drop_left' (length_leBytes ..), List.take_left' (length_leBytes ..)]
  · rw [← List.append_assoc (leBytes 4 _) (leBytes 4 _), List.drop_left' (by simp), List.take_left' (length_leBytes ..)]

/-- The read that a `STAT.RD` of record `r` sends at its issue tc (R291). -/
def State.statRead (s : State) (h : Hdr) (f : Sys) (r : Record) : Access :=
  ⟨s.uid, s.me.slot, s.cur.1, s.me.rank, s.cur.2, .read, .statRd h f, s.str.now, s.tc, s.arrival (f.imm.extractLsb' 17 2).toNat, 0, 0, s.str.cu,
    [s.reg .S f.ra], [(0, s.my.recImage r s.cur.1 (s.my.writeTc s.tc))], [], s.my.npod, s.str.fences, .sent, none, [], s.my.stubOf⟩

/-- The state in which that read is under way. -/
def State.statSent (s : State) (h : Hdr) (f : Sys) (r : Record) : State :=
  { s with uid := s.uid + 1, outs := s.outs ++ [s.statRead h f r] }

/-- `STAT.RD` of a granted record under a true guard: the read, and on a stream other than C its entry (R291). -/
theorem exec_statRd (h : Hdr) (f : Sys) {s : State} (hg : s.guard = true) {r : Record} (hr : s.record (f.imm.extractLsb' 0 12).toNat = some r) :
    exec (.statRd h f) s = .next (State.later (if s.sid = .C then s.statSent h f r
      else (s.statSent h f r).reserve (s.reg .Q f.ra) (s.arrival (f.imm.extractLsb' 17 2).toNat + s.my.horizon) s.uid) (.phasedReplyArrival s.uid)) := by
  rw [toNat_extractLsb'_zero] at hr
  dsimp only [exec, execStatRd]
  rw [if_neg (by simp [hg]), show s.record (f.imm.toNat % 4096) = some r from hr]
  rfl

/-- Settles O45: what a seal, clear or read of a granted record does, and the faults of the others. -/
theorem recordInstructions : Obligations.RecordInstructions := by
  unfold Obligations.RecordInstructions
  intro h f s hg
  refine ⟨?_, ?_⟩
  · intro i clr all hi H hf idx hok
    have he : exec i s = .next (if (s.record idx).isNone then s.fault .record 1
        else if 4 ≤ s.str.seals.length then s.fault .record 3
        else s.modStr fun x => { x with seals := x.seals ++ [⟨clr, all, f.scope.toNat, idx⟩] }) := by
      rw [← State.schedule_eq hg f clr all idx rfl hok]
      obtain ⟨rfl, rfl, rfl⟩ | ⟨rfl, rfl, rfl⟩ := hi <;> rfl
    rw [he]
    refine ⟨fun hs hl => ?_, fun hs hl => ?_, fun hn => ?_⟩
    · rw [if_neg (by simpa [Option.isSome_iff_ne_none] using hs), if_neg (Nat.not_le.mpr hl)]
    · rw [if_neg (by simpa [Option.isSome_iff_ne_none] using hs), if_pos hl]
    · rw [if_pos (by rw [hn]; rfl)]
  · intro r hr
    refine ⟨_, exec_statRd h f hg hr, s.statRead h f r, ?_, rfl, rfl, rfl, rfl, rfl, rfl, fun _ => recImage_words .., ?_, ?_, ?_⟩
    · split <;> rfl
    · split <;> rfl
    · intro hc
      rw [if_pos hc]
      rfl
    · intro hc
      rw [if_neg hc]
      rw [State.later_me]
      exact (pushes_pushTo ..).trans (congrArg (s.me.pushes ++ ·) (if_pos rfl))

/-! ## Power leases -/

/-- After a request one of its cause stands (R35). -/
theorem State.exists_request (s : State) (n x : Nat) (c : Cause) :
    ∃ q ∈ ((s.request n x c).slot n).reqs, q.cause = c ∧ q.cleared = none := by
  rw [State.request, State.slot_modSlot]
  split
  next h =>
    obtain ⟨q, hq, hp⟩ := List.any_eq_true.mp h
    simp only [Bool.and_eq_true, beq_iff_eq, Option.isNone_iff_eq_none] at hp
    exact ⟨q, hq, hp.1.2, hp.2⟩
  next => exact ⟨_, List.mem_append_right _ (List.mem_singleton_self _), rfl, rfl⟩

/-- A request changes nothing but its slot's requests. -/
theorem State.slot_request (s : State) (n x : Nat) (c : Cause) : ∃ rs, (s.request n x c).slot n = { s.slot n with reqs := rs } := by
  rw [State.request, State.slot_modSlot]
  split
  · exact ⟨_, rfl⟩
  · exact ⟨_, rfl⟩

/-- The level in force comes from a slot's lease, level, ceiling and members, and from the thermal state of their dies (R353, R401). -/
theorem State.levelInForce_congr {s t : State} {n : Nat} (hl : (t.slot n).lease = (s.slot n).lease) (hd : (t.slot n).decl = (s.slot n).decl)
    (hc : (t.slot n).ceil = (s.slot n).ceil) (hm : (t.slot n).members = (s.slot n).members) (hp : t.plat = s.plat) :
    t.levelInForce n = s.levelInForce n := by
  unfold State.levelInForce
  dsimp only
  rw [hl, hd, hc, hm, hp]

/-- A frequency change leaves lease, levels and members of its slot and the platform units as they are. -/
def RetuneFrame (s t : State) (n : Nat) : Prop :=
  t.clock = s.clock ∧ t.cores = s.cores ∧ t.cur = s.cur ∧ t.plat = s.plat ∧ ∃ fr tu rs, t.slot n = { s.slot n with freq := fr, tuning := tu, reqs := rs }

theorem State.retune_frame (s : State) (n : Nat) : RetuneFrame s (s.retune n) n := by
  unfold State.retune
  dsimp only
  split
  · exact ⟨rfl, rfl, rfl, rfl, _, _, _, State.slot_modSlot ..⟩
  · split
    · exact ⟨rfl, rfl, rfl, rfl, _, _, _, rfl⟩
    · obtain ⟨rs, hrs⟩ := s.slot_request n (if (s.slot n).st = 1 then 0 else (s.slot n).tc + (s.slot n).horizon) (.platform tagFreq)
      exact ⟨rfl, rfl, rfl, rfl, _, _, rs, hrs⟩

theorem RetuneFrame.freqWanted {s t : State} {n : Nat} (h : RetuneFrame s t n) : t.freqWanted n = s.freqWanted n := by
  obtain ⟨-, -, -, hp, fr, tu, rs, hs⟩ := h
  rw [State.freqWanted, State.levelInForce_congr (by rw [hs]) (by rw [hs]) (by rw [hs]) (by rw [hs]) hp]
  rfl

/-- The frequency follows the level in force at once before a launch, and under a platform hold after it (R353, R396). -/
theorem State.retune_follows (s : State) (n : Nat) :
    ((s.slot n).live = false → (s.slot n).st ≠ 1 → ((s.retune n).slot n).freq = (s.retune n).freqWanted n) ∧
      ((s.slot n).live = true ∨ (s.slot n).st = 1 → ((s.retune n).slot n).freq = (s.slot n).freq ∧
        (((s.retune n).slot n).freq = (s.retune n).freqWanted n ∨
          ∃ q ∈ ((s.retune n).slot n).reqs, q.cause = .platform 1 ∧ q.cleared = none)) := by
  rw [(s.retune_frame n).freqWanted]
  refine ⟨fun hl hs => ?_, fun hl => ?_⟩
  · unfold State.retune
    rw [if_pos (by simp [hl, hs]), State.slot_modSlot]
  · have hn : ¬(!(s.slot n).live && (s.slot n).st != 1) = true := by
      rcases hl with hl | hl <;> simp [hl]
    unfold State.retune
    dsimp only
    rw [if_neg hn]
    split
    next hf =>
      refine ⟨rfl, ?_⟩
      rw [Bool.or_eq_true, decide_eq_true_eq, List.any_eq_true] at hf
      rcases hf with hf | ⟨q, hq, hp⟩
      · exact .inl hf
      · rw [Bool.and_eq_true, beq_iff_eq, Option.isNone_iff_eq_none] at hp
        exact .inr ⟨q, hq, hp⟩
    next =>
      obtain ⟨rs, hrs⟩ := s.slot_request n (if (s.slot n).st = 1 then 0 else (s.slot n).tc + (s.slot n).horizon) (.platform tagFreq)
      exact ⟨(congrArg Slot.freq hrs).trans rfl, .inr (s.exists_request n _ _)⟩

theorem RetuneFrame.my {s t : State} (h : RetuneFrame s t s.me.slot) :
    t.my = t.slot s.me.slot ∧ ∃ fr tu rs, t.my = { s.my with freq := fr, tuning := tu, reqs := rs } := by
  obtain ⟨-, hc, hcur, -, hs⟩ := h
  have hm : t.my = t.slot s.me.slot := by rw [State.my, State.me, State.core, hc, hcur]; rfl
  exact ⟨hm, hm ▸ hs⟩

/-- Settles O46: the lease that stands before the frequency follows it, and the frame of the frequency change. -/
theorem powerLeases : Obligations.PowerLeases := by
  unfold Obligations.PowerLeases
  intro h f s v us wanted follows
  have hfollows (g : Slot → Slot) (hg : ∀ x, (g x).live = x.live ∧ (g x).st = x.st ∧ (g x).freq = x.freq) :
      follows ((s.modMy g).retune s.me.slot) := by
    obtain ⟨hl, hs, hf⟩ := hg s.my
    have hmy := (RetuneFrame.my ((s.modMy g).retune_frame s.me.slot)).1
    have hu : (s.modMy g).slot s.me.slot = g s.my := State.my_modMy s g
    have := (s.modMy g).retune_follows s.me.slot
    rw [hu, hl, hs, hf] at this
    rw [show (s.modMy g).me.slot = s.me.slot from rfl] at hmy
    show (_ → _ → ((s.modMy g).retune s.me.slot).my.freq = _) ∧ (_ → ((s.modMy g).retune s.me.slot).my.freq = _ ∧ _)
    rw [hmy]
    exact this
  refine ⟨?_, ?_, ?_⟩
  · let g : Slot → Slot := fun x => { x with lease := some ⟨v, s.ns + 1000 * us⟩, acqs := x.acqs.filter fun e => s.tc < e.1 }
    have hframe := (s.modMy g).retune_frame s.me.slot
    obtain ⟨-, fr, tu, rs, hmy⟩ := RetuneFrame.my hframe
    rw [State.my_modMy] at hmy
    have hv : min (f.imm.toNat % 16) s.my.ceil = v := congrArg (min · _) (toNat_extractLsb'_zero f.imm 4).symm
    have hus : f.imm.toNat / 256 = us := by
      show _ = (f.imm.extractLsb' 8 24).toNat
      rw [BitVec.extractLsb'_toNat, Nat.shiftRight_eq_div_pow]
      omega
    refine ⟨((s.modMy g).retune s.me.slot).inClocks (1750 * us) (.leaseExpiry s.me.slot (s.ns + 1000 * us)), ?_, ?_, ?_, ?_, ?_,
      hfollows g fun _ => ⟨rfl, rfl, rfl⟩⟩
    · dsimp only [exec, execPwrAcq]
      rw [hv, hus]
    · exact (congrArg Slot.lease hmy).trans rfl
    · rw [State.inClocks, List.getLast?_concat, hframe.1]
      rfl
    · exact (congrArg Slot.decl hmy).trans rfl
    · exact (congrArg Slot.ceil hmy).trans rfl
  · intro hn
    exact congrArg _ (if_neg (by rw [hn]; exact Bool.false_ne_true))
  · intro hn
    have hs : s.my.lease.isSome = true := Option.isSome_iff_ne_none.mpr hn
    obtain ⟨-, fr, tu, rs, hmy⟩ := RetuneFrame.my ((s.modMy fun x => { x with lease := none }).retune_frame s.me.slot)
    rw [State.my_modMy] at hmy
    refine ⟨(s.modMy fun x => { x with lease := none }).retune s.me.slot, congrArg _ (if_pos hs), ?_, ?_, ?_, hfollows _ fun _ => ⟨rfl, rfl, rfl⟩⟩
    all_goals exact (congrArg _ hmy).trans rfl

end Sys2Proof.Machine
end

section
/-! SUPPORT. Write rounds, marks and what a cohort does with a round once on a tc (spec/12_isa_common.md R283 to R288, R304). -/

namespace Sys2Proof.Machine

/-! ## Once on a tc -/

/-- A state whose slot has noted a round instruction of the tc. -/
theorem State.modMy_append_roundOps (u : State) (os : List RoundOp) :
    (u.modMy fun x => { x with roundOps := x.roundOps ++ os }) = u.modMy fun x => { x with roundOps := u.my.roundOps ++ os } := rfl

section
variable {s : State} {code gs detail : Nat} {val : Word} {arg : Nat} (give : State → Word → State) (act : Option Word × State)

/-- An equal instruction of another core has had its effect (R304). -/
theorem State.once_again {o : RoundOp} (hf : (s.my.roundOps.find? fun o => o.code == code && o.grp == gs) = some o) (hv : o.val = val)
    (ha : o.arg = arg) (hr : o.result = none) : s.once code gs detail val arg give act = s := by
  unfold State.once
  rw [hf]
  dsimp only
  rw [hr]
  exact if_pos (by simp [hv, ha])

/-- One that differs is the fault of the first core (R304). -/
theorem State.once_other {o : RoundOp} (hf : (s.my.roundOps.find? fun o => o.code == code && o.grp == gs) = some o) (h : o.val ≠ val ∨ o.arg ≠ arg) :
    s.once code gs detail val arg give act = if ((s.core o.core).stream 0).stopped then s
      else s.faultAt o.core 0 .round detail (if detail = 4 then o.val else 0) (if detail = 4 then 0x80 + ptrTag o.val else 0) := by
  unfold State.once
  rw [hf]
  exact if_neg (by simpa [Decidable.imp_iff_not_or] using h)

/-- Where one that is still to issue differs, the first of the tc does not act (R304). -/
theorem State.once_differs (hf : (s.my.roundOps.find? fun o => o.code == code && o.grp == gs) = none) (hd : s.differs code gs val arg = true) :
    ∃ ops, s.once code gs detail val arg give act =
      (if detail = 4 then s.faultPtr .round 4 val else s.fault .round detail).modMy fun x => { x with roundOps := ops } := by
  refine ⟨(if detail = 4 then s.faultPtr .round 4 val else s.fault .round detail).my.roundOps ++ [⟨code, s.cur.1, gs, val, arg, none⟩], ?_⟩
  unfold State.once
  rw [hf]
  simp only [hd, if_true]
  rfl

/-- The first of a tc acts (R304). -/
theorem State.once_first (hf : (s.my.roundOps.find? fun o => o.code == code && o.grp == gs) = none) (hd : s.differs code gs val arg = false) :
    ∃ ops, s.once code gs detail val arg give act =
      match act.1 with
      | some v => give (act.2.modMy fun x => { x with roundOps := ops }) v
      | none => act.2.modMy fun x => { x with roundOps := ops } := by
  refine ⟨act.2.my.roundOps ++ [⟨code, s.cur.1, gs, val, arg, act.1⟩], ?_⟩
  unfold State.once
  rw [hf]
  simp only [hd, Bool.false_eq_true, if_false]
  rfl

end

/-! ## Marks -/

/-- A standing mark of a list holds byte `b` for group slot `j` in kind `k` (R284). -/
def Covered (ms : List Mark) (b j : Nat) (k : Bool) : Prop :=
  ∃ m ∈ ms, m.gone = none ∧ m.grp = j ∧ m.prot = k ∧ m.base ≤ b ∧ b < m.base + m.len

theorem covered_append (ms ns : List Mark) (b j : Nat) (k : Bool) : Covered (ms ++ ns) b j k ↔ Covered ms b j k ∨ Covered ns b j k := by
  simp only [Covered, List.mem_append, or_and_right, exists_or]

theorem covered_flatMap (ms : List Mark) (g : Mark → List Mark) (b j : Nat) (k : Bool) :
    Covered (ms.flatMap g) b j k ↔ ∃ m ∈ ms, Covered (g m) b j k := by
  simp only [Covered, List.mem_flatMap]
  constructor
  · rintro ⟨m, ⟨a, ha, hm⟩, h⟩
    exact ⟨a, ha, m, hm, h⟩
  · rintro ⟨a, ha, m, hm, h⟩
    exact ⟨m, ⟨a, ha, hm⟩, h⟩

theorem covered_singleton (m : Mark) (b j : Nat) (k : Bool) :
    Covered [m] b j k ↔ m.gone = none ∧ m.grp = j ∧ m.prot = k ∧ m.base ≤ b ∧ b < m.base + m.len := by
  simp only [Covered, List.mem_singleton, exists_eq_left]

/-- What is left of a mark outside a range holds the bytes that lie outside it. -/
theorem covered_minus (m : Mark) (base len b j : Nat) (k : Bool) :
    Covered (m.minus base len) b j k ↔ Covered [m] b j k ∧ ¬(base ≤ b ∧ b < base + len) := by
  rw [covered_singleton, Mark.minus, covered_append]
  have h1 : Covered (if m.base < base then [{ m with len := min m.len (base - m.base) }] else []) b j k ↔
      (m.gone = none ∧ m.grp = j ∧ m.prot = k ∧ m.base ≤ b ∧ b < m.base + m.len) ∧ b < base := by
    split
    · rw [covered_singleton]
      dsimp only
      have : b < m.base + min m.len (base - m.base) ↔ b < m.base + m.len ∧ b < base := by omega
      rw [this]
      grind
    · simp only [Covered, List.not_mem_nil, false_and, exists_false, false_iff]
      omega
  have h2 : Covered (if base + len < m.base + m.len then
        [{ m with base := max m.base (base + len), len := m.base + m.len - max m.base (base + len) }] else []) b j k ↔
      (m.gone = none ∧ m.grp = j ∧ m.prot = k ∧ m.base ≤ b ∧ b < m.base + m.len) ∧ base + len ≤ b := by
    split
    · rw [covered_singleton]
      dsimp only
      have : (max m.base (base + len) ≤ b ∧ b < max m.base (base + len) + (m.base + m.len - max m.base (base + len))) ↔
          (m.base ≤ b ∧ b < m.base + m.len) ∧ base + len ≤ b := by omega
      rw [this]
      grind
    · simp only [Covered, List.not_mem_nil, false_and, exists_false, false_iff]
      omega
  rw [h1, h2]
  have : ¬(base ≤ b ∧ b < base + len) ↔ b < base ∨ base + len ≤ b := by omega
  rw [this]
  exact and_or_left.symm

/-- What of a mark is gone holds nothing. -/
theorem not_covered_gone (m : Mark) (base len : Nat) (t : Moment) (b j : Nat) (k : Bool) : ¬Covered (m.gone_ base len t) b j k := by
  unfold Mark.gone_
  dsimp only
  split
  · rw [covered_singleton]
    simp
  · simp [Covered]

/-- A range cut by every mark of a list holds the bytes that none of them holds. -/
theorem covered_foldl_minus (ms ps : List Mark) (b j : Nat) (k : Bool) :
    Covered (ms.foldl (fun (ps : List Mark) m => ps.flatMap fun q => q.minus m.base m.len) ps) b j k ↔
      Covered ps b j k ∧ ∀ m ∈ ms, ¬(m.base ≤ b ∧ b < m.base + m.len) := by
  induction ms generalizing ps with
  | nil => simp
  | cons m ms ih =>
    have hps : Covered (ps.flatMap fun q => q.minus m.base m.len) b j k ↔ Covered ps b j k ∧ ¬(m.base ≤ b ∧ b < m.base + m.len) := by
      simp only [covered_flatMap, covered_minus, covered_singleton]
      simp only [Covered]
      constructor
      · rintro ⟨q, hq, h, hb⟩
        exact ⟨⟨q, hq, h⟩, hb⟩
      · rintro ⟨⟨q, hq, h⟩, hb⟩
        exact ⟨q, hq, h, hb⟩
    rw [List.foldl_cons, ih, hps, List.forall_mem_cons, and_assoc]

/-- What an unmark of a range by group slot `gs` leaves of a mark (R284). -/
def Mark.cut (m : Mark) (gs base len : Nat) (t : Moment) : List Mark :=
  if m.gone.isNone && m.grp == gs && overlap m.base m.len base len then m.minus base len ++ m.gone_ base len t else [m]

/-- The parts of a new mark in which none stands yet (R284). -/
def freshMarks (ms : List Mark) (new : Mark) : List Mark :=
  (ms.filter fun m => m.gone.isNone).foldl (fun (ps : List Mark) m => ps.flatMap fun q => q.minus m.base m.len) [new]

/-! ## `PROT.MARK` -/

/-- The range that `PROT.MARK` accepts on group slot `gs` of group `g` (R284, R375). -/
def State.markGood (s : State) (p : Word) (len gs g : Nat) (fn : BitVec 2) : Prop :=
  (s.my.round gs).st = .idle ∧ ptrTag p = 0 ∧ ptrOff p % 65536 = 0 ∧ len ≠ 0 ∧ (s.group g).window.1 ≤ ptrOff p ∧
    ptrOff p + len ≤ (s.group g).window.1 + (s.group g).window.2 ∧
    ∀ m ∈ s.my.marks, m.gone = none → ptrOff p < m.base + m.len → m.base < ptrOff p + len → m.grp = gs ∧ (fn = 0 ∨ m.prot = (fn == 2))

/-- A 64 KiB page of a range is compressed (R101). -/
def State.compressedPage (s : State) (p : Word) (i : Nat) : Prop :=
  ∃ l a b, s.walk s.my (p + BitVec.ofNat 64 (i * 65536)) = .leaf l a b ∧ l.getLsbD 3 = true

section
variable {s : State} {p : Word} {len gs g : Nat} {fn : BitVec 2}

/-- The marks that stand in the way of a range: of another group slot, or, for a mark, of another kind (R284). -/
theorem no_clash_iff : (s.my.marks.any fun m => m.gone.isNone && overlap m.base m.len (ptrOff p) len && (m.grp != gs || (fn != 0 && m.prot != (fn == 2)))) =
      false ↔
    ∀ m ∈ s.my.marks, m.gone = none → ptrOff p < m.base + m.len → m.base < ptrOff p + len → m.grp = gs ∧ (fn = 0 ∨ m.prot = (fn == 2)) := by
  simp only [List.any_eq_false, overlap, Bool.and_eq_true, Bool.or_eq_true, Option.isNone_iff_eq_none, decide_eq_true_eq, bne_iff_ne]
  refine forall₂_congr fun m _ => ?_
  grind

/-- A range that is not accepted is round-state fault 4. -/
theorem State.protect_bad (h : ¬s.markGood p len gs g fn) : s.protect p len gs g fn = s.faultPtr .round 4 p := by
  unfold State.protect
  dsimp only
  rw [if_pos]
  refine Decidable.byContradiction fun hc => ?_
  simp only [Bool.or_eq_true, not_or, bne_iff_ne, ne_eq, Decidable.not_not, decide_eq_true_eq, Nat.not_lt, Bool.not_eq_true, no_clash_iff] at hc
  obtain ⟨⟨⟨⟨⟨⟨h1, h2⟩, h3⟩, h4⟩, h5⟩, h6⟩, h7⟩ := hc
  exact h ⟨h1, h2, h3, h4, h6, h7, h5⟩

/-- An accepted range ends at its first compressed page, or else is marked or unmarked. -/
theorem State.protect_good (h : s.markGood p len gs g fn) : s.protect p len gs g fn =
    match s.compressedIn s.my p len with
    | some q => s.faultPtr .page 2 q
    | none =>
      if fn = 0 then
        s.modMy fun x => { x with marks := x.marks.flatMap fun m => m.cut gs (ptrOff p) len (s.my.writeTc s.tc) }
      else
        s.modMy fun x => { x with marks := x.marks ++ freshMarks s.my.marks ⟨gs, ptrOff p, len, fn == 2, s.my.writeTc s.tc, s.cur.1, none⟩ } := by
  obtain ⟨h1, h2, h3, h4, h6, h7, h5⟩ := h
  unfold State.protect
  dsimp only
  refine (if_neg ?_).trans rfl
  simp only [Bool.or_eq_true, not_or, bne_iff_ne, ne_eq, Decidable.not_not, decide_eq_true_eq, Nat.not_lt, Bool.not_eq_true, no_clash_iff]
  exact ⟨⟨⟨⟨⟨⟨h1, h2⟩, h3⟩, h4⟩, h5⟩, h6⟩, h7⟩

/-- Whether a page is compressed, as the search for the first one reads it. -/
theorem compressedPage_iff (i : Nat) : s.compressedPage p i ↔
    (match s.walk s.my (p + BitVec.ofNat 64 (i * 65536)) with
      | .leaf l _ _ => l.getLsbD 3
      | _ => false) = true := by
  unfold State.compressedPage
  split
  next l a b hw =>
    rw [hw]
    exact ⟨fun ⟨_, _, _, h, hb⟩ => by cases h; exact hb, fun hb => ⟨l, a, b, rfl, hb⟩⟩
  next hw => exact ⟨fun ⟨l, a, b, h, _⟩ => absurd h (hw l a b), fun h => absurd h Bool.false_ne_true⟩

theorem State.compressedIn_some {i : Nat} (hi : i < len / 65536) (hb : s.compressedPage p i) (hn : ∀ j < i, ¬s.compressedPage p j) :
    s.compressedIn s.my p len = some (p + BitVec.ofNat 64 (i * 65536)) := by
  unfold State.compressedIn
  rw [List.find?_range_eq_some.mpr ⟨(compressedPage_iff i).mp hb, List.mem_range.mpr hi, fun j hj => ?_⟩]
  · rfl
  · have := hn j hj
    rw [compressedPage_iff] at this
    exact (Bool.not_eq_true' _).mpr (Bool.eq_false_iff.mpr this)

theorem State.compressedIn_none (hn : ∀ i < len / 65536, ¬s.compressedPage p i) : s.compressedIn s.my p len = none := by
  unfold State.compressedIn
  rw [List.find?_range_eq_none.mpr fun i hi => ?_]
  · rfl
  · have := hn i hi
    rw [compressedPage_iff] at this
    exact (Bool.not_eq_true' _).mpr (Bool.eq_false_iff.mpr this)

end

/-- Taking a group slot's marks out of a range leaves the bytes outside it, and those of other group slots (R284). -/
theorem covered_unmark (ms : List Mark) (gs base len : Nat) (t : Moment) (b j : Nat) (k : Bool) :
    Covered (ms.flatMap fun m => m.cut gs base len t) b j k ↔ Covered ms b j k ∧ ¬(j = gs ∧ base ≤ b ∧ b < base + len) := by
  have hm (m : Mark) : Covered (m.cut gs base len t) b j k ↔ Covered [m] b j k ∧ ¬(j = gs ∧ base ≤ b ∧ b < base + len) := by
    unfold Mark.cut
    split
    next h =>
      simp only [Bool.and_eq_true, beq_iff_eq] at h
      rw [covered_append, covered_minus, covered_singleton, or_iff_left (not_covered_gone _ _ _ _ _ _ _)]
      obtain ⟨⟨-, hg⟩, -⟩ := h
      constructor
      · rintro ⟨hc, hb⟩
        exact ⟨hc, fun h => hb h.2⟩
      · rintro ⟨hc, hb⟩
        exact ⟨hc, fun h => hb ⟨hc.2.1 ▸ hg, h⟩⟩
    next h =>
      rw [covered_singleton]
      refine ⟨fun hc => ⟨hc, ?_⟩, And.left⟩
      rintro ⟨rfl, hb⟩
      refine h ?_
      obtain ⟨h1, h2, -, h4, h5⟩ := hc
      simp only [h1, h2, overlap, Option.isNone_none, beq_self_eq_true, Bool.true_and, Bool.and_eq_true, decide_eq_true_eq]
      omega
  simp only [covered_flatMap, hm, covered_singleton]
  constructor
  · rintro ⟨m, hm, h, hb⟩
    exact ⟨⟨m, hm, h⟩, hb⟩
  · rintro ⟨⟨m, hm, h⟩, hb⟩
    exact ⟨m, hm, h, hb⟩

/-- Marking a range in which only marks of its own group slot and kind stand adds its bytes (R284). -/
theorem covered_mark (ms : List Mark) (new : Mark) (hn : new.gone = none)
    (hown : ∀ m ∈ ms, m.gone = none → new.base < m.base + m.len → m.base < new.base + new.len → m.grp = new.grp ∧ m.prot = new.prot)
    (b j : Nat) (k : Bool) :
    Covered (ms ++ freshMarks ms new) b j k ↔
      Covered ms b j k ∨ (j = new.grp ∧ k = new.prot ∧ new.base ≤ b ∧ b < new.base + new.len) := by
  rw [covered_append, freshMarks, covered_foldl_minus, covered_singleton]
  constructor
  · rintro (h | ⟨⟨-, h1, h2, hb⟩, -⟩)
    · exact .inl h
    · exact .inr ⟨h1.symm, h2.symm, hb⟩
  · rintro (h | ⟨rfl, rfl, hb⟩)
    · exact .inl h
    · by_cases hc : ∃ m ∈ ms, m.gone = none ∧ m.base ≤ b ∧ b < m.base + m.len
      · obtain ⟨m, hm, hg, h1, h2⟩ := hc
        obtain ⟨e1, e2⟩ := hown m hm hg (by omega) (by omega)
        exact .inl ⟨m, hm, hg, e1, e2, h1, h2⟩
      · refine .inr ⟨⟨hn, rfl, rfl, hb⟩, fun m hm h => hc ⟨m, ?_⟩⟩
        simp only [List.mem_filter, Option.isNone_iff_eq_none] at hm
        exact ⟨hm.1, hm.2, h⟩

/-- What a `PROT.MARK` does that acts (R284, R289). -/
def State.markAct (s : State) (p : Word) (len gs : Nat) (fn : BitVec 2) : State :=
  match s.my.grpOf.find? fun e => e.1 == gs with
  | none => s.faultPtr .round 5 p
  | some e => s.protect p len gs e.2 fn

/-- `PROT.MARK` acts once on a tc on the range that its word and register name. -/
theorem exec_protMark (h : Hdr) (f : Sys) (s : State) :
    exec (.protMark h f) s = .next (s.once 0xEF (f.imm.extractLsb' 24 4).toNat 4 (s.rs f.ra) (f.imm.toNat + f.fn.toNat * 2 ^ 32) (fun s _ => s)
      (none, s.markAct (s.rs f.ra) ((f.imm.extractLsb' 0 24).toNat * 65536) (f.imm.extractLsb' 24 4).toNat f.fn)) := by
  have h24 : (f.imm.extractLsb' 24 4).toNat = f.imm.toNat / 2 ^ 24 % 16 := by rw [BitVec.extractLsb'_toNat, Nat.shiftRight_eq_div_pow]
  rw [h24, toNat_extractLsb'_zero]
  rfl

/-- Settles O48: the range's checks in their order, then the bytes that the cut or added marks hold. -/
theorem rangeMarks : Obligations.RangeMarks := by
  unfold Obligations.RangeMarks
  rintro h f s gs rfl
  intro p base len arg ends before
  have hex := exec_protMark h f s
  refine ⟨?_, ?_, ?_, ?_⟩
  · intro o ho hv ha hr
    exact hex.trans (congrArg _ (State.once_again _ _ ho hv ha hr))
  · intro o ho hne
    exact hex.trans (congrArg _ (State.once_other _ _ ho hne))
  · intro hb hd
    obtain ⟨ops, he⟩ := State.once_differs (detail := 4) (fun s _ => s) _ hb hd
    exact ⟨ops, hex.trans (congrArg _ he)⟩
  · intro hb hd
    obtain ⟨ops, he⟩ := State.once_first (detail := 4) (fun s _ => s) (none, s.markAct p len _ f.fn) hb hd
    have hends {u : State} (hu : s.markAct p len (f.imm.extractLsb' 24 4).toNat f.fn = u) : ends u := by
      subst hu
      exact ⟨ops, hex.trans (congrArg _ he)⟩
    refine ⟨fun hg => hends (by rw [State.markAct, hg]), ?_⟩
    intro n g hg win good bad marked
    have hact : s.markAct p len (f.imm.extractLsb' 24 4).toNat f.fn = s.protect p len (f.imm.extractLsb' 24 4).toNat g f.fn := by
      rw [State.markAct, hg]
    refine ⟨fun hng => ?_, fun i hgood hi hbad hfirst => ?_, fun hgood hclean => ?_⟩
    · exact hends (hact.trans (State.protect_bad hng))
    · refine hends (hact.trans ?_)
      rw [State.protect_good hgood, State.compressedIn_some hi hbad hfirst]
    · rw [State.protect_good hgood, State.compressedIn_none hclean] at hact
      refine ⟨_, hex.trans (congrArg _ he), fun hfn b j k => ?_, fun hfn b j k => ?_⟩
      · dsimp only at hact
        rw [if_pos hfn] at hact
        show Covered (State.my _).marks b j k ↔ _
        dsimp only
        rw [hact, State.my_modMy, State.my_modMy]
        exact covered_unmark ..
      · dsimp only at hact
        rw [if_neg hfn] at hact
        show Covered (State.my _).marks b j k ↔ _
        dsimp only
        rw [hact, State.my_modMy, State.my_modMy]
        refine covered_mark _ ⟨_, _, _, _, _, _, none⟩ rfl (fun m hm hm0 h1 h2 => ?_) b j k
        obtain ⟨-, -, -, -, -, -, hown⟩ := hgood
        obtain ⟨hgrp, hp⟩ := hown m hm hm0 h1 h2
        exact ⟨hgrp, hp.resolve_left hfn⟩

/-! ## Frames of the protection engine -/

/-- What a group's messages, and the freeze that one may bring, leave as it is. -/
structure MsgFrame (s t : State) : Prop where
  dev : t.dev = s.dev
  slots : t.slots = s.slots
  cur : t.cur = s.cur
  groups : t.plat.groups = s.plat.groups
  core : ∀ c, ∃ y, t.core c = { s.core c with sup := y }

theorem MsgFrame.refl (s : State) : MsgFrame s s := ⟨rfl, rfl, rfl, rfl, fun _ => ⟨_, rfl⟩⟩

theorem MsgFrame.trans {s t u : State} (h : MsgFrame s t) (k : MsgFrame t u) : MsgFrame s u := by
  refine ⟨k.dev.trans h.dev, k.slots.trans h.slots, k.cur.trans h.cur, k.groups.trans h.groups, fun c => ?_⟩
  obtain ⟨y, hy⟩ := h.core c
  obtain ⟨z, hz⟩ := k.core c
  exact ⟨z, by rw [hz, hy]⟩

theorem MsgFrame.foldl {α : Type} (g : State → α → State) (h : ∀ s a, MsgFrame s (g s a)) (s : State) (l : List α) : MsgFrame s (l.foldl g s) :=
  List.foldlRecOn l g (MsgFrame.refl s) fun t ht a _ => ht.trans (h t a)

section
variable {s t : State} (h : MsgFrame s t)
include h

theorem MsgFrame.slot (n : Nat) : t.slot n = s.slot n := by rw [State.slot, h.slots]; rfl

theorem MsgFrame.group (g : Nat) : t.group g = s.group g := by rw [State.group, h.groups]; rfl

theorem MsgFrame.me_slot : t.me.slot = s.me.slot := by
  obtain ⟨y, hy⟩ := h.core s.cur.1
  rw [State.me, h.cur, hy]
  rfl

theorem MsgFrame.my : t.my = s.my := by rw [State.my, h.me_slot, h.slot]; rfl

end

theorem State.freeze_frame (s : State) (m cap addr : Nat) : MsgFrame s (s.freeze m cap addr) := by
  unfold State.freeze
  dsimp only
  split
  · refine ⟨rfl, rfl, rfl, rfl, fun c => ?_⟩
    rw [State.send_core]
    by_cases hc : c = 768 + m
    · subst hc
      exact ⟨_, State.core_modCore ..⟩
    · exact ⟨_, State.core_modCore_ne _ _ hc⟩
  · exact ⟨rfl, rfl, rfl, rfl, fun _ => ⟨_, rfl⟩⟩

theorem State.capSend_frame (s : State) {m die lane pkg addr n : Nat} {t : State}
    (h : s.capSend m die lane pkg addr n = .ok t ∨ s.capSend m die lane pkg addr n = .error t) : MsgFrame s t := by
  unfold State.capSend at h
  dsimp only at h
  split at h
  · rcases h with h | h <;> cases h
    exact .refl s
  split at h
  · rcases h with h | h <;> cases h
    exact .refl s
  split at h
  · rcases h with h | h <;> cases h
    exact s.freeze_frame ..
  split at h
  · rcases h with h | h <;> cases h
    exact s.freeze_frame ..
  · rcases h with h | h <;> cases h
    exact ⟨rfl, rfl, rfl, rfl, fun _ => ⟨_, rfl⟩⟩

theorem State.tell_frame (s : State) (g j round : Nat) (m : GroupMsg) : MsgFrame s (s.tell g j round m) := by
  unfold State.tell
  dsimp only
  split
  next u hu => exact (s.capSend_frame (.inl hu)).trans ⟨rfl, rfl, rfl, rfl, fun _ => ⟨_, rfl⟩⟩
  next u hu => exact s.capSend_frame (.inr hu)

theorem State.tellAll_frame (s : State) (g round : Nat) (m : GroupMsg) (js : List Nat) : MsgFrame s (s.tellAll g round m js) :=
  MsgFrame.foldl _ (fun _ _ => State.tell_frame ..) s js

/-- What the engine's writes at their homes leave as it is. -/
structure HomeFrame (s t : State) : Prop where
  cores : t.cores = s.cores
  cur : t.cur = s.cur
  groups : t.plat.groups = s.plat.groups
  tc : ∀ n, (t.slot n).tc = (s.slot n).tc
  rounds : ∀ n, (t.slot n).rounds = (s.slot n).rounds

theorem HomeFrame.refl (s : State) : HomeFrame s s := ⟨rfl, rfl, rfl, fun _ => rfl, fun _ => rfl⟩

theorem HomeFrame.trans {s t u : State} (h : HomeFrame s t) (k : HomeFrame t u) : HomeFrame s u :=
  ⟨k.cores.trans h.cores, k.cur.trans h.cur, k.groups.trans h.groups, fun n => (k.tc n).trans (h.tc n), fun n => (k.rounds n).trans (h.rounds n)⟩

theorem HomeFrame.foldl {α : Type} (g : State → α → State) (h : ∀ s a, HomeFrame s (g s a)) (s : State) (l : List α) : HomeFrame s (l.foldl g s) :=
  List.foldlRecOn l g (HomeFrame.refl s) fun t ht a _ => ht.trans (h t a)

theorem HomeFrame.modSlot (s : State) (n : Nat) (f : Slot → Slot) (ht : ∀ x, (f x).tc = x.tc) (hr : ∀ x, (f x).rounds = x.rounds) :
    HomeFrame s (s.modSlot n f) := by
  have hs (m : Nat) : ((s.modSlot n f).slot m).tc = (s.slot m).tc ∧ ((s.modSlot n f).slot m).rounds = (s.slot m).rounds := by
    by_cases hm : m = n
    · subst hm
      rw [State.slot_modSlot]
      exact ⟨ht _, hr _⟩
    · rw [State.slot_modSlot_ne _ _ hm]
      exact ⟨rfl, rfl⟩
  exact ⟨rfl, rfl, rfl, fun m => (hs m).1, fun m => (hs m).2⟩

section
variable {s t : State} (h : HomeFrame s t)
include h

theorem HomeFrame.me : t.me = s.me := by rw [State.me, State.core, h.cores, h.cur]; rfl

theorem HomeFrame.group (g : Nat) : t.group g = s.group g := by rw [State.group, h.groups]; rfl

theorem HomeFrame.my_tc : t.tc = s.tc := by rw [State.tc, State.my, h.me, h.tc]; rfl

theorem HomeFrame.my_round (gs : Nat) : t.my.round gs = s.my.round gs := by rw [State.my, h.me, Slot.round, h.rounds]; rfl

end

theorem State.devWrites_frame (s : State) (by_ : Option Nat) (key : Nat) (bs : List Byte) : HomeFrame s (s.devWrites by_ key bs) := by
  have hf (l : List Nat) : HomeFrame s (l.foldl (fun (t : State) n => t.modSlot n fun x =>
      let x := if x.base.any fun e => e.1 ≤ key && key + bs.length ≤ e.1 + e.2.length then x
        else { x with base := x.base ++ [(key, Map.getRun s.dev key bs.length)] }
      if by_.map (· / 2 ^ 16) = some n then x
      else { x with outside := x.outside ++ [⟨key, x.outTc x.tc, bs, s.done, by_.getD (2 ^ 32 + s.done)⟩] }) s) := by
    refine HomeFrame.foldl _ (fun u n => HomeFrame.modSlot u n _ (fun x => ?_) fun x => ?_) s l
    · dsimp only; split <;> split <;> rfl
    · dsimp only; split <;> split <;> rfl
  exact (hf s.viewers).trans ⟨rfl, rfl, rfl, fun _ => rfl, fun _ => rfl⟩

/-- A restoration writes the old values at their homes, frees its log entries, and keeps none for later (R379). -/
theorem State.restore_frame (s : State) (n gs g c : Nat) :
    ∃ u, HomeFrame s u ∧ s.restore n gs g c = u.modRound n gs fun r => { r with undo := [] } := by
  refine ⟨_, ?_, rfl⟩
  refine HomeFrame.trans (HomeFrame.foldl _ (fun u e => ?_) s _) ⟨rfl, rfl, rfl, fun _ => rfl, fun _ => rfl⟩
  refine HomeFrame.trans ?_ (State.devWrites_frame ..)
  exact HomeFrame.modSlot u n _ (fun _ => rfl) fun _ => rfl

/-- A state with one round of one slot changed. -/
theorem State.tc_modRound (s : State) (n gs : Nat) (f : Round → Round) : (s.modRound n gs f).tc = s.tc := by
  show ((s.modSlot n _).slot s.me.slot).tc = (s.slot s.me.slot).tc
  by_cases h : s.me.slot = n
  · rw [h, State.slot_modSlot]
  · rw [State.slot_modSlot_ne _ _ h]

theorem State.my_round_modRound (s : State) (gs : Nat) (f : Round → Round) : (s.modRound s.me.slot gs f).my.round gs = f (s.my.round gs) :=
  State.round_modRound ..

theorem State.restore_tc (s : State) (n gs g c : Nat) : (s.restore n gs g c).tc = s.tc := by
  obtain ⟨u, hu, he⟩ := s.restore_frame n gs g c
  rw [he, State.tc_modRound, hu.my_tc]

theorem State.restore_group (s : State) (n gs g c h : Nat) : (s.restore n gs g c).group h = s.group h := by
  obtain ⟨u, hu, he⟩ := s.restore_frame n gs g c
  rw [he]
  exact hu.group h

theorem State.rst_startRebuild (s : State) (g h : Nat) : ((s.startRebuild g).group h).rst = (s.group h).rst := by
  by_cases hg : h = g
  · subst hg
    rw [State.startRebuild, State.group_modGroup]
    split <;> rfl
  · rw [State.startRebuild, State.group_modGroup_ne _ _ hg]

theorem State.rst_closeRound (s : State) (g : Nat) : ((s.closeRound g).group g).rst = 0 := by
  rw [State.closeRound, State.rst_startRebuild, State.group_modGroup]

/-- A round that is closed unless its group is IDLE already leaves the group IDLE (R379). -/
theorem State.rst_close_unless (s : State) (g : Nat) {idle : Bool} (h : idle = true → (s.group g).rst = 0) :
    ((if idle then s else s.closeRound g).group g).rst = 0 := by
  split
  next hi => exact h hi
  next => exact s.rst_closeRound g

theorem State.modHeldRound_keeps (s : State) (g : Nat) (f : Round → Round) :
    (s.modHeldRound g f).cores = s.cores ∧ (s.modHeldRound g f).cur = s.cur ∧ (s.modHeldRound g f).plat = s.plat := by
  unfold State.modHeldRound
  split <;> exact ⟨rfl, rfl, rfl⟩

/-- A doomed round leaves the executing core and the group's state as they are (R286). -/
theorem State.doom_keeps (s : State) (g : Nat) :
    (s.doom g).cur = s.cur ∧ (s.doom g).me.slot = s.me.slot ∧ ((s.doom g).group g).rst = (s.group g).rst := by
  let s1 := s.modGroup g fun x => { x with doomed := true, notices := [], acks := if x.doomed then x.acks else [] }
  let s2 := s1.modHeldRound g fun r => if r.st = .idle || r.settled.isSome then r else { r with doomed := true, settled := some false }
  obtain ⟨hc, hcur, hp⟩ : s2.cores = s1.cores ∧ s2.cur = s1.cur ∧ s2.plat = s1.plat := s1.modHeldRound_keeps g _
  have h2 : s2.cur = s.cur ∧ s2.me.slot = s.me.slot ∧ (s2.group g).rst = (s.group g).rst := by
    refine ⟨hcur, ?_, ?_⟩
    · rw [State.me, State.core, hc, hcur]
      rfl
    · rw [State.group, hp]
      exact (congrArg Group.rst (State.group_modGroup ..)).trans rfl
  show State.cur (if (s.group g).doomed && (s.group g).rst != 0 then s2 else s2.tellAll g (s.group g).round .abt (s.group g).others) = _ ∧
    (State.me (if (s.group g).doomed && (s.group g).rst != 0 then s2 else s2.tellAll g (s.group g).round .abt (s.group g).others)).slot = _ ∧
    (State.group (if (s.group g).doomed && (s.group g).rst != 0 then s2 else s2.tellAll g (s.group g).round .abt (s.group g).others) g).rst = _
  split
  · exact h2
  · have hf := s2.tellAll_frame g (s.group g).round .abt (s.group g).others
    rw [hf.cur, hf.me_slot, hf.group]
    exact h2

/-- An entry of the round log is one write of the engine (R377). -/
theorem State.appendRound_frame {s t : State} {e : LogEntry} (h : s.appendRound e = some t) : HomeFrame s t := by
  unfold State.appendRound at h
  obtain ⟨i, -, rfl⟩ := Option.map_eq_some_iff.mp h
  refine HomeFrame.trans ?_ (State.devWrites_frame ..)
  exact ⟨rfl, rfl, rfl, fun _ => rfl, fun _ => rfl⟩

theorem State.appendRound_isSome {s : State} (h : freePlace s.plat.plog (s.plat.rlog.map (·.at_)) ≠ none) (e : LogEntry) :
    ∃ t, s.appendRound e = some t := by
  obtain ⟨i, hi⟩ := Option.ne_none_iff_exists'.mp h
  exact ⟨_, by rw [State.appendRound, hi]; rfl⟩

/-! ## The acts of a round -/

section
variable {s : State} {gs g : Nat}

theorem State.withGroup_none (h : s.my.grpOf.find? (fun e => e.1 == gs) = none) (k : Nat → Option Word × State) :
    s.withGroup gs k = (none, s.fault .round 5) := by
  rw [State.withGroup, h]

theorem State.withGroup_some {n : Nat} (h : s.my.grpOf.find? (fun e => e.1 == gs) = some (n, g)) (k : Nat → Option Word × State) :
    s.withGroup gs k = if (s.group g).st = 4 then (none, s.fault .round 8) else k g := by
  rw [State.withGroup, h]

theorem State.openRound_bad (h : (s.my.round gs).st ≠ .idle) : s.openRound gs g = (none, s.fault .round 2) := by
  rw [State.openRound, if_pos (bne_iff_ne.mpr h)]

theorem State.prepareRound_bad (h : (s.my.round gs).st ≠ .opened) : s.prepareRound gs g = (none, s.fault .round 3) := by
  rw [State.prepareRound, if_pos (bne_iff_ne.mpr h)]

theorem State.takeOutcome_bad (h : (s.my.round gs).st ≠ .prepared) : s.takeOutcome gs g = (none, s.fault .round 3) := by
  rw [State.takeOutcome, if_pos (bne_iff_ne.mpr h)]

theorem State.abortRound_bad (h : (s.my.round gs).st = .idle) : s.abortRound gs g = (none, s.fault .round 3) := by
  rw [State.abortRound, if_pos h]

/-- The round that an accepted `RND.OPEN` opens (R285). -/
theorem State.openRound_ok (h : (s.my.round gs).st = .idle) : ∃ u, s.openRound gs g = (some (BitVec.ofNat 64 ((s.group g).lastc.toNat + 1)), u) ∧
    u.tc = s.tc ∧ u.dev = s.dev ∧ (u.group g).rst = 1 ∧ (u.group g).lastc = (s.group g).lastc ∧
    u.my.round gs = { Round.idle with st := .opened, num := (s.group g).lastc.toNat + 1, start := s.my.writeTc s.tc, opener := s.cur.1 } := by
  let r : Round := { Round.idle with st := .opened, num := (s.group g).lastc.toNat + 1, start := s.my.writeTc s.tc, opener := s.cur.1 }
  let u := (s.modRound s.me.slot gs fun _ => r).modGroup g fun x =>
    { x with rst := 1, doomed := false, aborts := [], decided := false, acks := [], answers := [], deltas := [] }
  have hg : u.group g = _ := State.group_modGroup ..
  refine ⟨u, ?_, s.tc_modRound s.me.slot gs fun _ => r, rfl, ?_, ?_, s.my_round_modRound gs fun _ => r⟩
  · rw [State.openRound, if_neg (by simp [h])]
    rfl
  · exact (congrArg Group.rst hg).trans rfl
  · exact (congrArg Group.lastc hg).trans rfl

/-- The round that an `RND.PREP` finds open, with a write that no boundary has published (R136). -/
theorem State.prepareRound_uncovered (h : (s.my.round gs).st = .opened) {w : Word} (hw : s.uncovered s.me.slot gs = some w) :
    s.prepareRound gs g = (none, s.faultPtr .round 1 w) := by
  rw [State.prepareRound, if_neg (by simp [h])]
  simp only [hw]

/-- A round as `RND.PREP` prepares it. -/
def State.prepared (s : State) (gs : Nat) : State :=
  s.modRound s.me.slot gs fun r => { r with st := .prepared, prepTc := s.my.writeTc s.tc, preparer := s.cur.1 }

theorem State.my_round_prepared (s : State) (gs : Nat) : (s.prepared gs).my.round gs =
    { s.my.round gs with st := .prepared, prepTc := s.my.writeTc s.tc, preparer := s.cur.1 } := State.my_round_modRound ..

theorem State.prepareRound_doomed (h : (s.my.round gs).st = .opened) (hw : s.uncovered s.me.slot gs = none) (hd : (s.my.round gs).doomed = true) :
    s.prepareRound gs g = (none, s.prepared gs) := by
  rw [State.prepareRound, if_neg (by simp [h])]
  simp only [hw, hd, if_true]
  rfl

theorem State.prepareRound_full (h : (s.my.round gs).st = .opened) (hw : s.uncovered s.me.slot gs = none) (hd : (s.my.round gs).doomed = false)
    (hf : freePlace s.plat.plog (s.plat.rlog.map (·.at_)) = none) : s.prepareRound gs g = (none, s.fault .round 7) := by
  rw [State.prepareRound, if_neg (by simp [h])]
  simp only [hw, hd, Bool.false_eq_true, if_false, s.appendRound_full hf]

theorem State.prepareRound_ok (h : (s.my.round gs).st = .opened) (hw : s.uncovered s.me.slot gs = none) (hd : (s.my.round gs).doomed = false)
    (hf : freePlace s.plat.plog (s.plat.rlog.map (·.at_)) ≠ none) : ∃ u, s.prepareRound gs g = (none, u) ∧
      (u.my.round gs).st = .prepared ∧ (u.my.round gs).num = (s.my.round gs).num ∧ (u.group g).rst = 2 ∧ (u.group g).lastc = (s.group g).lastc := by
  obtain ⟨a, ha⟩ := State.appendRound_isSome hf ⟨0, 0, (s.my.round gs).num, g, 0xFF, BitVec.ofNat 512
    (s.plat.rlog.filter fun e => e.grp == g && e.kind < 2).length, 0⟩
  have hfr := State.appendRound_frame ha
  let b := (a.prepared gs).modGroup g fun x => { x with rst := 2 }
  have hround : b.my.round gs = { s.my.round gs with st := .prepared, prepTc := a.my.writeTc a.tc, preparer := a.cur.1 } := by
    rw [← hfr.my_round gs]
    exact a.my_round_prepared gs
  have hgroup : b.group g = { s.group g with rst := 2 } := by
    rw [← hfr.group g]
    exact State.group_modGroup ..
  have he : s.prepareRound gs g = (none, if (b.group g).coordinates then b.modGroup g fun x => { x with notices := x.notices ++ [x.self] }
      else b.tell g (b.group g).coord (s.my.round gs).num .prep) := by
    rw [State.prepareRound, if_neg (by simp [h])]
    simp only [hw, hd, Bool.false_eq_true, if_false, ha]
    rfl
  refine ⟨_, he, ?_⟩
  split
  · rw [State.group_modGroup, hgroup]
    refine ⟨(congrArg Round.st hround).trans rfl, (congrArg Round.num hround).trans rfl, rfl, rfl⟩
  · have hm := b.tell_frame g (b.group g).coord (s.my.round gs).num .prep
    rw [hm.my, hm.group, hround, hgroup]
    exact ⟨rfl, rfl, rfl, rfl⟩

/-- An `RND.COMMIT` that takes outcome 0 (R287). -/
theorem State.takeOutcome_ok (h : (s.my.round gs).st = .prepared) (hs : (s.my.round gs).settled = some true) :
    s.takeOutcome gs g = (some 0, s.modRound s.me.slot gs fun _ => Round.idle) := by
  rw [State.takeOutcome, if_neg (by simp [h])]
  simp only [hs, beq_self_eq_true, if_true, Bool.true_or]

/-- One that takes outcome 1 restores the round (R287). -/
theorem State.takeOutcome_undo (h : (s.my.round gs).st = .prepared) (hs : (s.my.round gs).settled ≠ some true) :
    ∃ u, s.takeOutcome gs g = (some 1, u) ∧ u.tc = s.tc ∧ (u.my.round gs).st = .idle ∧ (u.group g).rst = 0 ∧
      u.dev = (s.restore s.me.slot gs g s.cur.1).dev := by
  let a := s.restore s.me.slot gs g s.cur.1
  let b := if (s.group g).rst == 0 then a else a.closeRound g
  have hb : b.dev = a.dev ∧ b.tc = a.tc := by
    show State.dev (if _ then _ else _) = _ ∧ State.tc (if _ then _ else _) = _
    split <;> exact ⟨rfl, rfl⟩
  have he : s.takeOutcome gs g = (some 1, b.modRound b.me.slot gs fun _ => Round.idle) := by
    rw [State.takeOutcome, if_neg (by simp [h])]
    simp only [beq_eq_false_iff_ne.mpr hs, Bool.false_eq_true, if_false, Bool.false_or]
    rfl
  refine ⟨_, he, ?_, ?_, ?_, hb.1⟩
  · rw [State.tc_modRound, hb.2, State.restore_tc]
  · rw [State.my_round_modRound]
    rfl
  · refine a.rst_close_unless g fun hi => ?_
    rw [State.restore_group]
    exact beq_iff_eq.mp hi

/-- What an `RND.ABORT` of a round that is not IDLE leaves (R288). -/
theorem State.abortRound_ok (h : (s.my.round gs).st ≠ .idle) :
    ∃ u, s.abortRound gs g = (none, u) ∧ (u.my.round gs).st = .idle ∧
      ((s.my.round gs).settled = some true → u.dev = s.dev) ∧
      ((s.my.round gs).settled ≠ some true → (u.group g).rst = 0) ∧
      ((s.my.round gs).settled = some false → u.dev = (s.restore s.me.slot gs g s.cur.1).dev) ∧
      ((s.my.round gs).settled = none → u.dev = ((s.doom g).restore s.me.slot gs g s.cur.1).dev) := by
  let r := s.my.round gs
  let a := if r.settled.isSome then s else s.doom g
  let b := if r.settled == some true then a else a.restore a.me.slot gs g a.cur.1
  let c := if r.settled == some true || (s.group g).rst == 0 then b else b.closeRound g
  have he : s.abortRound gs g = (none, c.modRound c.me.slot gs fun _ => Round.idle) := by
    rw [State.abortRound, if_neg h]
  have hc : c.dev = b.dev := by
    show State.dev (if _ then _ else _) = _
    split <;> rfl
  refine ⟨_, he, ?_, fun hs => ?_, fun hs => ?_, fun hs => ?_, fun hs => ?_⟩
  · rw [State.my_round_modRound]
    rfl
  · show c.dev = _
    rw [hc]
    simp only [b, a, r, hs, beq_self_eq_true, if_true, Option.isSome_some]
  · have hrst : (a.group g).rst = (s.group g).rst := by
      show (State.group (if _ then _ else _) g).rst = _
      split
      · rfl
      · exact (s.doom_keeps g).2.2
    have hf : (r.settled == some true) = false := beq_eq_false_iff_ne.mpr hs
    show (c.group g).rst = 0
    refine b.rst_close_unless g fun hi => ?_
    rw [hf, Bool.false_or, beq_iff_eq] at hi
    simp only [b, hf, Bool.false_eq_true, if_false]
    rw [State.restore_group, hrst, hi]
  · show c.dev = _
    rw [hc]
    simp only [b, a, r, hs, Option.isSome_some, if_true]
    rfl
  · obtain ⟨hcur, hslot, -⟩ := s.doom_keeps g
    show c.dev = _
    rw [hc, ← hcur, ← hslot]
    simp only [b, a, r, hs]
    rfl

end

/-! ## Round instructions -/

/-- The group slot of a round instruction (R289). -/
theorem roundSlot_eq (f : Sys) : roundSlot f = (f.imm.extractLsb' 0 4).toNat := (toNat_extractLsb'_zero f.imm 4).symm

/-- What a slot notes of a round instruction changes neither its tc nor its rounds. -/
theorem State.tc_modMy_roundOps (u : State) (ops : List RoundOp) : (u.modMy fun x => { x with roundOps := ops }).tc = u.tc := by
  rw [State.tc, State.my_modMy]
  rfl

theorem State.my_round_modMy_roundOps (u : State) (ops : List RoundOp) (gs : Nat) :
    (u.modMy fun x => { x with roundOps := ops }).my.round gs = u.my.round gs := by
  rw [State.my_modMy]
  rfl

theorem forall_mem_four {α : Type} {a b c d : α} {p : α → Prop} (ha : p a) (hb : p b) (hc : p c) (hd : p d) : ∀ i ∈ [a, b, c, d], p i := by
  simp [ha, hb, hc, hd]

/-- Settles O47: each instruction once on a tc, then its act on the round's state. -/
theorem writeRounds : Obligations.WriteRounds := by
  unfold Obligations.WriteRounds
  intro h f s gs hgs hops ends ra forms
  have hfind (code : Nat) : (s.my.roundOps.find? fun o => o.code == code && o.grp == gs) = none := by
    refine List.find?_eq_none.mpr fun o ho => ?_
    simp [hops o ho]
  have hslot : roundSlot f = gs := (roundSlot_eq f).trans hgs.symm
  let give : State → Word → State := fun s v => s.landS f.ra (s.tc + 1) v
  let none_ : State → Word → State := fun s _ => s
  have hopen : exec (.rndOpen h f) s = .next (s.once 0xEB gs 3 ra f.imm.toNat give (s.withGroup gs fun g => s.openRound gs g)) := by
    subst hslot; rfl
  have hprep : exec (.rndPrep h f) s = .next (s.once 0xEC gs 3 0 f.imm.toNat none_ (s.withGroup gs fun g => s.prepareRound gs g)) := by
    subst hslot; rfl
  have hcommit : exec (.rndCommit h f) s = .next (s.once 0xED gs 3 ra f.imm.toNat give (s.withGroup gs fun g => s.takeOutcome gs g)) := by
    subst hslot; rfl
  have habort : exec (.rndAbort h f) s = .next (s.once 0xEE gs 3 0 f.imm.toNat none_ (s.withGroup gs fun g => s.abortRound gs g)) := by
    subst hslot; rfl
  refine ⟨?_, ?_⟩
  · simp only [forms, List.forall_mem_cons]
    refine ⟨fun hd => ?_, fun hd => ?_, fun hd => ?_, fun hd => ?_, fun _ he => absurd he List.not_mem_nil⟩
    · obtain ⟨ops, he⟩ := State.once_differs (detail := 3) give (s.withGroup gs fun g => s.openRound gs g) (hfind _) hd
      exact ⟨ops, hopen.trans (congrArg _ he)⟩
    · obtain ⟨ops, he⟩ := State.once_differs (detail := 3) none_ (s.withGroup gs fun g => s.prepareRound gs g) (hfind _) hd
      exact ⟨ops, hprep.trans (congrArg _ he)⟩
    · obtain ⟨ops, he⟩ := State.once_differs (detail := 3) give (s.withGroup gs fun g => s.takeOutcome gs g) (hfind _) hd
      exact ⟨ops, hcommit.trans (congrArg _ he)⟩
    · obtain ⟨ops, he⟩ := State.once_differs (detail := 3) none_ (s.withGroup gs fun g => s.abortRound gs g) (hfind _) hd
      exact ⟨ops, habort.trans (congrArg _ he)⟩
  · intro hall
    have hdO := hall (0xEB, ra, .rndOpen h f) (by simp [forms])
    have hdP := hall (0xEC, 0, .rndPrep h f) (by simp [forms])
    have hdC := hall (0xED, ra, .rndCommit h f) (by simp [forms])
    have hdA := hall (0xEE, 0, .rndAbort h f) (by simp [forms])
    obtain ⟨opsO, heO⟩ := State.once_first (detail := 3) give (s.withGroup gs fun g => s.openRound gs g) (hfind _) hdO
    obtain ⟨opsP, heP⟩ := State.once_first (detail := 3) none_ (s.withGroup gs fun g => s.prepareRound gs g) (hfind _) hdP
    obtain ⟨opsC, heC⟩ := State.once_first (detail := 3) give (s.withGroup gs fun g => s.takeOutcome gs g) (hfind _) hdC
    obtain ⟨opsA, heA⟩ := State.once_first (detail := 3) none_ (s.withGroup gs fun g => s.abortRound gs g) (hfind _) hdA
    rw [heO] at hopen
    rw [heP] at hprep
    rw [heC] at hcommit
    rw [heA] at habort
    refine ⟨fun hn => ?_, ?_⟩
    · rw [State.withGroup_none hn] at hopen hprep hcommit habort
      exact forall_mem_four ⟨opsO, hopen⟩ ⟨opsP, hprep⟩ ⟨opsC, hcommit⟩ ⟨opsA, habort⟩
    intro n g hg r undone
    rw [State.withGroup_some hg] at hopen hprep hcommit habort
    refine ⟨fun h4 => ?_, fun h4 => ?_⟩
    · rw [if_pos h4] at hopen hprep hcommit habort
      exact forall_mem_four ⟨opsO, hopen⟩ ⟨opsP, hprep⟩ ⟨opsC, hcommit⟩ ⟨opsA, habort⟩
    rw [if_neg h4] at hopen hprep hcommit habort
    refine ⟨fun hr => ?_, fun hr => ?_, fun hr => ?_, fun hr => ?_⟩
    · rw [State.prepareRound_bad (by rw [show (s.my.round gs).st = _ from hr]; decide)] at hprep
      rw [State.takeOutcome_bad (by rw [show (s.my.round gs).st = _ from hr]; decide)] at hcommit
      rw [State.abortRound_bad hr] at habort
      obtain ⟨u, hu, htc, hdev, hrst, hlast, hround⟩ := State.openRound_ok (g := g) hr
      rw [hu] at hopen
      refine ⟨⟨u.modMy fun x => { x with roundOps := opsO }, ?_, ?_, hrst, hlast, hdev⟩, ⟨opsP, hprep⟩, ⟨opsC, hcommit⟩, ⟨opsA, habort⟩⟩
      · rw [← htc, ← u.tc_modMy_roundOps opsO]
        exact hopen
      · exact (u.my_round_modMy_roundOps opsO gs).trans hround
    · rw [State.openRound_bad hr] at hopen
      obtain ⟨u, hu, hst, h1, h2, h3, h5⟩ := State.abortRound_ok (g := g) hr
      rw [hu] at habort
      exact ⟨⟨opsO, hopen⟩, _, habort, (congrArg Round.st (u.my_round_modMy_roundOps opsA gs)).trans hst, h1, h2, h3, h5⟩
    · rw [State.takeOutcome_bad (by rw [show (s.my.round gs).st = _ from hr]; decide)] at hcommit
      refine ⟨⟨opsC, hcommit⟩, fun w hw => ?_, fun hw hd => ?_, fun hw hd => ⟨fun hf => ?_, fun hf => ?_⟩⟩
      · rw [State.prepareRound_uncovered hr hw] at hprep
        exact ⟨opsP, hprep⟩
      · rw [State.prepareRound_doomed hr hw hd] at hprep
        have hround := ((s.prepared gs).my_round_modMy_roundOps opsP gs).trans (s.my_round_prepared gs)
        exact ⟨_, hprep, (congrArg Round.st hround).trans rfl, (congrArg Round.doomed hround).trans hd, rfl⟩
      · rw [State.prepareRound_full hr hw hd hf] at hprep
        exact ⟨opsP, hprep⟩
      · obtain ⟨u, hu, hst, hnum, hrst, hlast⟩ := State.prepareRound_ok (g := g) hr hw hd hf
        rw [hu] at hprep
        have hround := u.my_round_modMy_roundOps opsP gs
        exact ⟨_, hprep, (congrArg Round.st hround).trans hst, (congrArg Round.num hround).trans hnum, hrst, hlast⟩
    · rw [State.prepareRound_bad (by rw [show (s.my.round gs).st = _ from hr]; decide)] at hprep
      refine ⟨⟨opsP, hprep⟩, fun hs => ?_, fun hs => ?_⟩
      · rw [State.takeOutcome_ok hr hs] at hcommit
        let u := s.modRound s.me.slot gs fun _ => Round.idle
        refine ⟨u.modMy fun x => { x with roundOps := opsC }, ?_, ?_, rfl⟩
        · rw [← show u.tc = s.tc from s.tc_modRound .., ← u.tc_modMy_roundOps opsC]
          exact hcommit
        · rw [u.my_round_modMy_roundOps opsC gs, s.my_round_modRound gs]
          rfl
      · obtain ⟨u, hu, htc, hst, hrst, hdev⟩ := State.takeOutcome_undo (g := g) hr hs
        rw [hu] at hcommit
        refine ⟨u.modMy fun x => { x with roundOps := opsC }, ?_, (congrArg Round.st (u.my_round_modMy_roundOps opsC gs)).trans hst, hrst, hdev⟩
        rw [← htc, ← u.tc_modMy_roundOps opsC]
        exact hcommit

end Sys2Proof.Machine
end

section
/-! SUPPORT. Collectives: their checks, what their buffers end with, and the updates of their record (spec/12_isa_common.md R293 to R296). -/

namespace Sys2Proof.Machine

/-! ## `COLL` -/

section
variable (h : Hdr) (f : Sys) {s : State}

/-- A `COLL` whose descriptor pointer passes its checks goes on with its group (R293). -/
theorem exec_coll (hp : s.ptrCheck (s.rs f.ra) 64 (fun t => t == 8 || t == 9) 1 = none) :
    exec (.coll h f) s = .next (
      match s.my.collOf.find? fun e => e.1 == (f.imm.extractLsb' 4 4).toNat with
      | none => s.fault .collective 5
      | some (_, g) =>
        if s.my.colls.any fun k => k.id == (f.imm.extractLsb' 0 2).toNat then s.fault .collective 1
        else if descBad (s.timedRead (s.rs f.ra) 64) (g.getD 0 1) then s.fault .collective 3
        else
          match collRec (s.timedRead (s.rs f.ra) 64) with
          | some i => if (s.record i).isNone then s.fault .record 1
            else execColl.go h f (s.timedRead (s.rs f.ra) 64) (f.imm.extractLsb' 4 4).toNat (g.getD 0 1) (g.getD 1 0) (f.imm.extractLsb' 0 2).toNat s
          | none => execColl.go h f (s.timedRead (s.rs f.ra) 64) (f.imm.extractLsb' 4 4).toNat (g.getD 0 1) (g.getD 1 0)
              (f.imm.extractLsb' 0 2).toNat s) := by
  have h4 : (f.imm.extractLsb' 4 4).toNat = f.imm.toNat / 16 % 16 := by rw [BitVec.extractLsb'_toNat, Nat.shiftRight_eq_div_pow]
  rw [h4, toNat_extractLsb'_zero]
  exact congrArg _ ((s.withPtr_ok hp _).trans rfl)

/-- The record of a descriptor is granted, or it names none (R293). -/
theorem collRec_granted {d : List Byte} (hrec : ∀ i, collRec d = some i → s.record i ≠ none) (bad : Nat → State) (go : State) :
    (match collRec d with
      | some i => if (s.record i).isNone then bad i else go
      | none => go) = go := by
  cases hd : collRec d with
  | none => rfl
  | some i => exact if_neg (by simpa using hrec i hd)

/-- A collective starts where its buffers and marks allow it (R293). -/
theorem execColl_go {d : List Byte} {gs np rank id : Nat}
    (hsrc : collSrcN d np rank * collSize d = 0 ∨ s.ptrCheck (collSrc d) (collSrcN d np rank * collSize d) (fun _ => true) (collSize d) = none)
    (hdst : s.ptrCheck (collDst d) (collDstN d np * collSize d) (fun _ => true) (collSize d) = none)
    (hm : s.my.markFault (collDst d) (collDstN d np * collSize d) (s.my.writeTc s.tc) = none) {u v : State}
    (hu : u = s.modMy fun x => { x with colls := x.colls ++ [⟨id, gs, s.cur.1, s.my.writeTc s.tc, d, none, none, none⟩] })
    (hv : v = if timedTag (ptrTag (collDst d)) then u
      else u.collAccess h f .store 1 id (collDst d) (List.replicate (collDstN d np * collSize d) 0)) :
    execColl.go h f d gs np rank id s =
      if collSrcN d np rank * collSize d = 0 then v.collSource v.me.slot id []
      else if timedTag (ptrTag (collSrc d)) then v.collSource v.me.slot id (v.timedRead (collSrc d) (collSrcN d np rank * collSize d))
      else v.collAccess h f .read 0 id (collSrc d) (List.replicate (collSrcN d np rank * collSize d) 0) := by
  subst hv hu
  unfold execColl.go
  dsimp only
  have hstart (k : State → State) : s.withPtr (collDst d) (collDstN d np * collSize d) (fun _ => true) (collSize d)
      (fun s => s.withMarks (collDst d) (collDstN d np * collSize d) k) = k s := by
    rw [s.withPtr_ok hdst, State.withMarks, hm]
  by_cases h0 : collSrcN d np rank * collSize d = 0
  · rw [if_pos h0, if_pos h0, hstart, if_pos h0]
  · rw [if_neg h0, if_neg h0, s.withPtr_ok (hsrc.resolve_left h0), hstart, if_neg h0]

end

/-! ## `COLL.WAIT` -/

/-- The state of a `COLL.WAIT` that takes a complete collective away and opens its ranges to the members (R134, R295). -/
def State.collTaken (s : State) (k : Coll) (bs : List Byte) (id : Nat) : State :=
  s.modMy fun x => { x with
    colls := x.colls.filter fun j => j.id != id
    acq := x.acq ++ x.members.map fun c =>
      ⟨c, x.writeTc x.tc, none, some k.tc, [(collSrc k.desc, (k.src.getD []).length), (collDst k.desc, bs.length)]⟩ }

/-- What the collective's bytes are to a timed destination: writes of the next tc (R295). -/
def State.collLand (s : State) (k : Coll) (bs : List Byte) (at_ : Nat × File × Nat) : State :=
  if timedTag (ptrTag (collDst k.desc)) then
    s.modMy fun x => { x with lands := x.lands ++ [⟨x.tc + 1, 0xFFFF, 7, 0, at_.1, .bytes at_.2.1 at_.2.2 bs⟩] }
  else s

/-- The update of record `r` by element `i` of a collective's result (R294). -/
def State.collStat (k : Coll) (bs : List Byte) (r : Nat) (s : State) (i : Nat) : State :=
  s.stat (collHandle r) (some (widen (collFmt k.desc) (BitVec.ofNat 32 (contribElem k.desc bs i)))) i false 0 s.tc

theorem exec_collWait (h : Hdr) (f : Sys) {s : State} {k : Coll} {bs : List Byte}
    (hk : s.my.colls.find? (fun k => k.id == (f.imm.extractLsb' 0 2).toNat) = some k) (hf : k.fault = none) (hr : k.result = some bs) :
    exec (.collWait h f) s = .next (
      let u := ((s.collTaken k bs (f.imm.extractLsb' 0 2).toNat).endBuffers k bs).collLand k bs
        (State.timedAt { s with cur := (k.core, 0) } (collDst k.desc))
      match collRec k.desc with
      | none => u
      | some r => (List.range (bs.length / collSize k.desc)).foldl (State.collStat k bs r) u) := by
  rw [toNat_extractLsb'_zero] at hk
  have h4 : (2 : Nat) ^ 2 = 4 := rfl
  rw [h4] at hk
  dsimp only [exec, execCollWait]
  rw [hk, toNat_extractLsb'_zero]
  simp only [hf, hr]
  rfl

/-- A byte of a phased buffer that no member has written ends as the engine has left it (R134). -/
theorem endings_of_unwritten {s : State} {k : Coll} (hlog : ∀ w ∈ (s.slot (s.core k.core).slot).log, w.peer = none → w.engine = none →
    w.tc.before k.tc = true) (p : Word) {own : List (List Byte)} (hown : ∀ c ∈ own, c.length ≤ 1) : s.endBuffer k p own = s := by
  have hwritten (q : Word) (u : Option Moment) : (s.slot (s.core k.core).slot).writtenSince q k.tc u = [] := by
    unfold Slot.writtenSince
    rw [List.filter_eq_nil_iff.mpr, List.filterMap_nil]
    intro w hw hc
    simp only [Bool.and_eq_true, Option.isNone_iff_eq_none, Bool.not_eq_true'] at hc
    obtain ⟨⟨⟨hp, he⟩, hb⟩, -⟩ := hc
    rw [hlog w hw hp he] at hb
    exact Bool.noConfusion hb
  unfold State.endBuffer
  dsimp only
  refine if_pos ?_
  rw [Bool.or_eq_true, List.all_eq_true]
  refine .inr fun c hc => ?_
  simp only [State.endings, hwritten, List.append_nil, List.mem_map] at hc
  obtain ⟨e, he, rfl⟩ := hc
  exact decide_eq_true (hown _ (List.of_mem_zip he).2)

theorem endBuffers_of_unwritten {s : State} {k : Coll} (bs : List Byte) (hlog : ∀ w ∈ (s.slot (s.core k.core).slot).log, w.peer = none →
    w.engine = none → w.tc.before k.tc = true) : s.endBuffers k bs = s := by
  rw [State.endBuffers, endings_of_unwritten hlog _ (by simp), endings_of_unwritten hlog _ (by simp)]

theorem log_collTaken (s : State) (k : Coll) (bs : List Byte) (id n : Nat) : ((s.collTaken k bs id).slot n).log = (s.slot n).log := by
  unfold State.collTaken
  by_cases hn : n = s.me.slot
  · subst hn
    exact (congrArg Slot.log (State.slot_modSlot ..)).trans rfl
  · exact congrArg Slot.log (State.slot_modSlot_ne _ _ hn)

/-- One of the bytes of each list is picked (R134). -/
theorem pickBytes_mem (t : State) (cs : List (List Byte)) {i : Nat} {c : List Byte} (hi : cs[i]? = some c) (hc : c ≠ []) :
    ∃ b ∈ c, (t.pickBytes cs).1[i]? = some b := by
  unfold State.pickBytes
  split
  · obtain ⟨b, bs, rfl⟩ := List.exists_cons_of_ne_nil hc
    exact ⟨b, List.mem_cons_self, by simp [hi]⟩
  · have hlt : i < cs.length := (List.getElem?_eq_some_iff.mp hi).1
    have hpos : 0 < c.length := List.length_pos_iff.mpr hc
    have hm : Config.freeNat (t.free + i) % c.length < c.length := Nat.mod_lt _ hpos
    refine ⟨(c)[Config.freeNat (t.free + i) % c.length]'hm, List.getElem_mem hm, ?_⟩
    have hz : ((List.range cs.length).zip cs)[i]? = some (i, c) := by
      rw [List.getElem?_zip_eq_some]
      exact ⟨by simp [hlt], hi⟩
    simp [List.getElem?_map, hz, List.getD_eq_getElem?_getD, List.getElem?_eq_getElem hm]

/-! ## What a home write leaves of cores and slots -/

/-- What no write at a home, with the messages that it sends, changes: cores but for their supervisor part, and of a slot its records and
collectives and what tells its tc. -/
structure WriteFrame (s t : State) : Prop where
  cur : t.cur = s.cur
  core : ∀ c, ∃ y, t.core c = { s.core c with sup := y }
  recs : ∀ n, (t.slot n).recs = (s.slot n).recs
  colls : ∀ n, (t.slot n).colls = (s.slot n).colls
  outTc : ∀ n, (t.slot n).outTc = (s.slot n).outTc

/-- A state with the same cores and slots. -/
theorem WriteFrame.of_eq {s t : State} (hcur : t.cur = s.cur) (hcores : t.cores = s.cores) (hslots : t.slots = s.slots) : WriteFrame s t := by
  have hs (n : Nat) : t.slot n = s.slot n := by rw [State.slot, hslots]; rfl
  refine ⟨hcur, fun c => ⟨(s.core c).sup, by rw [State.core, hcores]; rfl⟩, fun n => ?_, fun n => ?_, fun n => ?_⟩ <;> rw [hs]

theorem WriteFrame.refl (s : State) : WriteFrame s s := WriteFrame.of_eq rfl rfl rfl

theorem WriteFrame.trans {s t u : State} (h : WriteFrame s t) (k : WriteFrame t u) : WriteFrame s u := by
  refine ⟨k.cur.trans h.cur, fun c => ?_, fun n => (k.recs n).trans (h.recs n), fun n => (k.colls n).trans (h.colls n),
    fun n => (k.outTc n).trans (h.outTc n)⟩
  obtain ⟨y, hy⟩ := h.core c
  obtain ⟨z, hz⟩ := k.core c
  exact ⟨z, by rw [hz, hy]⟩

theorem WriteFrame.foldl {α : Type} (g : State → α → State) (h : ∀ s a, WriteFrame s (g s a)) (s : State) (l : List α) :
    WriteFrame s (l.foldl g s) :=
  List.foldlRecOn l g (WriteFrame.refl s) fun t ht a _ => ht.trans (h t a)

theorem WriteFrame.modSlot (s : State) (n : Nat) (f : Slot → Slot) (hr : ∀ x, (f x).recs = x.recs) (hc : ∀ x, (f x).colls = x.colls)
    (ho : ∀ x, (f x).outTc = x.outTc) : WriteFrame s (s.modSlot n f) := by
  have hs (m : Nat) : ((s.modSlot n f).slot m).recs = (s.slot m).recs ∧ ((s.modSlot n f).slot m).colls = (s.slot m).colls ∧
      ((s.modSlot n f).slot m).outTc = (s.slot m).outTc := by
    by_cases hm : m = n
    · subst hm
      rw [State.slot_modSlot]
      exact ⟨hr _, hc _, ho _⟩
    · rw [State.slot_modSlot_ne _ _ hm]
      exact ⟨rfl, rfl, rfl⟩
  exact ⟨rfl, fun _ => ⟨_, rfl⟩, fun m => (hs m).1, fun m => (hs m).2.1, fun m => (hs m).2.2⟩

theorem MsgFrame.writeFrame {s t : State} (h : MsgFrame s t) : WriteFrame s t := by
  refine ⟨h.cur, h.core, fun n => ?_, fun n => ?_, fun n => ?_⟩ <;> rw [h.slot]

theorem State.devWrites_writeFrame (s : State) (by_ : Option Nat) (key : Nat) (bs : List Byte) : WriteFrame s (s.devWrites by_ key bs) := by
  have hf (l : List Nat) : WriteFrame s (l.foldl (fun (t : State) n => t.modSlot n fun x =>
      let x := if x.base.any fun e => e.1 ≤ key && key + bs.length ≤ e.1 + e.2.length then x
        else { x with base := x.base ++ [(key, Map.getRun s.dev key bs.length)] }
      if by_.map (· / 2 ^ 16) = some n then x
      else { x with outside := x.outside ++ [⟨key, x.outTc x.tc, bs, s.done, by_.getD (2 ^ 32 + s.done)⟩] }) s) := by
    refine WriteFrame.foldl _ (fun u n => WriteFrame.modSlot u n _ (fun x => ?_) (fun x => ?_) fun x => ?_) s l
    all_goals
      dsimp only
      split <;> split <;> rfl
  exact (hf s.viewers).trans (WriteFrame.of_eq rfl rfl rfl)

theorem State.appendRound_writeFrame {s t : State} {e : LogEntry} (h : s.appendRound e = some t) : WriteFrame s t := by
  unfold State.appendRound at h
  obtain ⟨i, -, rfl⟩ := Option.map_eq_some_iff.mp h
  refine WriteFrame.trans ?_ (State.devWrites_writeFrame ..)
  exact WriteFrame.of_eq rfl rfl rfl

theorem State.logSector_frame {s t : State} {n : Nat} {e : MarkedSector} (h : s.logSector n e = some t) : WriteFrame s t := by
  unfold State.logSector at h
  split at h
  · cases h
    exact .refl s
  · dsimp only at h
    split at h
    · cases h
      exact .refl s
    · exact State.appendRound_writeFrame h

theorem State.sendSector_frame (s : State) (n : Nat) (e : MarkedSector) (old : BitVec 512) (r : FaultRec) : WriteFrame s (s.sendSector n e old r) := by
  unfold State.sendSector
  split
  · exact .refl s
  · dsimp only
    split
    · exact .refl s
    · refine WriteFrame.foldl _ (fun u j => ?_) s _
      exact (State.tell_frame ..).writeFrame.trans (WriteFrame.of_eq rfl rfl rfl)

theorem State.engineWrite_frame {s t : State} {n : Nat} {by_ : Option Nat} {secs : List MarkedSector} {runs : List (Nat × List Byte)} {r : FaultRec}
    (h : s.engineWrite n by_ secs runs r = some t) : WriteFrame s t := by
  unfold State.engineWrite at h
  obtain ⟨u, hu, rfl⟩ := Option.map_eq_some_iff.mp h
  have hlog (l : List MarkedSector) (a b : State) (h : l.foldlM (fun (s : State) e => s.logSector n e) a = some b) : WriteFrame a b := by
    induction l generalizing a with
    | nil =>
      cases h
      exact .refl _
    | cons e l ih =>
      obtain ⟨c, hc, hb⟩ := Option.bind_eq_some_iff.mp h
      exact (State.logSector_frame hc).trans (ih c hb)
  refine (hlog _ _ _ hu).trans (WriteFrame.trans ?_ (WriteFrame.foldl _ (fun v e => State.sendSector_frame ..) _ _))
  exact WriteFrame.foldl _ (fun v w => State.devWrites_writeFrame ..) _ _

theorem State.homeWrite_frame (s : State) (pages : List TlbEntry) (n : Nat) (w : PWrite) (r : FaultRec) : WriteFrame s (s.homeWrite pages n w r) := by
  unfold State.homeWrite
  dsimp only
  split
  next t ht => exact State.engineWrite_frame ht
  next =>
    refine WriteFrame.trans (t := s.modSlot n fun y => { y with log := y.log.filter fun v => v.done != w.done }) ?_ ?_
    · exact WriteFrame.modSlot s n _ (fun _ => rfl) (fun _ => rfl) fun _ => rfl
    · exact WriteFrame.modSlot _ n _ (fun _ => rfl) (fun _ => rfl) fun _ => rfl

/-- A write that joins its slot's log as it is performed. -/
theorem State.logHomeWrite_frame (s : State) (n d m : Nat) (w v : PWrite) (pages : List TlbEntry) (r : FaultRec) :
    WriteFrame s (State.homeWrite { (s.modSlot n fun y => { y with log := y.log ++ [w] }) with done := d } pages m v r) := by
  have h1 : WriteFrame s (s.modSlot n fun y => { y with log := y.log ++ [w] }) :=
    WriteFrame.modSlot s n _ (fun _ => rfl) (fun _ => rfl) fun _ => rfl
  have h2 := h1.trans (u := { (s.modSlot n fun y => { y with log := y.log ++ [w] }) with done := d }) (WriteFrame.of_eq rfl rfl rfl)
  exact h2.trans (State.homeWrite_frame ..)

theorem State.endBuffer_frame (s : State) (k : Coll) (p : Word) (own : List (List Byte)) : WriteFrame s (s.endBuffer k p own) := by
  unfold State.endBuffer
  dsimp only
  split
  · exact .refl s
  · have hp : WriteFrame s (s.pickBytes (s.endings k p own)).2 := by
      unfold State.pickBytes
      split
      · exact .refl s
      · exact WriteFrame.of_eq rfl rfl rfl
    refine hp.trans (WriteFrame.foldl _ (fun u e => ?_) _ _)
    split
    · exact .refl u
    · exact State.logHomeWrite_frame ..

theorem State.endBuffers_frame (s : State) (k : Coll) (bs : List Byte) : WriteFrame s (s.endBuffers k bs) :=
  (State.endBuffer_frame ..).trans (State.endBuffer_frame ..)

/-! ## Record updates of a result -/

/-- The place of a record among those of a slot after it has changed. -/
theorem find?_map_record (rs : List (Nat × Record)) (i : Nat) (f : Record → Record) {r : Record} (h : rs.find? (fun q => q.1 == i) = some (i, r)) :
    (rs.map fun q => if q.1 = i then (i, f q.2) else q).find? (fun q => q.1 == i) = some (i, f r) := by
  induction rs with
  | nil => cases h
  | cons a rs ih =>
    by_cases ha : a.1 = i
    · rw [List.find?_cons_of_pos (by simpa using ha)] at h
      cases h
      simp
    · rw [List.find?_cons_of_neg (by simpa using ha)] at h
      rw [List.map_cons, if_neg ha, List.find?_cons_of_neg (by simpa using ha)]
      exact ih h

/-- The handle by which a collective names its record (R294). -/
theorem collHandle_fields {i : Nat} (h : i < 4096) : hSrec (collHandle i) = i ∧ hSrv (collHandle i) = true := by
  refine ⟨?_, ?_⟩
  · rw [hSrec, collHandle, BitVec.extractLsb'_toNat, BitVec.toNat_ofNat, Nat.shiftRight_eq_div_pow]
    omega
  · rw [hSrv, collHandle, BitVec.getLsbD_ofNat, Nat.testBit_eq_decide_div_mod_eq, Bool.and_eq_true, decide_eq_true_eq, decide_eq_true_eq]
    omega

theorem collRec_lt {d : List Byte} {i : Nat} (h : collRec d = some i) : i < 4096 := by
  unfold collRec at h
  split at h
  · cases h
    exact Nat.mod_lt _ (by decide)
  · cases h

/-- The update that element `i` of a collective's result makes (R111, R294). -/
def State.collUpd (s : State) (k : Coll) (bs : List Byte) (i : Nat) : Upd :=
  let o := observe (widen (collFmt k.desc) (BitVec.ofNat 32 (contribElem k.desc bs i)))
  ⟨s.cur.1, s.my.outTc s.str.now.tc, s.my.writeTc s.tc, s.me.rank, s.cur.2, i, o.1, o.2.1, o.2.2, false, 0, s.my.outTc s.tc, s.str.now.pc, s.str.now.word⟩

theorem State.collStat_eq (s : State) (k : Coll) (bs : List Byte) {r : Nat} (hr : r < 4096) (i : Nat) :
    State.collStat k bs r s i = s.modRecord s.me.slot r fun q => { q with upd := q.upd ++ [s.collUpd k bs i] } := by
  obtain ⟨hsrec, hsrv⟩ := collHandle_fields hr
  unfold State.collStat State.stat
  rw [if_pos hsrv, hsrec]
  rfl

/-- An update of a record is of the word that the executing stream runs (R109, R294). -/
def State.updatesAs (s : State) (u : Upd) : Prop :=
  u.tc = s.my.outTc s.str.now.tc ∧ u.rank = s.me.rank ∧ u.stream = s.cur.2 ∧ u.pc = s.str.now.pc

/-- After record `r` of the executing slot, as it was in state `s`, has taken `n` updates of the executing word. -/
structure Updated (s : State) (r : Nat) (rec : Record) (n : Nat) (t : State) : Prop where
  cores : t.cores = s.cores
  cur : t.cur = s.cur
  colls : t.my.colls = s.my.colls
  outTc : t.my.outTc = s.my.outTc
  recs : ∃ ups, t.my.recs.find? (fun q => q.1 == r) = some (r, { rec with upd := rec.upd ++ ups }) ∧ ups.length = n ∧ ∀ u ∈ ups, s.updatesAs u

theorem Updated.step {s t : State} {r n : Nat} {rec : Record} (h : Updated s r rec n t) (hr : r < 4096) (k : Coll) (bs : List Byte) (i : Nat) :
    Updated s r rec (n + 1) (State.collStat k bs r t i) := by
  obtain ⟨hcores, hcur, hcolls, hout, ups, hfind, hlen, hups⟩ := h
  have hme : t.me = s.me := by rw [State.me, State.core, hcores, hcur]; rfl
  have hstr : t.str = s.str := by rw [State.str, hme, hcur]; rfl
  rw [t.collStat_eq k bs hr]
  have hmy (f : Record → Record) : (t.modRecord t.me.slot r f).my = { t.my with recs := t.my.recs.map fun q => if q.1 = r then (r, f q.2) else q } :=
    State.slot_modSlot ..
  refine ⟨hcores, hcur, ?_, ?_, ups ++ [t.collUpd k bs i], ?_, by simp [hlen], fun u hu => ?_⟩
  · exact (congrArg Slot.colls (hmy _)).trans hcolls
  · exact (congrArg Slot.outTc (hmy _)).trans hout
  · rw [hmy, ← List.append_assoc]
    exact find?_map_record _ _ (fun q => { q with upd := q.upd ++ [t.collUpd k bs i] }) hfind
  · rcases List.mem_append.mp hu with hu | hu
    · exact hups u hu
    · cases List.mem_singleton.mp hu
      refine ⟨?_, congrArg Core.rank hme, congrArg Prod.snd hcur, congrArg (fun x : Stream => x.now.pc) hstr⟩
      show t.my.outTc t.str.now.tc = _
      rw [hout, hstr]

theorem Updated.foldl {s t : State} {r n : Nat} {rec : Record} (h : Updated s r rec n t) (hr : r < 4096) (k : Coll) (bs : List Byte) (l : List Nat) :
    Updated s r rec (n + l.length) (l.foldl (State.collStat k bs r) t) := by
  induction l generalizing t n with
  | nil => exact h
  | cons i l ih =>
    rw [List.foldl_cons, List.length_cons, Nat.add_comm l.length 1, ← Nat.add_assoc]
    exact ih (h.step hr k bs i)

/-- A `COLL.WAIT` of a complete collective has its record untouched before its updates (R294). -/
theorem collWait_start {s : State} {k : Coll} {bs : List Byte} {id r : Nat} {rec : Record} (at_ : Nat × File × Nat)
    (hrec : s.my.recs.find? (fun q => q.1 == r) = some (r, rec)) :
    let t := ((s.collTaken k bs id).endBuffers k bs).collLand k bs at_
    t.my.recs.find? (fun q => q.1 == r) = some (r, rec) ∧ t.my.colls = s.my.colls.filter (fun j => j.id != id) ∧ t.my.outTc = s.my.outTc ∧
      t.str.now = s.str.now ∧ t.me.rank = s.me.rank ∧ t.cur = s.cur := by
  have hf := (s.collTaken k bs id).endBuffers_frame k bs
  have hl : WriteFrame ((s.collTaken k bs id).endBuffers k bs) (((s.collTaken k bs id).endBuffers k bs).collLand k bs at_) := by
    unfold State.collLand
    split
    · exact WriteFrame.modSlot _ _ _ (fun _ => rfl) (fun _ => rfl) fun _ => rfl
    · exact .refl _
  have h := hf.trans hl
  intro t
  have hmy : (s.collTaken k bs id).my = _ := State.my_modMy ..
  obtain ⟨y, hy⟩ := h.core s.cur.1
  have hme : t.me = { s.me with sup := y } := by rw [State.me, h.cur]; exact hy
  have hs : t.me.slot = s.me.slot := by rw [hme]
  refine ⟨?_, ?_, ?_, ?_, ?_, h.cur⟩
  · rw [State.my, hs, h.recs]
    exact (congrArg (fun x : Slot => x.recs.find? fun q => q.1 == r) hmy).trans hrec
  · rw [State.my, hs, h.colls]
    exact (congrArg Slot.colls hmy).trans rfl
  · rw [State.my, hs, h.outTc]
    exact (congrArg Slot.outTc hmy).trans rfl
  · rw [State.str, hme, h.cur]
    rfl
  · rw [hme]

/-- The engine's write of a complete collective to a phased destination (R293, R362). -/
def State.collWrite (s : State) (n id : Nat) (k : Coll) (bs : List Byte) : Access :=
  ⟨s.uid, n, k.core, (s.core k.core).rank, 0, .store, .coll ⟨0, 0⟩ ⟨0, 0, 0, 0, BitVec.ofNat 32 id⟩, ((s.core k.core).stream 0).now, (s.slot n).tc,
    (s.slot n).tc, 2, 0, [], [id], [(collDst k.desc, bs)], [], (s.slot n).npod, 0, .walk, none, [], (s.slot n).stubOf⟩

/-- A completion of a collective whose source has been read (R294, R295). -/
theorem exec_collComplete {s : State} (n id : Nat) (parts : List (List Byte)) {k : Coll} {src : List Byte}
    (hk : (s.slot n).colls.find? (fun k => k.id == id && k.result.isNone && k.fault.isNone) = some k) (hs : k.src = some src) :
    let g := Tbl.get [1, 0] (s.slot n).collOf k.grp
    let all := (List.range (g.getD 0 1)).map fun j => if j = g.getD 1 0 then k.desc.take 16 ++ src else parts.getD j []
    let bs := collResult k.desc (all.map fun q => q.drop 16) (g.getD 1 0)
    exec (.collComplete n id parts) s = .next (
      if all.any fun q => q.take 16 != k.desc.take 16 then
        s.modSlot n fun x => { x with colls := x.colls.map fun j => if j.id = id then { j with fault := some (.collective, 4, 0) } else j }
      else if timedTag (ptrTag (collDst k.desc)) then
        s.modSlot n fun x => { x with colls := x.colls.map fun j => if j.id = id then { j with result := some bs } else j }
      else State.translate { s with uid := s.uid + 1, outs := s.outs ++ [s.collWrite n id k bs] } (s.collWrite n id k bs)) := by
  intro g all bs
  dsimp only [exec, execCollComplete]
  rw [hk]
  simp only [hs]
  rfl

/-- Settles O49: the checks of a start in their order, the frame of a complete collective's last writes, and the outcome of its completion. -/
theorem collectives : Obligations.Collectives := by
  unfold Obligations.Collectives
  rintro h f s id gs rfl rfl p d descOk
  refine ⟨?_, ?_, ?_, ?_, ?_, fun t cs i c hi hc => pickBytes_mem t cs hi hc, ?_⟩
  · intro hp hn
    rw [exec_coll h f hp, hn]
  · intro n ps hp hg np srcLen dstLen inUse
    have hex := exec_coll h f hp
    rw [hg] at hex
    refine ⟨fun hu => ?_, fun hu hb => ?_, fun hu hb i hi hn => ?_, fun hu hb hrec hsrc hdst hm => ?_⟩
    · exact hex.trans (congrArg _ (if_pos hu))
    · exact hex.trans (congrArg _ ((if_neg (ne_true_of_eq_false hu)).trans (if_pos hb)))
    · refine hex.trans (congrArg _ ((if_neg (ne_true_of_eq_false hu)).trans ((if_neg (ne_true_of_eq_false hb)).trans ?_)))
      rw [show collRec (s.timedRead (s.rs f.ra) 64) = some i from hi]
      exact if_pos (by rw [hn]; rfl)
    · intro u v
      have hgo := execColl_go h f (id := (f.imm.extractLsb' 0 2).toNat) (gs := (f.imm.extractLsb' 4 4).toNat) hsrc hdst hm (u := u) (v := v) rfl rfl
      have hex' := hex.trans (congrArg _ ((if_neg (ne_true_of_eq_false hu)).trans ((if_neg (ne_true_of_eq_false hb)).trans
        ((collRec_granted hrec (fun _ => s.fault .record 1) _).trans hgo))))
      refine ⟨fun h0 => hex'.trans (congrArg _ (if_pos h0)), fun h0 ht => hex'.trans (congrArg _ ((if_neg h0).trans (if_pos ht))),
        fun h0 ht => hex'.trans (congrArg _ ((if_neg h0).trans (if_neg (ne_true_of_eq_false ht))))⟩
  · intro hn
    rw [toNat_extractLsb'_zero] at hn
    dsimp only [exec, execCollWait]
    rw [show f.imm.toNat % 4 = f.imm.toNat % 2 ^ 2 from rfl, hn]
  · intro k bs hk hf hr hnone u at_
    have hex := exec_collWait h f hk hf hr
    rw [hnone] at hex
    refine ⟨fun ht => ?_, fun ht => ?_, fun hlog => ?_⟩
    · exact hex.trans (congrArg _ (if_neg (ne_true_of_eq_false ht)))
    · exact hex.trans (congrArg _ (if_pos ht))
    · refine endBuffers_of_unwritten bs fun w hw hp he => hlog w ?_ hp he
      exact (log_collTaken s k bs (f.imm.extractLsb' 0 2).toNat _).symm ▸ hw
  · intro k bs r rec hk hf hr hc hrec
    have hex := exec_collWait h f hk hf hr
    rw [hc] at hex
    obtain ⟨hfind, hcolls, hout, hnow, hrank, hcur⟩ := collWait_start (k := k) (bs := bs) (id := (f.imm.extractLsb' 0 2).toNat)
      (State.timedAt { s with cur := (k.core, 0) } (collDst k.desc)) hrec
    obtain ⟨h1, h2, h3, h4, ups, h5, h6, h7⟩ := Updated.foldl
      ⟨rfl, rfl, rfl, rfl, [], by rw [hfind, List.append_nil], rfl, fun _ hu => absurd hu List.not_mem_nil⟩ (collRec_lt hc) k bs
      (List.range (bs.length / collSize k.desc))
    refine ⟨_, ups, _, hex, h5, rfl, by simpa using h6, fun c hcm => ?_, fun u hu => ?_⟩
    · rw [h3, hcolls] at hcm
      exact bne_iff_ne.mp (List.mem_filter.mp hcm).2
    · obtain ⟨ht, hrk, hst, hpc⟩ := h7 u hu
      rw [hout, hnow] at ht
      rw [hrank] at hrk
      rw [hcur] at hst
      rw [hnow] at hpc
      exact ⟨ht, hrk, hst, hpc⟩
  · intro n k parts hk
    refine ⟨fun hs => ?_, fun src hs => ?_⟩
    · dsimp only [exec, execCollComplete]
      rw [hk]
      simp only [hs]
    · intro g all bs
      have hex := exec_collComplete n _ parts hk hs
      have hany (hq : ∀ q ∈ all, q.take 16 = k.desc.take 16) : all.any (fun q => q.take 16 != k.desc.take 16) = false :=
        List.any_eq_false.mpr fun q hm => by simp [hq q hm]
      refine ⟨fun ⟨q, hm, hq⟩ => ?_, fun hq ht => ?_, fun hq ht => ?_⟩
      · have hany : all.any (fun q => q.take 16 != k.desc.take 16) = true := List.any_eq_true.mpr ⟨q, hm, bne_iff_ne.mpr hq⟩
        exact hex.trans (congrArg _ (if_pos hany))
      · exact hex.trans (congrArg _ ((if_neg (ne_true_of_eq_false (hany hq))).trans (if_pos ht)))
      · exact ⟨_, _, hex.trans (congrArg _ ((if_neg (ne_true_of_eq_false (hany hq))).trans (if_neg (ne_true_of_eq_false ht)))), rfl, rfl, rfl, rfl,
          rfl, rfl⟩

end Sys2Proof.Machine
end

section
/-! SUPPORT. Privileged words on cohorts and supervisor cores (spec/17_scheduling.md R334 to R341, spec/18_translation.md R361). -/

namespace Sys2Proof.Machine

/-! ## Acceptance -/

/-- The privileged words that a supervisor core runs. -/
def privWords (h : Hdr) (f : Sys) : List Instr :=
  [.launch h f, .launchResume h f, .ttStart h f, .ttStartAt h f, .holdRequest h f, .holdRel h f, .tlbi h f, .tlbiAsid h f, .tlbiAll h f,
    .pcsrRead h f, .pcsrWrite h f, .svret h f]

/-- Each of them asks first where it runs and what its fields are (R334). -/
theorem exec_privWord (h : Hdr) (f : Sys) (s : State) {i : Instr} (hi : i ∈ privWords h f) : ∃ ok k, exec i s = .next (s.privileged f ok k) := by
  simp only [privWords, List.mem_cons, List.not_mem_nil, or_false] at hi
  rcases hi with rfl | rfl | rfl | rfl | rfl | rfl | rfl | rfl | rfl | rfl | rfl | rfl <;> exact ⟨_, _, rfl⟩

theorem State.privileged_guarded {s : State} (hc : isSup s.cur.1 = true) {f : Sys} (hf : f.stg ≠ 0 ∨ f.scope ≠ 0) (ok : Bool) (k : State → State) :
    s.privileged f ok k = s.misuse := by
  have hb : (f.stg != 0 || f.scope != 0 || !ok) = true := by
    rcases hf with hf | hf
    · rw [bne_iff_ne.mpr hf, Bool.true_or, Bool.true_or]
    · rw [bne_iff_ne.mpr hf, Bool.or_true, Bool.true_or]
  rw [State.privileged, if_neg (by simp [hc]), if_pos hb]

/-- A word whose way on is a misuse event is one whatever its fields are. -/
theorem State.privileged_misuse {s : State} (hc : isSup s.cur.1 = true) (f : Sys) (ok : Bool) {k : State → State} (hk : k s = s.misuse) :
    s.privileged f ok k = s.misuse := by
  rw [State.privileged, if_neg (by simp [hc])]
  split
  · rfl
  · exact hk

/-- An accepted word goes on. -/
theorem State.privileged_of {s : State} (hc : isSup s.cur.1 = true) {f : Sys} (hg : f.stg = 0) (hs : f.scope = 0) {ok : Bool} (hok : ok = true)
    (k : State → State) : s.privileged f ok k = k s := by
  subst hok
  exact s.privileged_ok hc hg hs k

theorem slotOf_eq (f : Sys) : slotOf f = (f.imm.extractLsb' 0 8).toNat := (toNat_extractLsb'_zero f.imm 8).symm

/-! ## What a supervisor core reaches -/

/-- The executing supervisor core reaches some ranges, and the caps count none of them (R389). -/
def State.reaches (s : State) (rs : List (Nat × Nat)) : Prop := ∀ r ∈ rs, s.capAccess (s.cur.1 - 768) (dieOf s.cur.1) r.1 r.2 true = .ok s

theorem State.withReach_of {s : State} {rs : List (Nat × Nat)} (h : s.reaches rs) (k : State → State) : s.withReach rs k = k s := by
  have hm (l : List (Nat × Nat)) (hl : s.reaches l) :
      l.foldlM (fun (t : State) r => t.capAccess (t.cur.1 - 768) (dieOf t.cur.1) r.1 r.2 true) s = .ok s := by
    induction l with
    | nil => rfl
    | cons r l ih =>
      rw [List.foldlM_cons, hl r List.mem_cons_self]
      exact ih fun q hq => hl q (List.mem_cons_of_mem _ hq)
  rw [State.withReach, hm rs h]

theorem State.withBlock_of {s : State} {p : Word} (hp : s.ptrCheck p 128 (fun _ => true) 1 = none)
    (hr : ptrTag p = 0 → s.reaches [(ptrOff p, 128)]) (k : List Byte → State → State) : s.withBlock p k = k (s.supRead p 128) s := by
  rw [State.withBlock, s.withPtr_ok hp, State.withCap]
  by_cases ht : ptrTag p = 0
  · rw [if_neg (by simp [ht]), State.withReach_of (hr ht)]
  · rw [if_pos (by simpa using ht)]

/-- What `LAUNCH` reads but for its image (R335, R356). -/
theorem reaches_blockReads {s : State} {cb : List Byte} {span : Nat}
    (h : s.reaches ([(blockField cb 0x28 8, 320), (blockField cb 0x18 8, 64)] ++ if blockField cb 0x20 8 = 0 then [] else [(blockField cb 0x20 8, 0x4030)]))
    (hi : s.reaches [(blockField cb 0x00 8, span)]) : s.reaches (blockReads cb span) := by
  intro r hr
  simp only [blockReads, List.cons_append, List.nil_append, List.mem_cons] at hr
  rcases hr with hr | hr | hr | hr
  · exact h r (by simp [hr])
  · exact h r (by simp [hr])
  · exact hi r (by simp [hr])
  · exact h r (List.mem_append_right _ hr)

/-! ## Launches -/

/-- Waking quads plans events and no more. -/
theorem State.wakeQuads_frame (s : State) (qs : List Nat) :
    (s.wakeQuads qs).slots = s.slots ∧ (s.wakeQuads qs).cores = s.cores ∧ (s.wakeQuads qs).cur = s.cur ∧ (s.wakeQuads qs).clock = s.clock :=
  List.foldlRecOn qs _ (motive := fun t : State => t.slots = s.slots ∧ t.cores = s.cores ∧ t.cur = s.cur ∧ t.clock = s.clock)
    ⟨rfl, rfl, rfl, rfl⟩ fun _ ht _ _ => ht

/-- A slot given its quads has a frequency, and an event to come; the cores stay as they are (R396, R398). -/
theorem State.giveQuads_spec (s : State) (n : Nat) (qs : List Nat) (done : Instr) :
    ∃ q at_, (s.giveQuads n qs done).slot n = { s.slot n with freq := q } ∧ (s.giveQuads n qs done).me = s.me ∧
      (s.giveQuads n qs done).timers.getLast? = some (at_, done) ∧ s.clock < at_ := by
  obtain ⟨hs, hc, hcur, hclk⟩ := (s.modSlot n fun y => { y with freq := s.freqWanted n }).wakeQuads_frame qs
  have hslot : ((s.modSlot n fun y => { y with freq := s.freqWanted n }).wakeQuads qs).slot n = { s.slot n with freq := s.freqWanted n } := by
    rw [State.slot, hs]
    exact State.slot_modSlot ..
  have hme : ((s.modSlot n fun y => { y with freq := s.freqWanted n }).wakeQuads qs).me = s.me := by
    rw [State.me, State.core, hc, hcur]
    rfl
  unfold State.giveQuads
  dsimp only
  split
  · refine ⟨_, _, hslot, hme, List.getLast?_concat .., ?_⟩
    rw [hclk]
    show s.clock < s.clock + 1 + _
    omega
  · refine ⟨_, _, hslot, hme, List.getLast?_concat .., ?_⟩
    rw [hclk]
    show s.clock < s.clock + freqClocks
    simp [freqClocks]

theorem State.blocked_block (s : State) : s.block.me.sup.blocked = true := by
  rw [State.block, State.me_modMe]

theorem State.loadCores_frame (s : State) (g : Nat → Nat → Nat) (lk n r : Nat) (cs : List Nat) :
    (s.loadCores g lk n r cs).slots = s.slots ∧ (s.loadCores g lk n r cs).clock = s.clock ∧ (s.loadCores g lk n r cs).cur = s.cur :=
  List.foldlRecOn ((List.range cs.length).zip cs) _ (motive := fun t : State => t.slots = s.slots ∧ t.clock = s.clock ∧ t.cur = s.cur)
    ⟨rfl, rfl, rfl⟩ fun _ ht _ _ => ht

/-- The slot and its cores as an accepted `LAUNCH` sets them (R335). -/
def State.launched (s : State) (n : Nat) (cb : List Byte) (qs : List Nat) (rs : Tbl Record) : State :=
  let g := s.imageAt (blockField cb 0x00 8)
  let y := s.launchSlot (s.slot n) cb g qs rs
  let u := s.loadCores g (blockField cb 0x28 8) n (y.prank * y.members.length) y.members
  { ((u.modSlot n fun _ => y).block).giveQuads n qs (.launchComplete n) with free := u.free + y.pkgs.length + 1 }

theorem State.launched_spec (s : State) (n : Nat) (cb : List Byte) (qs : List Nat) (rs : Tbl Record) :
    ∃ q at_, (s.launched n cb qs rs).slot n = { s.launchSlot (s.slot n) cb (s.imageAt (blockField cb 0x00 8)) qs rs with freq := q } ∧
      (s.launched n cb qs rs).me.sup.blocked = true ∧ (s.launched n cb qs rs).timers.getLast? = some (at_, .launchComplete n) ∧ s.clock < at_ := by
  let y := s.launchSlot (s.slot n) cb (s.imageAt (blockField cb 0x00 8)) qs rs
  let u := s.loadCores (s.imageAt (blockField cb 0x00 8)) (blockField cb 0x28 8) n (y.prank * y.members.length) y.members
  obtain ⟨-, hclk, -⟩ : u.slots = s.slots ∧ u.clock = s.clock ∧ u.cur = s.cur := s.loadCores_frame ..
  obtain ⟨q, at_, hslot, hme, htim, hlt⟩ := ((u.modSlot n fun _ => y).block).giveQuads_spec n qs (.launchComplete n)
  refine ⟨q, at_, hslot.trans ?_, (congrArg (fun c : Core => c.sup.blocked) hme).trans (State.blocked_block _), htim, ?_⟩
  · exact congrArg (fun x : Slot => { x with freq := q }) (State.slot_modSlot u n fun _ => y)
  · exact lt_of_eq_of_lt hclk.symm hlt

/-- What `LAUNCH` asks of slot, image and grants but for the signature (R335). -/
def State.launchable (s : State) (n : Nat) (cb : List Byte) : Prop :=
  (s.slot n).st = 0 ∧ (s.slot n).resume = .none ∧ s.partSlot n = true ∧ imageOk (s.imageAt (blockField cb 0x00 8)) = true ∧
    blockOk cb (imgN (s.imageAt (blockField cb 0x00 8))) = true ∧ s.groupsFree n (s.grantGroups (blockField cb 0x20 8)) = true

/-- What `LAUNCH` does once it has read its image (R153, R335). -/
theorem exec_launch_ok (h : Hdr) (f : Sys) {s : State} (hc : isSup s.cur.1 = true) (hg : f.stg = 0) (hs : f.scope = 0) (himm : f.imm.toNat < 256)
    (hfn : f.fn = 0) {cb : List Byte} (hcb : s.supRead (s.rs f.ra) 128 = cb)
    (hp : s.ptrCheck (s.rs f.ra) 128 (fun _ => true) 1 = none) (hr : ptrTag (s.rs f.ra) = 0 → s.reaches [(ptrOff (s.rs f.ra), 128)])
    (himg : s.reaches [(blockField cb 0x00 8, 512)]) (hreads : s.reaches (blockReads cb (imgSpan (s.imageAt (blockField cb 0x00 8)))))
    (hl : s.launchable (slotOf f) cb) {qs : List Nat}
    (hqs : s.placement (imgKind (s.imageAt (blockField cb 0x00 8))) (imgW (s.imageAt (blockField cb 0x00 8)))
      (imgH (s.imageAt (blockField cb 0x00 8))) (blockField cb 0x30 1) (blockField cb 0x31 1)
      ((imgOwn (s.imageAt (blockField cb 0x00 8)) 2).2 != 0) = some qs) {rs : Tbl Record}
    (hrs : grantRecords (s.imageAt (blockField cb 0x00 8)) (slotOf f) ((qs.map (· / 24)).eraseDups) = rs) (hfit : s.recordsFit rs = true) :
    exec (.launch h f) s = .next (if signatureOk s.plat.boot.keys (s.imageAt (blockField cb 0x00 8)) then s.launched (slotOf f) cb qs rs else s.misuse) := by
  obtain ⟨hst, hres, hpart, hok, hbl, hgr⟩ := hl
  refine congrArg _ ((State.privileged_of hc hg hs (by simp [hfn, onlySlot, himm]) _).trans ((State.withBlock_of hp hr _).trans ?_))
  rw [hcb, State.withReach_of himg, State.withReach_of hreads]
  cases hsig : signatureOk s.plat.boot.keys (s.imageAt (blockField cb 0x00 8)) with
  | false =>
    refine (if_pos ?_).trans (if_neg Bool.false_ne_true).symm
    rw [hsig]
    simp
  | true =>
    refine (if_neg ?_).trans ?_
    · rw [hsig, hst, hres, hpart, hok, hbl, hgr]
      decide
    · rw [hqs]
      dsimp only
      rw [hrs]
      refine (if_neg (by simp [hfit])).trans (if_pos rfl).symm

/-- A saved slot that takes its new quads (R344, R350). -/
def State.resumedSlot (s : State) (x : Slot) (cb : List Byte) (qs : List Nat) : Slot :=
  { x.moveTo (quadCores qs) with
    sup := s.cur.1, die := blockField cb 0x30 1, quad := blockField cb 0x31 1, resume := .restoring, root := blockField cb 0x18 8
    groot := s.devNat (blockField cb 0x18 8) 8, dsrt := s.devNat (blockField cb 0x18 8 + 8) 8, prio := blockField cb 0x33 1
    ceil := blockField cb 0x34 1 }

/-- The slot and its cores as an accepted `LAUNCH.resume` sets them (R335, R344). -/
def State.resumed (s : State) (n : Nat) (cb : List Byte) (qs : List Nat) : State :=
  let x := s.slot n
  let y := s.resumedSlot x cb qs
  let u := s.loadCores (s.imageAt (blockField cb 0x00 8)) (blockField cb 0x28 8) n (x.prank * y.members.length) y.members
  let ren := fun a : Access => if a.slot == n then { a with core := y.members.getD (x.members.idxOf a.core) a.core } else a
  let v := { (u.modSlot n fun _ => y).block with outs := u.outs.map ren }
  let w := y.grpOf.foldl (fun s e => s.modGroup e.2 fun z => { z with deltas := z.deltas.map fun d => { d with fault := d.fault.renamed x y.members } }) v
  w.giveQuads n qs (if x.lrem.2 = 0 then .restoreComplete n else .leaseGrant n)

/-- Changes of groups leave slots, cores and clock as they are. -/
theorem State.foldl_modGroup_frame {α : Type} (g : α → Nat) (k : α → Group → Group) (s : State) (l : List α) :
    (l.foldl (fun (s : State) e => s.modGroup (g e) (k e)) s).slots = s.slots ∧ (l.foldl (fun (s : State) e => s.modGroup (g e) (k e)) s).me = s.me ∧
      (l.foldl (fun (s : State) e => s.modGroup (g e) (k e)) s).clock = s.clock :=
  List.foldlRecOn l _ (motive := fun t : State => t.slots = s.slots ∧ t.me = s.me ∧ t.clock = s.clock) ⟨rfl, rfl, rfl⟩ fun _ ht _ _ => ht

theorem State.resumed_spec (s : State) (n : Nat) (cb : List Byte) (qs : List Nat) :
    ∃ q at_, (s.resumed n cb qs).slot n = { s.resumedSlot (s.slot n) cb qs with freq := q } ∧
      (s.resumed n cb qs).me.sup.blocked = true ∧ s.clock < at_ ∧
      (s.resumed n cb qs).timers.getLast? = some (at_, if (s.slot n).lrem.2 = 0 then .restoreComplete n else .leaseGrant n) := by
  let x := s.slot n
  let y := s.resumedSlot x cb qs
  let u := s.loadCores (s.imageAt (blockField cb 0x00 8)) (blockField cb 0x28 8) n (x.prank * y.members.length) y.members
  let v : State := { (u.modSlot n fun _ => y).block with
    outs := u.outs.map fun a => if a.slot == n then { a with core := y.members.getD (x.members.idxOf a.core) a.core } else a }
  obtain ⟨-, hclk, -⟩ : u.slots = s.slots ∧ u.clock = s.clock ∧ u.cur = s.cur := s.loadCores_frame ..
  obtain ⟨hs, hme, hclk'⟩ := State.foldl_modGroup_frame (fun e : Nat × Nat => e.2)
    (fun _ z => { z with deltas := z.deltas.map fun d => { d with fault := d.fault.renamed x y.members } }) v y.grpOf
  obtain ⟨q, at_, hslot, hgive, htim, hlt⟩ := (y.grpOf.foldl (fun (s : State) e => s.modGroup e.2 fun z =>
    { z with deltas := z.deltas.map fun d => { d with fault := d.fault.renamed x y.members } }) v).giveQuads_spec n qs
      (if x.lrem.2 = 0 then .restoreComplete n else .leaseGrant n)
  have hv : v.slot n = y := State.slot_modSlot u n fun _ => y
  refine ⟨q, at_, hslot.trans ?_, (congrArg (fun c : Core => c.sup.blocked) (hgive.trans hme)).trans (State.blocked_block _), ?_, htim⟩
  · rw [State.slot, hs]
    exact congrArg (fun x : Slot => { x with freq := q }) hv
  · exact lt_of_eq_of_lt (hclk'.trans hclk).symm hlt

/-- `LAUNCH.resume` of a saved slot whose new quads are free (R335, R344). -/
theorem exec_launchResume_ok (h : Hdr) (f : Sys) {s : State} (hc : isSup s.cur.1 = true) (hg : f.stg = 0) (hs : f.scope = 0)
    (himm : f.imm.toNat < 256) {cb : List Byte} (hcb : s.supRead (s.rs f.ra) 128 = cb)
    (hp : s.ptrCheck (s.rs f.ra) 128 (fun _ => true) 1 = none) (hr : ptrTag (s.rs f.ra) = 0 → s.reaches [(ptrOff (s.rs f.ra), 128)])
    (hreads : s.reaches (blockReads cb 512)) (hst : (s.slot (slotOf f)).st = 4) (hres : (s.slot (slotOf f)).resume = .none)
    (hpart : s.partSlot (slotOf f) = true) (hbl : blockOk cb (s.slot (slotOf f)).npkg = true) {qs : List Nat}
    (hqs : s.placement (s.slot (slotOf f)).kind (s.slot (slotOf f)).w (s.slot (slotOf f)).ht (blockField cb 0x30 1) (blockField cb 0x31 1)
      (s.slot (slotOf f)).mtext = some qs) :
    exec (.launchResume h f) s = .next (s.resumed (slotOf f) cb qs) := by
  refine congrArg _ ((State.privileged_of hc hg hs (by simp [onlySlot, himm]) _).trans ((State.withBlock_of hp hr _).trans ?_))
  rw [hcb, State.withReach_of hreads]
  refine (if_neg ?_).trans ?_
  · rw [hst, hres, hpart, hbl]
    decide
  · rw [hqs]
    rfl

/-! ## `TLBI` -/

/-- The TLB of a core after entries have gone. -/
theorem Tbl.get_map_filter {α : Type} (t : Tbl (List α)) (p : α → Bool) (c : Nat) :
    Tbl.get [] (t.map fun e => (e.1, e.2.filter p)) c = (Tbl.get [] t c).filter p := by
  induction t with
  | nil => rfl
  | cons e t ih =>
    simp only [List.map_cons, Tbl.get]
    split
    · rfl
    · exact ih

/-- A `TLBI` leaves no entry that it covers, and its supervisor core waits (R361). -/
theorem State.beginTlbi_spec (s : State) (n : Nat) (sc : TlbScope) :
    (s.beginTlbi n sc).me.sup.blocked = true ∧ (s.beginTlbi n sc).tlbi = s.tlbi ++ [(s.cur.1, .tlbiComplete (s.cur.1 - 768) n sc)] ∧
      ∀ c, Tbl.get [] (s.beginTlbi n sc).tlb1 c = (Tbl.get [] s.tlb1 c).filter (fun e => !e.dropped n sc) ∧
        Tbl.get [] (s.beginTlbi n sc).tlb2 c = (Tbl.get [] s.tlb2 c).filter (fun e => !e.dropped n sc) := by
  let me : BitVec 8 := 4 * BitVec.ofNat 8 (s.cur.1 - 768)
  let u := (s.covered n sc).foldl
    (fun (s : State) vm =>
      let st := Map.get (s.core vm.1).sup.migtlbi vm.2
      if st = 0 then s.setMig vm.1 vm.2 (migIssued + me)
      else if st = migMay && (Map.get (s.core vm.1).sup.migctl vm.2).getLsbD 3 then s.setMig vm.1 vm.2 (migLast + me) else s) s
  obtain ⟨h1, h2, h3, h4⟩ : u.tlb1 = s.tlb1 ∧ u.tlb2 = s.tlb2 ∧ u.tlbi = s.tlbi ∧ u.cur = s.cur := by
    refine List.foldlRecOn _ _ (motive := fun t : State => t.tlb1 = s.tlb1 ∧ t.tlb2 = s.tlb2 ∧ t.tlbi = s.tlbi ∧ t.cur = s.cur)
      ⟨rfl, rfl, rfl, rfl⟩ fun t ht vm _ => ?_
    dsimp only
    split
    · exact ht
    · split <;> exact ht
  let done : Instr := .tlbiComplete (u.cur.1 - 768) n sc
  have he : s.beginTlbi n sc = ({ u.dropTlb fun e => e.dropped n sc with tlbi := u.tlbi ++ [(u.cur.1, done)] } : State).block.later done := rfl
  refine ⟨?_, ?_, fun c => ⟨?_, ?_⟩⟩
  · rw [he, State.later_me]
    exact State.blocked_block _
  · show u.tlbi ++ [(u.cur.1, .tlbiComplete (u.cur.1 - 768) n sc)] = _
    rw [h3, h4]
  · rw [← h1]
    exact Tbl.get_map_filter u.tlb1 (fun e => !e.dropped n sc) c
  · rw [← h2]
    exact Tbl.get_map_filter u.tlb2 (fun e => !e.dropped n sc) c

/-! ## The rest -/

/-- Events planned one after another for one clock. -/
theorem State.foldl_inClocks (s : State) (k : Nat) (l : List Instr) :
    l.foldl (fun (s : State) e => s.inClocks k e) s = { s with timers := s.timers ++ l.map fun e => (s.clock + k, e) } := by
  induction l generalizing s with
  | nil => simp
  | cons i l ih =>
    rw [List.foldl_cons, ih]
    simp [State.inClocks]

/-- Settles O50: acceptance first, then what each accepted word does. -/
theorem supervisorWords : Obligations.SupervisorWords := by
  unfold Obligations.SupervisorWords
  intro h f s n priv
  refine ⟨fun hc i hi => ?_, fun hc hf i hi => ?_, fun hc hg hs => ⟨fun himm => ⟨?_, fun hst => ⟨fun hfn => ?_, ?_⟩, fun hst => ⟨?_, ?_⟩, fun hra hst => ⟨fun hfn hno => ?_, ?_⟩⟩,
    ?_, ?_, ?_⟩⟩
  · obtain ⟨ok, k, he⟩ := exec_privWord h f s hi
    rw [he, s.privileged_cohort hc, s.fault_cohort hc]
  · obtain ⟨ok, k, he⟩ := exec_privWord h f s hi
    rw [he, State.privileged_guarded hc hf]
  · rw [show n = slotOf f from (slotOf_eq f).symm]
    intro p cb field g reach reads hp hr hreads himg hpart hres
    refine ⟨fun qs rs hfn hspan hst hok hbl hgr hqs hrs hfit => ?_, fun qs hst hbl hqs => ?_⟩
    · obtain ⟨q, at_, hslot, hblk, htim, hlt⟩ := s.launched_spec (slotOf f) cb qs rs
      exact ⟨_, q, at_, exec_launch_ok h f hc hg hs himm hfn rfl hp hr himg (reaches_blockReads hreads hspan) ⟨hst, hres, hpart, hok, hbl, hgr⟩ hqs
        hrs.symm hfit, hslot, hblk, htim, hlt⟩
    · obtain ⟨q, at_, hslot, hblk, hlt, htim⟩ := s.resumed_spec (slotOf f) cb qs
      have hst' : (s.resumedSlot (s.slot (slotOf f)) cb qs).st = 4 := hst
      exact ⟨_, at_, exec_launchResume_ok h f hc hg hs himm rfl hp hr (reaches_blockReads hreads himg) hst hres hpart hbl hqs,
        by rw [hslot]; rfl, by rw [hslot]; exact hst', by rw [hslot]; rfl, hblk, hlt, htim⟩
  · refine congrArg _ ((State.privileged_of hc hg hs (by simp [hfn, onlySlot, himm]) _).trans ?_)
    rw [slotOf_eq]
    exact if_neg fun hb => bne_iff_ne.mp hb hst
  · refine congrArg _ ((State.privileged_of hc hg hs (by simp [onlySlot, himm]) _).trans ?_)
    rw [slotOf_eq]
    exact if_neg fun hb => bne_iff_ne.mp hb hst
  · refine congrArg _ (State.privileged_misuse hc f _ ?_)
    rw [slotOf_eq]
    exact if_pos (bne_iff_ne.mpr hst)
  · refine congrArg _ (State.privileged_misuse hc f _ ?_)
    rw [slotOf_eq]
    exact if_pos (bne_iff_ne.mpr hst)
  · refine congrArg _ ((State.privileged_of hc hg hs (by simp [hfn, onlySlot, himm, hra]) _).trans ?_)
    rw [slotOf_eq]
    refine (if_neg fun hb => bne_iff_ne.mp hb hst).trans ((if_neg (ne_true_of_eq_false hno)).trans ?_)
    rw [State.platformHold, if_neg (by rw [show (s.slot _).st = 2 from hst]; decide)]
    rfl
  · refine congrArg _ ((State.privileged_of hc hg hs (by simp [onlySlot, himm, hra]) _).trans ?_)
    rw [slotOf_eq]
    exact if_neg fun hb => bne_iff_ne.mp hb hst
  · intro i sc m hi
    have he : exec i s = .next (s.beginTlbi m sc) := by
      rcases hi with ⟨rfl, hfn, h512, htag, rfl, rfl⟩ | ⟨rfl, h256, hra, rfl, rfl⟩ | ⟨rfl, himm, hra, rfl, rfl⟩
      · refine congrArg _ ((State.privileged_of hc hg hs (by simp only [hfn, h512, htag, decide_true, Bool.and_self]) _).trans ?_)
        rw [slotOf_eq]
      · refine congrArg _ ((State.privileged_of hc hg hs (by simp [onlySlot, h256, hra]) _).trans ?_)
        rw [slotOf_eq]
      · exact congrArg _ (State.privileged_of hc hg hs (by simp [himm, hra]) _)
    exact ⟨_, he, s.beginTlbi_spec m sc⟩
  · intro v himm hv
    refine ⟨fun hfn => ?_, ?_⟩
    · refine congrArg _ ((State.privileged_of hc hg hs (by simp [hfn, himm]) _).trans ?_)
      rw [hv]
      exact s.landOn_sup hc _ _ _
    · refine congrArg _ ((State.privileged_of hc hg hs himm _).trans ?_)
      rw [hv]
      exact s.foldl_inClocks 1 _
  · intro hfn hra himm
    dsimp only [exec, execSvret]
    rw [State.privileged_of hc hg hs (by simp [hfn, hra, himm])]
    refine ⟨_, rfl, ?_, ?_, ?_, ?_, rfl, rfl⟩
    · rw [State.me_modMe, Core.stream_modStream]
    · rw [State.me_modMe, Core.stream_modStream]
      rfl
    · rw [State.me_modMe]
      rfl
    · rw [State.me_modMe]
      rfl

end Sys2Proof.Machine
end

section
/-! SUPPORT. The writes of privileged registers (spec/17_scheduling.md R338 to R340, R353; spec/19_protected_hbm.md R373, R374, R377, R384;
spec/20_platform.md R389, R390, R400, R402). -/

namespace Sys2Proof.Machine

/-! ## Thermal state, eye monitors and fences -/

theorem State.thermal_modThermal (s : State) (d : Nat) (f : Thermal → Thermal) : (s.modThermal d f).thermal d = f (s.thermal d) :=
  Tbl.get_set_self _ _ _ _

theorem State.eye_modEye (s : State) (d : Nat) (l : BitVec 24) (f : Eye → Eye) : (s.modEye d l f).eye d l.toNat = f (s.eye d l.toNat) :=
  Tbl.get_set_self _ _ _ _

/-- Cohorts that follow a clamp leave the platform as it is. -/
theorem State.foldl_retune_plat (s : State) (ns : List Nat) : (ns.foldl State.retune s).plat = s.plat :=
  List.foldlRecOn ns State.retune (motive := fun t : State => t.plat = s.plat) rfl fun t ht n _ =>
    (t.retune_frame n).2.2.2.1.trans ht

theorem State.thermal_relevelDie (s : State) (d : Nat) (f : State → State) : (s.relevelDie d f).thermal = (f s).thermal := by
  funext e
  rw [State.relevelDie, State.thermal, State.foldl_retune_plat]
  rfl

/-- The tests of the sub-arrays whose fence a write clears. -/
theorem State.foldl_retests (s : State) (q : Nat) (is : List Nat) :
    let t := is.foldl (fun (s : State) i => { (s.inClocks 72 (.afenceRetestDone q i (Config.freeNat s.free % 2 == 1))) with free := s.free + 1 }) s
    t.plat = s.plat ∧ t.clock = s.clock ∧ (∀ e ∈ s.timers, e ∈ t.timers) ∧ ∀ i ∈ is, ∃ b, (s.clock + 72, .afenceRetestDone q i b) ∈ t.timers := by
  induction is generalizing s with
  | nil => exact ⟨rfl, rfl, fun _ h => h, fun _ h => nomatch h⟩
  | cons i is ih =>
    obtain ⟨hp, hc, hk, hall⟩ := ih { (s.inClocks 72 (.afenceRetestDone q i (Config.freeNat s.free % 2 == 1))) with free := s.free + 1 }
    refine ⟨hp, hc, fun e he => hk e (List.mem_append_left _ he), fun j hj => ?_⟩
    rcases List.mem_cons.mp hj with rfl | hj
    · exact ⟨_, hk _ (List.mem_append_right _ (List.mem_singleton_self _))⟩
    · exact hall j hj

/-- Clearing some bits of those that stand. -/
theorem clear_fenced (b w : BitVec 16) : b &&& ~~~(w &&& b) = b &&& ~~~w := by
  ext i hi
  simp only [BitVec.getElem_and, BitVec.getElem_not]
  cases b[i]'hi <;> cases w[i]'hi <;> rfl

/-! ## Groups -/

/-- A message that the caps do not stop is sent. -/
theorem State.tell_plain (s : State) (g j round : Nat) (m : GroupMsg) (hf : s.plat.frozen.contains parityMaster = false) (hc : s.plat.caps = false) :
    s.tell g j round m = s.send (.group j ⟨(s.group g).gid, (s.group g).self, round⟩ m) := by
  have hcaps : (!s.plat.caps) = true := congrArg not hc
  have (pkg : Nat) : s.capSend parityMaster (s.group g).die m.lane pkg 0 256 = .ok s := by
    unfold State.capSend
    dsimp only
    rw [if_neg (ne_true_of_eq_false hf), if_pos hcaps]
  rw [State.tell, this]

theorem State.tellAll_plain (s : State) (g round : Nat) (m : GroupMsg) (js : List Nat) (hf : s.plat.frozen.contains parityMaster = false)
    (hc : s.plat.caps = false) :
    (s.tellAll g round m js).plat.msgs = s.plat.msgs ++ js.map fun j => .group j ⟨(s.group g).gid, (s.group g).self, round⟩ m := by
  induction js generalizing s with
  | nil => simp [State.tellAll]
  | cons j js ih =>
    have := ih (s.tell g j round m) (by rw [s.tell_plain g j round m hf hc]; exact hf) (by rw [s.tell_plain g j round m hf hc]; exact hc)
    rw [State.tellAll, List.foldl_cons]
    rw [State.tellAll] at this
    rw [this, s.tell_plain g j round m hf hc]
    exact (List.append_assoc ..)

/-- What the comparison of configurations leaves of a group, and what messages it keeps. -/
structure CompareFrame (s t : State) (g : Nat) : Prop where
  msgs : t.plat.msgs = s.plat.msgs
  gcfg : (t.group g).gcfg = (s.group g).gcfg
  lostmap : (t.group g).lostmap = (s.group g).lostmap
  lastc : (t.group g).lastc = (s.group g).lastc

theorem State.compare_frame (s : State) (g member : Nat) (c : GroupCfg) : CompareFrame s (s.compare g member c) g := by
  unfold State.compare
  dsimp only
  split
  · exact ⟨rfl, rfl, rfl, rfl⟩
  · split
    · exact ⟨rfl, rfl, rfl, rfl⟩
    · exact ⟨rfl, by rw [State.group_modGroup], by rw [State.group_modGroup], by rw [State.group_modGroup]⟩

theorem State.foldl_compare_frame (s : State) (g : Nat) (es : List (Nat × Nat × GroupCfg)) :
    CompareFrame s (es.foldl (fun s e => s.compare g e.2.1 e.2.2) s) g :=
  List.foldlRecOn es _ (motive := fun t : State => CompareFrame s t g) ⟨rfl, rfl, rfl, rfl⟩ fun t ht e _ =>
    have h := t.compare_frame g e.2.1 e.2.2
    ⟨h.msgs.trans ht.msgs, h.gcfg.trans ht.gcfg, h.lostmap.trans ht.lostmap, h.lastc.trans ht.lastc⟩

/-- What a freeze changes of the platform. -/
theorem State.freeze_plat (s : State) (master cap addr : Nat) :
    ∃ fr fl ms, (s.freeze master cap addr).plat = { s.plat with frozen := fr, flog := fl, msgs := ms } := by
  unfold State.freeze
  dsimp only
  split <;> exact ⟨_, _, _, rfl⟩

/-- The configurations that have come stay as messages go out. -/
theorem State.configs_capSend {s t : State} {master die lane pkg addr n : Nat}
    (h : s.capSend master die lane pkg addr n = .ok t ∨ s.capSend master die lane pkg addr n = .error t) : t.plat.configs = s.plat.configs := by
  unfold State.capSend at h
  dsimp only at h
  have hfreeze (cap : Nat) : (s.freeze master cap addr).plat.configs = s.plat.configs := by
    obtain ⟨_, _, _, hp⟩ := s.freeze_plat master cap addr
    rw [hp]
  split at h
  · rcases h with h | h <;> cases h
    rfl
  split at h
  · rcases h with h | h <;> cases h
    rfl
  split at h
  · rcases h with h | h <;> cases h
    exact hfreeze 4
  split at h
  · rcases h with h | h <;> cases h
    exact hfreeze 2
  · rcases h with h | h <;> cases h
    rfl

theorem State.configs_tellAll (s : State) (g round : Nat) (m : GroupMsg) (js : List Nat) : (s.tellAll g round m js).plat.configs = s.plat.configs := by
  refine List.foldlRecOn js _ (motive := fun t : State => t.plat.configs = s.plat.configs) rfl fun t ht j _ => ?_
  rw [← ht]
  unfold State.tell
  dsimp only
  split
  next u hu => exact (State.configs_capSend (t := u) (.inl hu) :)
  next u hu => exact State.configs_capSend (.inr hu)

theorem extract_div_four (w : Word) : (w.extractLsb' 2 2).toNat = w.toNat / 4 % 4 := by
  rw [BitVec.extractLsb'_toNat, Nat.shiftRight_eq_div_pow]

/-- A member's slice of the range's registers is cut from the first one on. -/
theorem exec_groupReg {s : State} {v n g i : Nat} {w : Word} (hg : g < 16) (hi : i < 8) :
    exec (.privRegisterWrite v (0x140 + 8 * g + i) n w) s = .next (s.groupWrite (768 + v) g i w) := by
  have hd : (0x140 + 8 * g + i - 0x140) / 8 = g := by omega
  have hm : (0x140 + 8 * g + i) % 8 = i := by omega
  dsimp only [exec, execPrivRegisterWrite]
  simp only [show ∀ k : Nat, k < 0x140 → (0x140 + 8 * g + i = k) = False from fun k hk => eq_false (by omega),
    Nat.reduceLT, if_false, Bool.and_eq_true, decide_eq_true_eq]
  rw [if_neg (by omega), if_neg (by omega), if_pos (by omega), hd, hm]

/-- A misused group register. -/
theorem State.groupWrite_on {s : State} {c g i : Nat} {v : Word} (h : (s.group g).gcfg.getLsbD 0 = true) (hi : i ≠ 4) : s.groupWrite c g i v = s.misuseOf c := by
  unfold State.groupWrite
  dsimp only
  rw [if_pos h, if_neg hi, ite_self]

/-- A watch register takes its address and its enable. -/
theorem exec_watchReg {s : State} {v n j : Nat} {w : Word} (hj : j < 16) :
    exec (.privRegisterWrite v (0x110 + j) n w) s =
      .next (s.modCore (768 + v) fun y => { y with sup := { y.sup with watch := Map.set y.sup.watch j (w &&& 0xFFFFFFFFFFFFFFC1) } }) := by
  dsimp only [exec, execPrivRegisterWrite]
  simp only [show ∀ k : Nat, k < 0x110 → (0x110 + j = k) = False from fun k hk => eq_false (by omega),
    Nat.reduceLT, if_false, Bool.and_eq_true, decide_eq_true_eq]
  rw [if_pos (by omega), Nat.add_sub_cancel_left]

/-- The bits of a watch register. -/
theorem getLsbD_watchMask (w : Word) {i : Nat} (hi : i < 64) : (w &&& 0xFFFFFFFFFFFFFFC1).getLsbD i = (w.getLsbD i && (i == 0 || decide (6 ≤ i))) := by
  rw [BitVec.getLsbD_and]
  congr 1
  revert i
  decide

theorem State.flushLog_nothing (s : State) (v fuel : Nat) (h : (s.core v).sup.waiting = []) : s.flushLog v fuel = s := by
  cases fuel with
  | zero => rfl
  | succ k =>
    rw [State.flushLog]
    dsimp only
    split
    next r rs hr => exact nomatch h.symm.trans hr
    · rfl

/-- The group that an accepted configuration makes. -/
def enabledGroup (d : Nat) (y : Group) : Group :=
  { Group.reset with die := d, gcfg := y.gcfg, gmem0 := y.gmem0, gmem1 := y.gmem1, gdom := y.gdom, gwin := y.gwin, gpar := y.gpar, lastc := y.lastc, agreed := [y.self] }

/-- The group that a disabled one becomes. -/
def disabledGroup (x : Group) : Group := { x with gcfg := x.gcfg &&& ~~~(1 : Word), st := 0, lostmap := 0, agreed := [] }

/-- The state in which a member has told the others its accepted configuration. -/
def State.configTold (s : State) (d g : Nat) (y : Group) : State :=
  (s.modGroup g fun _ => enabledGroup d y).tellAll g 0 (.config y.config) ((List.range (y.k + y.m)).filter (· != y.self))

theorem State.group_configTold (s : State) (d g : Nat) (y : Group) : (s.configTold d g y).group g = enabledGroup d y :=
  (MsgFrame.group (State.tellAll_frame ..) g).trans (s.group_modGroup g _)

/-- The configuration of a group goes to each other member, where no cap stands before it. -/
theorem State.msgs_configTold (s : State) (d g : Nat) (y : Group) (hf : s.plat.frozen.contains parityMaster = false) (hc : s.plat.caps = false)
    {j : Nat} (hj : j < y.k + y.m) (hself : j ≠ y.self) : .group j ⟨y.gid, y.self, 0⟩ (.config y.config) ∈ (s.configTold d g y).plat.msgs := by
  have hm := (s.modGroup g fun _ => enabledGroup d y).tellAll_plain g 0 (.config y.config) ((List.range (y.k + y.m)).filter (· != y.self)) hf hc
  rw [State.group_modGroup] at hm
  refine hm ▸ List.mem_append_right _ (List.mem_map.mpr ⟨j, List.mem_filter.mpr ⟨List.mem_range.mpr hj, bne_iff_ne.mpr hself⟩, rfl⟩)

/-- Settles O55: each register by its number, and the events with rules of their own by their cases. -/
theorem registerEvents : Obligations.RegisterEvents := by
  unfold Obligations.RegisterEvents
  intro s v n w c
  refine ⟨?_, fun hok => ?_, fun hc hl => ?_, ?_, ?_, ?_, rfl, rfl, rfl, fun j hj hwf => ?_, rfl, fun hw => ?_, fun ho => ?_, fun ho => ?_,
    fun g i hg hi hen hi4 => (exec_groupReg hg hi).trans (congrArg _ (State.groupWrite_on hen hi4)), ⟨fun hok => ?_, fun hok => ?_⟩,
    fun g => ?_, fun q => ⟨fun hb hcl => ?_, fun hok hwf => ?_⟩, fun d => ⟨rfl, rfl, _, rfl, State.eye_modEye ..⟩⟩
  · rw [toNat_extractLsb'_zero]
    rfl
  · rw [toNat_extractLsb'_zero] at hok ⊢
    obtain ⟨-, -, -, hp, fr, tu, rs, hs⟩ := (s.modSlot n fun x => { x with ceil := w.toNat % 2 ^ 4 }).retune_frame n
    refine ⟨_, congrArg Host.Outcome.next (if_neg fun hb => ?_), ?_, hp⟩
    · obtain ⟨hcaps, hlim⟩ := Bool.and_eq_true_iff.mp hb
      rcases hok with h | h
      · exact Bool.false_ne_true (h.symm.trans hcaps)
      · exact Nat.not_lt.mpr h (of_decide_eq_true hlim)
    · exact (congrArg Slot.ceil hs).trans (congrArg Slot.ceil (State.slot_modSlot ..))
  · rw [toNat_extractLsb'_zero] at hl
    exact congrArg _ (if_pos (Bool.and_eq_true_iff.mpr ⟨hc, decide_eq_true hl⟩))
  · rw [toNat_extractLsb'_zero]
    rfl
  · rw [extract_div_four]
    rfl
  · rw [toNat_extractLsb'_zero]
    rfl
  · refine ⟨_, exec_watchReg hj, fun i hi => ?_, fun k hk => ?_⟩
    · rw [State.core_modCore, Map.get_set hwf, if_pos rfl, getLsbD_watchMask w hi]
    · rw [State.core_modCore, Map.get_set hwf, if_neg hk]
  · refine congrArg Host.Outcome.next (State.flushLog_nothing _ _ 128 ?_)
    rw [State.core_modCore]
    exact hw
  · exact congrArg _ (if_pos ho)
  · exact ⟨congrArg _ (if_neg (ne_true_of_eq_false ho)), congrArg _ (if_neg (ne_true_of_eq_false ho))⟩
  · refine ⟨_, congrArg Host.Outcome.next (if_pos ?_), ?_⟩
    · exact Bool.and_eq_true_iff.mpr ⟨decide_eq_true hok.1, decide_eq_true hok.2⟩
    · rw [State.thermal_relevelDie, State.thermal_modThermal]
  · refine congrArg _ (if_neg fun hb => hok ?_)
    obtain ⟨h1, h2⟩ := Bool.and_eq_true_iff.mp hb
    exact ⟨of_decide_eq_true h1, of_decide_eq_true h2⟩
  · let x := s.group g
    let y : Group := { x with gcfg := w &&& 0xFFFF0000F0FC0001 }
    refine ⟨fun hen hok => ?_, fun hen hok => ?_, fun hen => congrArg _ (if_pos hen), fun hbad => ?_, fun hr hsame => ?_⟩
    · exact congrArg Host.Outcome.next ((if_neg (ne_true_of_eq_false hen)).trans (if_pos (congrArg not hok)))
    · let t := ((s.configTold (dieOf c) g y).plat.configs.filter fun e => e.1 == y.gid).foldl (fun s e => s.compare g e.2.1 e.2.2) (s.configTold (dieOf c) g y)
      have ht : CompareFrame (s.configTold (dieOf c) g y) t g := State.foldl_compare_frame ..
      have hg := s.group_configTold (dieOf c) g y
      refine ⟨t, congrArg Host.Outcome.next ((if_neg (ne_true_of_eq_false hen)).trans (if_neg (fun hb => Bool.false_ne_true ((congrArg not hok).symm.trans hb)))),
        ht.gcfg.trans ((congrArg Group.gcfg hg).trans rfl),
        ht.lostmap.trans ((congrArg Group.lostmap hg).trans rfl), ht.lastc.trans ((congrArg Group.lastc hg).trans rfl), fun hnone => ?_, fun hf hc j hj hself => ?_⟩
      · have hempty : (s.configTold (dieOf c) g y).plat.configs.filter (fun e => e.1 == y.gid) = [] := by
          rw [State.configTold, State.configs_tellAll]
          exact List.filter_eq_nil_iff.mpr fun e he hb => hnone e he (eq_of_beq hb)
        have htt : t = s.configTold (dieOf c) g y := by
          show List.foldl _ _ _ = _
          rw [hempty]
          rfl
        rw [htt, hg]
        exact ⟨rfl, rfl⟩
      · rw [ht.msgs]
        exact s.msgs_configTold (dieOf c) g y hf hc hj hself
    · refine congrArg _ (if_pos (Bool.or_eq_true_iff.mpr (hbad.imp bne_iff_ne.mpr bne_iff_ne.mpr)))
    · have hg := (s.tellAll g x.round .lost x.others).group_modGroup g disabledGroup
      have hgt : (s.tellAll g x.round .lost x.others).group g = x := (s.tellAll_frame ..).group g
      rw [hgt] at hg
      refine ⟨_, congrArg Host.Outcome.next (if_neg fun hb => ?_), ?_, (congrArg Group.st hg).trans rfl, (congrArg Group.lostmap hg).trans rfl,
        fun hf hc j hj => ?_⟩
      · exact (Bool.or_eq_true_iff.mp hb).elim (fun h => bne_iff_ne.mp h hr) fun h => bne_iff_ne.mp h hsame
      · refine (congrArg (fun z : Group => z.gcfg.getLsbD 0) hg).trans ?_
        rw [disabledGroup, BitVec.getLsbD_and]
        exact Bool.and_false _
      · refine (s.tellAll_plain g x.round .lost x.others hf hc).symm ▸ List.mem_append_right _ (List.mem_map.mpr ⟨j, hj, rfl⟩)
  · refine congrArg _ (if_pos (Bool.and_eq_true_iff.mpr ⟨bne_iff_ne.mpr ?_, hb⟩))
    rwa [BitVec.and_comm]
  · have hclr : w.truncate 16 &&& s.fencedBits q = s.fencedBits q &&& w.extractLsb' 0 16 := by
      rw [BitVec.and_comm]
      rfl
    obtain ⟨hp, hck, -, hall⟩ := State.foldl_retests (s.modPlat fun p => { p with afence := Map.set p.afence q (Map.get p.afence q &&& ~~~(w.truncate 16 &&& s.fencedBits q)) })
      q ((List.range 16).filter fun i => (w.truncate 16 &&& s.fencedBits q).getLsbD i)
    refine ⟨_, congrArg Host.Outcome.next (if_neg fun hb => ?_), ?_, fun i hi hw hs => ?_⟩
    · obtain ⟨hne, hbusy⟩ := Bool.and_eq_true_iff.mp hb
      rw [hclr] at hne
      exact hok.elim (fun h => Bool.false_ne_true (h.symm.trans hbusy)) fun h => h (bne_iff_ne.mp hne)
    · rw [State.fencedBits, hp]
      show Map.get (Map.set s.plat.afence q _) q = _
      rw [Map.get_set hwf, if_pos rfl]
      exact clear_fenced (s.fencedBits q) (w.extractLsb' 0 16)
    · refine hall i (List.mem_filter.mpr ⟨List.mem_range.mpr hi, ?_⟩)
      rw [BitVec.getLsbD_and, hs, Bool.and_true]
      simpa [hi] using hw

end Sys2Proof.Machine
end

section
/-! SUPPORT. What the work of the protection engine and the writes at their homes leave as it is: the frame that stops, releases, resets
and the events of memory share (spec/19_protected_hbm.md R376 to R380, spec/06_consistency.md R127 to R129). -/

namespace Sys2Proof.Machine

/-! ## The parts of a state that the engine has no part in -/

/-- A slot without its write log, what it sees of home memory, its rounds and the faults that become due. -/
def Slot.apart (x : Slot) : Slot := { x with log := [], base := [], outside := [], rounds := [], dueFaults := [] }

/-- A core without the events and the freeze of a supervisor core. -/
def Core.apart (x : Core) : Core := { x with sup := { x.sup with frozen := false, events := [], lost := false } }

/-- The platform without the groups, their logs and messages, and what the caps count and freeze. -/
def Plat.apart (p : Plat) : Plat :=
  { p with groups := [], rlog := [], pend := [], msgs := [], egress := [], frozen := [], flog := [], hostOut := (0, 0) }

/-- A state without cores, slots, platform and home memory. -/
def State.rest (s : State) : State := { s with cores := [], slots := [], dev := [], done := 0, plat := Plat.reset }

/-- The engine's work goes from one state to another. -/
structure EngineFrame (s t : State) : Prop where
  rest : t.rest = s.rest
  plat : t.plat.apart = s.plat.apart
  core : ∀ c, (t.core c).apart = (s.core c).apart
  slot : ∀ m, (t.slot m).apart = (s.slot m).apart

theorem EngineFrame.refl (s : State) : EngineFrame s s := ⟨rfl, rfl, fun _ => rfl, fun _ => rfl⟩

theorem EngineFrame.trans {s t u : State} (h : EngineFrame s t) (k : EngineFrame t u) : EngineFrame s u :=
  ⟨k.rest.trans h.rest, k.plat.trans h.plat, fun c => (k.core c).trans (h.core c), fun m => (k.slot m).trans (h.slot m)⟩

theorem EngineFrame.foldl {α : Type} (g : State → α → State) (h : ∀ s a, EngineFrame s (g s a)) (s : State) (l : List α) :
    EngineFrame s (l.foldl g s) :=
  List.foldlRecOn l g (motive := fun t : State => EngineFrame s t) (EngineFrame.refl s) fun t ht a _ => ht.trans (h t a)

theorem EngineFrame.modSlot (s : State) (n : Nat) {f : Slot → Slot} (hf : ∀ x, (f x).apart = x.apart) : EngineFrame s (s.modSlot n f) := by
  refine ⟨rfl, rfl, fun _ => rfl, fun m => ?_⟩
  by_cases hm : m = n
  · subst hm
    rw [State.slot_modSlot, hf]
  · rw [State.slot_modSlot_ne _ _ hm]

theorem EngineFrame.modPlat (s : State) {f : Plat → Plat} (hf : (f s.plat).apart = s.plat.apart) : EngineFrame s (s.modPlat f) :=
  ⟨rfl, hf, fun _ => rfl, fun _ => rfl⟩

theorem EngineFrame.modCore (s : State) (c : Nat) {f : Core → Core} (hf : ∀ x, (f x).apart = x.apart) : EngineFrame s (s.modCore c f) := by
  refine ⟨rfl, rfl, fun d => ?_, fun _ => rfl⟩
  by_cases hd : d = c
  · subst hd
    rw [State.core_modCore, hf]
  · rw [State.core_modCore_ne _ _ hd]

theorem EngineFrame.modGroup (s : State) (g : Nat) (f : Group → Group) : EngineFrame s (s.modGroup g f) := EngineFrame.modPlat s rfl

/-! ## The engine's operations -/

theorem State.event_engine (s : State) (c cause : Nat) (info : Word) : EngineFrame s (s.event c cause info) :=
  EngineFrame.modCore s c fun x => by dsimp only; split <;> rfl

theorem State.groupEvent_engine (s : State) (g ev member : Nat) : EngineFrame s (s.groupEvent g ev member) := State.event_engine ..

theorem State.send_engine (s : State) (m : Msg) : EngineFrame s (s.send m) := EngineFrame.modPlat s rfl

theorem State.freeze_engine (s : State) (m cap addr : Nat) : EngineFrame s (s.freeze m cap addr) := by
  unfold State.freeze
  dsimp only
  refine EngineFrame.trans ?_ (State.send_engine ..)
  split
  · exact (EngineFrame.modPlat s rfl).trans (EngineFrame.modCore _ _ fun x => rfl)
  · exact EngineFrame.modPlat s rfl

/-- Whatever a check of the caps answers, it leaves the frame. -/
theorem State.capSend_engine (s : State) (m die lane pkg addr n : Nat) : EngineFrame s (eitherOf (s.capSend m die lane pkg addr n)) := by
  unfold State.capSend
  dsimp only
  split
  · exact .refl s
  split
  · exact .refl s
  split
  · exact s.freeze_engine ..
  split
  · exact s.freeze_engine ..
  · exact ⟨rfl, rfl, fun _ => rfl, fun _ => rfl⟩

theorem State.capHost_engine (s : State) (m addr n : Nat) : EngineFrame s (eitherOf (s.capHost m addr n)) := by
  unfold State.capHost
  dsimp only
  split
  · exact s.freeze_engine ..
  · exact ⟨rfl, rfl, fun _ => rfl, fun _ => rfl⟩

theorem State.capAccess_engine (s : State) (m die key n : Nat) (write : Bool) : EngineFrame s (eitherOf (s.capAccess m die key n write)) := by
  unfold State.capAccess
  dsimp only
  split
  · exact .refl s
  split
  · exact .refl s
  split
  · split
    · exact s.capSend_engine ..
    · exact .refl s
  · split
    · exact .refl s
    · exact s.freeze_engine ..
  · split
    · exact s.freeze_engine ..
    split
    · exact s.freeze_engine ..
    split
    · exact s.capHost_engine ..
    · exact .refl s

theorem State.tell_engine (s : State) (g j round : Nat) (m : GroupMsg) : EngineFrame s (s.tell g j round m) := by
  have h := s.capSend_engine parityMaster (s.group g).die m.lane
    (if (s.group g).lostmap.getLsbD j then (s.group g).spare.getD ((s.group g).package j) else (s.group g).package j) 0 256
  unfold State.tell
  dsimp only
  split
  next u hu => exact (hu ▸ h : EngineFrame s (eitherOf (.ok u))).trans (State.send_engine ..)
  next u hu => exact (hu ▸ h : EngineFrame s (eitherOf (.error u)))

theorem State.tellAll_engine (s : State) (g round : Nat) (m : GroupMsg) (js : List Nat) : EngineFrame s (s.tellAll g round m js) :=
  EngineFrame.foldl _ (fun _ _ => State.tell_engine ..) s js

theorem State.devWrites_engine (s : State) (by_ : Option Nat) (key : Nat) (bs : List Byte) : EngineFrame s (s.devWrites by_ key bs) := by
  refine EngineFrame.trans (t := _) (EngineFrame.foldl _ (fun u n => ?_) s s.viewers) ⟨rfl, rfl, fun _ => rfl, fun _ => rfl⟩
  refine EngineFrame.modSlot u n fun x => ?_
  dsimp only
  split <;> split <;> rfl

theorem State.modRound_engine (s : State) (n gs : Nat) (f : Round → Round) : EngineFrame s (s.modRound n gs f) :=
  EngineFrame.modSlot s n fun _ => rfl

theorem State.modHeldRound_engine (s : State) (g : Nat) (f : Round → Round) : EngineFrame s (s.modHeldRound g f) := by
  unfold State.modHeldRound
  split
  · exact s.modRound_engine ..
  · exact .refl s

theorem State.startRebuild_engine (s : State) (g : Nat) : EngineFrame s (s.startRebuild g) := EngineFrame.modGroup ..

theorem State.closeRound_engine (s : State) (g : Nat) : EngineFrame s (s.closeRound g) :=
  (EngineFrame.modGroup ..).trans (State.startRebuild_engine ..)

theorem State.release_engine (s : State) (g : Nat) : EngineFrame s (s.release g) := EngineFrame.modPlat s rfl

theorem State.restore_engine (s : State) (n gs g c : Nat) : EngineFrame s (s.restore n gs g c) := by
  unfold State.restore
  refine EngineFrame.trans (EngineFrame.trans (EngineFrame.foldl _ (fun u e => ?_) s _) (State.release_engine ..)) (State.modRound_engine ..)
  refine EngineFrame.trans ?_ (State.devWrites_engine ..)
  exact EngineFrame.modSlot u n fun _ => rfl

theorem State.doom_engine (s : State) (g : Nat) : EngineFrame s (s.doom g) := by
  have h : EngineFrame s ((s.modGroup g fun x => { x with doomed := true, notices := [], acks := if x.doomed then x.acks else [] }).modHeldRound g
      fun r => if r.st = .idle || r.settled.isSome then r else { r with doomed := true, settled := some false }) :=
    (EngineFrame.modGroup ..).trans (State.modHeldRound_engine ..)
  unfold State.doom
  dsimp only
  split
  · exact h
  · exact h.trans (State.tellAll_engine ..)

theorem State.undoRound_engine (s : State) (g : Nat) : EngineFrame s (s.undoRound g) := by
  unfold State.undoRound
  split
  · dsimp only
    split
    · exact .refl s
    split
    · split
      · exact .refl s
      · exact (State.restore_engine ..).trans (State.closeRound_engine ..)
    · refine EngineFrame.trans (EngineFrame.trans (EngineFrame.trans (EngineFrame.trans ?_ (State.release_engine ..)) (State.modRound_engine ..))
        (EngineFrame.modGroup ..)) (State.startRebuild_engine ..)
      exact EngineFrame.foldl _ (fun u e => State.devWrites_engine ..) s _
  · exact .refl s

theorem State.abandon_engine (s : State) (g : Nat) : EngineFrame s (s.abandon g) := by
  unfold State.abandon
  dsimp only
  refine EngineFrame.trans ?_ (State.undoRound_engine ..)
  split
  · exact (State.doom_engine ..).trans (State.tellAll_engine ..)
  · exact State.doom_engine ..

theorem State.commitRound_engine (s : State) (g r : Nat) : EngineFrame s (s.commitRound g r) :=
  (State.release_engine ..).trans ((State.modHeldRound_engine ..).trans ((EngineFrame.modGroup ..).trans (State.closeRound_engine ..)))

/-- The open round of a group is restored and closed (R351). -/
theorem State.undoOpen_engine (s : State) (n gs g c : Nat) (idle : Bool) :
    EngineFrame s (if idle then s.restore n gs g c else (s.restore n gs g c).closeRound g) := by
  split
  · exact State.restore_engine ..
  · exact (State.restore_engine ..).trans (State.closeRound_engine ..)

theorem State.abortRounds_engine (s : State) (n : Nat) : EngineFrame s (s.abortRounds n).2 := by
  unfold State.abortRounds
  refine List.foldlRecOn (s.slot n).grpOf _ (motive := fun r : Bool × State => EngineFrame s r.2) (.refl s) fun r hr e _ => hr.trans ?_
  dsimp only
  split
  · exact .refl _
  · dsimp only
    refine EngineFrame.trans ?_ (State.modRound_engine ..)
    split
    · exact .refl _
    split
    · exact (EngineFrame.modPlat r.2 rfl).trans (State.closeRound_engine ..)
    · refine EngineFrame.trans ?_ (State.undoOpen_engine ..)
      split
      · exact State.abandon_engine ..
      · exact .refl _

theorem State.dropRounds_engine (s : State) (n : Nat) : EngineFrame s (s.dropRounds n) := by
  refine EngineFrame.foldl _ (fun u e => ?_) s _
  split
  · exact .refl u
  · exact (EngineFrame.modPlat u rfl).trans (State.closeRound_engine ..)

/-! ## Writes at their homes -/

theorem State.writeLog_engine (s : State) (reg : Word) (i : Nat) (bs : List Byte) : EngineFrame s (s.writeLog reg i bs) := State.devWrites_engine ..

theorem State.appendRound_engine {s t : State} {e : LogEntry} (h : s.appendRound e = some t) : EngineFrame s t := by
  unfold State.appendRound at h
  obtain ⟨i, -, rfl⟩ := Option.map_eq_some_iff.mp h
  exact (EngineFrame.modPlat s rfl).trans (State.writeLog_engine ..)

theorem State.logSector_engine {s t : State} {n : Nat} {e : MarkedSector} (h : s.logSector n e = some t) : EngineFrame s t := by
  unfold State.logSector at h
  split at h
  · cases h
    exact .refl s
  · dsimp only at h
    split at h
    · cases h
      exact .refl s
    · exact State.appendRound_engine h

theorem State.sendSector_engine (s : State) (n : Nat) (e : MarkedSector) (old : BitVec 512) (r : FaultRec) : EngineFrame s (s.sendSector n e old r) := by
  unfold State.sendSector
  split
  · exact .refl s
  · dsimp only
    split
    · exact .refl s
    · exact EngineFrame.foldl _ (fun u j => (State.tell_engine ..).trans (EngineFrame.modGroup ..)) s _

theorem State.engineWrite_engine {s t : State} {n : Nat} {by_ : Option Nat} {secs : List MarkedSector} {runs : List (Nat × List Byte)} {r : FaultRec}
    (h : s.engineWrite n by_ secs runs r = some t) : EngineFrame s t := by
  unfold State.engineWrite at h
  obtain ⟨u, hu, rfl⟩ := Option.map_eq_some_iff.mp h
  have hlog (l : List MarkedSector) (a b : State) (h : l.foldlM (fun (s : State) e => s.logSector n e) a = some b) : EngineFrame a b := by
    induction l generalizing a with
    | nil =>
      cases h
      exact .refl _
    | cons e l ih =>
      obtain ⟨c, hc, hb⟩ := Option.bind_eq_some_iff.mp h
      exact (State.logSector_engine hc).trans (ih c hb)
  refine (hlog _ _ _ hu).trans (EngineFrame.trans ?_ (EngineFrame.foldl _ (fun v e => State.sendSector_engine ..) _ _))
  exact EngineFrame.foldl _ (fun v w => State.devWrites_engine ..) _ _

theorem State.dueFault_engine (s : State) (n : Nat) (r : FaultRec) : EngineFrame s (s.dueFault n r) := EngineFrame.modSlot s n fun _ => rfl

theorem State.homeWrite_engine (s : State) (pages : List TlbEntry) (n : Nat) (w : PWrite) (r : FaultRec) : EngineFrame s (s.homeWrite pages n w r) := by
  unfold State.homeWrite
  dsimp only
  split
  next t ht => exact State.engineWrite_engine ht
  next =>
    refine EngineFrame.trans ?_ (State.dueFault_engine ..)
    exact EngineFrame.modSlot s n fun _ => rfl

/-! ## One part of every slot -/

/-- A part of every slot is the same in two states. -/
def SlotKeep {α : Type} (g : Slot → α) (s t : State) : Prop := ∀ m, g (t.slot m) = g (s.slot m)

section
variable {α : Type} {g : Slot → α} {s t u : State}

theorem SlotKeep.refl (s : State) : SlotKeep g s s := fun _ => rfl

theorem SlotKeep.trans (h : SlotKeep g s t) (k : SlotKeep g t u) : SlotKeep g s u := fun m => (k m).trans (h m)

theorem SlotKeep.of_slots (h : t.slots = s.slots) : SlotKeep g s t := fun m => by
  rw [State.slot, h]
  rfl

theorem SlotKeep.modSlot (s : State) (n : Nat) {f : Slot → Slot} (hf : ∀ x, g (f x) = g x) : SlotKeep g s (s.modSlot n f) := fun m => by
  by_cases hm : m = n
  · subst hm
    rw [State.slot_modSlot, hf]
  · rw [State.slot_modSlot_ne _ _ hm]

theorem SlotKeep.foldl {β : Type} (f : State → β → State) (h : ∀ s a, SlotKeep g s (f s a)) (s : State) (l : List β) : SlotKeep g s (l.foldl f s) :=
  List.foldlRecOn l f (motive := fun t : State => SlotKeep g s t) (SlotKeep.refl s) fun t ht a _ => ht.trans (h t a)

theorem EngineFrame.keep (h : EngineFrame s t) (hg : ∀ x, g (Slot.apart x) = g x) : SlotKeep g s t := fun m => by
  rw [← hg, h.slot m, hg]

end

end Sys2Proof.Machine
end

section
/-! SUPPORT. Platform events: self-tests and fences, link monitors and slices, power-up, droops, thermal zones, leases and frequency changes
(spec/11_isa_matrix.md R265, spec/12_isa_common.md R292, spec/17_scheduling.md R353, spec/19_protected_hbm.md R384, R385, spec/20_platform.md
R396 to R402). -/

namespace Sys2Proof.Machine

/-! ## Fences -/

/-- One step of a fence: a sub-array that is not fenced yet is, with its event. -/
def State.fenceOne (s : State) (q : Nat) (bits : BitVec 16) (i : Nat) : State :=
  if bits.getLsbD i && !(s.fencedBits q).getLsbD i then
    (s.modPlat fun p => { p with afence := Map.set p.afence q (Map.get p.afence q ||| BitVec.ofNat 16 (2 ^ i)) }).event (768 + 2 * (q / 24)) 12
      (BitVec.ofNat 64 (q + ((s.modPlat fun p => { p with afence := Map.set p.afence q (Map.get p.afence q ||| BitVec.ofNat 16 (2 ^ i)) }).fencedBits q).toNat * 256))
  else s

theorem State.fence_eq (s : State) (q : Nat) (bits : BitVec 16) : s.fence q bits = (List.range 16).foldl (fun s i => s.fenceOne q bits i) s := rfl

/-- An event leaves everything but its supervisor core's queue. -/
theorem State.event_arr (s : State) (c cause : Nat) (info : Word) (d : Nat) : ((s.event c cause info).core d).arr = (s.core d).arr :=
  (congrArg Core.arr ((s.event_engine c cause info).core d) :)

theorem State.fenceOne_keeps (s : State) (q : Nat) (bits : BitVec 16) (i : Nat) :
    (s.fenceOne q bits i).slots = s.slots ∧ (∀ c, ((s.fenceOne q bits i).core c).apart = (s.core c).apart) ∧ (s.fenceOne q bits i).timers = s.timers := by
  unfold State.fenceOne
  split
  · exact ⟨rfl, fun c => (State.event_engine ..).core c, rfl⟩
  · exact ⟨rfl, fun _ => rfl, rfl⟩

theorem State.fence_keeps (s : State) (q : Nat) (bits : BitVec 16) :
    (s.fence q bits).slots = s.slots ∧ (∀ c, ((s.fence q bits).core c).apart = (s.core c).apart) ∧ (s.fence q bits).timers = s.timers :=
  List.foldlRecOn (List.range 16) _ (motive := fun t : State => t.slots = s.slots ∧ (∀ c, (t.core c).apart = (s.core c).apart) ∧ t.timers = s.timers)
    ⟨rfl, fun _ => rfl, rfl⟩ fun t ht i _ =>
    have h := t.fenceOne_keeps q bits i
    ⟨h.1.trans ht.1, fun c => (h.2.1 c).trans (ht.2.1 c), h.2.2.trans ht.2.2⟩

theorem getLsbD_two_pow {i j : Nat} (hj : j < 16) : (BitVec.ofNat 16 (2 ^ i)).getLsbD j = Decidable.decide (i = j) := by
  rw [BitVec.getLsbD_ofNat, Nat.testBit_two_pow]
  simp [hj]

theorem State.fenceOne_bits {s : State} {q : Nat} {bits : BitVec 16} {i : Nat} (hwf : Map.wf s.plat.afence = true) :
    Map.wf (s.fenceOne q bits i).plat.afence = true ∧
      ∀ j, j < 16 → ((s.fenceOne q bits i).fencedBits q).getLsbD j = ((s.fencedBits q).getLsbD j || (bits.getLsbD j && Decidable.decide (i = j))) := by
  unfold State.fenceOne
  split
  next h =>
    refine ⟨Map.wf_set hwf .., fun j hj => ?_⟩
    obtain ⟨hb, -⟩ := Bool.and_eq_true_iff.mp h
    show (Map.get (Map.set s.plat.afence q _) q).getLsbD j = _
    rw [Map.get_set hwf, if_pos rfl, BitVec.getLsbD_or, getLsbD_two_pow hj]
    by_cases hij : i = j
    · subst hij
      simp [hb]
    · simp [hij, State.fencedBits]
  next h =>
    refine ⟨hwf, fun j hj => ?_⟩
    by_cases hij : i = j
    · subst hij
      cases hb : bits.getLsbD i <;> simp_all
    · simp [hij]

/-- A fence adds its sub-arrays to those that are fenced (R402). -/
theorem State.fence_bits {s : State} (q : Nat) (bits : BitVec 16) (hwf : Map.wf s.plat.afence = true) :
    (s.fence q bits).fencedBits q = s.fencedBits q ||| bits := by
  have h : ∀ k, Map.wf ((List.range k).foldl (fun s i => s.fenceOne q bits i) s).plat.afence = true ∧ ∀ j, j < 16 →
      (((List.range k).foldl (fun s i => s.fenceOne q bits i) s).fencedBits q).getLsbD j = ((s.fencedBits q).getLsbD j || (bits.getLsbD j && Decidable.decide (j < k))) := by
    intro k
    induction k with
    | zero => exact ⟨hwf, fun j _ => by simp⟩
    | succ k ih =>
      rw [List.range_succ, List.foldl_append, List.foldl_cons, List.foldl_nil]
      obtain ⟨hw, hb⟩ := State.fenceOne_bits (q := q) (bits := bits) (i := k) ih.1
      refine ⟨hw, fun j hj => ?_⟩
      rw [hb j hj, ih.2 j hj, Bool.or_assoc, ← Bool.and_or_distrib_left, ← Bool.decide_or]
      congr 3
      simp only [eq_iff_iff]
      omega
  refine BitVec.eq_of_getLsbD_eq fun j hj => ?_
  rw [State.fence_eq, (h 16).2 j hj, BitVec.getLsbD_or]
  simp [hj]

/-! ## Free values of a failed test -/

theorem State.slots_setFile (s : State) (c : Nat) (f : File) (key : Nat) (bs : List Byte) : (s.setFile c f key bs).slots = s.slots := by
  cases f <;> rfl

/-- A store whose bytes become free keeps its slot's traps. -/
theorem State.blurStore_traps (s : State) (n : Nat) (w : PWrite) : SlotKeep Slot.traps s (s.blurStore n w) := by
  unfold State.blurStore
  refine SlotKeep.trans ?_ (SlotKeep.foldl _ (fun u r => (State.devWrites_engine ..).keep fun _ => rfl) _ _)
  refine SlotKeep.trans (t := s.modSlot n fun y => { y with log := y.log.map fun v => if v = w then { v with data := (s.freeBytes w.data.length).1 } else v }) ?_
    (SlotKeep.of_slots rfl)
  exact SlotKeep.modSlot s n fun _ => rfl

theorem State.blurDrained_traps (s : State) (c : Nat) (d : Drained) : SlotKeep Slot.traps s (s.blurDrained c d) := by
  have hstores (u : State) (n : Nat) (ws : List PWrite) : SlotKeep Slot.traps u (ws.foldl (fun s w => s.blurStore n w) u) :=
    SlotKeep.foldl _ (fun u w => u.blurStore_traps n w) u ws
  have hfiles (f : State → Nat × File × Nat × Nat → State) (hf : ∀ u r, SlotKeep Slot.traps u (f u r)) (n : Nat) (rs : List (Nat × File × Nat × Nat))
      (p : PWrite → Bool) : SlotKeep Slot.traps s ((((rs.foldl f s).slot n).log.filter p).foldl (fun s w => s.blurStore n w) (rs.foldl f s)) :=
    (SlotKeep.foldl f hf s rs).trans (hstores _ n _)
  unfold State.blurDrained
  dsimp only
  split
  · refine hfiles _ (fun u r => ?_) _ _ _
    split
    · exact SlotKeep.modSlot _ _ fun _ => rfl
    · refine SlotKeep.trans ?_ (SlotKeep.of_slots (State.slots_setFile ..))
      exact SlotKeep.modSlot _ _ fun _ => rfl
  · refine SlotKeep.trans (hfiles _ (fun u r => ?_) _ _ _) (SlotKeep.of_slots rfl)
    split
    · exact SlotKeep.modSlot _ _ fun _ => rfl
    · refine SlotKeep.trans ?_ (SlotKeep.of_slots (State.slots_setFile ..))
      exact SlotKeep.modSlot _ _ fun _ => rfl

theorem State.blurArray_traps (s : State) (c : Nat) (bad : BitVec 4) : SlotKeep Slot.traps s (s.blurArray c bad) :=
  SlotKeep.trans (t := s.blurCells c bad) (SlotKeep.of_slots rfl) (SlotKeep.foldl _ (fun u d => u.blurDrained_traps c d) _ _)

/-! ## Monitors and slices -/

theorem State.requestSlice_eyes (s : State) (d : Nat) (l : BitVec 24) (repair : Bool) : (s.requestSlice d l repair).plat.eyes = s.plat.eyes := by
  unfold State.requestSlice
  dsimp only
  split
  · rfl
  · split <;> rfl

/-- The lower of two margins. -/
theorem toNat_lower (a b : BitVec 8) : (if a < b then a else b).toNat = min a.toNat b.toNat := by
  split
  next h => exact (Nat.min_eq_left (Nat.le_of_lt (BitVec.lt_def.mp h))).symm
  next h => exact (Nat.min_eq_right (Nat.le_of_not_lt fun hl => h (BitVec.lt_def.mpr hl))).symm

/-- The monitor of a lane after a measurement of two margins (R384). -/
def Eye.measured (e : Eye) (thr : Word) (hm vm : BitVec 8) : Eye :=
  { e with lst := e.nextLst thr hm vm, hm := hm, vm := vm, hmin := if hm < e.hmin then hm else e.hmin, vmin := if vm < e.vmin then vm else e.vmin }

/-- A measurement leaves its own margins and the least ones (R384). -/
theorem State.measure_eye {s : State} (d : Nat) (l : BitVec 24) (hm vm : BitVec 8) (h1 : laneKind l ≤ 2) (h2 : s.inReset d = false) :
    ∃ t, exec (.eyeMonitorMeasure d l hm vm) s = .next t ∧
      t.eye d l.toNat = (s.eye d l.toNat).measured (Tbl.get eyethrReset s.plat.eyethr d) hm vm := by
  let e := s.eye d l.toNat
  let thr := Tbl.get eyethrReset s.plat.eyethr d
  let s1 := s.modEye d l fun e => e.measured thr hm vm
  let s2 := if e.nextLst thr hm vm != e.lst && e.nextLst thr hm vm != 0 then s1.laneEvent d l (e.nextLst thr hm vm) else s1
  have h1' : s1.eye d l.toNat = e.measured thr hm vm := s.eye_modEye d l _
  have heye (t : State) (ht : t.plat.eyes = s1.plat.eyes) : t.eye d l.toNat = e.measured thr hm vm := by
    rw [← h1', State.eye, ht]
    rfl
  have h2' : s2.plat.eyes = s1.plat.eyes := by
    dsimp only [s2]
    split <;> rfl
  refine ⟨_, congrArg Host.Outcome.next (if_neg ?_), ?_⟩
  · rw [Bool.or_eq_true_iff]
    rintro (h | h)
    · exact Nat.not_lt.mpr h1 (of_decide_eq_true h)
    · exact Bool.false_ne_true (h2.symm.trans h)
  · show State.eye (if e.nextLst thr hm vm = 2 && thr.getLsbD 33 then s2.requestSlice d l true
      else if e.nextLst thr hm vm = 1 && thr.getLsbD 32 then s2.requestSlice d l false else s2) d l.toNat = _
    refine heye _ ?_
    split
    · exact (State.requestSlice_eyes ..).trans h2'
    split
    · exact (State.requestSlice_eyes ..).trans h2'
    · exact h2'

/-- What training does not touch. -/
def State.untrained (s : State) : State := { s with free := 0, plat := { s.plat with eyes := [], failedLinks := [] } }

theorem State.repairLane_untrained (s : State) (d : Nat) (l : BitVec 24) : (s.repairLane d l).untrained = s.untrained := rfl

theorem State.centreLane_untrained (s : State) (d : Nat) (l : BitVec 24) : (s.centreLane d l).untrained = s.untrained := rfl

theorem State.foldl_untrained {α : Type} (f : State → α → State) (h : ∀ s a, (f s a).untrained = s.untrained) (s : State) (l : List α) :
    (l.foldl f s).untrained = s.untrained :=
  List.foldlRecOn l f (motive := fun t : State => t.untrained = s.untrained) rfl fun t ht a _ => (h t a).trans ht

theorem State.trainGroup_untrained (d kind idx g fuel : Nat) (s : State) : (State.trainGroup d kind idx g fuel s).untrained = s.untrained := by
  induction fuel generalizing s with
  | zero => rfl
  | succ fuel ih =>
    rw [State.trainGroup]
    split
    · exact State.foldl_untrained _ (fun _ _ => State.centreLane_untrained ..) s _
    · rw [ih, State.foldl_untrained _ fun _ _ => State.repairLane_untrained ..]
      exact State.foldl_untrained _ (fun _ _ => State.centreLane_untrained ..) s _

theorem State.trainGroups_untrained (s : State) (d kind idx : Nat) (gs : List Nat) : (s.trainGroups d kind idx gs).2.untrained = s.untrained := by
  unfold State.trainGroups
  have h := State.foldl_untrained (fun s g => State.trainGroup d kind idx g 4 s) (fun s g => State.trainGroup_untrained d kind idx g 4 s) s gs
  dsimp only
  split
  · exact h
  · exact h

theorem State.trainSlice_untrained (s : State) (d : Nat) (l : BitVec 24) : (s.trainSlice d l).untrained = s.untrained :=
  State.trainGroups_untrained ..

theorem State.repairAsked_untrained (s : State) (d : Nat) (l : BitVec 24) : (s.repairAsked d l).untrained = s.untrained := by
  unfold State.repairAsked
  dsimp only
  split
  · exact State.foldl_untrained _ (fun _ _ => State.repairLane_untrained ..) s _
  · rw [State.trainSlice_untrained]
    exact State.foldl_untrained _ (fun _ _ => State.repairLane_untrained ..) s _

/-- A link that no cohort waits for starts its slice at once (R385). -/
theorem exec_retrainSliceStart_free {s : State} {d : Nat} {l : BitVec 24} (hw : s.sliceWaits d l = true) (hn : s.sliceCohorts d l = [])
    (ha : (s.plat.slices.any fun e => e.onLink d l && e.active) = false) (hc : s.sliceFrom d l ≤ s.clock) :
    ∃ t k, exec (.retrainSliceStart d l) s = .next t ∧ k ≤ 2800 ∧ t.timers = s.timers ++ [(s.clock + k, .retrainSliceEnd d l)] ∧
      ⟨d, l, true, none, false⟩ ∈ t.plat.slices := by
  let s2 := s.repairAsked d l
  let s3 := s2.modPlat fun p => { p with slices := (p.slices.filter fun e => !e.onLink d l) ++ [⟨d, l, true, none, false⟩] }
  let t : State := { (s3.inClocks (1 + Config.delay s3.free % 2800) (.retrainSliceEnd d l)) with free := s3.free + 1 }
  have hu : s2.untrained = s.untrained := s.repairAsked_untrained d l
  refine ⟨t, 1 + Config.delay s3.free % 2800, ?_, by omega, ?_, List.mem_append_right _ (List.mem_singleton_self _)⟩
  · dsimp only [exec, execRetrainSliceStart]
    rw [hn, if_neg (by simp only [hw, ha]; exact Bool.false_ne_true), if_neg (Nat.not_lt.mpr hc), if_neg (by exact Bool.false_ne_true)]
    rfl
  · show s2.timers ++ [(s2.clock + _, _)] = _
    rw [show s2.timers = s.timers from (congrArg State.timers hu :), show s2.clock = s.clock from (congrArg State.clock hu :)]

/-- A record of a table is one of its entries, or the default. -/
theorem Tbl.get_mem {α : Type} (d : α) (t : Tbl α) (a : Nat) : Tbl.get d t a = d ∨ (a, Tbl.get d t a) ∈ t := by
  induction t with
  | nil => exact .inl rfl
  | cons e t ih =>
    rw [Tbl.get]
    split
    next h => exact .inr (h ▸ List.mem_cons_self)
    next => exact ih.imp_right (List.mem_cons_of_mem _)

/-- A slice that ends leaves its link free of it (R385). -/
theorem exec_retrainSliceEnd_active {s : State} {d : Nat} {l : BitVec 24} (h : (s.plat.slices.any fun e => e.die == d && e.lane == l && e.active) = true) :
    ∃ t, exec (.retrainSliceEnd d l) s = .next t ∧ ⟨d, l, false, some s.clock, false⟩ ∈ t.plat.slices ∧
      ∀ e ∈ t.plat.slices, e.die = d → e.lane = l → e.active = false := by
  let act := fun e : Slice => e.die == d && e.lane == l && e.active
  let s1 := s.modPlat fun p => { p with slices := p.slices.map fun e => if act e then ⟨d, l, false, some s.clock, false⟩ else e }
  let s2 := match s1.nextSlice d l with
    | some m => s1.inClocks (max 1 (s1.sliceFrom d l - s.clock)) (.retrainSliceStart d m)
    | none => s1
  have hslices : (s2.clearPlatform (tagSlice d l)).plat.slices = s1.plat.slices := by
    refine Eq.trans (b := s2.plat.slices) ?_ ?_
    · exact List.foldlRecOn _ _ (motive := fun t : State => t.plat.slices = s2.plat.slices) rfl fun t ht n _ => ht
    · dsimp only [s2]
      split <;> rfl
  refine ⟨s2.clearPlatform (tagSlice d l), congrArg Host.Outcome.next (if_neg fun hb => ?_), ?_, fun e he hd hl => ?_⟩
  · exact Bool.false_ne_true ((congrArg not h).symm.trans hb)
  · rw [hslices]
    obtain ⟨e, he, ha⟩ := List.any_eq_true.mp h
    exact List.mem_map.mpr ⟨e, he, if_pos ha⟩
  · rw [hslices] at he
    obtain ⟨e', -, rfl⟩ := List.mem_map.mp he
    by_cases ha : act e' = true
    · rw [if_pos ha]
    · rw [if_neg ha] at hd hl ⊢
      cases hact : e'.active with
      | false => rfl
      | true => exact absurd (by simp [act, hd, hl, hact]) ha

/-! ## Power-up -/

theorem State.grantPower_empty (n : Nat) {s : State} (h : s.plat.fifo = []) : State.grantPower n s = s := by
  cases n with
  | zero => rfl
  | succ n =>
    rw [State.grantPower]
    split
    · rfl
    next r rs hr => exact nomatch h.symm.trans hr

/-- The requests of a clock that finds the FIFO empty, one that fits (R398). -/
theorem State.admitPower_one {s : State} {r : Inrush} (hf : s.plat.fifo = []) (ha : s.plat.arrivals = [r]) (hu : s.plat.units + inrushCost r ≤ 16) :
    s.admitPower.plat.fifo = [] ∧ s.admitPower.plat.arrivals = [] ∧ s.admitPower.plat.units = s.plat.units + inrushCost r ∧
      s.admitPower.timers = s.timers ++ [(s.clock + inrushClocks r, .inrushComplete r)] := by
  have h : s.admitPower = State.grantPower 65 (s.modPlat fun p => { p with arrivals := [], fifo := [r] }) := by
    rw [State.admitPower, ha]
    simp [State.modPlat, insertInrush, hf]
  have hg : State.grantPower 65 (s.modPlat fun p => { p with arrivals := [], fifo := [r] }) =
      ((s.modPlat fun p => { p with arrivals := [], fifo := [], units := p.units + inrushCost r, waking := p.waking ++ [r] }).inClocks (inrushClocks r)
        (.inrushComplete r)) := (if_pos hu).trans (State.grantPower_empty 64 rfl)
  rw [h, hg]
  exact ⟨rfl, rfl, rfl, rfl⟩

/-- A completed request leaves the FIFO and the units of the others (R398). -/
theorem State.turnOn_keeps (s : State) (r : Inrush) :
    (s.turnOn r).plat.units = s.plat.units ∧ (s.turnOn r).plat.waking = s.plat.waking ∧ (s.turnOn r).plat.fifo = s.plat.fifo ∧
      (r.kind = 1 → r.quad ∈ (s.turnOn r).plat.onQuads) := by
  unfold State.turnOn
  split
  next hk => exact ⟨rfl, rfl, rfl, fun h => absurd (hk.symm.trans h) (by decide)⟩
  next hk => exact ⟨rfl, rfl, rfl, fun _ => List.mem_cons_self⟩
  next h0 h1 =>
    dsimp only
    split
    · exact ⟨rfl, rfl, rfl, fun h => absurd h h1⟩
    · exact ⟨rfl, rfl, rfl, fun h => absurd h h1⟩

/-! ## Platform holds -/

theorem State.slot_clearCause_asked (s : State) (n m tag : Nat) (h : m = n ∨ (s.slot m).asked tag = false) :
    ((s.clearCause n (.platform tag)).slot m).asked tag = false := by
  by_cases hm : m = n
  · subst hm
    rw [State.clearCause, State.slot_modSlot]
    dsimp only [Slot.asked]
    rw [List.any_map, List.any_eq_false]
    intro r _
    dsimp only [Function.comp]
    split
    next hr => simp
    next hr => exact hr
  · rw [State.clearCause, State.slot_modSlot_ne _ _ hm]
    exact h.resolve_left hm

/-- No request of a cleared platform cause stands (R37). -/
theorem State.clearPlatform_asked (s : State) (tag m : Nat) : ((s.clearPlatform tag).slot m).asked tag = false := by
  have h (ns : List Nat) (t : State) (ht : (t.slot m).asked tag = false ∨ m ∈ ns) :
      ((ns.foldl (fun s n => s.clearCause n (.platform tag)) t).slot m).asked tag = false := by
    induction ns generalizing t with
    | nil => exact ht.resolve_right (by simp)
    | cons n ns ih =>
      refine ih _ ?_
      by_cases hn : m = n
      · exact .inl (t.slot_clearCause_asked n m tag (.inl hn))
      · exact ht.imp (fun h => t.slot_clearCause_asked n m tag (.inr h)) fun h => (List.mem_cons.mp h).resolve_left hn
  refine h _ s ?_
  cases ha : (s.slot m).asked tag with
  | false => exact .inl rfl
  | true =>
    refine .inr (List.mem_map.mpr ⟨(m, s.slot m), List.mem_filter.mpr ⟨?_, ha⟩, rfl⟩)
    refine (Tbl.get_mem Slot.reset s.slots m).resolve_left fun hr => ?_
    rw [State.slot, hr] at ha
    exact nomatch ha

theorem not_asked_iff (x : Slot) (tag : Nat) : x.asked tag = false ↔ ∀ r ∈ x.reqs, r.cause = .platform tag → r.cleared ≠ none := by
  simp [Slot.asked, List.any_eq_false]

/-- A platform hold of a cohort that does not stand yet joins its requests (R35). -/
theorem State.platformHold_new {s : State} {n tag : Nat} (h : (s.slot n).asked tag = false) : ((s.platformHold n tag).slot n).reqs =
    (s.slot n).reqs ++ [⟨if (s.slot n).st = 1 then 0 else (s.slot n).tc + (s.slot n).horizon, .platform tag, none⟩] := by
  rw [State.platformHold, State.request, State.slot_modSlot, if_neg]
  intro hb
  obtain ⟨r, hr, hp⟩ := List.any_eq_true.mp hb
  simp only [Bool.and_eq_true, beq_iff_eq, Option.isNone_iff_eq_none] at hp
  exact (not_asked_iff _ _).mp h r hr hp.1.2 hp.2

/-! ## Thermal zones -/

theorem State.coldStep_off {s : State} {d : Nat} {x : Int} (h : s.plat.boot.step ≠ 4) : s.coldStep d x = s := if_pos (bne_iff_ne.mpr h)

theorem State.planZone_plat (s : State) (d : Nat) : (s.planZone d).plat = s.plat := by
  unfold State.planZone
  dsimp only
  split <;> rfl

theorem State.enterStopped_temps (s : State) (n stop : Nat) : (s.enterStopped n stop).plat.temps = s.plat.temps := by
  unfold State.enterStopped State.dropQuads
  dsimp only
  split <;> split <;> rfl

theorem State.killSlot_temps (s : State) (n : Nat) : (s.killSlot n).plat.temps = s.plat.temps := by
  unfold State.killSlot
  dsimp only
  split
  · split <;> rfl
  split
  · exact (State.enterStopped_temps ..).trans (congrArg Plat.temps (s.abortRounds_engine n).plat :)
  · rfl

theorem State.stopDie_temps (s : State) (d : Nat) : (s.stopDie d).plat.temps = s.plat.temps := by
  refine List.foldlRecOn _ _ (motive := fun t : State => t.plat.temps = s.plat.temps) rfl fun t ht n _ => ?_
  rw [← ht]
  split
  · exact State.enterStopped_temps ..
  · exact State.killSlot_temps ..

/-- A start that fails with a critical die changes no temperature. -/
theorem State.failStart_temps (s : State) (k : Nat) : (if s.plat.boot.step = 4 || s.plat.boot.step = 6 then s.failStart k else s).plat.temps = s.plat.temps := by
  split <;> rfl

theorem State.zoneStops_temps (s : State) (d w : Nat) :
    (if w = 3 then
      let t := ((s.stopDie d).quadsOff d).stacksOff d
      if t.plat.boot.step = 4 || t.plat.boot.step = 6 then t.failStart 6 else t
    else s).plat.temps = s.plat.temps := by
  split
  · exact (State.failStart_temps ..).trans (s.stopDie_temps d)
  · rfl

/-- A die that enters a zone stands in it from now on (R401). -/
theorem State.enterZone_thermal (s : State) (d w : Nat) : (s.enterZone d w).thermal d = { s.thermal d with zone := w, since := s.ns } := by
  let s1 := s.relevelDie d fun s => s.modThermal d fun t => { t with zone := w, since := s.ns }
  let z := (s.thermal d).zone
  let s2 := if w = 1 then s1.warnEvent d true else if z = 1 then s1.warnEvent d false else s1
  have h1 : s1.thermal d = { s.thermal d with zone := w, since := s.ns } := by
    rw [State.thermal_relevelDie, State.thermal_modThermal]
  have h2 : s2.plat = s1.plat := by
    dsimp only [s2]
    split
    · rfl
    split <;> rfl
  have heq (t : State) (ht : t.plat.temps = s2.plat.temps) : t.thermal d = { s.thermal d with zone := w, since := s.ns } := by
    rw [← h1, State.thermal, ht, h2]
    rfl
  exact heq _ (s2.zoneStops_temps d w)

/-! ## Self-tests -/

/-- A core whose array has been tested: what it remembers of the sub-arrays that passed is dropped (R265). -/
def State.tested (s : State) (c : Nat) (b : BitVec 4) : State :=
  s.modCore c fun x => { x with arr := x.arr.passed (~~~((s.fencedBits (quadOf c)).extractLsb' (4 * (c % 4)) 4) &&& ~~~b) }

/-- The state in which the sub-arrays that failed are fenced. -/
def State.testFenced (s : State) (c : Nat) (b bad : BitVec 4) : State := (s.tested c b).fence (quadOf c) (bad.zeroExtend 16 <<< (4 * (c % 4)))

theorem State.testFenced_keeps (s : State) (c : Nat) (b bad : BitVec 4) :
    (s.testFenced c b bad).slots = s.slots ∧ ((s.testFenced c b bad).core c).arr.report = (s.core c).arr.report := by
  obtain ⟨hs, hc, -⟩ := (s.tested c b).fence_keeps (quadOf c) (bad.zeroExtend 16 <<< (4 * (c % 4)))
  refine ⟨hs, ?_⟩
  have : ((s.testFenced c b bad).core c).arr.report = ((s.tested c b).core c).arr.report := (congrArg (fun x : Core => x.arr.report) (hc c) :)
  rw [this, State.tested, State.core_modCore]
  rfl

/-- A cohort's core has its trap for sub-arrays that failed under the report policy (R265). -/
def State.testReported (u : State) (c n : Nat) (bad : BitVec 4) : State :=
  ((u.blurArray c bad).modCore c fun y => { y with arr := { y.arr with unsound := y.arr.unsound ||| bad } }).modSlot n fun x =>
    { x with traps := x.traps ++ [u.rattleTrap c bad] }

/-- A self-test by whether its array is busy and a cohort holds its core (R265). -/
def State.rattled (s : State) (c n : Nat) (b bad : BitVec 4) (mine busy : Bool) : State :=
  let t := if busy then s else s.tested c b
  if bad = 0 || busy then t
  else
    let u := t.fence (quadOf c) (bad.zeroExtend 16 <<< (4 * (c % 4)))
    if !mine then u else if (u.core c).arr.report then u.testReported c n bad else u.faultAt c 2 .matrix 4 0 0

theorem State.rattled_busy {s : State} {c n : Nat} {b bad : BitVec 4} {mine : Bool} : s.rattled c n b bad mine true = s := by
  simp [State.rattled]

theorem State.rattled_passed {s : State} {c n : Nat} {b bad : BitVec 4} {mine : Bool} (h : bad = 0) : s.rattled c n b bad mine false = s.tested c b := by
  simp [State.rattled, h]

theorem State.rattled_failed {s : State} {c n : Nat} {b bad : BitVec 4} {mine : Bool} (h : bad ≠ 0) : s.rattled c n b bad mine false =
    if !mine then s.testFenced c b bad else if ((s.testFenced c b bad).core c).arr.report then (s.testFenced c b bad).testReported c n bad
      else (s.testFenced c b bad).faultAt c 2 .matrix 4 0 0 := if_neg (by simpa using h)

theorem State.rattled_fault {s : State} {c n : Nat} {b bad : BitVec 4} (h : bad ≠ 0) (hr : (s.core c).arr.report = false) :
    s.rattled c n b bad true false = (s.testFenced c b bad).faultAt c 2 .matrix 4 0 0 := by
  rw [State.rattled_failed h, (s.testFenced_keeps c b bad).2, hr]
  rfl

theorem State.rattled_reported {s : State} {c n : Nat} {b bad : BitVec 4} (h : bad ≠ 0) (hr : (s.core c).arr.report = true) :
    s.rattled c n b bad true false = (s.testFenced c b bad).testReported c n bad := by
  rw [State.rattled_failed h, (s.testFenced_keeps c b bad).2, hr]
  rfl

/-- The trap follows those that its slot has. -/
theorem State.testReported_traps (s : State) (c n : Nat) (b bad : BitVec 4) :
    (((s.testFenced c b bad).testReported c n bad).slot n).traps = (s.slot n).traps ++ [(s.testFenced c b bad).rattleTrap c bad] := by
  rw [State.testReported, State.slot_modSlot]
  refine congrArg (· ++ _) (((s.testFenced c b bad).blurArray_traps c bad n).trans ?_)
  rw [State.slot, (s.testFenced_keeps c b bad).1]
  rfl

/-! ## Leases and changes of frequency -/

/-- A change of frequency by what its cohort does (R353, R396). -/
theorem exec_frequencyChangeDone (n k : Nat) (s : State) : exec (.frequencyChangeDone n k) s = .next (
    if !(s.slot n).live && (s.slot n).st != 1 then s
    else if (s.slot n).tuning = some k then (s.modSlot n fun y => { y with freq := s.freqNext n k, tuning := none }).tuned n k
    else if (s.slot n).tuning.isSome || !(s.slot n).stillFor k then s.inClocks 1 (.frequencyChangeDone n k)
    else if (s.slot n).freq = s.freqNext n k then s.tuned n k
    else (s.modSlot n fun y => { y with tuning := some k }).inClocks freqClocks (.frequencyChangeDone n k)) := rfl

/-- A change that belongs to no grant leads to the level in force. -/
theorem State.freqNext_of_ne {s : State} {n k : Nat} (hk : k ≠ 2) : s.freqNext n k = 48 + 2 * min (s.levelInForce n) 15 := by
  rw [State.freqNext, if_neg (show ¬k = tagGrant from hk)]
  rfl

theorem State.tuned_of_ne {s : State} {n k : Nat} (hk : k ≠ 2) : s.tuned n k = s.clearCause n (.platform k) := if_neg hk

theorem runs_iff (x : Slot) : (!x.live && x.st != 1) = true ↔ ¬(x.live = true ∨ x.st = 1) := by
  cases x.live <;> simp

theorem State.powerCheck_keeps (s : State) (n : Nat) : (s.powerCheck n).cores = s.cores ∧ (s.powerCheck n).clock = s.clock := by
  unfold State.powerCheck
  dsimp only
  split
  · exact ⟨rfl, rfl⟩
  · split <;> exact ⟨rfl, rfl⟩

/-- The highest of some numbers bounds them and is one of them. -/
theorem foldl_max_spec (a : Int) (xs : List Int) : (∀ x ∈ a :: xs, x ≤ xs.foldl max a) ∧ xs.foldl max a ∈ a :: xs := by
  induction xs generalizing a with
  | nil => simp
  | cons b xs ih =>
    obtain ⟨hle, hmem⟩ := ih (max a b)
    have hab : max a b ≤ xs.foldl max (max a b) := hle _ List.mem_cons_self
    refine ⟨fun x hx => ?_, ?_⟩
    · rcases List.mem_cons.mp hx with rfl | hx
      · exact Int.le_trans (Int.le_max_left ..) hab
      rcases List.mem_cons.mp hx with rfl | hx
      · exact Int.le_trans (Int.le_max_right ..) hab
      · exact hle x (List.mem_cons_of_mem _ hx)
    · rcases List.mem_cons.mp hmem with h | h
      · have hone : max a b = a ∨ max a b = b := by omega
        rcases hone with hm | hm
        · exact List.mem_cons.mpr (.inl (h.trans hm))
        · exact List.mem_cons_of_mem _ (List.mem_cons.mpr (.inl (h.trans hm)))
      · exact List.mem_cons_of_mem _ (List.mem_cons_of_mem _ h)

/-- A reading that names all 12 sensors is their values (R400). -/
theorem Thermal.readAs_all (t : Thermal) {xs : List Int} (h : xs.length = 12) : t.readAs xs = xs := by
  refine List.ext_getElem (by simp [Thermal.readAs, h]) fun i h1 h2 => ?_
  simp [Thermal.readAs, h2]

/-- What a reading of all sensors of a die leaves, once the start is over (R400). -/
theorem State.thermal_read {s : State} (d : Nat) {xs : List Int} (inlet : Int) (hb : s.plat.boot.step ≠ 4) (hx : xs.length = 12) :
    ∃ t, exec (.thermalSensorRead d xs inlet) s = .next t ∧ t.plat.inlet = inlet ∧ (t.thermal d).reading = xs.foldl max (xs.headD 0) ∧
      (t.thermal d).zone = (s.thermal d).zone := by
  let s1 := (s.modPlat fun p => { p with inlet := inlet }).modThermal d fun t =>
    { t with sensors := xs, reading := xs.foldl max (xs.headD 0), coldest := xs.foldl min (xs.headD 0), tdie := degrees (xs.foldl max (xs.headD 0)) }
  let s2 := if 45 < inlet && !s.plat.hotInlet then (List.range 8).foldl (fun (s : State) e => s.warnEvent e ((s.thermal e).zone == 1)) s1 else s1
  have h1 : s1.thermal d = { s.thermal d with sensors := xs, reading := xs.foldl max (xs.headD 0), coldest := xs.foldl min (xs.headD 0), tdie := degrees (xs.foldl max (xs.headD 0)) } :=
    State.thermal_modThermal ..
  have h2 : s2.plat = s1.plat := by
    dsimp only [s2]
    split
    · exact List.foldlRecOn _ _ (motive := fun u : State => u.plat = s1.plat) rfl fun u hu e _ => hu
    · rfl
  have hp : (s2.planZone d).plat = s1.plat := (s2.planZone_plat d).trans h2
  have ht : (s2.planZone d).thermal d = s1.thermal d := by
    rw [State.thermal, hp]
    rfl
  refine ⟨s2.planZone d, ?_, ?_, ?_, ?_⟩
  · dsimp only [exec, execThermalSensorRead]
    rw [Thermal.readAs_all _ hx]
    refine congrArg _ (State.coldStep_off (s := s2.planZone d) ?_)
    rw [hp]
    exact hb
  · rw [hp]
    rfl
  · rw [ht, h1]
  · rw [ht, h1]

/-- Settles O56: each event by its guard. -/
theorem platformEvents : Obligations.PlatformEvents := by
  unfold Obligations.PlatformEvents
  intro s
  refine ⟨fun c b => ?_, fun q b => ⟨fun failed hd => congrArg _ (if_pos hd), fun hd => ⟨?_, fun hwf => ?_⟩⟩, fun d l hm vm => ⟨fun h => ?_, fun h1 h2 => ?_⟩,
    fun d l h => ?_, fun d l hw hn ha hc => exec_retrainSliceStart_free hw hn ha hc, fun d l h => exec_retrainSliceEnd_active h, fun r => rfl,
    fun hf r ha hu => State.admitPower_one hf ha hu, fun r => ⟨fun h => ?_, fun h hf => ?_⟩, fun q => ⟨?_, ?_⟩, ?_, fun d xs inlet hb hx => ?_,
    fun d => ⟨fun h => ?_, fun h1 h2 => ?_⟩, fun n => ⟨fun l hl => ⟨?_, fun k hk => ?_⟩, fun hr => ?_, fun hr ha => ?_, fun t v hr ha => ⟨fun h => ?_, fun h => ?_⟩,
      fun k => ⟨fun h => ?_, fun h ht hst => ?_, fun h hk => ⟨fun ht => ?_, fun ht hst hf => ?_, fun ht hst hf => ?_⟩⟩⟩⟩
  · intro q bad n mine busy r u
    have hex : exec (.rattle c b) s = .next (s.rattled c n b bad mine busy) := rfl
    refine ⟨fun hb => ?_, fun hb h0 => ?_, fun hb h0 hm => ?_, fun hb h0 hm hr => ?_, fun hb h0 hm hr => ?_⟩
    · rw [hex, hb, State.rattled_busy]
    · rw [hex, hb, State.rattled_passed h0]
      rfl
    · rw [hex, hb, State.rattled_failed h0, hm]
      rfl
    · rw [hex, hb, hm, State.rattled_fault h0 hr]
      rfl
    · rw [hex, hb, hm, State.rattled_reported h0 hr]
      exact ⟨_, _, rfl, s.testReported_traps c n b bad, rfl, rfl, rfl⟩
  · exact congrArg _ ((if_neg (ne_true_of_eq_false hd)).trans (if_neg Bool.false_ne_true))
  · exact ⟨_, congrArg Host.Outcome.next ((if_neg (ne_true_of_eq_false hd)).trans (if_pos rfl)), State.fence_bits q _ hwf⟩
  · exact congrArg _ (if_pos (Bool.or_eq_true_iff.mpr (h.imp_left decide_eq_true)))
  · obtain ⟨t, ht, he⟩ := State.measure_eye d l hm vm h1 h2
    exact ⟨t, ht, congrArg Eye.hm he, congrArg Eye.vm he, (congrArg (fun e : Eye => e.hmin.toNat) he).trans (toNat_lower ..),
      (congrArg (fun e : Eye => e.vmin.toNat) he).trans (toNat_lower ..)⟩
  · exact congrArg _ (if_pos (Bool.or_eq_true_iff.mpr (.inl (congrArg not h))))
  · exact congrArg _ (if_pos (congrArg not h))
  · obtain ⟨hu, hk, hff, hq⟩ := (s.modPlat fun p => { p with units := p.units - inrushCost r, waking := p.waking.erase r }).turnOn_keeps r
    refine ⟨_, congrArg Host.Outcome.next ((if_neg ?_).trans (State.grantPower_empty 65 (hff.trans hf))), hu, hk, hq⟩
    exact fun hb => Bool.false_ne_true ((congrArg not h).symm.trans hb)
  · let tag := tagDroop q
    let s1 := (s.unplan fun i => i == .droopClear q).modPlat fun p => { p with droops := q :: p.droops.filter (· != q) }
    let s2 := match s.quadHolder q with
      | some n => if (s.slot n).asked tag || !((s.slot n).live || (s.slot n).st == 1) then s1 else s1.platformHold n tag
      | none => s1
    have hplat : s2.plat = s1.plat ∧ s2.clock = s1.clock := by
      dsimp only [s2]
      split
      · split <;> exact ⟨rfl, rfl⟩
      · exact ⟨rfl, rfl⟩
    refine ⟨s2.inClocks 256 (.droopClear q), rfl, ?_, ?_, fun n hq hlive hno => ?_⟩
    · show q ∈ s2.plat.droops
      rw [hplat.1]
      exact List.mem_cons_self
    · show (s2.timers ++ [(s2.clock + 256, _)]).getLast? = _
      rw [hplat.2, List.getLast?_append]
      rfl
    · have hask : (s.slot n).asked tag = false := (not_asked_iff _ _).mpr hno
      have h2 : s2 = s1.platformHold n tag := by
        dsimp only [s2]
        rw [hq]
        refine if_neg ?_
        rw [hask]
        rcases hlive with h | h <;> simp [h]
      show (s2.slot n).reqs = _
      rw [h2]
      exact State.platformHold_new (s := s1) hask
  · let t := s.modPlat fun p => { p with droops := p.droops.filter (· != q) }
    have hkeep : (t.clearPlatform (tagDroop q)).plat = t.plat ∧ (t.clearPlatform (tagDroop q)).timers = t.timers :=
      List.foldlRecOn _ _ (motive := fun u : State => u.plat = t.plat ∧ u.timers = t.timers) ⟨rfl, rfl⟩ fun u hu n _ => hu
    refine ⟨t.clearPlatform (tagDroop q), rfl, ?_, hkeep.2, fun n => (not_asked_iff _ _).mp (t.clearPlatform_asked (tagDroop q) n)⟩
    rw [hkeep.1]
    exact fun hq => bne_iff_ne.mp (List.mem_filter.mp hq).2 rfl
  · let s1 := s.running.foldl State.powerCheck s
    have hkeep : s1.cores = s.cores ∧ s1.clock = s.clock :=
      List.foldlRecOn _ _ (motive := fun u : State => u.cores = s.cores ∧ u.clock = s.clock) ⟨rfl, rfl⟩ fun u hu n _ => by
        rw [← hu.1, ← hu.2]
        exact u.powerCheck_keeps n
    refine ⟨_, rfl, ?_, hkeep.1⟩
    show (_ ++ [(s1.clock + 1750000, _)]).getLast? = _
    rw [hkeep.2, List.getLast?_append]
    rfl
  · obtain ⟨t, hex, hi, hr, hz⟩ := State.thermal_read d inlet hb hx
    obtain ⟨y, ys, rfl⟩ := List.exists_cons_of_ne_nil (fun h : xs = [] => by rw [h] at hx; exact nomatch hx)
    have hmax : (y :: ys).foldl max ((y :: ys).headD 0) = ys.foldl max y := by
      show ys.foldl max (max y y) = _
      rw [Int.max_self]
    rw [hmax] at hr
    exact ⟨t, hex, hi, fun x hx => hr ▸ (foldl_max_spec y ys).1 x hx, hr ▸ (foldl_max_spec y ys).2, hz⟩
  · exact congrArg _ (if_pos (Bool.or_eq_true_iff.mpr (h.imp decide_eq_true decide_eq_true)))
  · have hz := s.enterZone_thermal d (s.thermal d).wanted
    refine ⟨_, congrArg Host.Outcome.next (if_neg fun hb => ?_), congrArg Thermal.zone hz, congrArg Thermal.since hz⟩
    exact (Bool.or_eq_true_iff.mp hb).elim (fun h => h1 (of_decide_eq_true h)) fun h => Nat.not_lt.mpr h2 (of_decide_eq_true h)
  · obtain ⟨-, -, -, -, fr, tu, rs, hs⟩ := (s.modSlot n fun x => { x with lease := none }).retune_frame n
    rw [State.slot_modSlot] at hs
    refine ⟨_, ?_, (congrArg Slot.lease hs).trans rfl, (congrArg Slot.decl hs).trans rfl⟩
    dsimp only [exec, execLeaseExpiry]
    rw [hl]
    exact congrArg _ (if_pos rfl)
  · dsimp only [exec, execLeaseExpiry]
    rw [hl]
    exact congrArg _ (if_neg hk)
  · let x := s.slot n
    let ex := s.ns + 1000 * x.lrem.2
    let u := (s.modSlot n fun y => { y with lease := some ⟨min x.lrem.1 x.ceil, ex⟩, lrem := (0, 0) }).inClocks (1750 * x.lrem.2) (.leaseExpiry n ex)
    have hu : u.slot n = { x with lease := some ⟨min x.lrem.1 x.ceil, ex⟩, lrem := (0, 0) } :=
      s.slot_modSlot n fun y => { y with lease := some ⟨min x.lrem.1 x.ceil, ex⟩, lrem := (0, 0) }
    have hlease := congrArg Slot.lease hu
    have hlrem := congrArg Slot.lrem hu
    have hex : exec (.leaseGrant n) s = .next (if u.freqWanted n = x.freq then u.later (.restoreComplete n) else u.inClocks freqClocks (.restoreComplete n)) :=
      congrArg _ (if_pos hr)
    by_cases hf : u.freqWanted n = x.freq
    · refine ⟨_, hex.trans (congrArg _ (if_pos hf)), hlease, hlrem, _, ?_, List.append_assoc ..⟩
      show s.clock < s.clock + 1 + _
      omega
    · refine ⟨_, hex.trans (congrArg _ (if_neg hf)), hlease, hlrem, _, ?_, List.append_assoc ..⟩
      show s.clock < s.clock + 35000
      omega
  · dsimp only [exec, execLeaseGrant]
    rw [if_neg hr, ha]
  · dsimp only [exec, execLeaseGrant]
    rw [if_neg hr, ha]
    refine congrArg _ ((if_pos h).trans ?_)
    rw [State.grant, ha]
  · dsimp only [exec, execLeaseGrant]
    rw [if_neg hr, ha]
    exact congrArg _ (if_neg h)
  · exact congrArg _ (if_pos ((runs_iff _).mpr h))
  · have hr : ¬(!(s.slot n).live && (s.slot n).st != 1) = true := fun hb => (runs_iff _).mp hb h
    rw [exec_frequencyChangeDone, if_neg hr, ht, hst]
    rfl
  · have hr : ¬(!(s.slot n).live && (s.slot n).st != 1) = true := fun hb => (runs_iff _).mp hb h
    rw [exec_frequencyChangeDone, if_neg hr, if_pos ht, State.tuned_of_ne hk, State.freqNext_of_ne hk]
  · have hr : ¬(!(s.slot n).live && (s.slot n).st != 1) = true := fun hb => (runs_iff _).mp hb h
    rw [exec_frequencyChangeDone, if_neg hr, ht, hst, State.freqNext_of_ne hk]
    exact congrArg _ (if_neg hf)
  · have hr : ¬(!(s.slot n).live && (s.slot n).st != 1) = true := fun hb => (runs_iff _).mp hb h
    rw [exec_frequencyChangeDone, if_neg hr, ht, hst, State.freqNext_of_ne hk]
    exact congrArg _ ((if_pos hf).trans (State.tuned_of_ne hk))

end Sys2Proof.Machine
end

section
/-! SUPPORT. The boot chain, the mailboxes and the reset of a partition (spec/20_platform.md R387, R388, R390 to R395). -/

namespace Sys2Proof.Machine

/-! ## Starts -/

/-- The state in which a start has counted itself and read its firmware (R391). -/
def State.counted (s : State) : State := s.cleared.modBoot fun b => { b with starts := b.starts + 1, image := b.firmware }

theorem State.bootRom_minimal {s : State} (h : 3 ≤ s.plat.boot.starts) : s.bootRom = s.cleared.modBoot fun b => { b with minimal := true, step := 1 } :=
  if_pos h

theorem State.bootRom_counted {s : State} (h : s.plat.boot.starts < 3) : s.bootRom =
    if firmwareReason s.plat.boot.firmware != 0 then s.counted.failStart (firmwareReason s.plat.boot.firmware)
    else if !configOk s.plat.boot.nextConfig then s.counted.failStart 3 else s.counted.loadConfig s.plat.boot.nextConfig :=
  if_neg (Nat.not_le.mpr h)

theorem State.bootRom_badFirmware {s : State} (h : s.plat.boot.starts < 3) (hf : firmwareReason s.plat.boot.firmware ≠ 0) :
    s.bootRom = s.counted.failStart (firmwareReason s.plat.boot.firmware) := by
  rw [State.bootRom_counted h, if_pos (bne_iff_ne.mpr hf)]

theorem State.bootRom_badConfig {s : State} (h : s.plat.boot.starts < 3) (hf : firmwareReason s.plat.boot.firmware = 0)
    (hc : configOk s.plat.boot.nextConfig = false) : s.bootRom = s.counted.failStart 3 := by
  rw [State.bootRom_counted h, if_neg (fun hb => bne_iff_ne.mp hb hf), hc]
  rfl

theorem State.bootRom_loaded {s : State} (h : s.plat.boot.starts < 3) (hf : firmwareReason s.plat.boot.firmware = 0)
    (hc : configOk s.plat.boot.nextConfig = true) : s.bootRom = s.counted.loadConfig s.plat.boot.nextConfig := by
  rw [State.bootRom_counted h, if_neg (fun hb => bne_iff_ne.mp hb hf), hc]
  rfl

/-- The parts of a start that hold whatever it finds. -/
theorem State.bootRom_always (s : State) : s.bootRom.clock = 0 ∧ s.bootRom.dev = [] ∧ s.bootRom.inputs = s.inputs ∧
    (s.plat.boot.starts < 3 → s.bootRom.plat.boot.starts = s.plat.boot.starts + 1 ∧ s.bootRom.plat.boot.image = s.plat.boot.firmware) := by
  by_cases h : 3 ≤ s.plat.boot.starts
  · rw [State.bootRom_minimal h]
    exact ⟨rfl, rfl, rfl, fun hlt => absurd h (Nat.not_le.mpr hlt)⟩
  · have hlt : s.plat.boot.starts < 3 := Nat.lt_of_not_le h
    by_cases hf : firmwareReason s.plat.boot.firmware = 0
    · cases hc : configOk s.plat.boot.nextConfig with
      | false =>
        rw [State.bootRom_badConfig hlt hf hc]
        exact ⟨rfl, rfl, rfl, fun _ => ⟨rfl, rfl⟩⟩
      | true =>
        rw [State.bootRom_loaded hlt hf hc]
        exact ⟨rfl, rfl, rfl, fun _ => ⟨rfl, rfl⟩⟩
    · rw [State.bootRom_badFirmware hlt hf]
      exact ⟨rfl, rfl, rfl, fun _ => ⟨rfl, rfl⟩⟩

/-- A die that has heated itself for twenty minutes ends the start (R395). -/
theorem exec_selfHeatTimeout_over {s : State} {d k : Nat} (hb : s.plat.boot.step = 4) (hd : d < 8) (hc : s.coldOf d = ⟨3, some k, true⟩)
    (hk : k + twentyMinutes ≤ s.clock) : exec .selfHeatTimeout s = .next (s.failStart 4) := by
  refine congrArg Host.Outcome.next (if_pos (Bool.and_eq_true_iff.mpr ⟨decide_eq_true hb, List.any_eq_true.mpr ⟨d, List.mem_range.mpr hd, ?_⟩⟩))
  rw [hc]
  exact Bool.and_eq_true_iff.mpr ⟨rfl, decide_eq_true hk⟩

theorem State.coldOf_loadConfig (s : State) (c : List Byte) {d : Nat} (hd : d < 8) : (s.loadConfig c).coldOf d = ⟨1, none, true⟩ := by
  show Tbl.get Cold.reset ((List.range 8).map fun d => (d, ({ Cold.reset with step := 1, coolReq := true } : Cold))) d = _
  match d, hd with
  | 0, _ | 1, _ | 2, _ | 3, _ | 4, _ | 5, _ | 6, _ | 7, _ => rfl

/-! ## Measurements -/

/-- A measurement extends one register (R393). -/
theorem extend_at (mr : List (BitVec 256)) (i : Nat) (d : BitVec 256) (h : mr.length = 8) :
    (((List.range 8).zip mr).map fun (e : Nat × BitVec 256) => if e.1 = i then extendMr e.2 d else e.2) = mr.set i (extendMr (mr.getD i 0) d) := by
  refine List.ext_getElem (by simp [h]) fun j h1 h2 => ?_
  have hj : j < mr.length := by simpa using h2
  simp only [List.getElem_map, List.getElem_zip, List.getElem_range, List.getElem_set]
  by_cases hij : j = i
  · subst hij
    simp [hj]
  · rw [if_neg hij, if_neg (Ne.symm hij)]

/-! ## The mailboxes -/

theorem State.mailbox_modBox (s : State) (fn : Nat) (f : Mailbox → Mailbox) : (s.modBox fn f).mailbox fn = f (s.mailbox fn) := Tbl.get_set_self _ _ _ _

theorem State.mailbox_modBox_ne (s : State) {fn g : Nat} (f : Mailbox → Mailbox) (h : g ≠ fn) : (s.modBox fn f).mailbox g = s.mailbox g :=
  Tbl.get_set_ne _ _ _ h

theorem State.mailbox_answer (s : State) (fn status : Nat) (reply : List Byte) :
    (s.answer fn status reply).mailbox fn = { s.mailbox fn with status := status, reply := reply } := State.mailbox_modBox ..

theorem State.command_other {s : State} {op : Nat} {k : Nat → State} (h : (s.mailbox s.caller).opcode.toNat ≠ op) : s.command op k = s := if_neg h

theorem State.command_own {s : State} {op : Nat} {k : Nat → State} (h : (s.mailbox s.caller).opcode.toNat = op) : s.command op k = k s.caller := if_pos h

theorem Mailbox.restartOk_iff (x : Mailbox) : x.restartOk = true ↔
    ∃ n, x.nonce = some n ∧ (keySlot x.payload).isSome = true ∧ signedFor x.payload (leBytes 32 n.toNat) = true := by
  unfold Mailbox.restartOk
  cases x.nonce with
  | none => simp
  | some n => simp

theorem take_drop_middle {α : Type} {xs ns ys : List α} {k m : Nat} (hx : xs.length = k) (hn : ns.length = m) : ((xs ++ ns ++ ys).drop k).take m = ns := by
  rw [List.append_assoc, ← hx, List.drop_left, ← hn, List.take_left]

/-- The nonce of a status reply stands after its first four bytes (R394). -/
theorem State.statusReply_nonce (s : State) (fn : Nat) (nonce : List Byte) (h : nonce.length = 32) : ((s.statusReply fn nonce).drop 4).take 32 = nonce := by
  unfold State.statusReply
  dsimp only
  rw [List.append_assoc, List.append_assoc]
  exact take_drop_middle (by simp [List.range_succ]) h

/-- A report begins with the host's nonce (R393). -/
theorem State.take_report (s : State) (fn : Nat) (ys : List Byte) (h : (s.mailbox fn).payload.length = 32) :
    (s.report fn ++ ys).take 32 = (s.mailbox fn).payload := by
  rw [State.report, List.take_of_length_le (Nat.le_of_eq h), List.append_assoc, List.append_assoc, List.append_assoc]
  exact List.take_left' h

/-- A master that is thawed goes on, and its entries of the log are live no more (R390). -/
theorem State.thaw_spec (s : State) (m : Nat) : m ∉ (s.thaw m).plat.frozen ∧ (∀ f ∈ (s.thaw m).plat.flog, f.master = m → f.live = false) ∧
    (s.thaw m).plat.boot = s.plat.boot := by
  have h : (s.thaw m).plat = { s.plat with
      frozen := s.plat.frozen.filter (· != m), flog := s.plat.flog.map fun e => if e.master = m then { e with live := false } else e } := by
    unfold State.thaw
    dsimp only
    split <;> rfl
  rw [h]
  refine ⟨fun hm => bne_iff_ne.mp (List.mem_filter.mp hm).2 rfl, fun f hf hfm => ?_, rfl⟩
  obtain ⟨e, -, rfl⟩ := List.mem_map.mp hf
  by_cases he : e.master = m
  · rw [if_pos he]
  · rw [if_neg he] at hfm
    exact absurd hfm he

theorem State.thaw_keeps (s : State) (m : Nat) : (s.thaw m).clock = s.clock ∧ (s.thaw m).plat.partcfg = s.plat.partcfg ∧ (s.thaw m).slots = s.slots ∧
    (s.thaw m).outs = s.outs := by
  unfold State.thaw
  dsimp only
  split <;> exact ⟨rfl, rfl, rfl, rfl⟩

/-- The records of a table whose numbers leave it. -/
theorem Tbl.get_filter {α : Type} (d : α) (t : Tbl α) (p : Nat → Bool) (a : Nat) :
    Tbl.get d (t.filter fun e => p e.1) a = if p a then Tbl.get d t a else d := by
  induction t with
  | nil => simp [Tbl.get]
  | cons e t ih =>
    obtain ⟨k, v⟩ := e
    by_cases hk : a = k
    · subst hk
      by_cases hp : p a = true
      · rw [List.filter_cons_of_pos (by exact hp), Tbl.get, Tbl.get, if_pos rfl, if_pos rfl, if_pos hp]
      · rw [List.filter_cons_of_neg (by exact hp), ih, if_neg hp, if_neg hp]
    · by_cases hp : p k = true
      · rw [List.filter_cons_of_pos (by exact hp), Tbl.get, Tbl.get, if_neg hk, if_neg hk, ih]
      · rw [List.filter_cons_of_neg (by exact hp), ih, Tbl.get, if_neg hk]

/-- A partition whose slots, cores and platform parts have gone back to reset (R388). -/
def State.partCleared (s : State) (ds ns : List Nat) : State :=
  { s with
    cores := s.cores.filter fun e => !ds.contains (dieOf e.1)
    slots := s.slots.filter fun e => !ns.contains e.1
    qs := s.qs.filter fun e => !ds.contains (e.1 / 0x800000 / 24)
    outs := s.outs.filter fun a => !ns.contains a.slot
    tlbi := s.tlbi.filter fun e => !ds.contains (dieOf e.1)
    tlb1 := s.tlb1.filter fun e => !ds.contains (dieOf e.1)
    tlb2 := s.tlb2.filter fun e => !ds.contains (e.1 / 24) }

/-- The supervisor cores of some dies start again. -/
def State.partStarted (s : State) (ds : List Nat) (run : Bool) : State :=
  ((List.range 16).filter fun v => ds.contains (v / 2)).foldl (fun s v => s.modCore (768 + v) fun x => { x with sup := { x.sup with running := run } }) s

theorem State.partStarted_keeps (s : State) (ds : List Nat) (run : Bool) : (s.partStarted ds run).clock = s.clock ∧ (s.partStarted ds run).plat = s.plat ∧
    (s.partStarted ds run).slots = s.slots ∧ (s.partStarted ds run).outs = s.outs ∧ ∀ c, c < 768 → (s.partStarted ds run).core c = s.core c :=
  List.foldlRecOn _ _ (motive := fun t : State => t.clock = s.clock ∧ t.plat = s.plat ∧ t.slots = s.slots ∧ t.outs = s.outs ∧ ∀ c, c < 768 → t.core c = s.core c)
    ⟨rfl, rfl, rfl, rfl, fun _ _ => rfl⟩ fun t ht v _ =>
      ⟨ht.1, ht.2.1, ht.2.2.1, ht.2.2.2.1, fun c hc => (t.core_modCore_ne _ (by omega)).trans (ht.2.2.2.2 c hc)⟩

/-- Settles O57: the steps of the boot chain, the commands by their opcodes, and the reset of a partition. -/
theorem bootEvents : Obligations.BootEvents := by
  unfold Obligations.BootEvents
  intro s b
  refine ⟨?_, fun hb => ⟨?_, ?_⟩, fun hb => ⟨congrArg _ (if_neg hb), congrArg _ (if_neg hb)⟩, fun hb => ?_, fun d k hb hd hc hk => ?_, ?_,
    fun fn a data => ⟨fun h => congrArg _ (if_pos h), fun h => congrArg _ (if_neg (ne_true_of_eq_false h))⟩, fun data => ⟨fun hb hl => ?_, fun h6 h7 => ?_⟩,
    fun i data hb h4 h8 hl => ?_, fun fn op data => ?_, fun part => ?_⟩
  · obtain ⟨hck, hdev, hin, hall⟩ := s.bootRom_always
    refine ⟨s.bootRom, rfl, hck, hdev, hin, fun h => ?_, fun h => ⟨(hall h).1, (hall h).2, fun hf hc => ?_, fun hf => ?_, fun hf hc => ?_⟩⟩
    · rw [State.bootRom_minimal h]
      exact ⟨rfl, rfl⟩
    · rw [State.bootRom_loaded h hf hc]
      exact ⟨rfl, rfl, rfl, fun d hd => State.coldOf_loadConfig _ _ hd⟩
    · rw [State.bootRom_badFirmware h hf]
      rfl
    · rw [State.bootRom_badConfig h hf hc]
      rfl
  · exact ⟨_, congrArg Host.Outcome.next (if_pos hb), rfl, rfl, rfl⟩
  · refine ⟨_, congrArg Host.Outcome.next (if_pos hb), rfl, ?_⟩
    exact List.getLast?_append.trans rfl
  · exact congrArg _ (if_neg fun h => hb (of_decide_eq_true (Bool.and_eq_true_iff.mp h).1))
  · rw [← show twentyMinutes = 2100000000000 from rfl] at hk
    exact ⟨s.failStart 4, exec_selfHeatTimeout_over hb hd hc hk, rfl⟩
  · intro fn x holds
    refine ⟨fun e he hno => ?_, fun h => ?_, fun h => ?_, fun h => ?_, fun h hlen => ?_, fun h hlen => ?_, fun h => ?_, fun e h he hl => ?_, fun h hn => ?_,
      fun h => ?_⟩
    · simp only [List.mem_cons, List.not_mem_nil, or_false] at he
      rcases he with rfl | rfl | rfl | rfl | rfl | rfl <;> exact congrArg _ (State.command_other hno)
    · refine ⟨_, congrArg Host.Outcome.next (State.command_own h), rfl, ?_, rfl⟩
      exact congrArg Mailbox.status ((s.modBoot _).mailbox_answer fn 0 [])
    · refine ⟨_, congrArg Host.Outcome.next (State.command_own h), rfl, ?_, rfl⟩
      exact congrArg Mailbox.status ((s.modBoot _).mailbox_answer fn 0 [])
    · refine ⟨_, congrArg Host.Outcome.next (State.command_own h), fun n hn hk hs => ?_, fun hbad => ?_⟩
      · have hok : x.restartOk = true := (Mailbox.restartOk_iff x).mpr ⟨n, hn, hk, hs⟩
        have hbox := (((s.modBoot fun b => { b with starts := 0 }).modBox fn fun b => { b with nonce := none })).mailbox_answer fn 0 []
        rw [State.mailbox_modBox] at hbox
        rw [if_pos hok]
        exact ⟨rfl, congrArg Mailbox.status hbox, congrArg Mailbox.nonce hbox, rfl⟩
      · refine if_neg fun hok => ?_
        obtain ⟨n, hn, hk, hs⟩ := (Mailbox.restartOk_iff x).mp hok
        rcases hbad n hn with h | h
        · rw [h] at hk
          exact nomatch hk
        · exact Bool.false_ne_true (h.symm.trans hs)
    · have hbox := s.mailbox_answer fn 0 (s.report fn ++ Config.sign (s.report fn))
      refine ⟨_, congrArg Host.Outcome.next ((State.command_own h).trans (if_pos hlen)), congrArg Mailbox.status hbox, ?_, rfl⟩
      rw [congrArg Mailbox.reply hbox]
      exact s.take_report fn _ hlen
    · exact congrArg _ ((State.command_own h).trans (if_neg hlen))
    · let nonce := (s.freeBytes 32).1
      have hlen : nonce.length = 32 := by simp [nonce, State.freeBytes]
      let u := (s.freeBytes 32).2
      have hbox := (u.modBox fn fun b => { b with nonce := some (BitVec.ofNat 256 (leNat nonce)) }).mailbox_answer fn 0 (u.statusReply fn nonce)
      rw [State.mailbox_modBox] at hbox
      refine ⟨_, congrArg Host.Outcome.next (State.command_own h), congrArg Mailbox.status hbox, rfl, rfl, ?_⟩
      have hr := congrArg Mailbox.reply hbox
      have hn := congrArg Mailbox.nonce hbox
      dsimp only at hr hn
      rw [show Mailbox.nonce _ = _ from hn, show Mailbox.reply _ = _ from hr, u.statusReply_nonce fn nonce hlen]
    · obtain ⟨hfz, hfl, hboot⟩ := s.thaw_spec e.master
      have hbox := (s.thaw e.master).mailbox_answer fn 0 []
      have hex : exec .unfreeze s = .next ((s.thaw e.master).answer fn 0 []) := by
        refine congrArg _ ((State.command_own h).trans ?_)
        rw [he]
        exact if_pos hl
      exact ⟨_, hex, hfz, congrArg Mailbox.status hbox, hfl⟩
    · refine congrArg _ ((State.command_own h).trans ?_)
      rw [hn]
    · refine congrArg _ (if_neg fun hb => ?_)
      obtain ⟨h1, h6⟩ := Bool.and_eq_true_iff.mp hb
      have h1 : 1 ≤ x.opcode.toNat := of_decide_eq_true h1
      have h6 : x.opcode.toNat ≤ 6 := of_decide_eq_true h6
      omega
  · have hup : s.plat.boot.firmwareUp = true := Bool.or_eq_true_iff.mpr (hb.imp beq_iff_eq.mpr beq_iff_eq.mpr)
    exact ⟨_, congrArg Host.Outcome.next (if_pos hup), extend_at _ 3 _ hl⟩
  · refine congrArg Host.Outcome.next (if_neg fun hb => ?_)
    exact (Bool.or_eq_true_iff.mp hb).elim (fun h => h6 (eq_of_beq h)) fun h => h7 (eq_of_beq h)
  · have hup : s.plat.boot.firmwareUp = true := Bool.or_eq_true_iff.mpr (hb.imp beq_iff_eq.mpr beq_iff_eq.mpr)
    exact ⟨_, congrArg Host.Outcome.next (if_pos (Bool.and_eq_true_iff.mpr ⟨hup, decide_eq_true h4⟩)), extend_at _ i _ hl⟩
  · have hbox := s.mailbox_modBox fn fun b => { b with opcode := BitVec.ofNat 16 op, payload := data }
    refine ⟨_, rfl, rfl, congrArg Mailbox.payload hbox, congrArg Mailbox.opcode hbox, rfl, fun f hf => ?_⟩
    exact s.mailbox_modBox_ne (fun b => { b with opcode := BitVec.ofNat 16 op, payload := data }) hf
  · intro ds ns
    let masters := s.plat.frozen.filter fun m => if m < 16 then ds.contains (m / 2) else if m < 24 then ds.contains (m - 16) else ds.contains 0
    let s1 := masters.foldl State.thaw s
    have h1 : s1.clock = s.clock ∧ s1.plat.partcfg = s.plat.partcfg ∧ s1.slots = s.slots ∧ s1.outs = s.outs :=
      List.foldlRecOn masters State.thaw (motive := fun t : State => t.clock = s.clock ∧ t.plat.partcfg = s.plat.partcfg ∧ t.slots = s.slots ∧ t.outs = s.outs)
        ⟨rfl, rfl, rfl, rfl⟩ fun t ht m _ => by
          rw [← ht.1, ← ht.2.1, ← ht.2.2.1, ← ht.2.2.2]
          exact t.thaw_keeps m
    obtain ⟨hck, hpart, hslots, houts⟩ := h1
    let s2 := s1.partCleared ds ns
    let s3 := s2.partStarted ds s.plat.boot.firmwareUp
    obtain ⟨hck3, hplat3, hslots3, houts3, hcore3⟩ : _ ∧ s3.plat = s2.plat ∧ s3.slots = s2.slots ∧ s3.outs = s2.outs ∧ _ :=
      s2.partStarted_keeps ds s.plat.boot.firmwareUp
    have hslot (n : Nat) : s3.slot n = if !ns.contains n then s.slot n else Slot.reset := by
      rw [State.slot, hslots3]
      show Tbl.get Slot.reset (s1.slots.filter fun e => !ns.contains e.1) n = _
      rw [Tbl.get_filter (p := fun k => !ns.contains k), hslots]
      rfl
    refine ⟨_, rfl, hck3.trans hck, ?_, fun n hn => (hslot n).trans (if_neg ?_), fun n hn => (hslot n).trans (if_pos ?_), fun c hc hlt => ?_, fun a ha => ?_⟩
    · show s3.plat.partcfg = _
      rw [hplat3]
      exact hpart
    · simp [hn]
    · simp [hn]
    · refine (hcore3 c hlt).trans ?_
      show Tbl.get Core.reset (s1.cores.filter fun e => !ds.contains (dieOf e.1)) c = _
      rw [Tbl.get_filter (p := fun k => !ds.contains (dieOf k)), hc]
      rfl
    · have ha : a ∈ s3.outs := ha
      rw [houts3] at ha
      obtain ⟨hm, hns⟩ := List.mem_filter.mp ha
      rw [houts] at hm
      exact ⟨hm, fun hn => by simp [hn] at hns⟩

end Sys2Proof.Machine
end

section
/-! SUPPORT. Events of cohorts and supervisor cores: clocks, holds, launches, `TLBI`, saves, restores and releases (spec/00_scope.md R3,
spec/02_timetable.md R37, spec/16_prog_spaces.md R322, spec/17_scheduling.md R333 to R350, spec/18_translation.md R361), and the frame of a
translation. -/

namespace Sys2Proof.Machine

/-! ## The frame of a translation -/

/-- An access without the stage of its translation. -/
def Access.fixed (a : Access) : Access := { a with st := .walk, pages := [] }

/-- A state without what a translation fills, moves and plans. -/
def State.fixed (s : State) : State :=
  { s with cores := [], slots := [], outs := [], tlb1 := [], tlb2 := [], dev := [], done := 0, timers := [], free := 0, plat := Plat.reset }

/-- A translation goes from one state to another: `TLBI`s, accesses and what executes stand as they did. -/
structure WalkFrame (s t : State) : Prop where
  fixed : t.fixed = s.fixed
  outs : t.outs.map Access.fixed = s.outs.map Access.fixed

theorem WalkFrame.refl (s : State) : WalkFrame s s := ⟨rfl, rfl⟩

theorem WalkFrame.trans {s t u : State} (h : WalkFrame s t) (k : WalkFrame t u) : WalkFrame s u := ⟨k.fixed.trans h.fixed, k.outs.trans h.outs⟩

theorem WalkFrame.foldl {α : Type} (g : State → α → State) (h : ∀ s a, WalkFrame s (g s a)) (s : State) (l : List α) : WalkFrame s (l.foldl g s) :=
  List.foldlRecOn l g (motive := fun t : State => WalkFrame s t) (WalkFrame.refl s) fun t ht a _ => ht.trans (h t a)

theorem WalkFrame.modAccess (s : State) (id : Nat) {f : Access → Access} (hf : ∀ a, (f a).fixed = a.fixed) : WalkFrame s (s.modAccess id f) := by
  refine ⟨rfl, ?_⟩
  rw [State.modAccess, List.map_map]
  refine List.map_congr_left fun a _ => ?_
  dsimp only [Function.comp]
  split
  · exact hf a
  · rfl

theorem WalkFrame.to {s t u : State} (h : WalkFrame s t) (e : t = u) : WalkFrame s u := e ▸ h

theorem EngineFrame.walk {s t : State} (h : EngineFrame s t) : WalkFrame s t := by
  refine ⟨?_, congrArg (List.map Access.fixed) (congrArg State.outs h.rest :)⟩
  exact (congrArg (fun u : State => { u with outs := [], tlb1 := [], tlb2 := [], timers := [], free := 0 }) h.rest :)

theorem State.lookup_walk (s : State) (c asid : Nat) (p : Word) : WalkFrame s (s.lookup c asid p).2 := by
  unfold State.lookup
  split
  · exact .refl s
  · split <;> exact ⟨rfl, rfl⟩

theorem State.pageCheck_walk (s : State) (c asid : Nat) (p : Word) (k : AccKind) : WalkFrame s (s.pageCheck c asid p k).2 := by
  have h : WalkFrame s ((s.dropUnusable c asid p k).lookup c asid p).2 := by
    refine WalkFrame.trans ?_ (State.lookup_walk ..)
    unfold State.dropUnusable
    split
    · exact .refl s
    · split
      · exact .refl s
      · exact ⟨rfl, rfl⟩
  unfold State.pageCheck
  dsimp only
  split
  · exact h
  · exact h
  · split
    · exact h
    split
    · exact h
    split
    · exact h
    split
    · split <;> exact h
    · exact h

theorem State.pagesCheck_walk (s : State) (c asid : Nat) (k : AccKind) (ps : List Word) : WalkFrame s (s.pagesCheck c asid k ps).2 := by
  induction ps generalizing s with
  | nil => exact .refl s
  | cons p ps ih =>
    have h := s.pageCheck_walk c asid p k
    rw [State.pagesCheck]
    split
    next f t ht => exact h.to (congrArg Prod.snd ht)
    next t ht => exact (h.to (congrArg Prod.snd ht)).trans (ih t)

theorem State.watchHit_engine (s : State) (addr : Nat) : EngineFrame s (s.watchHit addr) := by
  refine EngineFrame.foldl _ (fun u v => EngineFrame.foldl _ (fun u j => ?_) u _) s _
  dsimp only
  split
  · exact State.event_engine ..
  · exact .refl u

/-- A change of a core's supervisor part. -/
theorem WalkFrame.modCore (s : State) (c : Nat) (f : Core → Core) : WalkFrame s (s.modCore c f) := ⟨rfl, rfl⟩

theorem WalkFrame.modSlot (s : State) (n : Nat) (f : Slot → Slot) : WalkFrame s (s.modSlot n f) := ⟨rfl, rfl⟩

theorem WalkFrame.later (s : State) (i : Instr) : WalkFrame s (s.later i) := ⟨rfl, rfl⟩

/-- A hold request that stands is not made twice. -/
theorem WalkFrame.asked (s : State) (b : Bool) (n x : Nat) (c : Cause) : WalkFrame s (if b then s else s.request n x c) := by
  split
  · exact .refl s
  · exact ⟨rfl, rfl⟩

theorem State.appendLog_walk (s : State) (v : Nat) (bytes : Nat → List Byte) : WalkFrame s (s.appendLog v bytes) := by
  refine WalkFrame.trans ?_ (State.watchHit_engine ..).walk
  refine WalkFrame.trans ?_ (WalkFrame.modCore ..)
  exact (State.devWrites_engine ..).walk

theorem State.appendNats_walk (s : State) (v : Nat) (r : List Nat) : WalkFrame s (s.appendNats v r) := by
  unfold State.appendNats
  exact State.appendLog_walk ..

theorem State.logOrWait_walk (s : State) (v : Nat) (r : List Nat) : WalkFrame s (s.logOrWait v r) := by
  unfold State.logOrWait
  dsimp only
  split
  · exact .refl s
  split
  · exact WalkFrame.modCore ..
  · exact State.appendNats_walk ..

theorem State.migDone_walk (s : State) (v m : Nat) : WalkFrame s (s.migDone v m) := by
  unfold State.migDone
  dsimp only
  split
  · exact .refl s
  · exact (WalkFrame.modCore ..).trans (State.logOrWait_walk ..)

theorem State.moveLine_walk (s : State) (v m line : Nat) : WalkFrame s (s.moveLine v m line) := by
  unfold State.moveLine
  refine WalkFrame.trans ?_ (State.migDone_walk ..)
  exact ⟨rfl, rfl⟩

theorem WalkFrame.setHomes (s : State) (dev : Map 8) (slots : Tbl Slot) : WalkFrame s { s with dev := dev, slots := slots } := ⟨rfl, rfl⟩

theorem State.loseLine_walk (s : State) (v m line : Nat) : WalkFrame s (s.loseLine v m line) := by
  unfold State.loseLine
  dsimp only
  refine WalkFrame.trans ?_ (WalkFrame.setHomes ..)
  refine WalkFrame.trans ?_ (WalkFrame.modCore ..)
  exact (State.moveLine_walk ..).trans (WalkFrame.modSlot ..)

theorem State.migReach_walk (s : State) (v m line : Nat) : WalkFrame s (eitherOf (s.migReach v m line)) := by
  unfold State.migReach
  dsimp only
  have h := s.capAccess_engine (16 + (v - 768) / 2) ((v - 768) / 2) (s.migKeys v m line).1 256 false
  split
  next t ht => exact (ht ▸ h : EngineFrame s (eitherOf (.error t))).walk
  next t ht => exact (ht ▸ h : EngineFrame s (eitherOf (.ok t))).walk.trans (State.capAccess_engine ..).walk

theorem State.pullLine_walk (s : State) (v m line : Nat) : WalkFrame s (s.pullLine v m line).1 := by
  unfold State.pullLine
  dsimp only
  have h := s.migReach_walk v m line
  split
  · exact .refl s
  split
  · exact .refl s
  split
  next t ht => exact (ht ▸ h : WalkFrame s (eitherOf (.error t)))
  next t ht =>
    have h : WalkFrame s t := (ht ▸ h : WalkFrame s (eitherOf (.ok t)))
    split
    · exact h.trans (State.loseLine_walk ..)
    · exact h.trans (State.moveLine_walk ..)

theorem State.pagesPull_walk (s : State) (c asid : Nat) (k : AccKind) (pts : List Word) (fuel : Nat) : WalkFrame s (s.pagesPull c asid k pts fuel).2 := by
  induction fuel generalizing s with
  | zero => exact .refl s
  | succ fuel ih =>
    have h := s.pagesCheck_walk c asid k pts
    rw [State.pagesPull]
    split
    next p v m line t ht =>
      have h : WalkFrame s t := h.to (congrArg Prod.snd ht)
      have hp := h.trans (t.pullLine_walk v m line)
      split
      next u hu => exact (hp.to (congrArg Prod.fst hu)).trans (ih u)
      next u hu => exact hp.to (congrArg Prod.fst hu)
      next u hu => exact hp.to (congrArg Prod.fst hu)
    · exact h

theorem State.failWith_walk (s : State) (a : Access) (r : FaultRec) : WalkFrame s (s.failWith a r) := by
  unfold State.failWith
  dsimp only
  refine WalkFrame.trans ?_ (WalkFrame.modAccess _ _ fun _ => rfl)
  split <;> exact ⟨rfl, rfl⟩

theorem State.reportError_walk (s : State) (n kind phys tc rank stream : Nat) : WalkFrame s (s.reportError n kind phys tc rank stream) :=
  (State.event_engine ..).walk.trans (State.logOrWait_walk ..)

theorem State.failAccess_walk (s : State) (a : Access) (r : FaultRec) (phys : Nat) : WalkFrame s (s.failAccess a r phys) :=
  (State.failWith_walk ..).trans (State.reportError_walk ..)

theorem State.translate_walk (s : State) (a : Access) : WalkFrame s (s.translate a) := by
  have h := s.pagesPull_walk a.core a.slot a.kind (a.parts.flatMap fun p => lineStarts p.1 p.2.length) ((a.parts.flatMap fun p => lineStarts p.1 p.2.length).length + 1)
  have hst (u : State) (f : Access → Access) (hf : ∀ a, (f a).fixed = a.fixed) : WalkFrame u (u.modAccess a.id f) := WalkFrame.modAccess u a.id hf
  unfold State.translate
  dsimp only
  refine h.trans ?_
  split
  · refine WalkFrame.trans ?_ (WalkFrame.later ..)
    refine WalkFrame.trans ?_ (WalkFrame.modSlot ..)
    exact hst _ _ fun _ => rfl
  · exact State.failWith_walk ..
  · exact hst _ _ fun _ => rfl
  · exact State.failAccess_walk ..
  · split
    · exact State.failWith_walk ..
    · split
      · refine WalkFrame.trans ?_ (hst _ _ fun _ => rfl)
        exact WalkFrame.asked ..
      split
      · refine WalkFrame.trans ?_ (WalkFrame.later ..)
        refine WalkFrame.trans ?_ (hst _ _ fun _ => rfl)
        exact WalkFrame.asked ..
      · refine WalkFrame.trans ?_ (State.appendLog_walk ..)
        refine WalkFrame.trans ?_ (hst _ _ fun _ => rfl)
        refine WalkFrame.trans ?_ (WalkFrame.modSlot ..)
        exact WalkFrame.asked ..

theorem State.rewalk_walk (s : State) (n : Nat) (p : Access → Bool) : WalkFrame s (s.rewalk n p) :=
  WalkFrame.foldl _ (fun u a => u.translate_walk a) s _

/-! ## What landings, faults and curtains leave of a slot -/

/-- A slot without its writes under way, its log, its faults and traps, and the point of its last curtain. -/
def Slot.body (x : Slot) : Slot :=
  { x.apart with lands := [], landed := [], faultsNow := [], fatal := none, stopTc := 0, later := [], traps := [], prevPt := 0, curDistNow := 0 }

theorem EngineFrame.body {s t : State} (h : EngineFrame s t) : SlotKeep Slot.body s t := h.keep fun _ => rfl

theorem SlotKeep.modCore {α : Type} {g : Slot → α} (s : State) (c : Nat) (f : Core → Core) : SlotKeep g s (s.modCore c f) := SlotKeep.of_slots rfl

theorem State.modStreamAt_body (s : State) (c st : Nat) (f : Stream → Stream) : SlotKeep Slot.body s (s.modStreamAt c st f) := SlotKeep.of_slots rfl

theorem State.addFault_body (s : State) (n : Nat) (r : FaultRec) : SlotKeep Slot.body s (s.addFault n r) := by
  refine SlotKeep.trans ?_ (State.modStreamAt_body _ r.core r.stream _)
  exact SlotKeep.modSlot s n fun _ => rfl

theorem State.faultAt_body (s : State) (c st : Nat) (k : FaultKind) (d : Nat) (addr : Word) (space : Nat) : SlotKeep Slot.body s (s.faultAt c st k d addr space) :=
  s.addFault_body _ _

theorem State.offerTo_body (s : State) (sender stream pc : Nat) (word : Word) (o : Nat) (p : Word) (len wr c : Nat) :
    SlotKeep Slot.body s (s.offerTo sender stream pc word o p len wr c) := by
  unfold State.offerTo
  dsimp only
  split
  · exact .refl s
  split
  · exact .refl s
  · exact State.addFault_body s _ _
  · split
    · refine SlotKeep.trans ?_ (State.addFault_body _ _ _)
      refine SlotKeep.trans ?_ (SlotKeep.modCore _ _ _)
      exact SlotKeep.modSlot s _ fun _ => rfl
    · refine SlotKeep.trans ?_ (SlotKeep.modCore _ _ _)
      exact SlotKeep.modSlot s _ fun _ => rfl

theorem State.accLand_body (s : State) (tc c bank key : Nat) (v : BitVec 32) (ev : BitVec 3) : SlotKeep Slot.body s (s.accLand tc c bank key v ev) := by
  unfold State.accLand
  dsimp only
  split
  · exact SlotKeep.of_slots rfl
  · exact SlotKeep.modSlot _ _ fun _ => rfl

theorem State.apply_body (s : State) (tc c : Nat) (e : Eff) : SlotKeep Slot.body s (s.apply tc c e) := by
  cases e with
  | bytes f key d => exact SlotKeep.of_slots (State.slots_setFile ..)
  | mac b row col ovw int deep sums =>
    cases sums with
    | nil => exact .refl s
    | cons v vs =>
      dsimp only [State.apply]
      split
      · exact SlotKeep.trans (SlotKeep.modCore s _ _) (State.accLand_body _ tc c b _ _ _)
      split
      · exact SlotKeep.trans (SlotKeep.modCore s _ _) (State.accLand_body _ tc c b _ _ _)
      · exact SlotKeep.trans (SlotKeep.modCore s _ _) (State.accLand_body _ tc c b _ _ _)
  | acc b row p add vals =>
    refine SlotKeep.foldl _ (fun u v => ?_) s _
    dsimp only
    split
    · exact State.accLand_body u tc c b _ _ _
    · exact SlotKeep.trans (SlotKeep.modCore u _ _) (State.accLand_body _ tc c b _ _ _)
  | bobj n p len pc word => exact SlotKeep.foldl _ (fun u d => u.offerTo_body c 4 pc word n p len 0 d) s _
  | _ => exact SlotKeep.of_slots rfl

theorem State.landDue_body (s : State) (n : Nat) : SlotKeep Slot.body s (s.landDue n) := by
  unfold State.landDue
  dsimp only
  split
  · exact .refl s
  · refine SlotKeep.trans ?_ (SlotKeep.foldl _ (fun u l => ?_) _ _)
    · exact SlotKeep.modSlot s n fun _ => rfl
    refine SlotKeep.trans (u.apply_body l.tc l.core l.eff) (SlotKeep.foldl _ (fun v c => ?_) _ _)
    split
    · exact .refl v
    · exact SlotKeep.of_slots rfl

theorem State.resolveFaults_body (s : State) (n : Nat) : SlotKeep Slot.body s (s.resolveFaults n) := by
  unfold State.resolveFaults
  dsimp only
  split
  · exact .refl s
  · exact SlotKeep.modSlot s n fun _ => rfl
  · split <;> exact SlotKeep.modSlot s n fun _ => rfl

theorem State.takeDue_body (s : State) (n t : Nat) : SlotKeep Slot.body s (s.takeDue n t) := by
  unfold State.takeDue
  dsimp only
  refine SlotKeep.trans ?_ (SlotKeep.foldl _ (fun u f => ?_) _ _)
  · exact SlotKeep.modSlot s n fun _ => rfl
  split
  · exact .refl u
  · exact u.modStreamAt_body _ _ _

theorem State.stopAll_slots (s : State) (n : Nat) : (s.stopAll n).slots = s.slots :=
  List.foldlRecOn _ _ (motive := fun t : State => t.slots = s.slots) rfl fun _ ht _ _ =>
    List.foldlRecOn _ _ (motive := fun u : State => u.slots = s.slots) ht fun _ hu _ _ => hu

theorem State.cohortFault_body (s : State) (n : Nat) (k : FaultKind) (d : Nat) : SlotKeep Slot.body s (s.cohortFault n k d) :=
  (s.faultAt_body _ 0 k d 0 0).trans (SlotKeep.of_slots (State.stopAll_slots ..))

theorem State.clearSel_slots (s : State) (n : Nat) : (s.clearSel n).slots = s.slots :=
  List.foldlRecOn _ _ (motive := fun t : State => t.slots = s.slots) rfl fun _ ht _ _ => ht

theorem State.dispatch_slots (s : State) (n seg : Nat) (segp : BitVec 32) (trap : List Word) : (s.dispatch n seg segp trap).slots = s.slots :=
  List.foldlRecOn _ _ (motive := fun t : State => t.slots = s.slots) rfl fun _ ht _ _ =>
    List.foldlRecOn _ _ (motive := fun u : State => u.slots = s.slots) ht fun _ hu _ _ => hu

theorem State.curtainRows_body (s : State) (n : Nat) (r : CurtRec) (d : Nat) (sel : Word) : SlotKeep Slot.body s (s.curtainRows n r d sel) := by
  have hgo (u : State) (p q : Slot → Nat) : SlotKeep Slot.body u ((u.clearSel n).modSlot n fun y => { y with prevPt := p y, curDistNow := q y }) :=
    SlotKeep.trans (SlotKeep.of_slots (u.clearSel_slots n)) (SlotKeep.modSlot _ n fun _ => rfl)
  unfold State.curtainRows
  dsimp only
  split
  · exact hgo s _ _
  · exact s.cohortFault_body n _ _
  · refine SlotKeep.trans ?_ (hgo _ _ _)
    refine SlotKeep.trans ?_ (SlotKeep.of_slots (State.dispatch_slots ..))
    exact SlotKeep.modSlot s n fun _ => rfl
  · exact SlotKeep.trans (SlotKeep.of_slots (State.dispatch_slots ..)) (hgo _ _ _)

theorem State.saveCore_body (s : State) (n c : Nat) (r : CurtRec) : SlotKeep Slot.body s (s.saveCore n c r) := by
  unfold State.saveCore
  refine SlotKeep.trans ?_ (SlotKeep.foldl _ (fun u e => SlotKeep.foldl _ (fun v w => (State.devWrites_engine ..).body) u _) _ _)
  exact (State.devWrites_engine ..).body

/-! ## Clocks -/

/-- Clock and timebase. -/
def State.time (s : State) : Nat × Nat × Nat := (s.clock, s.ns, s.frac)

theorem State.time_congr {s t : State} (h : t.still = s.still) : t.time = s.time :=
  congrArg (fun p : Nat × Nat × Nat × _ => (p.1, p.2.1, p.2.2.1)) h

theorem State.time_grantPower (n : Nat) (s : State) : (State.grantPower n s).time = s.time := by
  induction n generalizing s with
  | zero => rfl
  | succ n ih =>
    rw [State.grantPower]
    split
    · rfl
    · split
      · exact ih _
      · rfl

theorem State.time_admitPower (s : State) : s.admitPower.time = s.time := by
  rw [State.admitPower_eq, State.time_grantPower]
  refine List.foldlRecOn _ _ (motive := fun t : State => t.time = s.time) rfl fun t ht r _ => ?_
  rw [← ht]
  unfold State.enqueuePower
  split <;> rfl

/-- A clock moves the timebase on by 4 ns in seven (R3). -/
theorem State.clockOn_time (s : State) : s.clockOn.clock = s.clock + 1 ∧ 7 * s.clockOn.ns + s.clockOn.frac = 7 * s.ns + s.frac + 4 := by
  unfold State.clockOn
  split
  next => exact ⟨rfl, rfl⟩
  next h =>
    refine ⟨rfl, ?_⟩
    show 7 * (s.ns + 1) + (s.frac + 4 - 7) = _
    omega

theorem State.clockOn_congr {s t : State} (h : t.time = s.time) : t.clockOn.time = s.clockOn.time := by
  obtain ⟨hc, hn, hf⟩ : t.clock = s.clock ∧ t.ns = s.ns ∧ t.frac = s.frac := by
    simpa [State.time] using h
  unfold State.clockOn
  rw [hf]
  split
  · simp [State.time, hc, hn]
  · simp [State.time, hc, hn]

/-- Quads that have a clock of their own left take it before the package clock goes on (R3). -/
theorem exec_tcAdvance_left {s : State} (h : s.running.filter (fun m => 70 ≤ (s.slot m).phase) ≠ []) :
    ∃ t, exec .tcAdvance s = .next t ∧ t.time = s.time := by
  have hne : (!(s.running.filter fun m => 70 ≤ (s.slot m).phase).isEmpty) = true := by simpa using h
  refine ⟨_, congrArg Host.Outcome.next (if_pos hne), State.time_congr ?_⟩
  rw [State.still_foldl _ State.still_beginClock, State.still_foldl _ State.still_endClock]

theorem exec_tcAdvance_package {s : State} (h : s.running.filter (fun m => 70 ≤ (s.slot m).phase) = []) :
    ∃ t, exec .tcAdvance s = .next t ∧ t.time = s.clockOn.time := by
  have hne : ¬(!(s.running.filter fun m => 70 ≤ (s.slot m).phase).isEmpty) = true := by rw [h]; exact Bool.false_ne_true
  refine ⟨_, congrArg Host.Outcome.next (if_neg hne), ?_⟩
  rw [State.time_congr (State.still_foldl _ State.still_beginClock _ _), State.time_congr (State.still_foldl _ (fun s n => State.still_modSlot s n _) _ _)]
  refine State.clockOn_congr ?_
  rw [State.time_congr (State.still_foldl _ State.still_burn _ _), State.time_admitPower]
  exact State.time_congr (State.still_foldl _ State.still_endClock _ s)

/-! ## Holds, launches and saves -/

/-- A tc that opens stays the slot's tc. -/
theorem State.openTc_slot (s : State) (n : Nat) :
    ((s.openTc n).slot n).opened = true ∧ ((s.openTc n).slot n).held = none ∧ ((s.openTc n).slot n).tc = (s.slot n).tc := by
  have hb : SlotKeep Slot.body s (((s.landDue n).takeDue n (s.slot n).tc).resolveFaults n) :=
    ((s.landDue_body n).trans ((s.landDue n).takeDue_body n _)).trans (State.resolveFaults_body _ n)
  have htc := congrArg Slot.tc (hb n)
  rw [State.openTc, State.slot_modSlot]
  exact ⟨rfl, rfl, htc⟩

theorem State.slots_copyData (s : State) (n : Nat) (g : Nat → Nat → Nat) (e : Nat × Nat × Nat × Nat) : (s.copyData n g e).slots = s.slots := by
  unfold State.copyData
  dsimp only
  split <;> exact List.foldlRecOn _ _ (motive := fun t : State => t.slots = s.slots) rfl fun t ht c _ => (t.slots_setFile ..).trans ht

theorem State.unblock_sup (s : State) (c : Nat) : ((s.unblock c).core c).sup.blocked = false := by
  rw [State.unblock, State.core_modCore]

/-- What a completed launch leaves of its slot (R335). -/
theorem exec_launchComplete_on {s : State} {n : Nat} (hst : (s.slot n).st = 0) (hr : (s.slot n).resume = .loading) (hq : s.quadsWaking n = false) :
    ∃ t, exec (.launchComplete n) s = .next t ∧ (t.slot n).st = 1 ∧ (t.slot n).resume = .none ∧ (t.slot n).energy = 0 ∧
      (t.core (s.slot n).sup).sup.blocked = false := by
  let g := s.imageAt (s.slot n).image
  let u := (List.range (imgTab g 3).2).foldl (fun s i => s.copyData n g (dataEntry g i)) s
  let v := (u.dropTlb fun e => e.asid == n).modSlot n fun y => { y with st := 1, resume := .none, energy := 0 }
  obtain ⟨-, -, -, -, fr, tu, rs, hs⟩ := v.retune_frame n
  rw [State.slot_modSlot] at hs
  refine ⟨(v.retune n).unblock (s.slot n).sup, ?_, (congrArg Slot.st hs).trans rfl, (congrArg Slot.resume hs).trans rfl, (congrArg Slot.energy hs).trans rfl,
    State.unblock_sup ..⟩
  refine congrArg Host.Outcome.next ((if_neg ?_).trans (if_neg (ne_true_of_eq_false hq)))
  rw [hst, hr]
  exact Bool.false_ne_true

theorem State.slots_dropQuads (s : State) (x : Slot) : (s.dropQuads x).slots = s.slots := by
  unfold State.dropQuads
  split <;> rfl

/-- A slot SAVED at a time, with the re-entries of its members (R349). -/
def Slot.saved (ns : Nat) (re : Tbl (List Nat)) (y : Slot) : Slot :=
  { y with st := 4, reqs := y.standing, reentry := re, savedNs := ns }

/-- What a completed save leaves of its slot (R347, R349). -/
theorem exec_saveComplete_on {s : State} {n : Nat} (hst : (s.slot n).st = 3) (hd : s.drooping n = false) :
    ∃ t, exec (.saveComplete n) s = .next t ∧ (t.slot n).st = 4 ∧ (t.slot n).savedNs = s.ns ∧ ∀ q ∈ (t.slot n).reqs, q ∈ (s.slot n).reqs ∧ q.cleared = none := by
  let x := s.slot n
  let u := (sortLands x.lands).foldl (fun s l => s.apply l.tc l.core l.eff) (s.modSlot n fun y => { y with lands := [] })
  let v := match x.curts[x.curtain]? with
    | some r => x.members.foldl (fun (s : State) c => s.saveCore n c r) u
    | none => u
  have hu : SlotKeep Slot.body s u := by
    refine SlotKeep.trans ?_ (SlotKeep.foldl _ (fun (w : State) (l : Land) => w.apply_body l.tc l.core l.eff) _ _)
    exact SlotKeep.modSlot s n fun _ => rfl
  have hv : SlotKeep Slot.body s v ∧ v.ns = s.ns := by
    have hns : u.ns = s.ns := congrArg (fun p : Nat × Nat × _ => p.2.1) ((State.still_foldl (fun (w : State) (l : Land) => w.apply l.tc l.core l.eff) (fun (w : State) (l : Land) => State.still_apply w l.tc l.core l.eff) _ _).trans
      (State.still_modSlot s n _))
    dsimp only [v]
    split
    next r hr =>
      refine ⟨hu.trans (SlotKeep.foldl _ (fun w c => w.saveCore_body n c r) _ _), ?_⟩
      exact (congrArg (fun p : Nat × Nat × _ => p.2.1) (State.still_foldl _ (fun w c => State.still_saveCore w n c r) _ u)).trans hns
    next hr => exact ⟨hu, hns⟩
  obtain ⟨hbody, hns⟩ := hv
  let re := x.members.map fun c => ((v.core c).rank, (v.core c).reentry)
  let w := (v.dropQuads x).modSlot n (Slot.saved v.ns re)
  have hw : (w.event x.sup 5 (BitVec.ofNat 64 n)).slot n = Slot.saved v.ns re (v.slot n) := by
    have hd : (v.dropQuads x).slot n = v.slot n := congrArg (fun t => Tbl.get Slot.reset t n) (v.slots_dropQuads x)
    rw [← hd]
    exact State.slot_modSlot (v.dropQuads x) n (Slot.saved v.ns re)
  refine ⟨w.event x.sup 5 (BitVec.ofNat 64 n), ?_, congrArg Slot.st hw, (congrArg Slot.savedNs hw).trans hns, fun q hq => ?_⟩
  · have hno : ¬((s.slot n).st = 3 && s.drooping n : Bool) = true := by rw [hd, Bool.and_false]; exact Bool.false_ne_true
    exact congrArg Host.Outcome.next ((if_neg hno).trans (if_pos hst))
  · rw [hw] at hq
    obtain ⟨hmem, hp⟩ := List.mem_filter.mp (show q ∈ (v.slot n).reqs.filter _ from hq)
    refine ⟨(congrArg Slot.reqs (hbody n) : (v.slot n).body.reqs = _) ▸ hmem, ?_⟩
    exact Option.isNone_iff_eq_none.mp (Bool.and_eq_true_iff.mp hp).1

/-! ## Restores -/

@[simp] theorem Core.rank_loadItem (x : Core) (b : Nat → Nat → Nat) (e : SaveItem) : (x.loadItem b e).rank = x.rank := by
  unfold Core.loadItem
  dsimp only
  split <;> rfl

@[simp] theorem Core.rank_restore (x : Core) (b : Nat → Nat → Nat) (r : CurtRec) (re : List Nat) : (x.restore b r re).rank = x.rank :=
  List.foldlRecOn _ _ (motive := fun y : Core => y.rank = x.rank) rfl fun y hy e _ => (y.rank_loadItem b e).trans hy

/-- A restored slot that runs its stubs (R322, R350). -/
def Slot.onStubs (seldp : Nat) (y : Slot) : Slot :=
  { y with
    seldp := BitVec.ofNat 64 seldp, traps := y.kept, kept := [], stubs := y.tc, tc := 0, resume := .stubs, opened := false, held := none
    reqs := y.reqs.map fun r => { r with target := r.target + 2 ^ 60 }
    wdog := 0, links := [] }

/-- The blocks of a slot's members, loaded into their cores (R350). -/
def State.loadBlocks (s : State) (n : Nat) (x : Slot) (r : CurtRec) : State :=
  x.members.foldl
    (fun s c =>
      let y := s.core c
      let at_ := x.blockAt y.rank
      s.setCore c (y.restore (fun o k => s.devNat (at_ + o) k) r (Tbl.get [] x.reentry y.rank))) (s.retune n)

theorem State.loadBlocks_keeps (s : State) (n : Nat) (x : Slot) (r : CurtRec) :
    (s.loadBlocks n x r).slots = (s.retune n).slots ∧ (s.loadBlocks n x r).dev = s.dev ∧ ∀ c, ((s.loadBlocks n x r).core c).rank = (s.core c).rank := by
  have hd : (s.retune n).dev = s.dev := by
    unfold State.retune
    dsimp only
    split
    · rfl
    · split <;> rfl
  refine List.foldlRecOn _ _ (motive := fun t : State => t.slots = (s.retune n).slots ∧ t.dev = s.dev ∧ ∀ c, (t.core c).rank = (s.core c).rank)
    ⟨rfl, hd, fun c => ?_⟩ fun t ht c _ => ⟨ht.1, ht.2.1, fun a => ?_⟩
  · rw [State.core, State.core, (s.retune_frame n).2.1]
  · rw [← ht.2.2 a]
    by_cases hac : a = c
    · rw [hac, State.core_setCore, Core.rank_restore]
    · rw [State.core_setCore_ne _ _ hac]

/-- What a restore leaves of its slot before the stubs (R350). -/
theorem exec_restoreComplete_stubs {s : State} {n : Nat} {r : CurtRec} (hr : (s.slot n).resume = .restoring) (hq : s.quadsWaking n = false)
    (hc : (s.slot n).curts[(s.slot n).curtain]? = some r) :
    ∃ t, exec (.restoreComplete n) s = .next t ∧ (t.slot n).resume = .stubs ∧ (t.slot n).tc = 0 ∧ (t.slot n).stubs = (s.slot n).tc ∧
      (t.slot n).traps = (s.slot n).kept ∧ (t.core (s.slot n).sup).sup.blocked = false ∧
      (t.slot n).seldp = BitVec.ofNat 64 (s.devNat ((s.slot n).blockAt (s.core ((s.slot n).members.headD 0)).rank + 0x58) 8) := by
  let x := s.slot n
  let u := s.loadBlocks n x r
  let sel := u.devNat (x.blockAt (u.core (x.members.headD 0)).rank + 0x58) 8
  obtain ⟨hslots, hdev, hrank⟩ := s.loadBlocks_keeps n x r
  have hsel : sel = s.devNat (x.blockAt (s.core (x.members.headD 0)).rank + 0x58) 8 := by
    rw [← hrank]
    exact congrArg (fun m => leNat (Map.getRun m (x.blockAt (u.core (x.members.headD 0)).rank + 0x58) 8)) hdev
  obtain ⟨-, -, -, -, fr, tu, rs, hs⟩ := s.retune_frame n
  have hslot : (((u.modSlot n (Slot.onStubs sel)).unblock x.sup).slot n) = Slot.onStubs sel { x with freq := fr, tuning := tu, reqs := rs } := by
    rw [← hs]
    refine (State.slot_modSlot u n (Slot.onStubs sel)).trans (congrArg (Slot.onStubs sel) ?_)
    exact congrArg (fun t => Tbl.get Slot.reset t n) hslots
  refine ⟨(u.modSlot n (Slot.onStubs sel)).unblock x.sup, ?_, congrArg Slot.resume hslot, congrArg Slot.tc hslot, congrArg Slot.stubs hslot,
    congrArg Slot.traps hslot, State.unblock_sup .., (congrArg Slot.seldp hslot).trans (congrArg (BitVec.ofNat 64) hsel)⟩
  rw [show exec (.restoreComplete n) s = execRestoreComplete n s from rfl, execRestoreComplete, hr]
  refine congrArg Host.Outcome.next ((if_neg (ne_true_of_eq_false hq)).trans ?_)
  rw [State.restoreCores, hc]
  rfl

/-- A slot back at its curtain's tc (R322). -/
theorem State.leaveStubs_slot (s : State) (n : Nat) :
    ((s.leaveStubs n).slot n).resume = .none ∧ ((s.leaveStubs n).slot n).tc = (s.slot n).stubs := by
  rw [State.leaveStubs, State.slot_modSlot]
  exact ⟨rfl, rfl⟩

/-- The tc of a decided curtain closes, and its event is raised (R350). -/
theorem State.closeDecided_slot (u : State) (n sup : Nat) (info : Word) :
    let t := ((u.resolveFaults n).modSlot n fun y => { y with tc := y.tc + 1 }).event sup 6 info
    (t.slot n).resume = (u.slot n).resume ∧ (t.slot n).tc = (u.slot n).tc + 1 := by
  have hb := u.resolveFaults_body n n
  have hr : ((u.resolveFaults n).slot n).resume = (u.slot n).resume := (congrArg Slot.resume hb :)
  have ht : ((u.resolveFaults n).slot n).tc = (u.slot n).tc := (congrArg Slot.tc hb :)
  have hs := (u.resolveFaults n).slot_modSlot n fun y => { y with tc := y.tc + 1 }
  exact ⟨(congrArg Slot.resume hs).trans hr, (congrArg Slot.tc hs).trans (congrArg (· + 1) ht)⟩

/-- A resumed cohort whose curtain is decided goes on one tc after it (R350). -/
theorem exec_restoreComplete_decided {s : State} {n : Nat} (hr : (s.slot n).resume = .deciding) (hd : s.drooping n = false) :
    ∃ t, exec (.restoreComplete n) s = .next t ∧ (t.slot n).resume = .none ∧ (t.slot n).tc = (s.slot n).stubs + 1 := by
  obtain ⟨h0, h1⟩ := s.leaveStubs_slot n
  have hend (u : State) (hu : SlotKeep Slot.body (s.leaveStubs n) u) (sup : Nat) (info : Word) :
      let t := ((u.resolveFaults n).modSlot n fun y => { y with tc := y.tc + 1 }).event sup 6 info
      (t.slot n).resume = .none ∧ (t.slot n).tc = (s.slot n).stubs + 1 := by
    obtain ⟨k0, k1⟩ := u.closeDecided_slot n sup info
    have hr : (u.slot n).resume = ((s.leaveStubs n).slot n).resume := (congrArg Slot.resume (hu n) :)
    have ht : (u.slot n).tc = ((s.leaveStubs n).slot n).tc := (congrArg Slot.tc (hu n) :)
    exact ⟨k0.trans (hr.trans h0), k1.trans (congrArg (· + 1) (ht.trans h1))⟩
  refine ⟨s.redecide n, ?_, hend _ ?_ _ _⟩
  · rw [show exec (.restoreComplete n) s = execRestoreComplete n s from rfl, execRestoreComplete, hr]
    exact congrArg Host.Outcome.next (if_neg (ne_true_of_eq_false hd))
  · split
    next r _ => exact State.curtainRows_body _ n r _ _
    next _ => exact SlotKeep.refl _

/-! ## Releases and `TLBI` -/

/-- Rounds that end with their slot leave every core as it is (R333). -/
theorem State.cores_dropRounds (s : State) (n : Nat) : (s.dropRounds n).cores = s.cores := by
  refine List.foldlRecOn _ _ (motive := fun t : State => t.cores = s.cores) rfl fun t ht e _ => ?_
  rw [← ht]
  split <;> rfl

theorem State.migGo_walk (s : State) (v m n sv : Nat) : WalkFrame s (s.migGo v m n sv) := by
  unfold State.migGo
  dsimp only
  split
  · refine WalkFrame.trans ?_ (WalkFrame.later ..)
    refine WalkFrame.trans ?_ (State.rewalk_walk ..)
    exact WalkFrame.modCore ..
  · split
    · refine WalkFrame.trans ?_ (WalkFrame.modCore ..)
      exact WalkFrame.modCore ..
    · exact .refl s

/-- The descriptors that a `TLBI` reads again (R356). -/
theorem State.rereadFor_walk (s : State) (n : Nat) (sc : TlbScope) :
    WalkFrame s (match sc with
      | .page _ => s
      | .slot => s.rereadRoot n
      | .all => (s.slots.map (·.1)).foldl (fun (s : State) i => s.rereadRoot i) s) := by
  cases sc with
  | page p => exact .refl s
  | slot => exact WalkFrame.modSlot ..
  | all => exact WalkFrame.foldl _ (fun u i => WalkFrame.modSlot ..) s _

/-- What a completed `TLBI` leaves of its supervisor core (R361). -/
theorem exec_tlbiComplete_done {s : State} {n v : Nat} {sc : TlbScope} (hc : s.tlbi.contains (768 + v, .tlbiComplete v n sc) = true)
    (ho : (s.outs.any fun a => a.usesDropped n sc) = false) :
    ∃ t, exec (.tlbiComplete v n sc) s = .next t ∧ (t.core (768 + v)).sup.blocked = false ∧ t.tlbi = s.tlbi.erase (768 + v, .tlbiComplete v n sc) := by
  have hno : ¬(!(s.tlbi.contains (768 + v, .tlbiComplete v n sc))) = true := by rw [hc]; exact Bool.false_ne_true
  refine ⟨_, congrArg Host.Outcome.next ((if_neg hno).trans (if_neg (ne_true_of_eq_false ho))), State.unblock_sup .., ?_⟩
  refine congrArg State.tlbi ((State.rereadFor_walk _ n sc).trans (WalkFrame.foldl _ (fun (u : State) (vm : Nat × Nat) => u.migGo_walk vm.1 vm.2 _ v) _ _)).fixed

/-- A slot set FREE (R333). -/
theorem exec_slotRelease_free {s : State} {n : Nat} (h : (s.slot n).st = 5 ∨ (s.slot n).st = 6) :
    ∃ t, exec (.slotRelease n) s = .next t ∧
      t.slot n = { Slot.reset with
        curDist := (s.slot n).curDist, holdwd := (s.slot n).holdwd, ydead := (s.slot n).ydead, energy := (s.slot n).energy } ∧ t.cores = s.cores := by
  have hb : ((s.slot n).st = 5 || (s.slot n).st = 6 : Bool) = true := by simpa using h
  exact ⟨_, congrArg Host.Outcome.next (if_pos hb), State.slot_modSlot .., State.cores_dropRounds s n⟩

/-! ## Events of a slot -/

/-- The first standing seal cause of a list (R37). -/
def firstSeal (r : Req) : Option Nat :=
  match r.cause, r.cleared with
  | .seal c, none => some c
  | _, _ => none

theorem firstSeal_eq_none {q : Req} (h : ∀ d, q.cause = .seal d → q.cleared ≠ none) : firstSeal q = none := by
  unfold firstSeal
  split
  next d hd hcl => exact absurd hcl (h d hd)
  next => rfl

theorem findSome?_firstSeal {qs rs : List Req} {target c : Nat} (h : ∀ q ∈ qs, ∀ d, q.cause = .seal d → q.cleared ≠ none) :
    (qs ++ ⟨target, .seal c, none⟩ :: rs).findSome? firstSeal = some c := by
  rw [List.findSome?_append, List.findSome?_eq_none_iff.mpr fun q hq => firstSeal_eq_none (h q hq)]
  rfl

theorem exec_sealedViewArrival_first {s : State} {n : Nat} {qs rs : List Req} {target c : Nat}
    (hr : (s.slot n).reqs = qs ++ ⟨target, .seal c, none⟩ :: rs) (h : ∀ q ∈ qs, ∀ d, q.cause = .seal d → q.cleared ≠ none) :
    exec (.sealedViewArrival n) s = .next (s.clearCause n (.seal c)) := by
  have hf : (s.slot n).reqs.findSome? firstSeal = some c := hr ▸ findSome?_firstSeal h
  show Host.Outcome.next (match (s.slot n).reqs.findSome? firstSeal with
    | some c => s.clearCause n (.seal c)
    | none => s) = _
  rw [hf]

theorem exec_packageJoinMessage_open {s : State} {n p q k : Nat} (h : (s.slot n).pkgs[p]? = none ∨ s.plat.caps = false) :
    exec (.packageJoinMessage n p q k) s = .next (s.modSlot n fun x => { x with joinMsgs := x.joinMsgs ++ [(p, q, k)] }) := by
  rw [show exec (.packageJoinMessage n p q k) s = execPackageJoinMessage n p q k s from rfl]
  unfold execPackageJoinMessage
  dsimp only
  split
  next m hm =>
    have hcaps : s.plat.caps = false := h.resolve_left fun hn => by rw [hn] at hm; exact Option.some_ne_none m hm.symm
    have hw : s.plat.wallOpen (s.slot n).die m = true := by simp [Plat.wallOpen, hcaps]
    exact congrArg Host.Outcome.next (if_pos hw)
  next => rfl

theorem exec_ttStartAtTime_due {s : State} {n : Nat} {g : Word} (h : (s.slot n).startAt = some g) :
    (g.toNat ≤ s.ns → exec (.ttStartAtTime n) s = .next ((s.modSlot n fun x => { x with startAt := none }).reach n)) ∧
      (s.ns < g.toNat → exec (.ttStartAtTime n) s = .next s) := by
  rw [show exec (.ttStartAtTime n) s = execTtStartAtTime n s from rfl, execTtStartAtTime, h]
  exact ⟨fun hle => congrArg Host.Outcome.next (if_pos hle), fun hlt => congrArg Host.Outcome.next (if_neg (by omega))⟩

theorem exec_adaptiveClockHoldTick_live {s : State} {n : Nat} (hl : (s.slot n).live = true) (hs : (s.slot n).st ≠ 1) :
    exec (.adaptiveClockHoldTick n) s = .next ((s.request n ((s.slot n).tc + (s.slot n).horizon) (.platform 3)).clearCause n (.platform 3)) := by
  refine (congrArg Host.Outcome.next (if_pos hl)).trans ?_
  rw [State.platformHold, if_neg hs]
  rfl

/-- A supervisor core takes the head of its queue (R341, R342). -/
theorem exec_supervisorEvent_head {s : State} {v cause : Nat} {info : Word} {es : List (Nat × Word)} (he : (s.core (768 + v)).sup.events = (cause, info) :: es)
    (hh : (s.core (768 + v)).sup.handling = false) (hf : (s.core (768 + v)).sup.frozen = false) (hr : (s.core (768 + v)).sup.running = true)
    (hb : (s.core (768 + v)).sup.blocked = false) :
    exec (.supervisorEvent v) s = .next (s.modCore (768 + v) fun y =>
      { y with sup := { y.sup with
          epc := BitVec.ofNat 64 (y.stream 0).pc
          cause := info <<< 32 ||| BitVec.ofNat 64 (cause + if (s.core (768 + v)).sup.lost then 256 else 0)
          events := es, lost := false, handling := true } }.modStream 0 fun z => { z with pc := (s.core (768 + v)).sup.evec.toNat }) := by
  rw [show exec (.supervisorEvent v) s = execSupervisorEvent v s from rfl]
  unfold execSupervisorEvent
  dsimp only
  rw [he]
  refine congrArg Host.Outcome.next (if_neg ?_)
  rw [hh, hf, hr, hb]
  exact Bool.false_ne_true

/-- A cleared polite request leaves no deadline to expire (R346). -/
theorem State.not_mem_unplan (s : State) (i : Instr) : i ∉ (s.unplan fun j => j == i).timers.map (·.2) := by
  intro h
  obtain ⟨e, he, hi⟩ := List.mem_map.mp h
  have := (List.mem_filter.mp he).2
  rw [hi] at this
  simp at this

/-- A slot whose polite request is taken back (R346). -/
def Slot.impolite (x : Slot) : Slot :=
  { x with
    polite := none, due := none
    withdrawn := x.withdrawn ++ (x.polite.map fun p => (p, x.outTc x.tc, x.due)).toList }

theorem exec_polite_off (s : State) (n : Nat) :
    ∃ t, exec (.polite n false) s = .next t ∧ (t.slot n).polite = none ∧ (t.slot n).due = none ∧
      (∀ p, (s.slot n).polite = some p → (t.slot n).withdrawn = (s.slot n).withdrawn ++ [(p, (s.slot n).outTc (s.slot n).tc, (s.slot n).due)]) ∧
      (.yieldDeadlineExpiry n) ∉ t.timers.map (·.2) := by
  have hs : ((s.modSlot n Slot.impolite).unplan fun i => i == .yieldDeadlineExpiry n).slot n = (s.slot n).impolite := s.slot_modSlot n Slot.impolite
  refine ⟨(s.modSlot n Slot.impolite).unplan fun i => i == .yieldDeadlineExpiry n, congrArg Host.Outcome.next (if_neg Bool.false_ne_true), ?_, ?_,
    fun p hp => ?_, State.not_mem_unplan _ _⟩
  · exact congrArg Slot.polite hs
  · exact congrArg Slot.due hs
  · rw [hs, Slot.impolite, hp]
    rfl

/-- A deadline that is not withdrawn makes the polite request due (R346). -/
theorem exec_yieldDeadlineExpiry_due {s : State} {n : Nat} (hp : (s.slot n).polite ≠ none) (hd : (s.slot n).due = none) :
    exec (.yieldDeadlineExpiry n) s = .next (s.modSlot n fun x => { x with due := some (x.outTc x.tc) }) := by
  have hb : ((s.slot n).polite.isSome && (s.slot n).due.isNone) = true :=
    Bool.and_eq_true_iff.mpr ⟨Option.isSome_iff_ne_none.mpr hp, Option.isNone_iff_eq_none.mpr hd⟩
  exact congrArg (fun y => Host.Outcome.next { s with slots := Tbl.set s.slots n y }) (if_pos hb)

/-- Settles O51: each event by the branch that its guard takes. -/
theorem cohortEvents : Obligations.CohortEvents := by
  unfold Obligations.CohortEvents
  intro s n x
  refine ⟨?_, ?_, ?_, ?_, ?_, ?_, ?_, ?_, ?_, ?_, ?_, ?_, ?_, ?_, ?_, ?_, ?_, ?_, ?_⟩
  · by_cases h : s.running.filter (fun m => 70 ≤ (s.slot m).phase) = []
    · obtain ⟨t, ht, htime⟩ := exec_tcAdvance_package h
      obtain ⟨hc, hn⟩ := s.clockOn_time
      obtain ⟨h1, h2, h3⟩ : t.clock = s.clockOn.clock ∧ t.ns = s.clockOn.ns ∧ t.frac = s.clockOn.frac := by simpa [State.time] using htime
      exact ⟨t, ht, fun _ => ⟨h1.trans hc, by rw [h2, h3, hn]⟩, fun hne => absurd h hne⟩
    · obtain ⟨t, ht, htime⟩ := exec_tcAdvance_left h
      obtain ⟨h1, h2, -⟩ : t.clock = s.clock ∧ t.ns = s.ns ∧ t.frac = s.frac := by simpa [State.time] using htime
      exact ⟨t, ht, fun he => absurd he h, fun _ => ⟨h1, h2⟩⟩
  · exact fun h => ⟨_, congrArg Host.Outcome.next (if_pos h), s.openTc_slot n⟩
  · exact fun h => congrArg Host.Outcome.next (if_neg (ne_true_of_eq_false h))
  · exact fun qs rs target c hr hq => exec_sealedViewArrival_first hr hq
  · exact fun p q k h => exec_packageJoinMessage_open h
  · exact exec_adaptiveClockHoldTick_live
  · exact fun g h => exec_ttStartAtTime_due h
  · intro v cause info es y he hh hf hr hb
    refine ⟨_, exec_supervisorEvent_head he hh hf hr hb, ?_⟩
    rw [State.core_modCore]
    refine ⟨rfl, ?_, ?_, rfl, rfl, rfl⟩
    · rw [Core.stream_modStream]
    · rw [Core.stream_modStream]
      rfl
  · exact fun hs hr hq => exec_launchComplete_on hs hr hq
  · intro v m sc hc
    have hno : ¬(!(s.tlbi.contains (768 + v, .tlbiComplete v m sc))) = true := by rw [hc]; exact Bool.false_ne_true
    exact ⟨fun ho => congrArg Host.Outcome.next ((if_neg hno).trans (if_pos ho)), fun ho => exec_tlbiComplete_done hc ho⟩
  · intro hs hd
    have hb : ((s.slot n).st = 3 && s.drooping n : Bool) = true := by rw [hd, Bool.and_true]; exact decide_eq_true hs
    exact congrArg Host.Outcome.next (if_pos hb)
  · exact fun hs hd => exec_saveComplete_on hs hd
  · exact fun r hr _ hq hc => exec_restoreComplete_stubs hr hq hc
  · exact fun hr hd => exec_restoreComplete_decided hr hd
  · exact fun h => exec_slotRelease_free h
  · intro h
    have hb : ¬((s.slot n).st = 5 || (s.slot n).st = 6 : Bool) = true := fun ht => by
      rcases Bool.or_eq_true_iff.mp ht with h5 | h6
      · exact absurd (of_decide_eq_true h5) (Nat.ne_of_lt h)
      · exact absurd (of_decide_eq_true h6) (Nat.ne_of_lt (Nat.lt_succ_of_lt h))
    exact congrArg Host.Outcome.next (if_neg hb)
  · intro h
    have hb : ¬(s.slot n).polite.isSome = true := by rw [show (s.slot n).polite = none from h]; exact Bool.false_ne_true
    exact congrArg Host.Outcome.next (if_neg hb)
  · exact exec_polite_off s n
  · exact fun hp hd => exec_yieldDeadlineExpiry_due hp hd

end Sys2Proof.Machine
end

section
/-! SUPPORT. Fatal stops and their causes: report frames, the watchdog, kills, late stores, lost paths, uncorrectable errors and answered faults
(spec/02_timetable.md R33, R39, spec/17_scheduling.md R351, spec/18_translation.md R364 to R371, spec/20_platform.md R390). -/

namespace Sys2Proof.Machine

/-! ## Report frames -/

theorem State.length_frameEntry (s : State) (x : Slot) (f : FaultRec) (c st : Nat) : (s.frameEntry x f c st).length = 48 := by
  unfold State.frameEntry
  simp

/-- A frame's header and its five stream entries fill 256 bytes (R369). -/
theorem State.frame_layout (s : State) (x : Slot) (f : FaultRec) (c : Nat) :
    (s.frame x f c).length = 256 ∧ (s.frame x f c).take 8 = leBytes 8 (x.outTc f.tc) ∧
      ((s.frame x f c).drop 10).take 4 = leBytes 1 f.stream ++ leBytes 1 f.kind.code ++ leBytes 2 f.detail := by
  unfold State.frame
  refine ⟨?_, ?_, ?_⟩
  · simp [State.length_frameEntry] <;> rfl
  · simp only [List.append_assoc]
    exact List.take_left' (length_leBytes ..)
  · have hd : (leBytes 8 (x.frameTc f.tc) ++ leBytes 2 (s.faultRank f)).length = 10 := by simp
    simp only [List.append_assoc]
    rw [← List.append_assoc (leBytes 8 _) (leBytes 2 _), List.drop_left' hd, ← List.append_assoc (leBytes 1 f.kind.code) (leBytes 2 f.detail),
      ← List.append_assoc (leBytes 1 f.stream)]
    exact List.take_left' (by simp)

/-! ## Stops -/

/-- A slot that enters STOPPED (R333, R354). -/
theorem State.enterStopped_slot (s : State) (n stop : Nat) :
    ((s.enterStopped n stop).slot n).st = 5 ∧ ((s.enterStopped n stop).slot n).stop = stop ∧ ((s.enterStopped n stop).slot n).lease = none := by
  let u := s.modSlot n fun y =>
    { y with st := 5, stop := stop, lrem := if y.lease.isSome then s.leaseLeft y else y.lrem, lease := none, opened := false, held := none, reqs := [], lands := [],
             resume := .none, faults := [], polite := none, due := none, withdrawn := [] }
  have hs : (s.enterStopped n stop).slots = u.slots := by
    unfold State.enterStopped
    dsimp only
    refine (State.slots_dropQuads _ _).trans ?_
    split <;> rfl
  have hn : (s.enterStopped n stop).slot n = u.slot n := congrArg (fun m => Tbl.get Slot.reset m n) hs
  rw [hn, State.slot_modSlot]
  exact ⟨rfl, rfl, rfl⟩

/-- A fatal stop leaves its slot STOPPED for a fault, or for a kill (R33, R351). -/
theorem State.stopNow_slot (s : State) (n : Nat) (f : FaultRec) :
    ((s.stopNow n f).slot n).st = 5 ∧ ((s.stopNow n f).slot n).stop = (if f.kind = .kill then 2 else 1) ∧ ((s.stopNow n f).slot n).lease = none ∧
      (s.stopNow n f).cur = s.cur := by
  obtain ⟨h1, h2, h3⟩ := State.enterStopped_slot _ n (if f.kind = .kill then 2 else 1)
  exact ⟨h1, h2, h3, rfl⟩

/-- The watchdog's fault is of its own kind (R39). -/
theorem State.watchdogRec_kind (s : State) (n : Nat) : (s.watchdogRec n).kind = .watchdog := by
  unfold State.watchdogRec
  dsimp only
  split <;> rfl

theorem exec_holdWatchdogExpiry_stops {s : State} {n : Nat} (hl : (s.slot n).live = true) (hh : (s.slot n).held.isSome = true)
    (hw : max (s.slot n).holdwd 1024 ≤ (s.slot n).wdog) (hr : s.releasable n = false) (hf : (s.slot n).fatal = none) :
    ∃ t, exec (.holdWatchdogExpiry n) s = .next t ∧ (t.slot n).st = 5 ∧ (t.slot n).stop = 1 := by
  let u := s.modSlot n fun y => { y with fatal := some (s.watchdogRec n), stopTc := (s.slot n).tc }
  obtain ⟨h1, h2, -, -⟩ := u.stopNow_slot n (s.watchdogRec n)
  refine ⟨u.stopNow n (s.watchdogRec n), ?_, h1, h2.trans (if_neg ?_)⟩
  · have hg : ((s.slot n).live && (s.slot n).held.isSome && max (s.slot n).holdwd 1024 ≤ (s.slot n).wdog && !s.releasable n) = true := by
      rw [hl, hh, hr]
      exact Bool.and_eq_true_iff.mpr ⟨decide_eq_true hw, rfl⟩
    refine (congrArg Host.Outcome.next (if_pos hg)).trans ?_
    rw [hf]
  · rw [s.watchdogRec_kind n]
    exact fun h => nomatch h

/-! ## Kills -/

/-- A running cohort's kill (R340, R351). -/
theorem exec_kill_running {s : State} {n : Nat} (h2 : (s.slot n).st = 2) (hk : (s.slot n).kill = none) :
    ∃ t, exec (.kill n) s = .next t ∧ (t.slot n).kill = some ((s.slot n).outTc (s.slot n).tc) ∧ (t.slot n).lease = none ∧ (t.slot n).st = 2 ∧
      ∃ f, (t.slot n).dueFaults = (s.slot n).dueFaults ++ [f] ∧ f.kind = .kill ∧ f.tc = (s.slot n).outTc (s.slot n).tc := by
  let u := s.unplan fun i => match i with
    | .leaseExpiry m _ => m == n
    | _ => false
  let c := (s.slot n).members.headD 0
  let y := (s.core c).stream 0
  let f : FaultRec := ⟨.kill, 0, c, 0, (s.slot n).effectTc, y.now.pc, y.now.word, 0, 0, y.cu, none, none⟩
  have hno : ¬(s.slot n).kill.isSome = true := by rw [hk]; exact Bool.false_ne_true
  have hdue : (u.dueFault n f).slot n = { s.slot n with dueFaults := (s.slot n).dueFaults ++ [f] } := u.slot_modSlot n _
  refine ⟨_, congrArg Host.Outcome.next ((if_pos h2).trans (if_neg hno)), ?_⟩
  rw [State.slot_modSlot]
  exact ⟨rfl, rfl, (congrArg Slot.st hdue).trans h2, f, congrArg Slot.dueFaults hdue, rfl, rfl⟩

/-- The kill of a saved cohort, or of one being saved, acts at once (R351). -/
theorem exec_kill_saved {s : State} {n : Nat} (h : (s.slot n).st = 3 ∨ (s.slot n).st = 4) :
    ∃ t, exec (.kill n) s = .next t ∧ (t.slot n).st = 5 ∧ (t.slot n).stop = 2 := by
  obtain ⟨h1, h2, -⟩ := ((s.abortRounds n).2).enterStopped_slot n 2
  have hb : ((s.slot n).st = 3 || (s.slot n).st = 4 : Bool) = true := by simpa using h
  have hno : ¬(s.slot n).st = 2 := by rcases h with h | h <;> rw [h] <;> exact fun e => nomatch e
  exact ⟨_, congrArg Host.Outcome.next ((if_neg hno).trans (if_pos hb)), h1, h2⟩

theorem exec_kill_other {s : State} {n : Nat} (h2 : (s.slot n).st ≠ 2) (h3 : (s.slot n).st ≠ 3) (h4 : (s.slot n).st ≠ 4) : exec (.kill n) s = .next s := by
  have hb : ¬((s.slot n).st = 3 || (s.slot n).st = 4 : Bool) = true := by simp [h3, h4]
  exact congrArg Host.Outcome.next ((if_neg h2).trans (if_neg hb))

/-! ## Lost paths -/

theorem foldl_eq_self {α β : Type} {f : β → α → β} {b : β} {l : List α} (h : ∀ a ∈ l, f b a = b) : l.foldl f b = b := by
  induction l with
  | nil => rfl
  | cons a l ih =>
    rw [List.foldl_cons, h a List.mem_cons_self]
    exact ih fun c hc => h c (List.mem_cons_of_mem a hc)

/-- No reply that is lost: a stop waits for none (R371). -/
theorem State.endLost_none {s : State} {n : Nat} (h : ∀ a ∈ s.outs, a.st ≠ .lost) : s.endLost n = s := by
  unfold State.endLost
  split
  · rw [List.filter_eq_nil_iff.mpr fun a ha hp => h a ha (eq_of_beq (Bool.and_eq_true_iff.mp hp).2)]
    rfl
  · rfl

/-- The accesses of a cohort that a lost path touches (R371). -/
def State.touched (s : State) (d p n : Nat) : List Access :=
  s.outs.filter fun a => a.slot == n && a.coll.isNone && a.st != .failed && a.st != .lost && s.onPath d p a

/-- A cohort without an access over the path loses nothing (R371). -/
theorem State.lose_none {s : State} {d p n : Nat} (h : ∀ a ∈ s.outs, s.onPath d p a = false ∧ a.st ≠ .lost) (hc : (s.slot n).colls = []) :
    s.lose d p n = s := by
  have ht : s.touched d p n = [] := by
    refine List.filter_eq_nil_iff.mpr fun a ha hp => ?_
    have hon := (Bool.and_eq_true_iff.mp hp).2
    rw [(h a ha).1] at hon
    exact Bool.false_ne_true hon
  have hl : s.lose d p n = (s.slot n).colls.foldl (fun s k => s.loseColl d p n k) (s.endLost n) := by
    rw [State.lose]
    dsimp only
    rw [show (s.outs.filter fun a => a.slot == n && a.coll.isNone && a.st != .failed && a.st != .lost && s.onPath d p a) = [] from ht]
    rfl
  rw [hl, hc]
  exact State.endLost_none fun a ha => (h a ha).2

theorem exec_linkLoss_untouched {s : State} {d p : Nat} (h : ∀ a ∈ s.outs, s.onPath d p a = false ∧ a.st ≠ .lost)
    (hc : ∀ m ∈ s.viewers, (s.slot m).colls = []) :
    exec (.linkLoss d p) s = .next (if d = 4 then (s.membersOf p).foldl (fun (u : State) e => u.lostMember e.1 e.2) s else s) := by
  have hv : s.viewers.foldl (fun s n => s.lose d p n) s = s := foldl_eq_self fun m hm => State.lose_none h (hc m hm)
  rw [show exec (.linkLoss d p) s = execLinkLoss d p s from rfl, execLinkLoss, hv]

/-- The fault of an access that is the first on a lost path (R371). -/
def Access.lostRec (a : Access) (x : Slot) (d : Nat) : FaultRec :=
  { a.faultRec .linkLoss d a.first with tc := if a.kind == .read then x.faultTc a a.arr else x.tc }

/-- The one access of a cohort is lost, and charged with the fault (R371). -/
def State.loseOne (s : State) (a : Access) (d n : Nat) : State :=
  (((s.loseAccess a).dueFault n (a.lostRec (s.slot n) d)).clearCause n (.reply a.id)).modAccess a.id fun b => { b with st := .failed }

theorem State.outs_loseOne {s : State} {a : Access} (h : s.outs = [a]) (d n : Nat) : (s.loseOne a d n).outs = [{ a with st := .failed }] := by
  show (s.outs.map _).map _ = _
  rw [h]
  simp

theorem State.clearCause_keep {α : Type} {g : Slot → α} (hg : ∀ x rs, g { x with reqs := rs } = g x) (s : State) (n : Nat) (c : Cause) :
    SlotKeep g s (s.clearCause n c) := SlotKeep.modSlot s n fun x => hg x _

theorem SlotKeep.modAccess {α : Type} {g : Slot → α} (s : State) (id : Nat) (f : Access → Access) : SlotKeep g s (s.modAccess id f) := SlotKeep.of_slots rfl

theorem SlotKeep.unplan {α : Type} {g : Slot → α} (s : State) (p : Instr → Bool) : SlotKeep g s (s.unplan p) := SlotKeep.of_slots rfl

theorem State.loseAccess_keep {α : Type} {g : Slot → α} (hg : ∀ x rs, g { x with reqs := rs } = g x) (s : State) (a : Access) :
    SlotKeep g s (s.loseAccess a) := by
  refine SlotKeep.trans ?_ (SlotKeep.modAccess _ a.id _)
  refine SlotKeep.trans ?_ (State.clearCause_keep hg _ a.slot _)
  exact SlotKeep.unplan s _

theorem State.slot_dueFault (s : State) (n : Nat) (r : FaultRec) : ((s.dueFault n r).slot n).dueFaults = (s.slot n).dueFaults ++ [r] :=
  congrArg Slot.dueFaults (s.slot_modSlot n _)

theorem State.dueFaults_loseOne (s : State) (a : Access) (d n : Nat) :
    ((s.loseOne a d n).slot n).dueFaults = (s.slot n).dueFaults ++ [a.lostRec (s.slot n) d] := by
  have h0 : ((s.loseAccess a).slot n).dueFaults = (s.slot n).dueFaults := State.loseAccess_keep (g := Slot.dueFaults) (fun _ _ => rfl) s a n
  have h1 : ((s.loseOne a d n).slot n).dueFaults = (((s.loseAccess a).dueFault n (a.lostRec (s.slot n) d)).slot n).dueFaults :=
    State.clearCause_keep (g := Slot.dueFaults) (fun _ _ => rfl) _ n (.reply a.id) n
  rw [h1, State.slot_dueFault, h0]

/-- A cohort whose one access needs the path (R371). -/
theorem State.lose_one {s : State} {d p n : Nat} {a : Access} (ho : s.outs = [a]) (hs : a.slot = n) (hc : a.coll = none) (hst : a.st = .sent)
    (hp : s.onPath d p a = true) (hk : (s.slot n).colls = []) : s.lose d p n = s.loseOne a d n := by
  have ht : (s.outs.filter fun a => a.slot == n && a.coll.isNone && a.st != .failed && a.st != .lost && s.onPath d p a) = [a] := by
    rw [ho, List.filter_cons_of_pos]
    · rfl
    · simp [hs, hc, hst, hp]
  rw [State.lose]
  dsimp only
  rw [ht, hk]
  show (s.loseOne a d n).endLost n = _
  refine State.endLost_none fun b hb => ?_
  rw [State.outs_loseOne ho, List.mem_singleton] at hb
  rw [hb]
  exact fun e => nomatch e

theorem exec_linkLoss_one {s : State} {d p n : Nat} {a : Access} (hm : d = 4 → s.membersOf p = []) (hv : s.viewers = [n]) (hk : (s.slot n).colls = [])
    (ho : s.outs = [a]) (hs : a.slot = n) (hc : a.coll = none) (hst : a.st = .sent) (hp : s.onPath d p a = true) :
    ∃ t, exec (.linkLoss d p) s = .next t ∧ t.outs = [{ a with st := .failed }] ∧
      (t.slot n).dueFaults = (s.slot n).dueFaults ++
        [{ a.faultRec .linkLoss d a.first with tc := if a.kind = .read then (s.slot n).faultTc a a.arr else (s.slot n).tc }] := by
  refine ⟨s.loseOne a d n, ?_, State.outs_loseOne ho d n, (s.dueFaults_loseOne a d n).trans (by simp only [Access.lostRec, beq_iff_eq])⟩
  rw [show exec (.linkLoss d p) s = execLinkLoss d p s from rfl, execLinkLoss, hv, List.foldl_cons, List.foldl_nil, State.lose_one ho hs hc hst hp hk]
  refine congrArg Host.Outcome.next ?_
  split
  next h4 => rw [show (s.loseOne a d n).membersOf p = s.membersOf p from rfl, hm h4, List.foldl_nil]
  next => rfl

/-! ## Uncorrectable errors -/

theorem Access.near_own {a : Access} {p : Word} {q : Word × List Byte} (hq : q ∈ a.parts) (hp : inRange p (q.1, q.2.length) = true) : a.near p = p :=
  if_pos (List.any_eq_true.mpr ⟨q, hq, hp⟩)

/-- An error at an address of an access's own (R370). -/
theorem exec_uncorrectableError_own {s : State} {id : Nat} {a : Access} {p : Word} {q : Word × List Byte} (ha : s.access id = some a) (hq : q ∈ a.parts)
    (hp : inRange p (q.1, q.2.length) = true) :
    exec (.uncorrectableError (.pageTable id p)) s = .next (s.failAccess a (a.faultRec .page 5 p) (s.walkEntry (s.slot a.slot) p)) ∧
      exec (.uncorrectableError (.loggedOld id p)) s =
        .next (s.failAccess a { a.faultRec .uncorrectable 2 p with tc := a.tc } (s.physOf a.pages a.core a.slot p)) ∧
      exec (.uncorrectableError (.load id p)) s = .next (s.accessError a p) := by
  have hn := Access.near_own hq hp
  refine ⟨?_, ?_, ?_⟩ <;>
    rw [show ∀ site, exec (.uncorrectableError site) s = execUncorrectableError site s from fun _ => rfl, execUncorrectableError] <;>
    dsimp only <;> rw [ha] <;> dsimp only <;> rw [hn]

/-- An unprotected line, or one that is not read, fails its access (R370). -/
theorem State.accessError_fails {s : State} {a : Access} {p : Word}
    (h : a.kind ≠ .read ∨ ∀ m, (s.slot a.slot).markAt p a.keyTc = some m → m.prot = false) :
    s.accessError a p = s.failAccess a { a.faultRec .uncorrectable 1 p with tc := if a.kind = .atomic then a.tc else a.arr }
      (s.physOf a.pages a.core a.slot p) := by
  refine if_neg fun hg => ?_
  obtain ⟨hk, hm⟩ := Bool.and_eq_true_iff.mp hg
  rcases h with h | h
  · exact h (of_decide_eq_true hk)
  · obtain ⟨m, hm, hprot⟩ := (Option.any_eq_true _ _).mp hm
    rw [h m hm] at hprot
    exact Bool.false_ne_true hprot

/-- A protected line that is read waits for its rebuilding (R376, R382). -/
theorem State.accessError_waits {s : State} {a : Access} {p : Word} {m : Mark} (hk : a.kind = .read)
    (hm : (s.slot a.slot).markAt p a.keyTc = some m) (hp : m.prot = true) :
    s.accessError a p = { s with timers := s.timers.filter fun e => e.2 ≠ a.ending } := by
  have hg : (a.kind = .read && ((s.slot a.slot).markAt p a.keyTc).any (·.prot) : Bool) = true := by
    rw [hm]
    exact Bool.and_eq_true_iff.mpr ⟨decide_eq_true hk, hp⟩
  refine (if_pos hg).trans ?_
  refine congrArg (fun l => { s with timers := l }) (List.filter_congr fun e _ => ?_)
  exact Bool.eq_iff_iff.mpr (by simp)

/-- A failed save stops its slot (R349, R370). -/
theorem exec_uncorrectableError_save {s : State} {n : Nat} (off : Nat) (h : (s.slot n).st = 3) :
    ∃ t, exec (.uncorrectableError (.save n off)) s = .next t ∧ (t.slot n).st = 5 ∧ (t.slot n).stop = 3 := by
  let u := ((s.reportError n 1 ((s.slot n).save + off) (s.slot n).tc 0 0).abortRounds n).2
  obtain ⟨h1, h2, -⟩ := u.enterStopped_slot n 3
  exact ⟨u.enterStopped n 3, congrArg Host.Outcome.next (if_pos h), h1, h2⟩

/-- A failed restore stops its slot (R349, R370). -/
theorem exec_uncorrectableError_restore {s : State} {n : Nat} (off : Nat) (h : (s.slot n).resume = .restoring) :
    ∃ t, exec (.uncorrectableError (.restore n off)) s = .next t ∧ (t.slot n).st = 5 ∧ (t.slot n).stop = 1 := by
  refine ⟨s.restoreError n off, congrArg Host.Outcome.next (if_pos h), ?_⟩
  unfold State.restoreError
  dsimp only
  obtain ⟨h1, h2, -⟩ := State.stopNow_slot (s.reportError n 0 ((s.slot n).save + off) (s.slot n).tc 0 0) n
    ⟨.restore, 0, (s.slot n).members.headD 0, 0, (s.slot n).tc, ((s.core ((s.slot n).members.headD 0)).stream 0).now.pc,
      ((s.core ((s.slot n).members.headD 0)).stream 0).now.word, 0, 0, ((s.core ((s.slot n).members.headD 0)).stream 0).cu, none, none⟩
  exact ⟨h1, h2⟩

/-! ## Answered faults -/

/-- A fatal fault of an access changes that access alone among those under way (R362). -/
theorem State.outs_failWith (s : State) (a : Access) (r : FaultRec) :
    (s.failWith a r).outs = s.outs.map fun b => if b.id = a.id then { b with st := .failed } else b := by
  unfold State.failWith
  dsimp only
  split <;> rfl

theorem State.failWith_keep {α : Type} {g : Slot → α} (hr : ∀ x rs, g { x with reqs := rs } = g x) (hd : ∀ x ds, g { x with dueFaults := ds } = g x)
    (hc : ∀ x ks, g { x with colls := ks } = g x) (s : State) (a : Access) (r : FaultRec) : SlotKeep g s (s.failWith a r) := by
  unfold State.failWith
  refine SlotKeep.trans ?_ (SlotKeep.modAccess _ a.id _)
  refine SlotKeep.trans ?_ (State.clearCause_keep hr _ a.slot (.reply a.id))
  refine SlotKeep.trans ?_ (State.clearCause_keep hr _ a.slot (.fault a.id))
  refine SlotKeep.trans ?_ (SlotKeep.unplan _ _)
  split
  · exact SlotKeep.modSlot s a.slot fun x => hc x _
  · exact SlotKeep.modSlot s a.slot fun x => hd x _

/-- After a list of accesses has failed, one that still stands is none of theirs (R364). -/
theorem State.standing_of_failed {as : List Access} {r : State → Access → FaultRec} :
    ∀ {s : State} {b : Access}, b ∈ (as.foldl (fun s a => s.failWith a (r s a)) s).outs → b.st = .failed ∨ (b ∈ s.outs ∧ ∀ a ∈ as, a.id ≠ b.id) := by
  induction as with
  | nil => exact fun hb => .inr ⟨hb, fun _ h => nomatch h⟩
  | cons a as ih =>
    intro s b hb
    obtain hf | ⟨hm, hne⟩ := ih hb
    · exact .inl hf
    rw [State.outs_failWith] at hm
    obtain ⟨c, hc, rfl⟩ := List.mem_map.mp hm
    by_cases hid : c.id = a.id
    · rw [if_pos hid]
      exact .inl rfl
    · rw [if_neg hid] at hne ⊢
      refine .inr ⟨hc, fun e he => ?_⟩
      rcases List.mem_cons.mp he with rfl | he
      · exact fun h => hid h.symm
      · exact hne e he

/-- The fault that an answered FAIL gives a joined access (R364, R365). -/
def Access.failedAt (a : Access) (f : LogFault) : FaultRec :=
  a.faultRec .page 1 (match (a.parts.flatMap fun q => lineStarts q.1 q.2.length).find? fun q => faultPage q f.size == f.page with
    | some q => q
    | none => f.page)

/-- A slot that runs or is being saved finds the record that an answer names (R364). -/
theorem Slot.answered_isSome {x : Slot} {q : Nat} (h : x.st = 2 ∨ x.st = 3) (hf : x.faults.any (fun e => e.seq == q) = true) :
    ∃ f, x.answered q = some f := by
  have hst : (x.st = 2 || x.st = 3 : Bool) = true := by simpa using h
  have hsome : (x.faults.find? fun e => e.seq == q).isSome = true := List.find?_isSome.mpr (by simpa using hf)
  obtain ⟨f, hff⟩ := Option.isSome_iff_exists.mp hsome
  exact ⟨f, (if_pos hst).trans hff⟩

/-- An answered FAIL takes its record away, and no access waits for it any more (R364, R365). -/
theorem exec_xlrespFail_answered {s : State} {n q : Nat} (h : (s.slot n).st = 2 ∨ (s.slot n).st = 3) (hf : (s.slot n).faults.any (fun e => e.seq == q) = true) :
    ∃ t, exec (.xlrespFail n q) s = .next t ∧ (t.slot n).faults = (s.slot n).faults.filter (fun e => e.seq != q) ∧
      ∀ a ∈ t.outs, a.slot = n → a.st ≠ .faulted q := by
  obtain ⟨f, hans⟩ := Slot.answered_isSome h hf
  let u := (s.takeRecord n q).2
  let t := (s.takeRecord n q).1.foldl (fun s a => s.failWith a (a.failedAt f)) u
  refine ⟨t, ?_, ?_, fun a ha hn hq => ?_⟩
  · rw [show exec (.xlrespFail n q) s = execXlrespFail n q s from rfl, execXlrespFail, hans]
    rfl
  · have hk : (t.slot n).faults = (u.slot n).faults :=
      SlotKeep.foldl (g := Slot.faults) _ (fun v a => v.failWith_keep (fun _ _ => rfl) (fun _ _ => rfl) (fun _ _ => rfl) a (a.failedAt f)) u (s.takeRecord n q).1 n
    exact hk.trans (congrArg Slot.faults (s.slot_modSlot n _))
  · obtain hfail | ⟨hm, hne⟩ := State.standing_of_failed (r := fun _ a => a.failedAt f) ha
    · rw [hfail] at hq
      exact nomatch hq
    · refine hne a (List.mem_filter.mpr ⟨hm, ?_⟩) rfl
      rw [hn, hq]
      simp

/-- An answer to a slot that neither runs nor is being saved does nothing (R364). -/
theorem exec_xlresp_other {s : State} {n : Nat} (q : Nat) (h : ¬((s.slot n).st = 2 ∨ (s.slot n).st = 3)) :
    exec (.xlrespFail n q) s = .next s ∧ exec (.xlrespRetry n q) s = .next s := by
  have hans : (s.slot n).answered q = none := if_neg (by simpa using h)
  refine ⟨?_, ?_⟩
  · rw [show exec (.xlrespFail n q) s = execXlrespFail n q s from rfl, execXlrespFail, hans]
  · rw [show exec (.xlrespRetry n q) s = execXlrespRetry n q s from rfl, execXlrespRetry, hans]

/-! ## Late stores and capped masters -/

/-- A store that missed its deadline is charged at the tc that the package executes (R314). -/
theorem exec_exchangeDeadlineReport_live {s : State} {n : Nat} (l : LateStore) (hl : (s.slot n).live = true) :
    let own := (s.slot n).members.find? fun c => (s.core c).rank == l.rank
    ∃ r, exec (.exchangeDeadlineReport n l) s = .next (if own.isSome then s.addFault n r else s.modSlot n fun y =>
        { y with faultsNow := y.faultsNow ++ [r] }) ∧
      r.kind = .exchange ∧ r.detail = 1 ∧ r.stream = l.stream ∧ r.tc = (s.slot n).tc ∧ r.addr = l.addr ∧ r.late = some (l.tc, l.stamp) ∧
      ∀ c, own = some c → r.core = c := by
  intro own
  have hno : ¬(!(s.slot n).live) = true := by rw [hl]; exact Bool.false_ne_true
  exact ⟨_, congrArg Host.Outcome.next (if_neg hno), rfl, rfl, rfl, rfl, rfl, rfl, fun c hc => (congrArg (fun o => Option.getD o _) hc : _)⟩

/-- A capped master is frozen and reported (R390). -/
theorem State.freeze_reports (s : State) (m k a : Nat) :
    m ∈ (s.freeze m k a).plat.frozen ∧ (s.freeze m k a).plat.flog = s.plat.flog ++ [⟨s.plat.fnOf m, m, k, a, true⟩] ∧
      (s.freeze m k a).plat.msgs = s.plat.msgs ++ [.msix (s.plat.fnOf m) 1] ∧ (m < 16 → ((s.freeze m k a).core (768 + m)).sup.frozen = true) ∧
      (s.freeze m k a).dev = s.dev ∧ (s.freeze m k a).slots = s.slots := by
  unfold State.freeze
  dsimp only
  split
  next hm =>
    refine ⟨List.mem_cons_self, rfl, rfl, fun _ => ?_, rfl, rfl⟩
    rw [State.send_core, State.core_modCore]
  next hm => exact ⟨List.mem_cons_self, rfl, rfl, fun h => absurd h hm, rfl, rfl⟩

/-- Settles O52: each stop and its cause by the branch that it takes. -/
theorem faultEvents : Obligations.FaultEvents := by
  unfold Obligations.FaultEvents
  intro s n x
  refine ⟨fun f c => s.frame_layout x f c, ?_, ?_, ?_, fun hl hh hw hr hf => exec_holdWatchdogExpiry_stops hl hh hw hr hf,
    fun h hk => exec_kill_running h hk, fun h => exec_kill_saved h, fun h2 h3 h4 => exec_kill_other h2 h3 h4,
    fun l hl => exec_exchangeDeadlineReport_live l hl, fun d p _ h hc => exec_linkLoss_untouched h hc,
    fun d p a _ hm hv hk ho hs hc hst hp => exec_linkLoss_one hm hv hk ho hs hc hst hp, ?_,
    fun off => ⟨fun h => exec_uncorrectableError_save off h, fun h => exec_uncorrectableError_restore off h⟩,
    fun q h hf => exec_xlrespFail_answered h hf, fun q h => exec_xlresp_other q h, fun m k a => ⟨_, rfl, s.freeze_reports m k a⟩⟩
  · intro f hf hd
    refine ⟨s.stopNow n f, ?_, s.stopNow_slot n f⟩
    rw [show exec (.fatalStop n) s = execFatalStop n s from rfl, execFatalStop, show (s.slot n).fatal = some f from hf]
    exact congrArg Host.Outcome.next (if_pos hd)
  · intro hd
    rw [show exec (.fatalStop n) s = execFatalStop n s from rfl]
    unfold execFatalStop
    dsimp only
    split
    · exact congrArg Host.Outcome.next (if_neg (ne_true_of_eq_false hd))
    · rfl
  · intro h2 ht
    have hg : ((s.slot n).st = 2 && (s.slot n).tc = (s.slot n).prevPt + (s.slot n).curDistNow + 1 : Bool) = true :=
      Bool.and_eq_true_iff.mpr ⟨decide_eq_true h2, decide_eq_true ht⟩
    exact congrArg Host.Outcome.next (if_pos hg)
  · intro id a p q ha hq hp at_
    obtain ⟨h1, h2, h3⟩ := exec_uncorrectableError_own ha hq hp
    refine ⟨h1, h2, fun h => ?_, fun m hk hm hprot => ?_⟩
    · rw [h3, State.accessError_fails h]
    · rw [h3, State.accessError_waits hk hm hprot]

end Sys2Proof.Machine
end

section
/-! SUPPORT. Phased accesses at their homes, walks, writes of the host, migrations and repairs (spec/06_consistency.md R127 to R132,
spec/15_prog_groups.md R315, spec/18_translation.md R360 to R368, spec/19_protected_hbm.md R382, spec/20_platform.md R387). -/

namespace Sys2Proof.Machine

/-! ## Accesses that end -/

/-- An access that has ended is outstanding no more (R37). -/
theorem State.not_mem_endAccess (s : State) (a : Access) : ∀ b ∈ (s.endAccess a).outs, b.id ≠ a.id := fun b hb =>
  bne_iff_ne.mp (List.mem_filter.mp (show b ∈ s.outs.filter fun b => b.id != a.id from hb)).2

theorem State.not_mem_performStore (s : State) (a : Access) : ∀ b ∈ (s.performStore a).outs, b.id ≠ a.id := State.not_mem_endAccess _ a

theorem State.not_mem_performColl (s : State) (a : Access) : ∀ b ∈ (s.performColl a).outs, b.id ≠ a.id := by
  unfold State.performColl
  dsimp only
  split
  · exact State.not_mem_endAccess _ a
  · split
    · exact State.not_mem_endAccess _ a
    · exact State.not_mem_endAccess _ a

/-- A write that touches no marked sector always takes place (R376). -/
theorem State.engineWrite_unmarked (s : State) (n : Nat) (by_ : Option Nat) (runs : List (Nat × List Byte)) (r : FaultRec) :
    s.engineWrite n by_ [] runs r = some (runs.foldl (fun t w => t.devWrites by_ w.1 w.2) s) := rfl

/-- An atomic's access ends, or has failed for want of a log entry of its marked sectors (R205, R366, R377). -/
theorem State.performAtomic_outs (s : State) (a : Access) :
    ∀ b ∈ (s.performAtomic a).outs, b.id = a.id → b.st = .failed ∧ s.accessSectors a ≠ [] := by
  have hend (t : State) : ∀ b ∈ (t.endAccess a).outs, b.id = a.id → b.st = .failed ∧ s.accessSectors a ≠ [] :=
    fun b hb h => absurd h (t.not_mem_endAccess a b hb)
  unfold State.performAtomic
  split
  next hdr f p z ps hins hparts =>
    dsimp only
    split
    next => exact hend s
    next l key hkey =>
      split
      next hnone =>
        intro b hb hid
        rw [State.outs_failWith] at hb
        obtain ⟨c, -, rfl⟩ := List.mem_map.mp hb
        have hc : c.id = a.id := by
          refine Decidable.byContradiction fun hne => ?_
          rw [if_neg hne] at hid
          exact hne hid
        rw [if_pos hc]
        refine ⟨rfl, fun hsec => ?_⟩
        have hm : s.markedSectors a.pages a.slot a.core p z.length a.keyTc = [] := by
          rw [State.accessSectors, hparts, List.flatMap_cons] at hsec
          exact (List.append_eq_nil_iff.mp hsec).1
        rw [hm, State.engineWrite_unmarked] at hnone
        exact Option.some_ne_none _ hnone
      next => exact hend _
  next => exact hend s

/-! ## Replies, stores and atomics -/

/-- A reply that waits for nothing (R35, R127). -/
theorem exec_phasedReplyArrival_ends {s : State} {a : Access} (ha : s.access a.id = some a) (hst : a.st = .sent) (hk : a.kind = .read)
    (hf : s.fenced a = false) (hat : s.atomAhead a = false) (hc : s.collReach a false = .ok s) :
    ∃ t, exec (.phasedReplyArrival a.id) s = .next t ∧ t.cur = s.cur ∧ ∀ b ∈ t.outs, b.id ≠ a.id := by
  refine ⟨{ (s.deliverReply a).endAccess a with cur := s.cur }, ?_, rfl, State.not_mem_endAccess _ a⟩
  rw [show exec (.phasedReplyArrival a.id) s = execPhasedReplyArrival a.id s from rfl, execPhasedReplyArrival, ha]
  simp only [hk, hst, hf, hat, hc]
  rfl

/-- A reply that must wait is looked at again (R131, R132). -/
theorem exec_phasedReplyArrival_waits {s : State} {a : Access} (ha : s.access a.id = some a) (hst : a.st = .sent) (hk : a.kind = .read)
    (h : s.fenced a = true ∨ s.atomAhead a = true) : exec (.phasedReplyArrival a.id) s = .next (s.later (.phasedReplyArrival a.id)) := by
  rw [show exec (.phasedReplyArrival a.id) s = execPhasedReplyArrival a.id s from rfl, execPhasedReplyArrival, ha]
  have hg : (s.fenced a || s.atomAhead a) = true := by simpa using h
  simp only [hk, hst, hg]
  rfl

/-- A store of this package whose order allows it, by what the engines that it passes answer (R129, R390). -/
theorem exec_storePerformed_ready {s : State} {a : Access} (ha : s.access a.id = some a) (hst : a.st = .sent) (hk : a.kind = .store)
    (h1 : s.storeAhead a = false) (h2 : s.fenced a = false) (h3 : s.doubtful a = false) (h4 : s.awayOffer a = false) :
    (∀ u, s.enginesReach a = .ok u → exec (.storePerformed (.own a.id)) s = .next (if a.coll.isSome then u.performColl a else u.performStore a)) ∧
      ∀ u, s.enginesReach a = .error u → exec (.storePerformed (.own a.id)) s = .next (u.later (.storePerformed (.own a.id))) := by
  rw [show exec (.storePerformed (.own a.id)) s = .next (s.ownStore a.id) from rfl, State.ownStore, ha]
  simp only [hk, hst, h1, h2, h3, h4]
  refine ⟨fun u hu => ?_, fun u hu => ?_⟩ <;> rw [hu] <;> rfl

theorem exec_storePerformed_waits {s : State} {a : Access} (ha : s.access a.id = some a) (hst : a.st = .sent) (hk : a.kind = .store)
    (h : s.storeAhead a = true ∨ s.fenced a = true) : exec (.storePerformed (.own a.id)) s = .next (s.later (.storePerformed (.own a.id))) := by
  rw [show exec (.storePerformed (.own a.id)) s = .next (s.ownStore a.id) from rfl, State.ownStore, ha]
  have hg : (s.storeAhead a || s.fenced a) = true := by simpa using h
  simp only [hk, hst, hg]
  rfl

/-- An atomic whose order allows it (R131, R205). -/
theorem exec_atomPerformed_ready {s : State} {a : Access} (ha : s.access a.id = some a) (hst : a.st = .sent) (hk : a.kind = .atomic)
    (h1 : s.storeAhead a = false) (h2 : s.fenced a = false) (h3 : s.doubtful a = false) :
    (∀ u, s.enginesReach a = .ok u → exec (.atomPerformed a.id) s = .next (u.performAtomic a)) ∧
      ∀ u, s.enginesReach a = .error u → exec (.atomPerformed a.id) s = .next (u.later (.atomPerformed a.id)) := by
  rw [show exec (.atomPerformed a.id) s = execAtomPerformed a.id s from rfl, execAtomPerformed, ha]
  simp only [hk, hst, h1, h2, h3]
  refine ⟨fun u hu => ?_, fun u hu => ?_⟩ <;> rw [hu] <;> rfl

theorem exec_atomPerformed_waits {s : State} {a : Access} (ha : s.access a.id = some a) (hst : a.st = .sent) (hk : a.kind = .atomic)
    (h : s.storeAhead a = true ∨ s.fenced a = true) : exec (.atomPerformed a.id) s = .next (s.later (.atomPerformed a.id)) := by
  rw [show exec (.atomPerformed a.id) s = execAtomPerformed a.id s from rfl, execAtomPerformed, ha]
  have hg : (s.storeAhead a || s.fenced a) = true := by simpa using h
  simp only [hk, hst, hg]
  rfl

/-- A store or an atomic of which an engine is frozen waits for it (R390). -/
theorem exec_performed_frozen {s : State} {a : Access} {u : State} (ha : s.access a.id = some a) (hst : a.st = .sent) (hk : a.kind ≠ .read)
    (h1 : s.storeAhead a = false) (h2 : s.fenced a = false) (h3 : s.doubtful a = false) (h4 : s.awayOffer a = false) (hu : s.enginesReach a = .error u) :
    let i : Instr := if a.kind = .store then .storePerformed (.own a.id) else .atomPerformed a.id
    exec i s = .next (u.later i) := by
  intro i
  by_cases hs : a.kind = .store
  · rw [show i = .storePerformed (.own a.id) from if_pos hs]
    exact (exec_storePerformed_ready ha hst hs h1 h2 h3 h4).2 u hu
  · rw [show i = .atomPerformed a.id from if_neg hs]
    refine (exec_atomPerformed_ready ha hst ?_ h1 h2 h3).2 u hu
    revert hk hs
    cases a.kind <;> simp

/-! ## Stores of other packages -/

theorem State.devWrites_log (s : State) (by_ : Option Nat) (key : Nat) (bs : List Byte) : SlotKeep Slot.log s (s.devWrites by_ key bs) := by
  unfold State.devWrites
  dsimp only
  refine SlotKeep.trans (SlotKeep.foldl _ (fun t n => SlotKeep.modSlot t n fun x => ?_) s s.viewers) (SlotKeep.of_slots rfl)
  split <;> split <;> rfl

theorem State.outs_devWrites (s : State) (by_ : Option Nat) (key : Nat) (bs : List Byte) : (s.devWrites by_ key bs).outs = s.outs :=
  (congrArg State.outs (s.devWrites_engine by_ key bs).rest :)

/-- Writes of outside agents keep the accesses under way and the logs of the slots (R130). -/
theorem State.foldl_devWrites_keeps (s : State) (by_ : Option Nat) (runs : List (Nat × List Byte)) :
    (runs.foldl (fun t w => t.devWrites by_ w.1 w.2) s).outs = s.outs ∧ SlotKeep Slot.log s (runs.foldl (fun t w => t.devWrites by_ w.1 w.2) s) := by
  let f (t : State) (w : Nat × List Byte) : State := t.devWrites by_ w.1 w.2
  refine ⟨?_, SlotKeep.foldl f (fun t w => t.devWrites_log by_ w.1 w.2) s runs⟩
  exact List.foldlRecOn runs f (motive := fun t : State => t.outs = s.outs) rfl fun t ht w _ => (t.outs_devWrites by_ w.1 w.2).trans ht

/-- What the home reports of a late store (R314) changes no access and no slot. -/
theorem State.foldl_send_keeps {α : Type} (s : State) (g : α → Msg) (l : List α) :
    (l.foldl (fun t a => t.send (g a)) s).outs = s.outs ∧ (l.foldl (fun t a => t.send (g a)) s).slots = s.slots :=
  List.foldlRecOn l _ (motive := fun t : State => t.outs = s.outs ∧ t.slots = s.slots) ⟨rfl, rfl⟩ fun _ ht _ _ => ht

/-- The member write that a store of another package becomes at its home (R315). -/
def State.peerWrite (s : State) (w : PeerStore) : PWrite :=
  let x := s.slot w.slot
  let now := x.opened || (x.held.isSome && x.releaseAt.any fun k => k ≤ x.clk)
  ⟨w.npod, w.prank, ⟨w.tc, 0⟩, w.rank, w.stream, 0, 0, w.data, false, none, [], none, s.done + 1, 0,
    some (homeKey 0 0 w.addr, if now then x.tc + 1 else x.tc, if w.stamp.isSome then 4 else 5)⟩

/-- The home bytes that it changes: those that no later member write holds (R129, R315). -/
def State.peerBytes (s : State) (w : PeerStore) : List (Nat × Byte) :=
  let newer := (s.slot w.slot).log.filter fun u => u.done != 0 && !u.le (s.peerWrite w)
  ((List.range w.data.length).zip w.data).filterMap fun (e : Nat × Byte) =>
    if newer.any fun u => s.wroteAt w.slot u (homeKey 0 0 w.addr + e.1) then none else some (homeKey 0 0 w.addr + e.1, e.2)

/-- A slot whose log has one more write. -/
def Slot.joinedBy (v : PWrite) (y : Slot) : Slot := { y with log := y.log ++ [v] }

/-- A member write stands performed in a slot's log. -/
def State.joined (t : State) (n : Nat) (v : PWrite) : State := { t.modSlot n (Slot.joinedBy v) with done := t.done + 1 }

/-- What the home reports of a store that came late (R314). -/
def State.lateReport (t : State) (x : Slot) (w : PeerStore) : State :=
  match w.stamp with
  | some g =>
    if g.toNat + 2000 < t.ns then
      let l : LateStore := ⟨w.rank, w.stream, w.pc, w.word, w.tc, w.ptr, g.toNat⟩
      (((List.range x.npkg).filter fun p => p != x.prank).foldl (fun s p => s.send (.late w.slot p l)) t).later (.exchangeDeadlineReport w.slot l)
    else t
  | none => t

theorem State.lateReport_keeps (t : State) (x : Slot) (w : PeerStore) : (t.lateReport x w).outs = t.outs ∧ (t.lateReport x w).slots = t.slots := by
  unfold State.lateReport
  split
  · split
    · exact t.foldl_send_keeps (fun p => Msg.late w.slot p _) _
    · exact ⟨rfl, rfl⟩
  · exact ⟨rfl, rfl⟩

theorem State.peerStore_unmarked {s : State} {w : PeerStore} (hm : s.markedHomes w.slot (homeKey 0 0 w.addr) w.data.length ⟨w.tc, 0⟩ = []) :
    s.peerStore w = (((runsOf (s.peerBytes w)).foldl (fun t r => t.devWrites (some (agentOf w.slot 0x1000 w.stream)) r.1 r.2) s).joined w.slot
      (s.peerWrite w)).lateReport (s.slot w.slot) w := by
  unfold State.peerStore
  dsimp only
  rw [hm, State.engineWrite_unmarked]
  rfl

/-- A store of another package outside the marks joins the cohort's order under its own key (R315). -/
theorem State.peerStore_joins {s : State} {w : PeerStore} (hm : s.markedHomes w.slot (homeKey 0 0 w.addr) w.data.length ⟨w.tc, 0⟩ = []) :
    (s.peerStore w).outs = s.outs ∧ ((s.peerStore w).slot w.slot).log = (s.slot w.slot).log ++ [s.peerWrite w] := by
  rw [State.peerStore_unmarked hm]
  let u := (runsOf (s.peerBytes w)).foldl (fun t r => t.devWrites (some (agentOf w.slot 0x1000 w.stream)) r.1 r.2) s
  obtain ⟨ho, hl⟩ := s.foldl_devWrites_keeps (some (agentOf w.slot 0x1000 w.stream)) (runsOf (s.peerBytes w))
  obtain ⟨ko, ks⟩ := (u.joined w.slot (s.peerWrite w)).lateReport_keeps (s.slot w.slot) w
  refine ⟨ko.trans ho, ?_⟩
  have h1 : (u.joined w.slot (s.peerWrite w)).slot w.slot = (u.slot w.slot).joinedBy (s.peerWrite w) := u.slot_modSlot w.slot _
  have h2 := congrArg (fun m => (Tbl.get Slot.reset m w.slot).log) ks
  exact h2.trans ((congrArg Slot.log h1).trans (congrArg (· ++ [s.peerWrite w]) (hl w.slot)))

/-- A store of another package that the wall lets through, outside the marks (R315, R388). -/
theorem exec_storePerformed_peer {s : State} {w : PeerStore} (hp : (s.slot w.slot).pkgs[w.prank]? = none ∨ s.plat.caps = false)
    (hm : s.markedHomes w.slot (homeKey 0 0 w.addr) w.data.length ⟨w.tc, 0⟩ = []) :
    exec (.storePerformed (.peer w)) s = .next (s.peerStore w) := by
  rw [show exec (.storePerformed (.peer w)) s = execStorePerformed (.peer w) s from rfl]
  have hgo : (match s.engineReach w.slot (s.markedHomes w.slot (homeKey 0 0 w.addr) w.data.length ⟨w.tc, 0⟩) with
      | .error s => s.later (.storePerformed (.peer w))
      | .ok s => s.peerStore w) = s.peerStore w := by
    rw [hm]
    rfl
  unfold execStorePerformed
  dsimp only
  split
  next p hpk =>
    have hcaps : s.plat.caps = false := hp.resolve_left fun hn => by rw [hn] at hpk; exact Option.some_ne_none p hpk.symm
    have hw : s.plat.wallOpen (s.slot w.slot).die p = true := by simp [Plat.wallOpen, hcaps]
    exact congrArg Host.Outcome.next ((if_pos hw).trans hgo)
  next => exact congrArg Host.Outcome.next hgo

/-! ## Writes of the host -/

theorem State.watchHit_home (s : State) (addr : Nat) : (s.watchHit addr).dev = s.dev ∧ (s.watchHit addr).qs = s.qs := by
  refine List.foldlRecOn _ _ (motive := fun t : State => t.dev = s.dev ∧ t.qs = s.qs) ⟨rfl, rfl⟩ fun t ht v _ => ?_
  refine List.foldlRecOn _ _ (motive := fun t : State => t.dev = s.dev ∧ t.qs = s.qs) ht fun u hu j _ => ?_
  dsimp only
  split
  · exact hu
  · exact hu

theorem State.hostWrite_home (s : State) (addr : Nat) (data : List Byte) :
    (s.hostWrite addr data).dev = Map.setRun s.dev addr data ∧ (s.hostWrite addr data).qs = s.qs := by
  refine List.foldlRecOn _ _ (motive := fun t : State => t.dev = Map.setRun s.dev addr data ∧ t.qs = s.qs)
    ⟨rfl, (congrArg State.qs (s.devWrites_engine none addr data).rest :)⟩ fun t ht a _ => ?_
  obtain ⟨hd, hq⟩ := t.watchHit_home a
  exact ⟨hd.trans ht.1, hq.trans ht.2⟩

theorem Map.getRun_setRun_self {w : Nat} {m : Map w} (h : Map.wf m = true) (a : Nat) (xs : List (BitVec w)) :
    Map.getRun (Map.setRun m a xs) a xs.length = xs := by
  rw [Map.getRun_eq (Map.wf_setRun h a xs)]
  refine List.ext_getElem (by simp) fun i _ hi => ?_
  rw [List.getElem_map, List.getElem_range, Map.get_setRun h, if_pos (by omega), Nat.add_sub_cancel_left, List.getD_eq_getElem?_getD, List.getElem?_eq_getElem hi, Option.getD_some]

/-- A write of the host puts its bytes at their addresses and nowhere else (R387). -/
theorem State.hostWrite_bytes {s : State} (h : Memory.wf s.dev = true) (addr : Nat) (data : List Byte) :
    (s.hostWrite addr data).devBytes addr data.length = data ∧
      ∀ a, a < addr ∨ addr + data.length ≤ a → (s.hostWrite addr data).devBytes a 1 = s.devBytes a 1 := by
  have hw : Map.wf (Map.setRun s.dev addr data) = true := Map.wf_setRun h addr data
  have hd := (s.hostWrite_home addr data).1
  refine ⟨?_, fun a ha => ?_⟩
  · rw [State.devBytes, hd]
    exact Map.getRun_setRun_self h addr data
  · rw [State.devBytes, State.devBytes, hd, Map.getRun_eq hw, Map.getRun_eq h]
    simp only [List.range_one, List.map_cons, List.map_nil, Nat.add_zero]
    rw [Map.get_setRun h, if_neg (by omega)]

/-- Both ways in which the host writes a function's memory (R331, R387). -/
theorem exec_hostWrite_held {s : State} {fn addr : Nat} {data : List Byte} {i : Instr} (hfn : fn < 8)
    (hi : i = .hostRequestSubmit addr data ∨ i = .cxlMemHostWrite (.mem fn addr) data) (hh : s.plat.hdmHolds fn addr data.length = true) :
    exec i s = .next (s.hostWrite addr data) := by
  obtain rfl | rfl := hi
  · exact congrArg Host.Outcome.next (if_pos (List.any_eq_true.mpr ⟨fn, List.mem_range.mpr hfn, hh⟩))
  · exact congrArg Host.Outcome.next (if_pos hh)

/-! ## Walks and answers -/

/-- The walk of an address that no TLB holds fills the core's own (R360). -/
theorem State.mem_tlb1_lookup {s : State} {c n pg sz : Nat} {p l : Word} (ht : s.tlbHit c n p = none) (hw : s.walk (s.slot n) p = .leaf l pg sz) :
    ⟨n, ptrTag p == 11, pg, sz, l⟩ ∈ Tbl.get [] (s.lookup c n p).2.tlb1 c := by
  unfold State.lookup
  rw [ht]
  dsimp only
  rw [hw]
  dsimp only
  rw [Tbl.get_set_self]
  unfold tlbAdd
  split <;> exact List.mem_append_right _ (List.mem_singleton.mpr rfl)

theorem State.outs_lookup (s : State) (c n : Nat) (p : Word) : (s.lookup c n p).2.outs = s.outs := by
  unfold State.lookup
  split
  · rfl
  · split <;> rfl

/-- No access waits: nothing is translated again. -/
theorem State.rewalk_none {s : State} {n : Nat} {p : Access → Bool} (h : ∀ a ∈ s.outs, ¬(a.slot == n && p a) = true) : s.rewalk n p = s := by
  have hl : (s.outs.filter fun a => a.slot == n && a.st == .walk && p a) = [] := by
    refine List.filter_eq_nil_iff.mpr fun a ha hp => h a ha ?_
    obtain ⟨h1, h2⟩ := Bool.and_eq_true_iff.mp hp
    exact Bool.and_eq_true_iff.mpr ⟨(Bool.and_eq_true_iff.mp h1).1, h2⟩
  rw [State.rewalk, hl]
  rfl

theorem exec_translationWalk_fills (s : State) (c : Nat) (p : Word) (st : Bool) :
    ∃ t, exec (.translationWalk c p st) s = .next t ∧ ∀ l pg sz, s.tlbHit c (s.core c).slot p = none →
      s.walk (s.slot (s.core c).slot) p = .leaf l pg sz → (s.outs.all fun a => a.core != c) = true →
        ⟨(s.core c).slot, ptrTag p == 11, pg, sz, l⟩ ∈ Tbl.get [] t.tlb1 c := by
  refine ⟨_, rfl, fun l pg sz ht hw ho => ?_⟩
  rw [State.rewalk_none]
  · exact State.mem_tlb1_lookup ht hw
  · intro a ha hp
    rw [State.outs_lookup] at ha
    have hne := bne_iff_ne.mp (List.all_eq_true.mp ho a ha)
    have hc := (Bool.and_eq_true_iff.mp (Bool.and_eq_true_iff.mp (Bool.and_eq_true_iff.mp hp).2).1).1
    exact hne (eq_of_beq hc)

/-- An answered RETRY takes its record away and translates the joined accesses again (R364). -/
theorem exec_xlrespRetry_answered {s : State} {n q : Nat} (h : (s.slot n).st = 2 ∨ (s.slot n).st = 3)
    (hf : (s.slot n).faults.any (fun e => e.seq == q) = true) :
    ∃ t, exec (.xlrespRetry n q) s = .next ((s.outs.filter fun a => a.slot == n && a.st == .faulted q).foldl (fun u a => u.translate a) t) ∧
      (t.slot n).faults = (s.slot n).faults.filter fun e => e.seq != q := by
  obtain ⟨f, hans⟩ := Slot.answered_isSome h hf
  refine ⟨(s.takeRecord n q).2, ?_, congrArg Slot.faults (s.slot_modSlot n _)⟩
  rw [show exec (.xlrespRetry n q) s = execXlrespRetry n q s from rfl, execXlrespRetry, hans]
  rfl

/-! ## Migrations -/

/-- A migration slot without START does nothing (R367). -/
theorem exec_migration_idle {s : State} {v m : Nat} (l : Nat) (h : (Map.get (s.core (768 + v)).sup.migctl m).getLsbD 1 = false) :
    exec (.migrationLinePull v m l) s = .next s ∧ exec (.migrationLineMove v m) s = .next s := by
  have hp : (!(Map.get (s.core (768 + v)).sup.migctl m).getLsbD 1) = true := by rw [h]; rfl
  have hm : (!(Map.get (s.core (768 + v)).sup.migctl m).getLsbD 1 || Map.get (s.core (768 + v)).sup.migtlbi m != migMay) = true := by rw [h]; rfl
  exact ⟨congrArg Host.Outcome.next (if_pos hp), congrArg Host.Outcome.next (if_pos hm)⟩

theorem exec_migrationLinePull_on {s : State} {v m : Nat} (l : Nat) (h : (Map.get (s.core (768 + v)).sup.migctl m).getLsbD 1 = true) :
    exec (.migrationLinePull v m l) s = .next ((s.pullLine (768 + v) m l).1.rewalk (s.migOwner (768 + v) m) fun _ => true) := by
  have hp : ¬(!(Map.get (s.core (768 + v)).sup.migctl m).getLsbD 1) = true := by rw [h]; exact Bool.false_ne_true
  exact congrArg Host.Outcome.next (if_neg hp)

theorem State.pullLine_moved {s : State} {v m l : Nat} (h : (s.core v).sup.moved.contains (m, l) = true) : (s.pullLine v m l).1 = s :=
  congrArg Prod.fst (if_pos h)

/-- A line whose turn has not come is copied by its first touch (R368). -/
theorem State.pullLine_pulls {s u : State} {v m l : Nat} (h : (s.core v).sup.moved.contains (m, l) = false) (hm : Map.get (s.core v).sup.migtlbi m = migMay)
    (hu : s.migReach v m l = .ok u) :
    (s.pullLine v m l).1 = if (s.core v).sup.bad.contains (m, l) then u.loseLine v m l else u.moveLine v m l := by
  have hne : ¬(Map.get (s.core v).sup.migtlbi m != migMay) = true := by rw [hm]; simp
  unfold State.pullLine
  dsimp only
  rw [if_neg (ne_true_of_eq_false h), if_neg hne, hu]
  dsimp only
  split <;> rfl

/-- The copy engine's turn for the next line (R368). -/
theorem exec_migrationLineMove_next {s : State} {v m l : Nat} (h : (Map.get (s.core (768 + v)).sup.migctl m).getLsbD 1 = true)
    (hm : Map.get (s.core (768 + v)).sup.migtlbi m = migMay) (hl : (s.core (768 + v)).sup.nextLine m = some l) :
    exec (.migrationLineMove v m) s = .next (match s.migReach (768 + v) m l with
      | .error u => u.later (.migrationLineMove v m)
      | .ok u => ((u.engineLine (768 + v) m l).rewalk (u.migOwner (768 + v) m) fun _ => true).later (.migrationLineMove v m)) := by
  have hg : ¬(!(Map.get (s.core (768 + v)).sup.migctl m).getLsbD 1 || Map.get (s.core (768 + v)).sup.migtlbi m != migMay) = true := by
    rw [h, hm]
    simp
  rw [show exec (.migrationLineMove v m) s = execMigrationLineMove v m s from rfl]
  unfold execMigrationLineMove
  dsimp only
  rw [if_neg hg, hl] <;> rfl

theorem State.engineLine_good {u : State} {v m l : Nat} (h : (u.core v).sup.bad.contains (m, l) = false) : u.engineLine v m l = u.moveLine v m l :=
  if_neg (ne_true_of_eq_false h)

/-- START of an idle migration slot (R367). -/
theorem exec_migctlStart_idle {s : State} {v m : Nat} (w : Word) (h : (Map.get (s.core (768 + v)).sup.migctl m).getLsbD 1 = false)
    (h1 : Map.wf (s.core (768 + v)).sup.migctl = true) (h2 : Map.wf (s.core (768 + v)).sup.migtlbi = true) :
    ∃ t, exec (.migctlStart v m w) s = .next t ∧ (Map.get (t.core (768 + v)).sup.migctl m).getLsbD 1 = true ∧
      Map.get (t.core (768 + v)).sup.migtlbi m = 0 ∧ ∀ e ∈ (t.core (768 + v)).sup.moved, e.1 ≠ m := by
  refine ⟨_, congrArg Host.Outcome.next (if_neg (ne_true_of_eq_false h)), ?_⟩
  rw [State.core_modCore]
  refine ⟨?_, ?_, fun e he => bne_iff_ne.mp (List.mem_filter.mp he).2⟩
  · rw [Map.get_set h1, if_pos rfl, BitVec.getLsbD_or]
    simp
  · rw [Map.get_set h2, if_pos rfl]

/-! ## Repairs -/

/-- The first line of an access in the 256 bytes of one of its own is that one, where no other lies there (R382). -/
theorem find?_own_line {qs : List Word} {q : Word} (hq : q ∈ qs) (hone : ∀ r ∈ qs, ptrTag r = ptrTag q → ptrOff r / 256 = ptrOff q / 256 → r = q) :
    (qs.find? fun r => ptrTag r == ptrTag q && ptrOff r / 256 == ptrOff q / 256) = some q := by
  cases hf : qs.find? fun r => ptrTag r == ptrTag q && ptrOff r / 256 == ptrOff q / 256 with
  | none => exact absurd (List.find?_eq_none.mp hf q hq) (by simp)
  | some r =>
    obtain ⟨h1, h2⟩ := Bool.and_eq_true_iff.mp (List.find?_some (p := fun r => ptrTag r == ptrTag q && ptrOff r / 256 == ptrOff q / 256) hf)
    rw [hone r (List.mem_of_find?_eq_some hf) (eq_of_beq h1) (eq_of_beq h2)]

/-- With no member lost, a data member's sector is the plain sum (R375, R381). -/
theorem Group.rebuiltLine_whole {x : Group} (h0 : x.lost = []) (hk : x.self < x.k) (sums : List (BitVec 512 × BitVec 512)) (needs : Bool) :
    x.rebuiltLine sums needs = (List.range 4).flatMap fun i => leBytes 64 (sums.getD i (0, 0)).1.toNat := by
  unfold Group.rebuiltLine
  rw [h0]
  have hr (a b : BitVec 512) : recover x.k [x.self] x.self a b = a := by
    unfold recover
    simp [hk]
    omega
  simp [hr]

/-- What a repair comes to (R370, R382). -/
theorem exec_protectedReadRepair_own {s : State} {a : Access} {q : Word} {m : Mark} (sums : List (BitVec 512 × BitVec 512)) (needs : Bool)
    (ha : s.access a.id = some a) (hst : a.st = .sent) (hq : q ∈ a.parts.flatMap (fun r => lineStarts r.1 r.2.length))
    (hone : ∀ r ∈ a.parts.flatMap (fun r => lineStarts r.1 r.2.length), ptrTag r = ptrTag q → ptrOff r / 256 = ptrOff q / 256 → r = q)
    (hm : (s.slot a.slot).markAt q a.keyTc = some m) (hp : m.prot = true) :
    let x := s.group (Tbl.get 0 (s.slot a.slot).grpOf m.grp)
    let p := q - BitVec.ofNat 64 (ptrOff q % 256)
    let off := ptrOff p - x.window.1
    exec (.protectedReadRepair a.id ⟨q, sums, needs⟩) s = .next
      (if x.st = 4 || (x.m ≤ x.lost.length && needs) then
        s.failAccess a (a.faultRec .uncorrectable 1 q) (s.physOf a.pages a.core a.slot q)
      else if x.deltas.any fun d => off ≤ d.off && d.off < off + 256 then s.later (.protectedReadRepair a.id ⟨q, sums, needs⟩)
      else match s.keyFor a.pages a.core a.slot p with
        | some (_, key) => ({ s with dev := Map.setRun s.dev key (x.rebuiltLine sums needs) }).later a.ending
        | none => s) := by
  intro x p off
  have hf := find?_own_line hq hone
  have hg : ¬(a.st != .sent || !m.prot) = true := by rw [hst, hp]; simp
  rw [show exec (.protectedReadRepair a.id ⟨q, sums, needs⟩) s = execProtectedReadRepair a.id ⟨q, sums, needs⟩ s from rfl]
  unfold execProtectedReadRepair
  rw [ha]
  dsimp only
  rw [hf, Option.getD_some, hm]
  dsimp only
  rw [if_neg hg] <;> rfl

/-- Settles O53: each event at its home by the branch that its guards take. -/
theorem memoryEvents : Obligations.MemoryEvents := by
  unfold Obligations.MemoryEvents
  intro s
  refine ⟨fun a ha hst => ⟨?_, ?_, ?_, ?_, ?_, ?_, ?_⟩, ?_, fun _ _ _ => rfl, ?_, fun fn addr data h => congrArg Host.Outcome.next (if_neg (ne_true_of_eq_false h)),
    exec_translationWalk_fills s, ?_, ?_, fun n q h hf => exec_xlrespRetry_answered h hf, ?_, ?_⟩
  · exact fun hk hf hat hc => exec_phasedReplyArrival_ends ha hst hk hf hat hc
  · exact fun hk h => exec_phasedReplyArrival_waits ha hst hk h
  · intro u hk h1 h2 h3 h4 hu
    refine ⟨_, (exec_storePerformed_ready ha hst hk h1 h2 h3 h4).1 u hu, ?_⟩
    split
    · exact State.not_mem_performColl u a
    · exact State.not_mem_performStore u a
  · exact fun hk h => exec_storePerformed_waits ha hst hk h
  · exact fun u hk h1 h2 h3 hu => ⟨_, (exec_atomPerformed_ready ha hst hk h1 h2 h3).1 u hu, u.performAtomic_outs a⟩
  · exact fun u hk h1 h2 h3 h4 hu => exec_performed_frozen ha hst hk h1 h2 h3 h4 hu
  · exact fun hk h => exec_atomPerformed_waits ha hst hk h
  · intro w hp hm
    obtain ⟨ho, hl⟩ := State.peerStore_joins hm
    exact ⟨_, s.peerWrite w, exec_storePerformed_peer hp hm, ho, hl, rfl, rfl, rfl, rfl, rfl, rfl⟩
  · intro fn addr data i hfn hi hh hwf
    obtain ⟨hb, hf⟩ := State.hostWrite_bytes hwf addr data
    exact ⟨_, exec_hostWrite_held hfn hi hh, hb, hf, (s.hostWrite_home addr data).2⟩
  · intro n tag h
    refine congrArg Host.Outcome.next (State.rewalk_none fun a ha hp => ?_)
    have := List.all_eq_true.mp h a ha
    rw [hp] at this
    exact Bool.false_ne_true this
  · intro n tag a h
    show Host.Outcome.next ((s.outs.filter fun a => a.slot == n && a.st == .walk && a.id == tag).foldl (fun s a => s.translate a) s) = _
    rw [h]
    rfl
  · intro v m l ctl
    refine ⟨fun h => exec_migration_idle l h, fun h hmv => ?_, fun u h hmv hm hu => ?_, fun u h hm hl => ⟨fun hu hbad => ?_, fun hu => ?_⟩,
      fun h h1 h2 w => exec_migctlStart_idle w h h1 h2⟩
    · rw [exec_migrationLinePull_on l h, State.pullLine_moved hmv]
    · rw [exec_migrationLinePull_on l h, State.pullLine_pulls hmv hm hu]
    · rw [exec_migrationLineMove_next h hm hl, hu]
      dsimp only
      rw [State.engineLine_good hbad]
    · rw [exec_migrationLineMove_next h hm hl, hu]
  · intro a sums needs m q ha hst hq hone hm hp x p off fails early
    rw [exec_protectedReadRepair_own sums needs ha hst hq hone hm hp]
    have hfails : (x.st = 4 || (x.m ≤ x.lost.length && needs) : Bool) = true ↔ fails := by simp [fails]
    have hearly : (x.deltas.any fun d => off ≤ d.off && d.off < off + 256) = true ↔ early := by simp [early]
    refine ⟨fun h => ?_, fun h he => ?_, fun l key h he hkey => ⟨x.rebuiltLine sums needs, ?_, fun h0 hk => Group.rebuiltLine_whole h0 hk sums needs⟩⟩
    · exact congrArg Host.Outcome.next (if_pos (hfails.mpr h))
    · exact congrArg Host.Outcome.next ((if_neg (mt hfails.mp h)).trans (if_pos (hearly.mpr he)))
    · refine congrArg Host.Outcome.next ((if_neg (mt hfails.mp h)).trans ((if_neg (mt hearly.mp he)).trans ?_))
      rw [hkey]

end Sys2Proof.Machine
end

section
/-! SUPPORT. Group messages, losses and rebuilds (spec/15_prog_groups.md R310, R311, spec/19_protected_hbm.md R374 to R381, spec/20_platform.md R388,
R390). -/

namespace Sys2Proof.Machine

/-! ## Who takes a message up -/

section
variable {s : State} {g : Nat} {h : GroupHdr} {i : Instr} {k : State → Nat → Group → State}

theorem State.onGroup_none (hb : s.byGid h.gid = none) : s.onGroup i h k = s := by
  rw [State.onGroup, hb]

/-- A message of another member that the wall lets through (R378, R388). -/
theorem State.onGroup_member (hb : s.byGid h.gid = some g) (hs : h.sender < (s.group g).k + (s.group g).m) (hne : h.sender ≠ (s.group g).self)
    (hw : s.plat.wallOpen (s.group g).die ((s.group g).package h.sender) = true) :
    s.onGroup i h k = if s.plat.frozen.contains parityMaster then s.later i else k s g (s.group g) := by
  have hg : ¬((s.group g).k + (s.group g).m ≤ h.sender || h.sender = (s.group g).self : Bool) = true := fun ht => by
    rcases Bool.or_eq_true_iff.mp ht with h1 | h2
    · exact absurd (of_decide_eq_true h1) (Nat.not_le.mpr hs)
    · exact hne (of_decide_eq_true h2)
  rw [State.onGroup, hb]
  exact (if_neg hg).trans (if_pos hw)

end

/-- A frozen parity engine sends nothing (R390). -/
theorem State.tell_frozen {s : State} (hf : s.plat.frozen.contains parityMaster = true) (g j round : Nat) (m : GroupMsg) : s.tell g j round m = s := by
  have (die lane pkg addr n : Nat) : s.capSend parityMaster die lane pkg addr n = .error s := if_pos hf
  rw [State.tell, this]

/-! ## Groups through the engine's acts -/

theorem State.group_startRebuild (s : State) (g : Nat) : (s.startRebuild g).group g =
    if (s.group g).st = 2 && (s.group g).rst = 0 && !(s.group g).collecting && (s.group g).gmem1.getLsbD 42 then { s.group g with st := 3 } else s.group g :=
  State.group_modGroup ..

/-- What settling a round keeps of a group: what it is, whom it has lost, and its state but for a rebuild that begins (R380, R381). -/
structure Settles (x y : Group) : Prop where
  lostmap : y.lostmap = x.lostmap
  st : y.st = x.st ∨ x.st = 2 ∧ y.st = 3

theorem Settles.refl (x : Group) : Settles x x := ⟨rfl, .inl rfl⟩

theorem Settles.trans {x y z : Group} (h : Settles x y) (k : Settles y z) : Settles x z := by
  refine ⟨k.lostmap.trans h.lostmap, ?_⟩
  obtain hs | ⟨h2, h3⟩ := h.st
  · rw [← hs]
    exact k.st
  · obtain hk | ⟨k2, -⟩ := k.st
    · exact .inr ⟨h2, hk.trans h3⟩
    · rw [h3] at k2
      exact nomatch k2

/-- As `Settles`, and the last committed round stands (R379). -/
structure Undoes (x y : Group) : Prop extends Settles x y where
  lastc : y.lastc = x.lastc

theorem Undoes.refl (x : Group) : Undoes x x := ⟨.refl x, rfl⟩

theorem Undoes.trans {x y z : Group} (h : Undoes x y) (k : Undoes y z) : Undoes x z := ⟨h.toSettles.trans k.toSettles, k.lastc.trans h.lastc⟩

theorem Undoes.of_eq {x y : Group} (h : y = x) : Undoes x y := h ▸ .refl x

theorem Undoes.modGroup (s : State) (g : Nat) {f : Group → Group} (hl : (f (s.group g)).lostmap = (s.group g).lostmap) (hs : (f (s.group g)).st = (s.group g).st)
    (hc : (f (s.group g)).lastc = (s.group g).lastc) : Undoes (s.group g) ((s.modGroup g f).group g) := by
  rw [State.group_modGroup]
  exact ⟨⟨hl, .inl hs⟩, hc⟩

theorem State.startRebuild_undoes (s : State) (g : Nat) : Undoes (s.group g) ((s.startRebuild g).group g) := by
  rw [State.group_startRebuild]
  split
  next h =>
    simp only [Bool.and_eq_true, decide_eq_true_eq] at h
    exact ⟨⟨rfl, .inr ⟨h.1.1.1, rfl⟩⟩, rfl⟩
  next => exact .refl _

theorem State.closeRound_undoes (s : State) (g : Nat) : Undoes (s.group g) ((s.closeRound g).group g) :=
  (Undoes.modGroup s g rfl rfl rfl).trans (State.startRebuild_undoes _ g)

theorem State.group_modHeldRound (s : State) (g h : Nat) (f : Round → Round) : (s.modHeldRound h f).group g = s.group g := by
  rw [State.group, (s.modHeldRound_keeps h f).2.2]
  rfl

theorem State.group_foldl_devWrites {α : Type} (s : State) (g : Nat) (k : α → Nat) (b : α → List Byte) (es : List α) :
    (es.foldl (fun s e => s.devWrites none (k e) (b e)) s).group g = s.group g :=
  (HomeFrame.foldl _ (fun _ _ => State.devWrites_frame ..) s es).group g

theorem State.undoRound_undoes (s : State) (g : Nat) : Undoes (s.group g) ((s.undoRound g).group g) := by
  unfold State.undoRound
  split
  · dsimp only
    split
    · exact .refl _
    split
    · split
      · exact .refl _
      · refine Undoes.trans (.of_eq (State.restore_group ..)) (State.closeRound_undoes _ g)
    · refine Undoes.trans ?_ (State.startRebuild_undoes _ g)
      refine Undoes.trans ?_ (Undoes.modGroup _ g rfl rfl rfl)
      exact .of_eq (s.group_foldl_devWrites g (fun e : Undo => e.key) (fun e => leBytes 64 e.old.toNat) _)
  · exact .refl _

theorem State.doom_undoes (s : State) (g : Nat) : Undoes (s.group g) ((s.doom g).group g) := by
  have hk (t : State) (f : Round → Round) (ht : Undoes (s.group g) (t.group g)) : Undoes (s.group g) ((t.modHeldRound g f).group g) :=
    ht.trans (.of_eq (t.group_modHeldRound g g f))
  have h1 := hk _ (fun r => if r.st = .idle || r.settled.isSome then r else { r with doomed := true, settled := some false })
    (Undoes.modGroup s g (f := fun x => { x with doomed := true, notices := [], acks := if x.doomed then x.acks else [] }) rfl rfl rfl)
  unfold State.doom
  dsimp only
  split
  · exact h1
  · exact h1.trans (.of_eq ((State.tellAll_frame ..).group g))

theorem State.abandon_undoes (s : State) (g : Nat) : Undoes (s.group g) ((s.abandon g).group g) := by
  unfold State.abandon
  dsimp only
  refine Undoes.trans ?_ (State.undoRound_undoes _ g)
  refine (s.doom_undoes g).trans ?_
  split
  · exact .of_eq ((State.tellAll_frame ..).group g)
  · exact .refl _

theorem State.commitRound_settles (s : State) (g r : Nat) : Settles (s.group g) ((s.commitRound g r).group g) := by
  unfold State.commitRound
  dsimp only
  refine Settles.trans ?_ (State.closeRound_undoes _ g).toSettles
  rw [State.group_modGroup, State.group_modHeldRound]
  exact ⟨rfl, .inl rfl⟩

theorem State.appendRound_getD_frame (s : State) (e : LogEntry) : HomeFrame s ((s.appendRound e).getD s) := by
  cases h : s.appendRound e with
  | none => exact .refl s
  | some t => exact State.appendRound_frame h

theorem State.decide_undoes (s : State) (g : Nat) : Undoes (s.group g) ((s.decide g).group g) := by
  unfold State.decide
  dsimp only
  refine Undoes.trans ?_ (.of_eq ((State.tellAll_frame ..).group g))
  refine Undoes.trans ?_ (Undoes.modGroup _ g rfl rfl rfl)
  exact .of_eq ((s.appendRound_getD_frame _).group g)

theorem State.giveOutcome_settles (s : State) (g : Nat) : Settles (s.group g) ((s.giveOutcome g).group g) := by
  unfold State.giveOutcome
  dsimp only
  split
  · refine Settles.trans ?_ (State.commitRound_settles _ g _)
    rw [(State.tellAll_frame ..).group g]
    exact .refl _
  · exact .refl _

theorem State.coordinate_settles (s : State) (g : Nat) : Settles (s.group g) ((s.coordinate g).group g) := by
  unfold State.coordinate
  dsimp only
  split
  · exact .refl _
  · split
    · exact (s.decide_undoes g).toSettles.trans (State.giveOutcome_settles _ g)
    · exact s.giveOutcome_settles g

theorem State.settleByAnswers_settles (s : State) (g : Nat) : Settles (s.group g) ((s.settleByAnswers g).group g) := by
  unfold State.settleByAnswers
  dsimp only
  split
  · exact .refl _
  · split
    · refine Settles.trans ?_ (State.giveOutcome_settles _ g)
      refine Settles.trans ?_ (State.decide_undoes _ g).toSettles
      exact (Undoes.modGroup s g rfl rfl rfl).toSettles
    · refine Settles.trans ?_ (State.abandon_undoes _ g).toSettles
      exact (Undoes.modGroup s g rfl rfl rfl).toSettles

theorem State.takeOver_settles (s : State) (g : Nat) : Settles (s.group g) ((s.takeOver g).group g) := by
  unfold State.takeOver
  dsimp only
  split
  · refine Settles.trans ?_ (State.settleByAnswers_settles _ g)
    refine (Undoes.modGroup s g (f := fun y => { y with answers := [(y.self, y.decided)] }) rfl rfl rfl).toSettles.trans ?_
    exact (Undoes.of_eq ((State.tellAll_frame ..).group g)).toSettles
  · have ht : Settles (s.group g) ((if (s.group g).rst = 0 && (s.group g).lastc != 0 then
        s.tellAll g (s.group g).lastc.toNat (.out 0) ((s.group g).others.filter (· < (s.group g).k)) else s).group g) := by
      split
      · rw [(State.tellAll_frame ..).group g]
        exact .refl _
      · exact .refl _
    split
    · exact ht
    · exact ht.trans (State.abandon_undoes _ g).toSettles

theorem State.settleLoss_settles (s : State) (g member : Nat) (before : Group) : Settles (s.group g) ((s.settleLoss g member before).group g) := by
  have ha := (s.abandon_undoes g).toSettles
  unfold State.settleLoss
  dsimp only
  split
  · exact .refl _
  split
  · exact s.settleByAnswers_settles g
  split
  · split
    · exact s.takeOver_settles g
    · split
      · exact ha
      · exact .refl _
  split
  · split
    · exact ha
    · exact .refl _
  split
  · exact s.coordinate_settles g
  split
  · exact .refl _
  · exact ha

/-! ## The cohort that holds a group -/

/-- What the search for a group's holder finds in one entry. -/
def heldBy (g : Nat) (e : Nat × Slot) : Option (Nat × Nat) :=
  if e.2.st = 0 then none else (e.2.grpOf.find? fun t => t.2 == g).map fun t => (e.1, t.1)

theorem State.holder_eq (s : State) (g : Nat) : s.holder g = s.slots.findSome? (heldBy g) := rfl

theorem heldBy_fst {g : Nat} {e : Nat × Slot} {q : Nat × Nat} (h : heldBy g e = some q) : q.1 = e.1 := by
  unfold heldBy at h
  split at h
  · exact nomatch h
  · obtain ⟨t, -, rfl⟩ := Option.map_eq_some_iff.mp h
    rfl

theorem heldBy_congr {g n : Nat} {x y : Slot} (hs : y.st = x.st) (hg : y.grpOf = x.grpOf) : heldBy g (n, y) = heldBy g (n, x) := by
  rw [heldBy, hs, hg]
  rfl

/-- The slot of the holder's number holds the group, or nothing does under that number. -/
theorem heldBy_get {g n gs : Nat} {m : Tbl Slot} {r : Nat × Nat} (hm : m.findSome? (heldBy g) = some (n, gs))
    (hr : heldBy g (n, Tbl.get Slot.reset m n) = some r) : r = (n, gs) := by
  induction m with
  | nil => exact nomatch hm
  | cons e m ih =>
    obtain ⟨k, v⟩ := e
    rw [List.findSome?_cons] at hm
    by_cases hk : n = k
    · subst hk
      rw [Tbl.get, if_pos rfl] at hr
      rw [hr] at hm
      exact Option.some.inj hm
    · rw [Tbl.get, if_neg hk] at hr
      cases hv : heldBy g (k, v) with
      | none =>
        rw [hv] at hm
        exact ih hm hr
      | some q =>
        rw [hv] at hm
        have := heldBy_fst hv
        rw [Option.some.inj hm] at this
        exact absurd this hk

/-- A change of the holder's slot that keeps its groups keeps it the holder. -/
theorem findSome?_set_holder {g n gs : Nat} {m : Tbl Slot} {y : Slot} (hm : m.findSome? (heldBy g) = some (n, gs))
    (hy : heldBy g (n, y) = heldBy g (n, Tbl.get Slot.reset m n)) : (Tbl.set m n y).findSome? (heldBy g) = some (n, gs) := by
  induction m with
  | nil => exact nomatch hm
  | cons e m ih =>
    obtain ⟨k, v⟩ := e
    rw [Tbl.set]
    split
    · rw [List.findSome?_cons]
      cases hv : heldBy g (n, y) with
      | none => exact hm
      | some r => exact congrArg some (heldBy_get hm (hy.symm.trans hv))
    · split
      next hk =>
        subst hk
        rw [List.findSome?_cons] at hm ⊢
        rw [Tbl.get, if_pos rfl] at hy
        rw [hy]
        exact hm
      next hk =>
        rw [List.findSome?_cons] at hm ⊢
        rw [Tbl.get, if_neg hk] at hy
        cases hv : heldBy g (k, v) with
        | none =>
          rw [hv] at hm
          exact ih hm hy
        | some q =>
          rw [hv] at hm
          exact hm

theorem State.holder_modRound {s : State} {g n gs : Nat} (h : s.holder g = some (n, gs)) (f : Round → Round) : (s.modRound n gs f).holder g = some (n, gs) :=
  findSome?_set_holder h (heldBy_congr rfl rfl)

theorem State.holder_congr {s t : State} (h : t.slots = s.slots) (g : Nat) : t.holder g = s.holder g := by
  rw [State.holder_eq, h]
  rfl

theorem State.modHeldRound_held {s : State} {g n gs : Nat} (h : s.holder g = some (n, gs)) (f : Round → Round) :
    s.modHeldRound g f = s.modRound n gs f := by
  rw [State.modHeldRound, h]

theorem State.round_modRound_self (s : State) (n gs : Nat) (f : Round → Round) : ((s.modRound n gs f).slot n).round gs = f ((s.slot n).round gs) := by
  rw [State.modRound, State.slot_modSlot]
  exact Tbl.get_set_self ..

/-! ## A round that is given up -/

/-- A doomed round is settled 1 for the cohort that holds it (R286, R288). -/
theorem State.doom_settled {s : State} {g n gs : Nat} (h : s.holder g = some (n, gs)) (hi : ((s.slot n).round gs).st ≠ .idle)
    (hs : ((s.slot n).round gs).settled = none) :
    (s.doom g).holder g = some (n, gs) ∧ (((s.doom g).slot n).round gs).settled = some false := by
  let u := s.modGroup g fun x => { x with doomed := true, notices := [], acks := if x.doomed then x.acks else [] }
  let f : Round → Round := fun r => if r.st = .idle || r.settled.isSome then r else { r with doomed := true, settled := some false }
  have hu : u.modHeldRound g f = u.modRound n gs f := State.modHeldRound_held (s := u) h f
  have hholds : (u.modRound n gs f).holder g = some (n, gs) := State.holder_modRound (s := u) h f
  have hround : (((u.modRound n gs f).slot n).round gs).settled = some false := by
    rw [State.round_modRound_self]
    have hno : ¬(((s.slot n).round gs).st = .idle || ((s.slot n).round gs).settled.isSome : Bool) = true := by
      rw [hs]
      simpa using hi
    exact congrArg Round.settled (if_neg hno)
  unfold State.doom
  dsimp only
  rw [hu]
  split
  · exact ⟨hholds, hround⟩
  · have hf := (u.modRound n gs f).tellAll_frame g (s.group g).round .abt (s.group g).others
    exact ⟨(State.holder_congr hf.slots g).trans hholds, by rw [hf.slot]; exact hround⟩

theorem State.settled_restore (s : State) (n gs g c : Nat) : (((s.restore n gs g c).slot n).round gs).settled = ((s.slot n).round gs).settled := by
  obtain ⟨u, hu, he⟩ := s.restore_frame n gs g c
  rw [he, State.round_modRound_self, Slot.round, Slot.round, hu.rounds]

theorem State.slot_modGroup (s : State) (g : Nat) (f : Group → Group) (n : Nat) : (s.modGroup g f).slot n = s.slot n := rfl

theorem State.slot_startRebuild (s : State) (g n : Nat) : (s.startRebuild g).slot n = s.slot n := rfl

theorem State.slot_closeRound (s : State) (g n : Nat) : (s.closeRound g).slot n = s.slot n := rfl

theorem State.slot_release (s : State) (g n : Nat) : (s.release g).slot n = s.slot n := rfl

theorem State.rlog_modGroup (s : State) (g : Nat) (f : Group → Group) : (s.modGroup g f).plat.rlog = s.plat.rlog := rfl

theorem State.rlog_startRebuild (s : State) (g : Nat) : (s.startRebuild g).plat.rlog = s.plat.rlog := rfl

theorem State.rlog_modRound (s : State) (n gs : Nat) (f : Round → Round) : (s.modRound n gs f).plat.rlog = s.plat.rlog := rfl

/-- A round settled 1 stays so while it is taken back, and an open or prepared one leaves its group IDLE with its log entries gone (R379). -/
theorem State.undoRound_settled {s : State} {g n gs : Nat} (h : s.holder g = some (n, gs)) (hs : ((s.slot n).round gs).settled = some false) :
    (((s.undoRound g).slot n).round gs).settled = some false ∧
      ((s.group g).rst = 1 ∨ (s.group g).rst = 2 → ((s.undoRound g).group g).rst = 0 ∧ ∀ e ∈ (s.undoRound g).plat.rlog, e.grp ≠ g) := by
  unfold State.undoRound
  rw [h]
  dsimp only
  split
  next h0 =>
    refine ⟨hs, fun hr => ?_⟩
    rcases Bool.or_eq_true_iff.mp h0 with h0 | h0
    · have := of_decide_eq_true h0
      omega
    · rw [hs] at h0
      exact absurd h0 (by decide)
  split
  next h3 =>
    refine ⟨?_, fun hr => by omega⟩
    split
    · exact hs
    · rw [State.slot_closeRound, State.settled_restore]
      exact hs
  next =>
    let u := (s.logged g).foldl (fun (s : State) e => s.devWrites none e.key (leBytes 64 e.old.toNat)) s
    have hu : HomeFrame s u := HomeFrame.foldl _ (fun _ _ => State.devWrites_frame ..) s _
    refine ⟨?_, fun _ => ⟨?_, fun e he => ?_⟩⟩
    · rw [State.slot_startRebuild, State.slot_modGroup, State.round_modRound_self, State.slot_release, Slot.round, hu.rounds]
      exact hs
    · rw [State.rst_startRebuild, State.group_modGroup]
    · rw [State.rlog_startRebuild, State.rlog_modGroup, State.rlog_modRound] at he
      exact bne_iff_ne.mp (List.mem_filter.mp he).2

/-- What giving a round up comes to for the cohort that holds it (R286 to R288, R379). -/
theorem State.abandon_settled {s : State} {g n gs : Nat} (h : s.holder g = some (n, gs)) (hi : ((s.slot n).round gs).st ≠ .idle)
    (hs : ((s.slot n).round gs).settled = none) :
    (((s.abandon g).slot n).round gs).settled = some false ∧
      ((s.group g).rst = 1 ∨ (s.group g).rst = 2 → ((s.abandon g).group g).rst = 0 ∧ ∀ e ∈ (s.abandon g).plat.rlog, e.grp ≠ g) := by
  obtain ⟨hh, hd⟩ := State.doom_settled h hi hs
  have hrst := (s.doom_keeps g).2.2
  unfold State.abandon
  dsimp only
  split
  · have hf := (s.doom g).tellAll_frame g (s.group g).round (.out 1) ((s.group g).others.filter (· < (s.group g).k))
    rw [← hrst, ← hf.group g]
    exact State.undoRound_settled ((State.holder_congr hf.slots g).trans hh) (by rw [hf.slot]; exact hd)
  · rw [← hrst]
    exact State.undoRound_settled hh hd

/-! ## The platform through the engine's acts -/

theorem State.plat_foldl_modSlot (l : List Nat) (f : Nat → Slot → Slot) (s : State) : (l.foldl (fun t n => t.modSlot n (f n)) s).plat = s.plat := by
  induction l generalizing s with
  | nil => rfl
  | cons n l ih => exact ih (s.modSlot n (f n))

theorem State.plat_devWrites (s : State) (by_ : Option Nat) (key : Nat) (bs : List Byte) : (s.devWrites by_ key bs).plat = s.plat :=
  State.plat_foldl_modSlot s.viewers _ s

theorem State.plat_foldl_devWrites {α : Type} (k : State → α → Nat) (b : State → α → List Byte) (es : List α) (s : State) :
    (es.foldl (fun s e => s.devWrites none (k s e) (b s e)) s).plat = s.plat := by
  induction es generalizing s with
  | nil => rfl
  | cons e es ih => exact (ih _).trans (s.plat_devWrites ..)

/-- A decision entry of the round log changes nothing else of the platform (R377). -/
theorem State.plat_appendRound (s : State) (e : LogEntry) : ∃ l, ((s.appendRound e).getD s).plat = { s.plat with rlog := l } := by
  unfold State.appendRound
  cases freePlace s.plat.plog (s.plat.rlog.map (·.at_)) with
  | none => exact ⟨_, rfl⟩
  | some i => exact ⟨_, State.plat_devWrites ..⟩

/-- An outcome of 0 (R287, R379). -/
theorem State.commitRound_spec (s : State) (g r : Nat) :
    ((s.commitRound g r).group g).lastc = BitVec.ofNat 32 r ∧ ((s.commitRound g r).group g).rst = 0 ∧ (s.commitRound g r).plat.msgs = s.plat.msgs ∧
      ∀ n gs, s.holder g = some (n, gs) → (((s.commitRound g r).slot n).round gs).settled = some true := by
  unfold State.commitRound
  dsimp only
  refine ⟨?_, State.rst_closeRound .., ?_, fun n gs h => ?_⟩
  · refine (State.closeRound_undoes _ g).lastc.trans ?_
    rw [State.group_modGroup]
  · exact (congrArg Plat.msgs ((s.release g).modHeldRound_keeps g fun x => { x with settled := some true }).2.2 :)
  · have hm := State.modHeldRound_held (s := s.release g) h fun x => { x with settled := some true }
    have hr := (s.release g).round_modRound_self n gs fun x => { x with settled := some true }
    rw [hm]
    exact congrArg Round.settled hr

/-- What the coordinator's decision is told to the parity members that have not acknowledged it (R287, R378). -/
theorem State.decide_spec (s : State) (g : Nat) :
    ((s.decide g).group g).decided = true ∧ ((s.decide g).group g).acks = (s.group g).acks ∧ ((s.decide g).group g).liveParity = (s.group g).liveParity ∧
      (s.plat.frozen.contains parityMaster = false → s.plat.caps = false → ∀ j ∈ (s.group g).liveParity, j ∉ (s.group g).acks →
        .group j ⟨(s.group g).gid, (s.group g).self, (s.group g).round⟩ .dec ∈ (s.decide g).plat.msgs) := by
  let e : LogEntry := ⟨0, 0, (s.group g).round, g, 0xFE, 0, 0⟩
  let u := ((s.appendRound e).getD s).modGroup g fun y => { y with decided := true }
  let js := (s.group g).liveParity.filter fun j => !(s.group g).acks.contains j
  have hg : u.group g = { s.group g with decided := true } := by
    rw [State.group_modGroup, (s.appendRound_getD_frame e).group g]
  obtain ⟨l, hl⟩ := s.plat_appendRound e
  have ht : (s.decide g).group g = u.group g := (u.tellAll_frame g (s.group g).round .dec js).group g
  refine ⟨?_, ?_, ?_, fun hf hc j hj hna => ?_⟩
  · rw [ht, hg]
  · rw [ht, hg]
  · rw [ht, hg]
    rfl
  · have hfu : u.plat.frozen.contains parityMaster = false := (congrArg (fun p : Plat => p.frozen.contains parityMaster) hl : _).trans hf
    have hcu : u.plat.caps = false := (congrArg Plat.caps hl : _).trans hc
    have hm := u.tellAll_plain g (s.group g).round .dec js hfu hcu
    rw [hg] at hm
    refine hm ▸ List.mem_append_right _ (List.mem_map.mpr ⟨j, List.mem_filter.mpr ⟨hj, ?_⟩, rfl⟩)
    simpa using hna

/-! ## Messages that act -/

theorem State.modGroup_congr {s : State} {g : Nat} {f f' : Group → Group} (h : f (s.group g) = f' (s.group g)) : s.modGroup g f = s.modGroup g f' :=
  congrArg (fun x => s.modPlat fun p => { p with groups := Tbl.set p.groups g x }) h

/-- A group that one more member has agreed with (R374). -/
def Group.agreedBy (member : Nat) (x : Group) : Group :=
  { x with agreed := x.agreed ++ [member], st := if x.k + x.m ≤ x.agreed.length + 1 then 1 else 0 }

/-- The same configuration of a member that has not agreed yet counts (R374). -/
theorem State.compare_same {s : State} {g member : Nat} (he : (s.group g).gcfg.getLsbD 0 = true) (h0 : (s.group g).st = 0)
    (hs : member < (s.group g).k + (s.group g).m) (ha : (s.group g).agreed.contains member = false) :
    s.compare g member (s.group g).config = s.modGroup g (Group.agreedBy member) := by
  have hno : ¬(!(s.group g).gcfg.getLsbD 0 || (s.group g).st != 0 || (s.group g).k + (s.group g).m ≤ member : Bool) = true := by
    simp [he, h0]
    omega
  have hag : (if (s.group g).agreed.contains member then (s.group g).agreed else (s.group g).agreed ++ [member]) = (s.group g).agreed ++ [member] :=
    if_neg (ne_true_of_eq_false ha)
  unfold State.compare
  dsimp only
  rw [if_neg hno, if_neg (show ¬((s.group g).config != (s.group g).config) = true by simp), hag, List.length_append, List.length_singleton]
  exact State.modGroup_congr rfl

/-- A message comes from another member of an enabled group through the wall, and the parity engine runs (R378, R388, R390). -/
structure FromMember (s : State) (g : Nat) (h : GroupHdr) : Prop where
  byGid : s.byGid h.gid = some g
  sender : h.sender < (s.group g).k + (s.group g).m
  other : h.sender ≠ (s.group g).self
  wall : s.plat.wallOpen (s.group g).die ((s.group g).package h.sender) = true
  runs : s.plat.frozen.contains parityMaster = false

section
variable {s : State} {g : Nat} {h : GroupHdr} (hm : FromMember s g h)
include hm

theorem FromMember.acts (i : Instr) (k : State → Nat → Group → State) : s.onGroup i h k = k s g (s.group g) :=
  (State.onGroup_member hm.byGid hm.sender hm.other hm.wall).trans (if_neg (ne_true_of_eq_false hm.runs))

/-- Configurations are compared group by group, whatever is kept of them (R374). -/
theorem FromMember.config (f : List (Nat × Nat × GroupCfg)) : FromMember (s.modPlat fun p => { p with configs := f }) g h :=
  ⟨hm.byGid, hm.sender, hm.other, hm.wall, hm.runs⟩

theorem FromMember.enabled : (s.group g).gcfg.getLsbD 0 = true := by
  have := List.find?_some (p := fun g => (s.group g).gcfg.getLsbD 0 && (s.group g).gid == h.gid) hm.byGid
  exact (Bool.and_eq_true_iff.mp this).1

theorem exec_groupConfig_other (c : GroupCfg) (h0 : (s.group g).st = 0) (hc : c ≠ (s.group g).config) :
    exec (.groupConfig h.gid h.sender c) s = .next ((s.modPlat fun p =>
      { p with configs := (p.configs.filter fun e => e.1 != h.gid || e.2.1 != h.sender) ++ [(h.gid, h.sender, c)] }).groupEvent g 1 h.sender) := by
  have hu := hm.config ((s.plat.configs.filter fun e => e.1 != h.gid || e.2.1 != h.sender) ++ [(h.gid, h.sender, c)])
  refine (congrArg Host.Outcome.next (FromMember.acts (h := ⟨h.gid, h.sender, 0⟩) ⟨hu.byGid, hu.sender, hu.other, hu.wall, hu.runs⟩ _ _)).trans ?_
  have hno : ¬(!(s.group g).gcfg.getLsbD 0 || (s.group g).st != 0 || (s.group g).k + (s.group g).m ≤ h.sender : Bool) = true := by
    have := hm.sender
    simp [hm.enabled, h0]
    omega
  exact congrArg Host.Outcome.next ((if_neg hno).trans (if_pos (bne_iff_ne.mpr hc)))

theorem exec_groupConfig_same (h0 : (s.group g).st = 0) (ha : (s.group g).agreed.contains h.sender = false) :
    ∃ t, exec (.groupConfig h.gid h.sender (s.group g).config) s = .next t ∧ t.slots = s.slots ∧ t.group g = (s.group g).agreedBy h.sender := by
  let u := s.modPlat fun p =>
    { p with configs := (p.configs.filter fun e => e.1 != h.gid || e.2.1 != h.sender) ++ [(h.gid, h.sender, (s.group g).config)] }
  have hu : FromMember u g h := hm.config _
  have hcmp : u.compare g h.sender (s.group g).config = u.modGroup g (Group.agreedBy h.sender) :=
    State.compare_same (s := u) hm.enabled h0 hm.sender ha
  refine ⟨u.modGroup g (Group.agreedBy h.sender),
    (congrArg Host.Outcome.next (FromMember.acts (h := ⟨h.gid, h.sender, 0⟩) ⟨hu.byGid, hu.sender, hu.other, hu.wall, hu.runs⟩ _ _)).trans
      (congrArg Host.Outcome.next hcmp), rfl, State.group_modGroup ..⟩

end

/-! ## Deltas -/

theorem State.devBytes_devWrites {s : State} (h : Memory.wf s.dev = true) (by_ : Option Nat) (key : Nat) (bs : List Byte) :
    (s.devWrites by_ key bs).devBytes key bs.length = bs := by
  rw [State.devBytes, State.dev_devWrites]
  exact Map.getRun_setRun_self h key bs

/-- A pending delta in place `i` of the log of a parity member (R377). -/
def State.pended (s : State) (e : PendEntry) (i : Nat) : State :=
  (s.modPlat fun p => { p with pend := p.pend ++ [{ e with at_ := i }] }).writeLog s.plat.ppend i
    (logBytes e.off e.round e.grp (if e.decision then 0xFE else 0) e.member e.delta)

theorem State.appendPend_some {s : State} {i : Nat} (h : freePlace s.plat.ppend (s.plat.pend.map (·.at_)) = some i) (e : PendEntry) :
    s.appendPend e = some (s.pended e i) := by
  rw [State.appendPend, h]
  rfl

theorem State.appendPend_none {s : State} (h : freePlace s.plat.ppend (s.plat.pend.map (·.at_)) = none) (e : PendEntry) : s.appendPend e = none := by
  rw [State.appendPend, h]
  rfl

theorem State.plat_pended (s : State) (e : PendEntry) (i : Nat) : (s.pended e i).plat = { s.plat with pend := s.plat.pend ++ [{ e with at_ := i }] } :=
  State.plat_devWrites ..

theorem length_logBytes (first round g kind sender : Nat) (d : BitVec 512) : (logBytes first round g kind sender d).length = 96 := by
  unfold logBytes
  simp

theorem State.devBytes_pended {s : State} (h : Memory.wf s.dev = true) (e : PendEntry) (i : Nat) :
    (s.pended e i).devBytes ((s.plat.ppend.extractLsb' 16 38).toNat * 65536 + 96 * i) 96 =
      logBytes e.off e.round e.grp (if e.decision then 0xFE else 0) e.member e.delta := by
  have := State.devBytes_devWrites (s := s.modPlat fun p => { p with pend := p.pend ++ [{ e with at_ := i }] }) h none
    ((s.plat.ppend.extractLsb' 16 38).toNat * 65536 + 96 * i) (logBytes e.off e.round e.grp (if e.decision then 0xFE else 0) e.member e.delta)
  rw [length_logBytes] at this
  exact this

theorem Group.isParity_iff (x : Group) : x.isParity = true ↔ x.k ≤ x.self := decide_eq_true_iff

section
variable {s : State} {g : Nat} {h : GroupHdr} (hm : FromMember s g h)
include hm

theorem exec_delta_data (hp : ¬(s.group g).k ≤ (s.group g).self) (off : Nat) (d : BitVec 512) : exec (.delta h.gid h.sender h.round off d) s = .next s := by
  have hno : (!(s.group g).isParity) = true := by rw [Bool.not_eq_true', ← Bool.not_eq_true, Group.isParity_iff]; exact hp
  exact (congrArg Host.Outcome.next (hm.acts _ _)).trans (congrArg Host.Outcome.next (if_pos hno))

/-- A parity member logs a delta and acknowledges it, or refuses it where the log is full (R377 to R379). -/
theorem exec_delta_parity (hp : (s.group g).k ≤ (s.group g).self) (off : Nat) (d : BitVec 512)
    (hr : s.logReach (s.group g).die s.plat.ppend (s.plat.pend.map (·.at_)) = .ok s) :
    exec (.delta h.gid h.sender h.round off d) s = .next (match s.appendPend ⟨off, h.round, g, false, h.sender, d, 0⟩ with
      | none => s.tell g h.sender h.round (.deltaAck off false)
      | some u => (u.modGroup g fun x => { x with collecting := true, decided := false }).tell g h.sender h.round (.deltaAck off true)) := by
  have hno : ¬(!(s.group g).isParity) = true := by rw [Bool.not_eq_true', ← Bool.not_eq_true, Group.isParity_iff]; exact not_not_intro hp
  refine (congrArg Host.Outcome.next (hm.acts _ _)).trans (congrArg Host.Outcome.next ((if_neg hno).trans ?_))
  rw [hr] <;> rfl

theorem exec_deltaAck_found {off : Nat} {e : Delta} (b : Bool) (he : (s.group g).deltas.find? (fun e => e.member == h.sender && e.off == off) = some e) :
    exec (.deltaAck h ⟨off, b⟩) s = .next (
      let u := s.modGroup g fun y => { y with deltas := y.deltas.erase e }
      if b then u else match u.holder g with
        | some (n, _) => u.dueFault n e.fault
        | none => u) := by
  refine (congrArg Host.Outcome.next (hm.acts _ _)).trans (congrArg Host.Outcome.next ?_)
  dsimp only
  rw [he] <;> rfl

/-! ## Notices and decisions -/

/-- A notice of the round in progress that has not come yet (R310). -/
theorem exec_prep_waits (hw : h.round = (s.group g).round ∧ (s.group g).notices.contains h.sender = false ∧
      ((s.group g).doomed = true → (s.group g).aborts.contains h.sender = true)) :
    exec (.prep h.gid h.sender h.round) s = .next (
      let u := s.modGroup g fun y => { y with notices := y.notices ++ [h.sender] }
      if (s.group g).st != 1 && !(s.group g).decided then u.abandon g else u.coordinate g) := by
  obtain ⟨h1, h2, h3⟩ := hw
  have hno : ¬(h.round != (s.group g).round || (s.group g).notices.contains h.sender || ((s.group g).doomed && !(s.group g).aborts.contains h.sender)) = true := by
    rw [h1, h2]
    cases hd : (s.group g).doomed with
    | false => simp
    | true =>
      rw [h3 hd]
      simp
  exact (congrArg Host.Outcome.next (hm.acts _ _)).trans (congrArg Host.Outcome.next (if_neg hno))

theorem exec_prep_other (hw : ¬(h.round = (s.group g).round ∧ (s.group g).notices.contains h.sender = false ∧
      ((s.group g).doomed = true → (s.group g).aborts.contains h.sender = true))) :
    exec (.prep h.gid h.sender h.round) s = .next s := by
  have hyes : (h.round != (s.group g).round || (s.group g).notices.contains h.sender || ((s.group g).doomed && !(s.group g).aborts.contains h.sender)) = true := by
    refine Decidable.byContradiction fun hno => ?_
    simp only [Bool.not_eq_true, Bool.or_eq_false_iff, Bool.and_eq_false_iff, bne_eq_false_iff_eq, Bool.not_eq_false'] at hno
    refine hw ⟨hno.1.1, hno.1.2, fun hd => hno.2.resolve_left fun hf => ?_⟩
    rw [hd] at hf
    exact nomatch hf
  exact (congrArg Host.Outcome.next (hm.acts _ _)).trans (congrArg Host.Outcome.next (if_pos hyes))

end

/-- A group that does not coordinate, is doomed, or has neither decided nor come to `RND.COMMIT` does nothing next (R287, R378). -/
theorem State.coordinate_idle {s : State} {g : Nat} (h : (s.group g).coordinates = false ∨ (s.group g).doomed = true ∨ (s.group g).decided = false ∧ (s.group g).rst ≠ 3) :
    s.coordinate g = s := by
  unfold State.coordinate
  dsimp only
  split
  · rfl
  next hno =>
    obtain ⟨hd, hr⟩ := (h.resolve_left fun hc => hno (by simp [hc])).resolve_left fun hd => hno (by simp [hd])
    rw [if_neg (by simp [hr])]
    refine if_neg ?_
    rw [hd]
    exact Bool.false_ne_true

/-- The outcome waits for an acknowledgement that is missing (R378). -/
theorem State.giveOutcome_waits {s : State} {g : Nat} (h : ∃ j ∈ (s.group g).liveParity, j ∉ (s.group g).acks) : s.giveOutcome g = s := by
  obtain ⟨j, hj, hna⟩ := h
  refine if_neg fun ht => ?_
  obtain ⟨-, hall⟩ := Bool.and_eq_true_iff.mp ht
  exact hna (List.contains_iff_mem.mp (List.all_eq_true.mp hall j hj))

/-- The outcome is given once every live parity member has acknowledged (R378). -/
theorem State.giveOutcome_ready {s : State} {g : Nat} (hd : (s.group g).decided = true) (h : ∀ j ∈ (s.group g).liveParity, j ∈ (s.group g).acks) :
    s.giveOutcome g = (s.tellAll g (s.group g).round (.out 0) ((s.group g).liveData.filter (· != (s.group g).self))).commitRound g (s.group g).round := by
  refine if_pos (Bool.and_eq_true_iff.mpr ⟨hd, List.all_eq_true.mpr fun j hj => List.contains_iff_mem.mpr (h j hj)⟩)

/-! ## Decisions at the members -/

theorem State.group_foldRound (s : State) (g round h : Nat) : (s.foldRound g round).group h = s.group h :=
  (HomeFrame.foldl _ (fun _ _ => State.devWrites_frame ..) s _).group h

/-- A folded round has no pending entry left (R378, R379). -/
theorem State.pend_foldRound (s : State) (g round : Nat) : ∀ e ∈ (s.foldRound g round).plat.pend, ¬(e.grp = g ∧ e.round = round) := fun e he ht => by
  have hk := (List.mem_filter.mp (show e ∈ List.filter (fun e : PendEntry => !(e.grp == g && e.round == round)) _ from he)).2
  rw [ht.1, ht.2] at hk
  simp at hk

section
variable {s : State} {g : Nat} {h : GroupHdr} (hm : FromMember s g h)
include hm

/-- A parity member that has folded the round already acknowledges it again (R378). -/
theorem exec_dec_again (hp : (s.group g).k ≤ (s.group g).self) (hl : (s.group g).lastc.toNat = h.round) :
    exec (.dec ⟨h.gid, h.sender⟩ h.round) s = .next (s.tell g h.sender h.round .decAck) := by
  have hno : ¬(!(s.group g).isParity) = true := by rw [Bool.not_eq_true', ← Bool.not_eq_true, Group.isParity_iff]; exact not_not_intro hp
  exact (congrArg Host.Outcome.next (hm.acts _ _)).trans (congrArg Host.Outcome.next ((if_neg hno).trans (if_pos hl)))

/-- A parity member folds a decided round and acknowledges it (R378, R379). -/
theorem exec_dec_fold (hp : (s.group g).k ≤ (s.group g).self) (hl : (s.group g).lastc.toNat ≠ h.round) (hr : s.foldReach g h.round = .ok s) :
    ∃ u : State, exec (.dec ⟨h.gid, h.sender⟩ h.round) s = .next ((u.tell g h.sender h.round .decAck).startRebuild g) ∧
      (u.group g).lastc = BitVec.ofNat 32 h.round ∧ ∀ e ∈ u.plat.pend, ¬(e.grp = g ∧ e.round = h.round) := by
  have hno : ¬(!(s.group g).isParity) = true := by rw [Bool.not_eq_true', ← Bool.not_eq_true, Group.isParity_iff]; exact not_not_intro hp
  let v := (s.appendPend ⟨0, h.round, g, true, h.sender, 0, 0⟩).getD s
  refine ⟨(v.foldRound g h.round).modGroup g fun y => { y with collecting := false, lastc := BitVec.ofNat 32 h.round }, ?_, ?_, v.pend_foldRound g h.round⟩
  · refine (congrArg Host.Outcome.next (hm.acts _ _)).trans (congrArg Host.Outcome.next ((if_neg hno).trans ((if_neg hl).trans ?_)))
    show (match s.foldReach g h.round with
      | .error s => s.later (.dec ⟨h.gid, h.sender⟩ h.round)
      | .ok s => _) = _
    rw [hr] <;> rfl
  · rw [State.group_modGroup]

/-- A data member logs the decision (R378). -/
theorem exec_dec_data (hp : ¬(s.group g).k ≤ (s.group g).self) :
    ∃ t, exec (.dec ⟨h.gid, h.sender⟩ h.round) s = .next t ∧ t.group g = { s.group g with decided := true } ∧ t.plat.msgs = s.plat.msgs := by
  have hno : (!(s.group g).isParity) = true := by rw [Bool.not_eq_true', ← Bool.not_eq_true, Group.isParity_iff]; exact hp
  let e : LogEntry := ⟨0, 0, h.round, g, 0xFE, 0, 0⟩
  obtain ⟨l, hl⟩ := s.plat_appendRound e
  refine ⟨((s.appendRound e).getD s).modGroup g fun y => { y with decided := true },
    (congrArg Host.Outcome.next (hm.acts _ _)).trans (congrArg Host.Outcome.next (if_pos hno)), ?_, (congrArg Plat.msgs hl :)⟩
  rw [State.group_modGroup, (s.appendRound_getD_frame e).group g]

/-- An acknowledgement is entered, and the coordinator acts (R288, R378). -/
theorem exec_decAck_entered : exec (.decAck ⟨h.gid, h.sender⟩ h.round) s = .next ((s.modGroup g fun y =>
    { y with acks := if (s.group g).acks.contains h.sender then (s.group g).acks else (s.group g).acks ++ [h.sender] }).coordinate g) :=
  congrArg Host.Outcome.next (hm.acts _ _)

/-- With the last acknowledgement of a decided round the coordinator gives its outcome (R378). -/
theorem exec_decAck_last (hc : (s.group g).coordinates = true) (hd : (s.group g).doomed = false) (hdec : (s.group g).decided = true)
    (hall : ∀ j ∈ (s.group g).liveParity, j ∈ (s.group g).acks ∨ j = h.sender) :
    ∃ t, exec (.decAck ⟨h.gid, h.sender⟩ h.round) s = .next t ∧ (t.group g).lastc = BitVec.ofNat 32 (s.group g).round ∧ (t.group g).rst = 0 ∧
      (s.plat.caps = false → ∀ j ∈ (s.group g).liveData, j ≠ (s.group g).self →
        .group j ⟨(s.group g).gid, (s.group g).self, (s.group g).round⟩ (.out 0) ∈ t.plat.msgs) := by
  let acks := if (s.group g).acks.contains h.sender then (s.group g).acks else (s.group g).acks ++ [h.sender]
  let u := s.modGroup g fun y => { y with acks := acks }
  have hu : u.group g = { s.group g with acks := acks } := State.group_modGroup ..
  have hin (j : Nat) (hj : j ∈ (s.group g).acks ∨ j = h.sender) : j ∈ acks := by
    dsimp only [acks]
    split
    next hcon => exact hj.elim id fun e => e ▸ List.contains_iff_mem.mp hcon
    next => exact List.mem_append.mpr (hj.imp id fun e => List.mem_singleton.mpr e)
  let js := (s.group g).liveData.filter (· != (s.group g).self)
  let v := u.tellAll g (s.group g).round (.out 0) js
  obtain ⟨hl, hr, hms, -⟩ := v.commitRound_spec g (s.group g).round
  refine ⟨v.commitRound g (s.group g).round, ?_, hl, hr, fun hcaps j hj hne => ?_⟩
  · refine (exec_decAck_entered hm).trans (congrArg Host.Outcome.next ?_)
    have hco : u.coordinate g = u.giveOutcome g := by
      have h1 : (u.group g).coordinates = true := by rw [hu]; exact hc
      have h2 : (u.group g).doomed = false := by rw [hu]; exact hd
      have h3 : (u.group g).decided = true := by rw [hu]; exact hdec
      unfold State.coordinate
      dsimp only
      rw [if_neg (by simp [h1, h2]), if_neg (by simp [h3])]
    refine hco.trans ?_
    have := State.giveOutcome_ready (s := u) (g := g) (by rw [hu]; exact hdec) fun j hj => by
      rw [hu] at hj ⊢
      exact hin j (hall j hj)
    rw [this, hu]
    rfl
  · rw [hms]
    have hmsg := u.tellAll_plain g (s.group g).round (.out 0) js hm.runs hcaps
    rw [hu] at hmsg
    exact hmsg ▸ List.mem_append_right _ (List.mem_map.mpr ⟨j, List.mem_filter.mpr ⟨hj, bne_iff_ne.mpr hne⟩, rfl⟩)

/-- The decision of the coordinator, with the last notice of a round whose cohort waits in `RND.COMMIT` (R287, R310, R378). -/
theorem exec_prep_last (hw : h.round = (s.group g).round ∧ (s.group g).notices.contains h.sender = false ∧
      ((s.group g).doomed = true → (s.group g).aborts.contains h.sender = true)) (h1 : (s.group g).st = 1) (hc : (s.group g).coordinates = true)
    (hd : (s.group g).doomed = false) (hdec : (s.group g).decided = false) (hr : (s.group g).rst = 3)
    (hall : ∀ j ∈ (s.group g).liveData, j ∈ (s.group g).notices ∨ j = h.sender) (hna : ∃ j ∈ (s.group g).liveParity, j ∉ (s.group g).acks) :
    ∃ t, exec (.prep h.gid h.sender h.round) s = .next t ∧ (t.group g).decided = true ∧ (t.group g).lastc = (s.group g).lastc ∧
      (s.plat.caps = false → ∀ j ∈ (s.group g).liveParity, j ∉ (s.group g).acks →
        .group j ⟨(s.group g).gid, (s.group g).self, (s.group g).round⟩ .dec ∈ t.plat.msgs) := by
  let u := s.modGroup g fun y => { y with notices := y.notices ++ [h.sender] }
  have hu : u.group g = { s.group g with notices := (s.group g).notices ++ [h.sender] } := State.group_modGroup ..
  obtain ⟨hdecided, hacks, hparity, hmsgs⟩ := u.decide_spec g
  have hlast := (u.decide_undoes g).lastc
  rw [hu] at hacks hparity hmsgs hlast
  have hco : u.coordinate g = u.decide g := by
    have k1 : (u.group g).coordinates = true := by rw [hu]; exact hc
    have k2 : (u.group g).doomed = false := by rw [hu]; exact hd
    have k3 : (u.group g).decided = false := by rw [hu]; exact hdec
    have k4 : (u.group g).rst = 3 := by rw [hu]; exact hr
    have k5 : ((u.group g).liveData.all fun j => (u.group g).notices.contains j) = true := by
      rw [hu]
      refine List.all_eq_true.mpr fun j hj => List.contains_iff_mem.mpr ?_
      exact List.mem_append.mpr ((hall j hj).imp id fun e => List.mem_singleton.mpr e)
    have hwait : (u.decide g).giveOutcome g = u.decide g := by
      refine State.giveOutcome_waits ?_
      obtain ⟨j, hj, hn⟩ := hna
      exact ⟨j, by rw [hparity]; exact hj, by rw [hacks]; exact hn⟩
    unfold State.coordinate
    dsimp only
    rw [if_neg (by simp [k1, k2]), if_pos (Bool.and_eq_true_iff.mpr ⟨by simp [k3, k4], k5⟩), hwait]
  refine ⟨u.decide g, ?_, hdecided, hlast, fun hcaps j hj hn => hmsgs hm.runs hcaps j hj hn⟩
  have hno : ¬((s.group g).st != 1 && !(s.group g).decided) = true := by rw [h1]; simp
  exact (exec_prep_waits hm hw).trans (congrArg Host.Outcome.next ((if_neg hno).trans hco))

end

/-! ## Outcomes, aborts and answers -/

theorem Tbl.set_set {α : Type} (m : Tbl α) (a : Nat) (x y : α) : Tbl.set (Tbl.set m a x) a y = Tbl.set m a y := by
  induction m with
  | nil => simp [Tbl.set]
  | cons e m ih =>
    obtain ⟨k, v⟩ := e
    by_cases h1 : a < k
    · simp [Tbl.set, h1]
    · by_cases h2 : a = k
      · simp [Tbl.set, h2]
      · simp [Tbl.set, h1, h2, ih]

theorem State.modGroup_modGroup (s : State) (g : Nat) (f f' : Group → Group) : (s.modGroup g f).modGroup g f' = s.modGroup g fun x => f' (f x) := by
  have hg : Tbl.get Group.reset (Tbl.set s.plat.groups g (f (s.group g))) g = f (s.group g) := Tbl.get_set_self ..
  have ht : Tbl.set (Tbl.set s.plat.groups g (f (s.group g))) g (f' (Tbl.get Group.reset (Tbl.set s.plat.groups g (f (s.group g))) g)) =
      Tbl.set s.plat.groups g (f' (f (s.group g))) := by rw [Tbl.set_set, hg]
  exact congrArg (fun t => s.modPlat fun p => { p with groups := t }) ht

section
variable {s : State} {g : Nat} {h : GroupHdr} (hm : FromMember s g h)
include hm

/-- Outcome 0 of the round that the package is in (R287, R379). -/
theorem exec_out_commit (hp : ¬(s.group g).k ≤ (s.group g).self) (hr : h.round = (s.group g).round) (h2 : 2 ≤ (s.group g).rst) :
    exec (.out h 0) s = .next (s.commitRound g h.round) := by
  have hpar : (s.group g).isParity = false := by rw [← Bool.not_eq_true, Group.isParity_iff]; exact hp
  have hno : ¬((s.group g).isParity || (s.group g).rst = 0 || h.round != (s.group g).round : Bool) = true := by
    simp [hpar, hr]
    omega
  refine (congrArg Host.Outcome.next (hm.acts _ _)).trans (congrArg Host.Outcome.next ((if_neg hno).trans ?_))
  exact (if_neg (by simp)).trans (if_neg (by omega))

/-- Outcome 1 gives the round up (R287, R379). -/
theorem exec_out_abandon {o : Nat} (ho : o ≠ 0) (hp : ¬(s.group g).k ≤ (s.group g).self) (hr : h.round = (s.group g).round) (h0 : (s.group g).rst ≠ 0) :
    exec (.out h o) s = .next (s.abandon g) := by
  have hpar : (s.group g).isParity = false := by rw [← Bool.not_eq_true, Group.isParity_iff]; exact hp
  have hno : ¬((s.group g).isParity || (s.group g).rst = 0 || h.round != (s.group g).round : Bool) = true := by
    simp [hpar, hr, h0]
  refine (congrArg Host.Outcome.next (hm.acts _ _)).trans (congrArg Host.Outcome.next ((if_neg hno).trans ?_))
  exact if_pos (bne_iff_ne.mpr ho)

/-- An abort at a data member that is in the round or has still to open it (R288, R379). -/
theorem exec_abt_data (hp : ¬(s.group g).k ≤ (s.group g).self) (hr : h.round = (s.group g).round) :
    exec (.abt ⟨h.gid, h.sender⟩ h.round) s = .next (
      let u := s.modGroup g fun y => { y with aborts := y.aborts ++ [h.sender] }
      if (s.group g).rst = 0 then u.modGroup g fun y => { y with notices := [] } else u.abandon g) := by
  have hpar : ¬(s.group g).isParity = true := by rw [Group.isParity_iff]; exact hp
  have hno : ¬(h.round != (s.group g).round) = true := by simp [hr]
  exact (congrArg Host.Outcome.next (hm.acts _ _)).trans (congrArg Host.Outcome.next ((if_neg hpar).trans (if_neg hno)))

/-- An abort at a parity member (R379). -/
theorem exec_abt_parity (hp : (s.group g).k ≤ (s.group g).self) :
    ∃ u : State, exec (.abt ⟨h.gid, h.sender⟩ h.round) s = .next ((u.tell g h.sender h.round .decAck).startRebuild g) ∧
      u.plat.pend = s.plat.pend.filter (fun e => !(e.grp == g && e.round == h.round)) ∧ u.dev = s.dev := by
  have hpar : (s.group g).isParity = true := (s.group g).isParity_iff.mpr hp
  exact ⟨(s.releasePend g h.round).modGroup g fun y => { y with collecting := false },
    (congrArg Host.Outcome.next (hm.acts _ _)).trans (congrArg Host.Outcome.next (if_pos hpar)), rfl, rfl⟩

/-- A data member gives the round of an abort or of outcome 1 up (R287, R288, R379). -/
theorem exec_gives_up {i : Instr} {o : Nat} (hi : o ≠ 0 ∧ i = .out h o ∨ i = .abt ⟨h.gid, h.sender⟩ h.round) (hp : ¬(s.group g).k ≤ (s.group g).self)
    (hr : h.round = (s.group g).round) (h0 : (s.group g).rst ≠ 0) :
    ∃ t, exec i s = .next t ∧ (t.group g).lastc = (s.group g).lastc ∧
      ∀ n gs, s.holder g = some (n, gs) → ((s.slot n).round gs).st ≠ .idle → ((s.slot n).round gs).settled = none →
        ((t.slot n).round gs).settled = some false ∧
        ((s.group g).rst = 1 ∨ (s.group g).rst = 2 → (t.group g).rst = 0 ∧ ∀ e ∈ t.plat.rlog, e.grp ≠ g) := by
  obtain ⟨ho, rfl⟩ | rfl := hi
  · exact ⟨_, exec_out_abandon hm ho hp hr h0, (s.abandon_undoes g).lastc, fun n gs hh hi hs => State.abandon_settled hh hi hs⟩
  · let u := s.modGroup g fun y => { y with aborts := y.aborts ++ [h.sender] }
    have hu : u.group g = { s.group g with aborts := (s.group g).aborts ++ [h.sender] } := State.group_modGroup ..
    refine ⟨u.abandon g, (exec_abt_data hm hp hr).trans (congrArg Host.Outcome.next (if_neg h0)), ?_, fun n gs hh hi hs => ?_⟩
    · rw [(u.abandon_undoes g).lastc, hu]
    · obtain ⟨k1, k2⟩ := State.abandon_settled (s := u) hh hi hs
      rw [hu] at k2
      exact ⟨k1, k2⟩

/-- A query is answered by the decision held (R380). -/
theorem exec_qry_answers : exec (.qry h.gid h.sender h.round) s = .next (s.tell g h.sender h.round
    (.ans ((s.group g).lastc.toNat == h.round || ((s.group g).decided && (s.group g).round == h.round)))) :=
  congrArg Host.Outcome.next (hm.acts _ _)

/-- An answer is entered (R380). -/
theorem exec_ans_entered (ha : (s.group g).answers ≠ []) (hr : h.round = (s.group g).round)
    (hn : (s.group g).answers.any (fun a => a.1 == h.sender) = false) (c : Bool) :
    exec (.ans ⟨h.gid, h.sender⟩ h.round c) s = .next ((s.modGroup g fun y => { y with answers := y.answers ++ [(h.sender, c)] }).settleByAnswers g) := by
  have hno : ¬((s.group g).answers.isEmpty || h.round != (s.group g).round || (s.group g).answers.any fun a => a.1 == h.sender) = true := by
    rw [hn, hr]
    simpa using ha
  exact (congrArg Host.Outcome.next (hm.acts _ _)).trans (congrArg Host.Outcome.next (if_neg hno))

end

theorem State.settleByAnswers_waits {s : State} {g i : Nat} (hi : i < (s.group g).k + (s.group g).m) (hl : (s.group g).lostmap.getLsbD i = false)
    (hn : (s.group g).answers.any (fun a => a.1 == i) = false) : s.settleByAnswers g = s := by
  refine if_pos ?_
  rw [Bool.not_eq_true', ← Bool.not_eq_true, List.all_eq_true]
  intro hall
  have := hall i (List.mem_filter.mpr ⟨List.mem_range.mpr hi, by rw [hl]; rfl⟩)
  rw [hn] at this
  exact Bool.false_ne_true this

/-- Once every live member has answered that it holds no decision, the round is given up (R287, R380). -/
theorem State.settleByAnswers_none {s : State} {g : Nat}
    (hall : ∀ i, i < (s.group g).k + (s.group g).m → (s.group g).lostmap.getLsbD i = false → (s.group g).answers.any (fun a => a.1 == i) = true)
    (hno : ∀ a ∈ (s.group g).answers, a.2 = false) : s.settleByAnswers g = (s.modGroup g fun y => { y with answers := [] }).abandon g := by
  have hlive : ¬(!(((List.range ((s.group g).k + (s.group g).m)).filter fun j => !(s.group g).lostmap.getLsbD j).all
      fun j => (s.group g).answers.any fun a => a.1 == j)) = true := by
    rw [Bool.not_eq_true', ← Bool.not_eq_true, Decidable.not_not, List.all_eq_true]
    intro i hi
    obtain ⟨hi, hl⟩ := List.mem_filter.mp hi
    exact hall i (List.mem_range.mp hi) (by simpa using hl)
  have hheld : ((s.group g).answers.any fun a => a.2) = false := by
    rw [← Bool.not_eq_true, List.any_eq_true]
    rintro ⟨a, ha, h2⟩
    rw [hno a ha] at h2
    exact Bool.false_ne_true h2
  unfold State.settleByAnswers
  dsimp only
  rw [if_neg hlive, hheld]
  rfl

/-- The last answer of a round without a decision (R287, R380). -/
theorem exec_ans_last {s : State} {g : Nat} {h : GroupHdr} (hm : FromMember s g h) (ha : (s.group g).answers ≠ []) (hr : h.round = (s.group g).round)
    (hn : (s.group g).answers.any (fun a => a.1 == h.sender) = false)
    (hall : ∀ i, i < (s.group g).k + (s.group g).m → (s.group g).lostmap.getLsbD i = false → i = h.sender ∨ (s.group g).answers.any (fun a => a.1 == i) = true)
    (hno : ∀ a ∈ (s.group g).answers, a.2 = false) :
    ∃ t, exec (.ans ⟨h.gid, h.sender⟩ h.round false) s = .next t ∧ (t.group g).lastc = (s.group g).lastc ∧
      ∀ n gs, s.holder g = some (n, gs) → ((s.slot n).round gs).st ≠ .idle → ((s.slot n).round gs).settled = none →
        ((t.slot n).round gs).settled = some false := by
  let u := s.modGroup g fun y => { y with answers := y.answers ++ [(h.sender, false)] }
  have hu : u.group g = { s.group g with answers := (s.group g).answers ++ [(h.sender, false)] } := State.group_modGroup ..
  let v := u.modGroup g fun y => { y with answers := [] }
  have hv : v.group g = { s.group g with answers := [] } := by
    rw [State.group_modGroup, hu]
  have hset : u.settleByAnswers g = v.abandon g := by
    refine State.settleByAnswers_none ?_ ?_
    · rw [hu]
      intro i hi hl
      rw [List.any_append, Bool.or_eq_true_iff]
      exact (hall i hi hl).symm.imp id fun e => by simp [e]
    · rw [hu]
      intro a ha
      rcases List.mem_append.mp ha with ha | ha
      · exact hno a ha
      · rw [List.mem_singleton.mp ha]
  refine ⟨v.abandon g, (exec_ans_entered hm ha hr hn false).trans (congrArg Host.Outcome.next hset), ?_, fun n gs hh hi hs => ?_⟩
  · rw [(v.abandon_undoes g).lastc, hv]
  · exact (State.abandon_settled (s := v) hh hi hs).1

/-! ## Losses -/

/-- A member that is known and not lost yet, other than the package itself (R380). -/
def Group.mayLose (x : Group) (member : Nat) : Prop :=
  x.gcfg.getLsbD 0 = true ∧ x.lostmap.getLsbD member = false ∧ member ≠ x.self ∧ member < x.k + x.m

theorem Group.mayLose_iff (x : Group) (member : Nat) :
    ¬(!x.gcfg.getLsbD 0 || x.lostmap.getLsbD member || member = x.self || x.k + x.m ≤ member : Bool) = true ↔ x.mayLose member := by
  simp [Group.mayLose, and_assoc]

theorem State.lostMember_other {s : State} {g m : Nat} (h : ¬(s.group g).mayLose m) : s.lostMember g m = s :=
  if_pos (Classical.byContradiction fun hno => h ((Group.mayLose_iff _ _).mp hno))

/-- Before the group is NORMAL a member that is lost has to enable again (R374). -/
theorem State.lostMember_config {s : State} {g m : Nat} (h : (s.group g).mayLose m) (h0 : (s.group g).st = 0) :
    s.lostMember g m = (s.modPlat fun p => { p with configs := p.configs.filter fun e => e.1 != (s.group g).gid || e.2.1 != m }).modGroup g fun y =>
      { y with agreed := y.agreed.filter (· != m) } :=
  (if_neg ((Group.mayLose_iff _ _).mpr h)).trans (if_pos h0)

/-- The members that a map names. -/
def lostCount (lm : BitVec 16) : Nat := ((List.range 16).filter fun j => lm.getLsbD j).length

theorem State.group_groupEvent (s : State) (g a ev member : Nat) : (s.groupEvent g ev member).group a = s.group a := rfl

/-- A loss sets LOSTMAP, and DEGRADED, where a rebuild may begin, or FAILED (R380). -/
theorem State.lostMember_normal {s : State} {g m : Nat} (h : (s.group g).mayLose m) (h0 : (s.group g).st ≠ 0) :
    let lm := (s.group g).lostmap ||| BitVec.ofNat 16 (2 ^ m)
    ((s.lostMember g m).group g).lostmap = lm ∧
      if (s.group g).m < lostCount lm then ((s.lostMember g m).group g).st = 4
      else ((s.lostMember g m).group g).st = 2 ∨ ((s.lostMember g m).group g).st = 3 := by
  intro lm
  let u := (s.modPlat fun p => { p with configs := p.configs.filter fun e => e.1 != (s.group g).gid || e.2.1 != m }).modGroup g fun y =>
    { y with
      lostmap := lm, st := if (s.group g).m < lostCount lm then 4 else 2, deltas := y.deltas.filter fun d => d.member != m
      answers := y.answers.filter fun a => a.1 != m }
  let v := u.groupEvent g 2 m
  let w := if (s.group g).m < lostCount lm then v.groupEvent g 4 0x1F else v
  have hu : (u.group g).lostmap = lm ∧ (u.group g).st = if (s.group g).m < lostCount lm then 4 else 2 := by
    rw [State.group_modGroup]
    exact ⟨rfl, rfl⟩
  have hw : w.group g = u.group g := by
    dsimp only [w]
    split <;> rfl
  have hk : Settles (u.group g) (((w.settleLoss g m (s.group g)).startRebuild g).group g) :=
    hw ▸ (w.settleLoss_settles g m (s.group g)).trans (State.startRebuild_undoes _ g).toSettles
  have he : s.lostMember g m = (w.settleLoss g m (s.group g)).startRebuild g :=
    (if_neg ((Group.mayLose_iff _ _).mpr h)).trans (if_neg h0)
  rw [he]
  refine ⟨hk.lostmap.trans hu.1, ?_⟩
  have hst := hk.st
  rw [hu.2] at hst
  split
  next hf =>
    rw [if_pos hf] at hst
    exact hst.resolve_right fun h4 => nomatch h4.1
  next hf =>
    rw [if_neg hf] at hst
    exact hst.imp id And.right

/-! ## Rebuilds -/

/-- Six bits of a word from a place on, as a number. -/
theorem toNat_div_mod_64 (w : Word) (lo : Nat) : w.toNat / 2 ^ lo % 64 = (w.extractLsb' lo 6).toNat := by
  rw [BitVec.extractLsb'_toNat, Nat.shiftRight_eq_div_pow]

theorem testBit_63 {i : Nat} (h : i < 6) : Nat.testBit 63 i = true := by
  match i, h with
  | 0, _ | 1, _ | 2, _ | 3, _ | 4, _ | 5, _ => rfl

/-- A field of six bits at a place of a word takes a new value (R373). -/
theorem field_put (w : Word) {lo v : Nat} (hlo : lo + 6 ≤ 64) (hv : v < 64) :
    ((w &&& ~~~(BitVec.ofNat 64 (63 * 2 ^ lo))) ||| BitVec.ofNat 64 (v * 2 ^ lo)).toNat / 2 ^ lo % 64 = v := by
  rw [toNat_div_mod_64]
  have hbits : ((w &&& ~~~(BitVec.ofNat 64 (63 * 2 ^ lo))) ||| BitVec.ofNat 64 (v * 2 ^ lo)).extractLsb' lo 6 = BitVec.ofNat 6 v := by
    refine BitVec.eq_of_getLsbD_eq fun i hi => ?_
    have h1 : lo + i < 64 := by omega
    simp only [BitVec.getLsbD_extractLsb', BitVec.getLsbD_or, BitVec.getLsbD_and, BitVec.getLsbD_not, BitVec.getLsbD_ofNat, Nat.testBit_mul_two_pow,
      Nat.le_add_right, Nat.add_sub_cancel_left, testBit_63 hi, hi, h1]
    simp
  rw [hbits]
  exact Nat.mod_eq_of_lt hv

/-- One bit that is cleared above a field leaves the field as it is. -/
theorem field_clear (w : Word) {lo : Nat} (hlo : lo + 6 ≤ 42) : (w &&& ~~~(BitVec.ofNat 64 (2 ^ 42))).toNat / 2 ^ lo % 64 = w.toNat / 2 ^ lo % 64 := by
  rw [toNat_div_mod_64, toNat_div_mod_64]
  refine congrArg BitVec.toNat (BitVec.eq_of_getLsbD_eq fun i hi => ?_)
  have h1 : lo + i < 64 := by omega
  have h2 : 42 ≠ lo + i := by omega
  rw [BitVec.getLsbD_extractLsb', BitVec.getLsbD_extractLsb', BitVec.getLsbD_and, BitVec.getLsbD_not, BitVec.getLsbD_ofNat, Nat.testBit_two_pow]
  simp [hi, h1, h2]

theorem Group.spare_lt (x : Group) : x.spare.getD 0 < 64 := by
  unfold Group.spare
  split
  · exact (x.gmem1.extractLsb' 36 6).isLt
  · decide

/-- The group after a rebuild of a member into a package (R381). -/
def Group.rebuilt (x : Group) (j pkg : Nat) (lm : BitVec 16) (lc : BitVec 32) : Group :=
  let y := x.setPackage j pkg
  { y with
    gmem1 := y.gmem1 &&& ~~~(BitVec.ofNat 64 (2 ^ 42)), lostmap := lm, st := if lm = 0 then 1 else 2
    lastc := lc
    doomed := x.doomed && x.rst != 0 }

theorem Group.package_rebuilt (x : Group) {j pkg : Nat} (hj : j < 16) (hp : pkg < 64) (lm : BitVec 16) (lc : BitVec 32) :
    (x.rebuilt j pkg lm lc).package j = pkg := by
  unfold Group.rebuilt Group.package Group.setPackage
  dsimp only
  split
  next h10 => exact field_put _ (by omega) hp
  next h10 => exact (field_clear _ (by omega)).trans (field_put _ (by omega) hp)

theorem Group.spare_rebuilt (x : Group) (j pkg : Nat) (lm : BitVec 16) (lc : BitVec 32) : (x.rebuilt j pkg lm lc).gmem1.getLsbD 42 = false := by
  unfold Group.rebuilt
  simp

theorem Group.lastc_setPackage (x : Group) (j pkg : Nat) : (x.setPackage j pkg).lastc = x.lastc := by
  unfold Group.setPackage
  dsimp only
  split <;> rfl

/-- The state in which the stripes of a rebuild have passed (R381). -/
theorem exec_rebuildComplete_done {s : State} {g m : Nat} {r : Rebuild} (hr : r.member = m) (hf : s.plat.frozen.contains parityMaster = false)
    (hgo : s.isSpare g r = true ∨ (s.group g).st = 3 ∧ (s.group g).lostmap.getLsbD m = true) :
    exec (.rebuildComplete g r) s = .next (((r.stripes.foldl (fun s p => s.rebuildStripe g r p) s).modGroup g fun _ =>
      (s.group g).rebuilt m ((s.group g).spare.getD 0) ((if s.isSpare g r then r.lost else (s.group g).lostmap) &&& ~~~(BitVec.ofNat 16 (2 ^ m)))
        (if s.isSpare g r then r.lastc else (s.group g).lastc)).groupEvent g 3 m) := by
  subst hr
  have hno : ¬(!s.isSpare g r && ((s.group g).st != 3 || !(s.group g).lostmap.getLsbD r.member)) = true := by
    rcases hgo with h | ⟨h3, hl⟩
    · simp [h]
    · simp [h3, hl]
  refine congrArg Host.Outcome.next ((if_neg hno).trans ((if_neg (ne_true_of_eq_false hf)).trans ?_))
  rw [← Group.lastc_setPackage (s.group g) r.member ((s.group g).spare.getD 0)]
  rfl

/-- One stripe of a rebuild as a live member passes it on (R381). -/
theorem State.rebuildStripe_passes {s : State} {g : Nat} {r : Rebuild} (p : Stripe) (hs : s.isSpare g r = false)
    (hf : s.plat.frozen.contains parityMaster = false) (hc : s.plat.caps = false) :
    ∃ j, (s.rebuildStripe g r p).plat.msgs =
      s.plat.msgs ++ [.group j ⟨(s.group g).gid, (s.group g).self, (s.group g).round⟩ (.chain (s.addTerm g p))] := by
  refine ⟨((s.group g).others.find? fun j => (s.group g).self < j).getD r.member, ?_⟩
  have he : s.rebuildStripe g r p = s.tell g (((s.group g).others.find? fun j => (s.group g).self < j).getD r.member) (s.group g).round (.chain (s.addTerm g p)) := by
    unfold State.rebuildStripe
    dsimp only
    exact if_neg (ne_true_of_eq_false hs)
  rw [he, s.tell_plain g _ _ _ hf hc]
  rfl

/-- One stripe of a rebuild as the spare writes it (R381). -/
theorem State.rebuildStripe_writes {s : State} {g : Nat} {r : Rebuild} (p : Stripe) (hs : s.isSpare g r = true)
    (hc : s.capAccess parityMaster (s.group g).die (if (s.group g).k ≤ r.member then (s.group g).parityKey p.off else homeKey 0 0 p.addr) 64 true = .ok s) :
    s.rebuildStripe g r p = s.devWrites none (if (s.group g).k ≤ r.member then (s.group g).parityKey p.off else homeKey 0 0 p.addr)
      (leBytes 64 (recover (s.group g).k (missingOf r) r.member p.a p.b).toNat) := by
  refine (if_pos hs).trans ?_
  rw [hc]

/-- A parity member with room in its log keeps the delta there (R377 to R379). -/
theorem exec_delta_logs {s : State} {g : Nat} {h : GroupHdr} (hm : FromMember s g h) (hp : (s.group g).k ≤ (s.group g).self) (off : Nat) (d : BitVec 512)
    (hr : s.logReach (s.group g).die s.plat.ppend (s.plat.pend.map (·.at_)) = .ok s) :
    (∀ i, freePlace s.plat.ppend (s.plat.pend.map (·.at_)) = some i → ∃ u : State, u.plat.pend = s.plat.pend ++ [⟨off, h.round, g, false, h.sender, d, i⟩] ∧
      (Memory.wf s.dev = true → u.devBytes ((s.plat.ppend.extractLsb' 16 38).toNat * 65536 + 96 * i) 96 = logBytes off h.round g 0 h.sender d) ∧
      exec (.delta h.gid h.sender h.round off d) s =
        .next ((u.modGroup g fun y => { y with collecting := true, decided := false }).tell g h.sender h.round (.deltaAck off true))) ∧
    (freePlace s.plat.ppend (s.plat.pend.map (·.at_)) = none →
      exec (.delta h.gid h.sender h.round off d) s = .next (s.tell g h.sender h.round (.deltaAck off false))) := by
  have he := exec_delta_parity hm hp off d hr
  refine ⟨fun i hi => ?_, fun hn => ?_⟩
  · rw [State.appendPend_some hi] at he
    exact ⟨_, congrArg Plat.pend (s.plat_pended ⟨off, h.round, g, false, h.sender, d, 0⟩ i), fun hwf => State.devBytes_pended hwf _ i, he⟩
  · rw [State.appendPend_none hn] at he
    exact he

/-- Settles O54: each message by the branch that the group takes, and losses and rebuilds by what they leave of it. -/
theorem groupEvents : Obligations.GroupEvents := by
  unfold Obligations.GroupEvents
  intro s h
  refine ⟨fun g j round m => ⟨s.tell_plain g j round m, fun hf => State.tell_frozen hf g j round m⟩, ?_, ?_, ?_, ?_⟩
  · rintro hb i ⟨o, d, b, hi⟩
    simp only [List.mem_cons, List.not_mem_nil, or_false] at hi
    rcases hi with rfl | rfl | rfl | rfl | rfl | rfl | rfl | rfl | rfl <;> exact congrArg Host.Outcome.next (State.onGroup_none hb)
  · exact fun g hb hs hne hw hf => congrArg Host.Outcome.next ((State.onGroup_member hb hs hne hw).trans (if_pos hf))
  · intro g hb hs hne hw hf x part answered
    have hm : FromMember s g h := ⟨hb, hs, hne, hw, hf⟩
    refine ⟨fun c h0 => ⟨fun hc => exec_groupConfig_other hm c h0 hc, ?_⟩, exec_delta_logs hm, fun hp off d => exec_delta_data hm hp off d, fun off e he => ⟨?_, ?_⟩,
      ⟨exec_prep_other hm, ?_, ?_, ?_⟩, fun hp => ⟨exec_dec_again hm hp, exec_dec_fold hm hp⟩, exec_dec_data hm, ?_, ?_,
      fun hp hr => ⟨?_, ?_, ?_⟩, exec_abt_parity hm, exec_qry_answers hm, fun ha hr hn c => ⟨?_, ?_⟩⟩
    · rintro rfl ha
      exact exec_groupConfig_same hm h0 ha
    · exact exec_deltaAck_found hm true he
    · intro n gs hh
      refine (exec_deltaAck_found hm false he).trans ?_
      show Host.Outcome.next (match s.holder g with
        | some (n, _) => (s.modGroup g fun y => { y with deltas := y.deltas.erase e }).dueFault n e.fault
        | none => s.modGroup g fun y => { y with deltas := y.deltas.erase e }) = _
      rw [hh]
    · intro hw h1 hd
      exact (exec_prep_waits hm hw).trans (congrArg Host.Outcome.next (if_pos (by rw [show (s.group g).decided = false from hd]; simpa using h1)))
    · intro hw h1 hidle
      have hu : (s.modGroup g fun y => { y with notices := y.notices ++ [h.sender] }).group g = { x with notices := x.notices ++ [h.sender] } := State.group_modGroup ..
      have hno : ¬((s.group g).st != 1 && !(s.group g).decided) = true := by rw [show (s.group g).st = 1 from h1]; simp
      refine (exec_prep_waits hm hw).trans (congrArg Host.Outcome.next ((if_neg hno).trans (State.coordinate_idle ?_)))
      rw [hu]
      exact hidle
    · exact fun hw h1 hc hd hdec hr hall hna => exec_prep_last hm hw h1 hc hd hdec hr hall hna
    · intro hidle
      have hu (l : List Nat) : (s.modGroup g fun y => { y with acks := l }).group g = { x with acks := l } := State.group_modGroup ..
      refine (exec_decAck_entered hm).trans (congrArg Host.Outcome.next (State.coordinate_idle ?_))
      rw [hu]
      exact hidle
    · exact fun hc hd hdec hall => exec_decAck_last hm hc hd hdec hall
    · intro h2
      obtain ⟨k1, k2, -, k4⟩ := s.commitRound_spec g h.round
      exact ⟨_, exec_out_commit hm hp hr h2, k1, k2, k4⟩
    · exact fun i o hi h0 => exec_gives_up hm hi hp hr h0
    · intro h0
      refine (exec_abt_data hm hp hr).trans (congrArg Host.Outcome.next ((if_pos h0).trans ?_))
      exact State.modGroup_modGroup ..
    · rintro ⟨i, hi, hl, hne, hno⟩
      refine (exec_ans_entered hm ha hr hn c).trans (congrArg Host.Outcome.next ?_)
      have hu : (s.modGroup g fun y => { y with answers := y.answers ++ [(h.sender, c)] }).group g = { x with answers := x.answers ++ [(h.sender, c)] } :=
        State.group_modGroup ..
      refine State.settleByAnswers_waits (i := i) ?_ ?_ ?_
      · rw [hu]
        exact hi
      · rw [hu]
        exact hl
      · rw [hu, List.any_append, hno]
        simpa using hne.symm
    · rintro hall rfl hno
      exact exec_ans_last hm ha hr hn hall hno
  · intro g m x
    refine ⟨fun i hi => ?_, ?_⟩
    · have he : exec i s = .next (s.lostMember g m) := by
        simp only [List.mem_cons, List.not_mem_nil, or_false] at hi
        rcases hi with rfl | rfl <;> rfl
      rw [he]
      refine ⟨fun hk => congrArg Host.Outcome.next (State.lostMember_other hk), fun hk h0 => congrArg Host.Outcome.next (State.lostMember_config hk h0),
        fun hk h0 => ?_⟩
      obtain ⟨k1, k2⟩ := State.lostMember_normal hk h0
      refine ⟨_, rfl, k1, ?_⟩
      rw [k1]
      exact k2
    · intro r hr hf hgo hm16 left
      subst hr
      obtain ⟨y, hy⟩ : ∃ y, y = r.stripes.foldl (fun s p => s.rebuildStripe g r p) s := ⟨_, rfl⟩
      have he := exec_rebuildComplete_done rfl hf hgo
      rw [← hy] at he
      refine ⟨_, he, ?_⟩
      rw [State.group_groupEvent, State.group_modGroup]
      refine ⟨rfl, rfl, Group.package_rebuilt x hm16 x.spare_lt _ _, Group.spare_rebuilt .., rfl, fun p hp => ?_⟩
      have hone : y = s.rebuildStripe g r p := by
        rw [hy, hp]
        rfl
      refine ⟨fun hs hc => ?_, ?_⟩
      · obtain ⟨j, hj⟩ := State.rebuildStripe_passes p hs hf hc
        exact ⟨j, (congrArg (fun u : State => u.plat.msgs) hone).trans hj⟩
      · intro hs hwf key hc
        have hw := State.devBytes_devWrites hwf none key (leBytes 64 (recover x.k (missingOf r) r.member p.a p.b).toNat)
        rw [length_leBytes, ← State.rebuildStripe_writes p hs hc, ← hone] at hw
        exact hw

end Sys2Proof.Machine
end
